-- ==== Sys2Proof/Word.lean ====
section
/-! DEFINITION. The machine's units of data (R2). -/

namespace Sys2Proof

/-- R2: a byte is 8 bits. -/
abbrev Byte := BitVec 8
/-- R2: a halfword is 16 bits. -/
abbrev Half := BitVec 16
/-- R2: a word is 32 bits. -/
abbrev Word := BitVec 32
/-- R2: a doubleword is 64 bits. -/
abbrev DWord := BitVec 64

end Sys2Proof
end

