-- ==== Sys2Proof/Syntax.lean ====
section
/-! DEFINITION. The instructions of the Ryvor set and the steps of the part, one constructor for each row of
spec/opcode_table.json. Rows 0 to 146 are encoded instructions and carry their decoded fields (`Ops`); the other
rows are steps of the part that no word encodes, and carry what the step is about. -/

namespace Sys2Proof

/-- R212: the types of the TYPE field. -/
inductive Ty
  | none | i8 | i16 | i32 | i64 | n8 | n16 | n32 | n64 | b8 | b16 | b32 | b64 | b128
  | f64 | f32 | f16 | bf16 | e4m3 | e5m2 | e2m1 | e3m5 | e8m0
  deriving DecidableEq, Repr

/-- R22: the SCOPE field. -/
inductive Scope | lane | warp | set | block
  deriving DecidableEq, Repr

/-- R207, R210: what an operand position holds. A register number is the field's own; whether the register is
declared is a matter of the kernel (R99). -/
inductive Opd
  | none
  /-- a vector register -/
  | v (n : Nat)
  /-- a scalar register -/
  | s (n : Nat)
  /-- a set register (R57) -/
  | g (n : Nat)
  /-- an 8-bit immediate (R208) -/
  | imm (b : Byte)
  /-- a 32-bit immediate in IMM32 (R210) -/
  | long (w : Word)
  /-- a mask register -/
  | k (n : Nat)
  /-- a matrix register -/
  | m (n : Nat)
  /-- a completion flag -/
  | f (n : Nat)
  /-- a special register, by its number (R109) -/
  | sp (n : Nat)
  deriving DecidableEq, Repr

/-- The decoded fields that encoded instructions share (R205, R210, R211, R213, R214). -/
structure Ops where
  /-- length in 32-bit words: 2, 3 or 4 (R202) -/
  len   : Nat
  scope : Scope
  /-- membership slot (R22, R23) -/
  mslot : Nat
  /-- guard mask and its inversion (R21) -/
  guard : Nat
  ginv  : Bool
  ty    : Ty
  /-- source type of the two-type instructions (R213) -/
  sty   : Ty
  dst   : Opd
  a     : Opd
  b     : Opd
  c     : Opd
  /-- MOD[2:0] (R119) -/
  rnd   : Nat
  /-- MOD[3] -/
  sat   : Bool
  /-- MOD[5:4] (R155, R223) -/
  hint  : Nat
  /-- MOD[8:6] where it is opcode-specific (R214) -/
  xmod  : Nat
  /-- IMM32 where it is a code offset, flag list, table index, count or shape word (R210, R287, R315) -/
  imm   : Word
  /-- REC, QUAD, FLAG and EXTRA of a 128-bit word (R211); FLAG 15 is none -/
  brec  : Nat
  quad  : Nat
  flag  : Nat
  extra : Nat
  deriving DecidableEq, Repr

/-- R257: the predicates of `cmp`. -/
inductive CmpPred | eq | ne | lt | le | gt | ge
  deriving DecidableEq, Repr

/-- R257: the predicates of `fcmp`, ordered (0x41) and unordered (0x42). -/
inductive FcmpPred | eq | ne | lt | le | gt | ge | ord | ueq | une | ult | ule | ugt | uge | uno
  deriving DecidableEq, Repr

/-- R263: how `shfl` finds the source lane. -/
inductive ShflMode | idx | up | down | xor
  deriving DecidableEq, Repr

/-- R265: the combinations of `red`, `scan` and `sred`. -/
inductive RedOp | sum | min | max | and | or | xor
  deriving DecidableEq, Repr

/-- R291: which operands of a product are transposed. -/
inductive MulForm | nn | nt | tn
  deriving DecidableEq, Repr

/-- R270: when `bra` branches. -/
inductive BraCond | always | any | all | none | nz | z
  deriving DecidableEq, Repr

/-- R460: the vote on one mismatching lane of a checked instruction. -/
inductive Vote | forwardChecker | primary | undecided
  deriving DecidableEq, Repr

/-- R463: the words that carry check bits. -/
inductive CheckedWord
  | v (n lane : Nat) | s (n : Nat) | k (n : Nat) | m (n lane word : Nat) | tag (n lane : Nat)
  /-- a held return-address entry -/
  | ras (i : Nat)
  /-- program counter, region start, flags, `fpmode` or generator state -/
  | entry
  deriving DecidableEq, Repr

/-- R466: a place in storage outside the registers that a read finds in error. -/
inductive Storage
  /-- GDDR-7, or the near-memory slot that serves the frame -/
  | home (pa : Nat)
  /-- a line of the home slice's L2; whether it is dirty, which only the part can tell -/
  | l2 (pa : Nat) (dirty : Bool)
  | l1 (core pa : Nat)
  | staged (core pa : Nat)
  /-- the scratch of block number `blk` -/
  | scratch (blk off : Nat)
  /-- word `word` of a slot of a ring -/
  | fifo (ctx ring slot word : Nat)
  /-- the compare buffer of the copy that thread `tid` is -/
  | buffer (tid pa : Nat)
  deriving DecidableEq, Repr

/-- R466, R467: what a read of storage finds. -/
inductive ReadCheck
  | clean
  | corrected
  | uncorrectable
  /-- a GDDR-7 transfer whose link CRC fails this many times -/
  | crc (fails : Nat)
  deriving DecidableEq, Repr

/-- R323 -/
inductive AtomOp | add | fadd | min | max | and | or | xor | xchg | cas
  deriving DecidableEq, Repr

/-- R374, R375: what a peer asks for: a read, a write, or one lane of an atomic, with its type, saturation, `fpmode` and
operands (for `.cas` the compared value and its replacement). -/
inductive PeerReq
  | read
  | write (bytes : List Byte)
  | atomic (kind : AtomOp) (ty : Ty) (sat : Bool) (fpmode : Word) (arg arg2 : DWord)
  deriving DecidableEq, Repr

/-- R493: what went wrong in the steps of a start, as the hardware under test decides it. -/
structure StartReport where
  /-- cores that fail self-test -/
  badCores    : List Nat
  /-- lane positions that fail self-test: core, slot, position -/
  badLanes    : List (Nat × Nat × Nat)
  /-- tier SRAM units with unrepairable cells -/
  badUnits    : List Nat
  /-- fabric links that fail at full rate; whether each passes at half rate -/
  badFabric   : List (Nat × Bool)
  /-- the PCIe generation trained, 0 when none -/
  pcieGen     : Nat
  /-- the Nertu rate trained for each link in Gb/s per lane (224, 112, 56), 0 when none -/
  nertuRates  : List Nat
  /-- the GDDR-7 rate trained for each channel in Gb/s (48, 40, 32), 0 when none -/
  gddrRates   : List Nat
  deriving DecidableEq, Repr, Inhabited

/-- The rows of spec/opcode_table.json. -/
inductive Instr
  -- integer, bit and address (R238)
  | add (o : Ops) | addc (o : Ops) | sub (o : Ops) | subb (o : Ops) | mul (o : Ops) | mulhi (o : Ops)
  | mad (o : Ops) | div (o : Ops) | rem (o : Ops) | min (o : Ops) | max (o : Ops) | abs (o : Ops)
  | neg (o : Ops) | and (o : Ops) | or (o : Ops) | xor (o : Ops) | andn (o : Ops) | not (o : Ops)
  | shl (o : Ops) | shr (o : Ops) | sar (o : Ops) | rot (o : Ops) | bfx (o : Ops) | bfi (o : Ops)
  | popc (o : Ops) | clz (o : Ops) | brev (o : Ops) | sel (o : Ops) | mov (o : Ops) | movi (o : Ops)
  | cvt (o : Ops) | lea (o : Ops)
  -- floating point (R248)
  | fadd (o : Ops) | fsub (o : Ops) | fmul (o : Ops) | fma (o : Ops) | fdiv (o : Ops) | fmin (o : Ops)
  | fmax (o : Ops) | fabs (o : Ops) | fneg (o : Ops) | fsign (o : Ops) | frnd (o : Ops) | fscale (o : Ops)
  | fcvt (o : Ops) | f2i (o : Ops) | i2f (o : Ops) | fclass (o : Ops) | rcp (o : Ops) | rsq (o : Ops)
  | sqrt (o : Ops) | exp2 (o : Ops) | log2 (o : Ops) | sinpi (o : Ops) | cospi (o : Ops) | srand (o : Ops)
  -- compare and mask (R257 to R261)
  | cmp (p : CmpPred) (o : Ops) | fcmp (p : FcmpPred) (o : Ops)
  | kand (o : Ops) | kor (o : Ops) | kxor (o : Ops) | kandn (o : Ops) | knot (o : Ops) | kmov (o : Ops)
  | kpop (o : Ops) | kfirst (o : Ops) | kany (o : Ops) | kall (o : Ops) | ballot (o : Ops)
  -- cross-lane (R262 to R268)
  | shfl (m : ShflMode) (o : Ops) | bcast (o : Ops) | red (r : RedOp) (o : Ops) | scan (r : RedOp) (o : Ops)
  | sred (r : RedOp) (o : Ops) | topk (o : Ops)
  -- matrix (R278 to R306)
  | mld (o : Ops) | mst (o : Ops) | mshape (o : Ops) | mzero (o : Ops) | mid (o : Ops) | mget (o : Ops)
  | mput (o : Ops) | madd (o : Ops) | msub (o : Ops) | mscal (o : Ops) | mmul (f : MulForm) (o : Ops)
  | mfma (f : MulForm) (o : Ops) | mtrn (o : Ops) | minv (o : Ops) | mlu (o : Ops) | mchol (o : Ops)
  | msolve (o : Ops) | mpow (o : Ops) | mma (o : Ops) | mpack (o : Ops) | munpack (o : Ops)
  -- memory, atomics, phases (R314 to R329)
  | ld (o : Ops) | st (o : Ops) | lds (o : Ops) | sts (o : Ops)
  | atomAdd (o : Ops) | atomFadd (o : Ops) | atomMin (o : Ops) | atomMax (o : Ops) | atomAnd (o : Ops)
  | atomOr (o : Ops) | atomXor (o : Ops) | atomXchg (o : Ops) | atomCas (o : Ops)
  | phaseRel (o : Ops) | phaseAcq (o : Ops) | phaseAr (o : Ops)
  | cachectlPf1 (o : Ops) | cachectlPf2 (o : Ops) | cachectlInv (o : Ops) | bankcfg (o : Ops)
  -- bulk, rings, pool, residency (R330 to R342)
  | bcopy (o : Ops) | bcopyMc (o : Ops) | bput (o : Ops) | bseal (o : Ops) | bwait (o : Ops)
  | bread (o : Ops) | bjoin (o : Ops) | rpush (o : Ops) | rpop (o : Ops) | palloc (o : Ops)
  | pfree (o : Ops) | xres (o : Ops)
  -- control flow (R269 to R277)
  | bra (c : BraCond) (o : Ops) | loop (o : Ops) | call (o : Ops) | callInd (o : Ops) | ret (o : Ops)
  | retire (o : Ops) | exit (o : Ops) | region (o : Ops) | sync (o : Ops) | wait (o : Ops)
  -- system (R343 to R347)
  | nop (o : Ops) | trap (o : Ops) | brk (o : Ops) | eret (o : Ops) | eretRetry (o : Ops)
  | sread (o : Ops) | swrite (o : Ops) | launch (o : Ops) | fenceCode (o : Ops)
  -- issue and traps
  /-- R92: one arithmetic clock cycle: every issue slot chooses -/
  | issueChoice
  /-- R220: result number `idx` of thread `tid` is written -/
  | resultWrite (tid idx : Nat)
  /-- R398: thread `tid`, drained, takes the trap held back for it -/
  | trapEntry (tid : Nat)
  -- launches and blocks
  /-- R79: the host writes QTAIL of queue `q` -/
  | launchQueueDoorbell (q : Nat) (tail : Word)
  /-- R83: the scheduler takes the next record of queue `q` -/
  | launchRecordTake (q : Nat)
  /-- R90: place block `b` of launch `l` -/
  | blockPlacement (l b : Nat)
  /-- R91: place every block of pipeline launch `l` -/
  | gangPlacement (l : Nat)
  /-- R95: pre-empt block number `blk` of the resident blocks -/
  | preEmption (blk : Nat)
  /-- R35: block number `blk` ends -/
  | blockEnd (blk : Nat)
  /-- R84: launch `l` ends and its completion word is written -/
  | launchCompletion (l : Nat)
  /-- R423: the host writes ABORT_TAG -/
  | launchAbort (tag : Word)
  -- sprouts, atomics, bulk commands
  /-- R67: burst `burst` of bulk read `bread` returns from memory -/
  | burstArrival (bread burst : Nat)
  /-- R68: the oldest waiting burst of block number `blk` starts its sprout -/
  | sproutStart (blk : Nat)
  /-- R176: the next lane of atomic request `req` is performed -/
  | atomicAtHomeSlice (req repeats : Nat)
  /-- R331: bulk command `cmd` has written every byte -/
  | bulkCommandCompletion (cmd : Nat)
  -- translation, page faults, quarantine
  /-- R160: a walk for `va` on behalf of core `core` starts -/
  | pageWalk (core va : Nat)
  /-- R163: walk number `idx` of die `die` ends -/
  | walkEnd (die idx : Nat)
  /-- R448: PF_CMD.GO with VERDICT 0 -/
  | pageFaultRetry
  /-- R448: PF_CMD.GO with VERDICT 1 -/
  | pageFaultUnresolvable
  /-- R163: SD_CTL.GO -/
  | shootdownStart
  /-- R163: the oldest shootdown under way completes -/
  | shootdownComplete
  /-- R182: QF_COUNT is written -/
  | quarantinePush (n : Word)
  /-- R182: the oldest quarantine entry is released -/
  | quarantineRelease
  /-- R182: an entry that has waited 2^16 cycles forces releases -/
  | quarantineTimeout
  -- tier SRAM and registers
  /-- R159: MIG_CMD.GO with TO_SRAM -/
  | migrateToSram (die slot : Nat)
  /-- R159: MIG_CMD.GO without TO_SRAM -/
  | migrateToGddr7 (die : Nat)
  /-- R158: the next line of die `die`'s migration moves; `check` is what the read of the line finds (R452) -/
  | migrationLineMove (die : Nat) (check : ReadCheck)
  /-- R159: TIER_SPLIT is written -/
  | tierSplitWrite (die : Nat) (val : Word)
  /-- R4: a host write of a BAR0 register with no row of its own -/
  | registerWrite (off : Nat) (val : Word)
  /-- R370: a host read of `n` bytes at BAR2 offset `off` -/
  | hostBar2Read (off n : Nat)
  /-- R370: a host write at BAR2 offset `off` -/
  | hostBar2Write (off : Nat) (bytes : List Byte)
  /-- R371: the message of a pending, unmasked vector is sent -/
  | msixSend (vec : Nat)
  /-- R18: Ocwick measures module power in watts and steps the clock -/
  | clockThrottle (watts : Nat)
  /-- R365 -/
  | residencyCounterHalving
  /-- R459 -/
  | mismatchCountDecay
  /-- R466, R467: a read of storage outside the registers, the scrub's or else an access's -/
  | scrubLine (scrub : Bool) (place : Storage) (check : ReadCheck)
  -- silent errors and paired launches
  /-- R457: checked issue finds the lanes `lanes` of thread `tid`'s instruction to mismatch `times` times before an
  agreeing replay (0 replays agreed when `agrees` is false); the votes of R460 -/
  | instructionReplay (tid : Nat) (lanes : DWord) (mismatches : Nat) (agrees : Bool) (votes : List Vote)
  /-- R464, R465: thread `tid` reads a checked word in error -/
  | registerErrorCorrection (tid : Nat) (w : CheckedWord) (check : ReadCheck)
  /-- R471: the oldest uncommitted region of warp `w` of the paired block number `blk` is compared and commits -/
  | regionCommit (blk w : Nat)
  /-- R472 -/
  | partialCommit (blk w : Nat)
  /-- R153: the pending conversion of block number `blk` takes effect -/
  | bankSwitch (blk : Nat)
  -- pipelines
  /-- R363: context `ctx` forces a short batch -/
  | forcedShortBatch (ctx : Nat)
  /-- R486 -/
  | pipelineStall (ctx : Nat)
  -- Ocwick
  /-- R376: a start, with what its tests find -/
  | startSequence (r : StartReport)
  /-- R379, command 0x01 -/
  | readStartLog
  /-- R379, command 0x02 -/
  | attest
  /-- R379, command 0x03 -/
  | readIdentityKey
  /-- R379, command 0x04 -/
  | stageFirmware
  /-- R379, command 0x05, with what the tests of the new start find -/
  | restart (r : StartReport)
  /-- R379, command 0x06 -/
  | readLostRecordCounters
  /-- R378: any other command -/
  | unknownCommand (cmd : Byte)
  /-- R371: the running command completes -/
  | mailboxCommandComplete
  -- links
  /-- R488: a poisoned, malformed or unsupported TLP, with the address it carried -/
  | pcieBadTlp (write : Bool) (addr : Option Nat)
  /-- R489 -/
  | pcieLinkDown
  /-- R489: the link retrains at generation `gen` -/
  | pcieLinkRetrain (gen : Nat)
  /-- R493: Ocwick retries training; 0 is another failure -/
  | pcieTrainingRetry (gen : Nat)
  /-- R490: a flit of link `n` has failed its CRC `fails` times -/
  | nertuFlitRetry (n fails : Nat)
  /-- R490: link `n` retrains at its next lower rate; whether that rate passes -/
  | nertuLinkRetrain (n : Nat) (passes : Bool)
  /-- R374, R375: a peer's request on link `n`, of `len` bytes from `pa` on -/
  | nertuInboundRequest (n pa len : Nat) (req : PeerReq)
  /-- R491: link `n` answers an outstanding request of thread `tid` for the virtual line `va` with an error;
  `write` is a written-back store -/
  | remoteErrorResponse (n tid va : Nat) (write : Bool)
  deriving DecidableEq, Repr

end Sys2Proof
end

