-- ==== Sys2Proof/Machine/Rows.lean ====
section
/-! DEFINITION. What each encoded instruction's word may hold: one `Row` for each constructor of `Instr`, written
from the opcode map (R223) and the instruction tables (R236, R238, R248, R257 to R277, R285 to R303, R314 to R347). -/

namespace Sys2Proof

/-- R212: the code of a type. -/
def Ty.code : Ty → Nat
  | .none => 0x00 | .i8 => 0x01 | .i16 => 0x02 | .i32 => 0x03 | .i64 => 0x04
  | .n8 => 0x09 | .n16 => 0x0A | .n32 => 0x0B | .n64 => 0x0C
  | .b8 => 0x10 | .b16 => 0x11 | .b32 => 0x12 | .b64 => 0x13 | .b128 => 0x14
  | .f64 => 0x20 | .f32 => 0x21 | .f16 => 0x22 | .bf16 => 0x23 | .e4m3 => 0x24 | .e5m2 => 0x25
  | .e2m1 => 0x26 | .e3m5 => 0x27 | .e8m0 => 0x28

/-- R212: the type of a code; codes not listed are reserved. -/
def Ty.ofCode : Nat → Option Ty
  | 0x00 => some .none | 0x01 => some .i8 | 0x02 => some .i16 | 0x03 => some .i32 | 0x04 => some .i64
  | 0x09 => some .n8 | 0x0A => some .n16 | 0x0B => some .n32 | 0x0C => some .n64
  | 0x10 => some .b8 | 0x11 => some .b16 | 0x12 => some .b32 | 0x13 => some .b64 | 0x14 => some .b128
  | 0x20 => some .f64 | 0x21 => some .f32 | 0x22 => some .f16 | 0x23 => some .bf16 | 0x24 => some .e4m3
  | 0x25 => some .e5m2 | 0x26 => some .e2m1 | 0x27 => some .e3m5 | 0x28 => some .e8m0
  | _ => Option.none

/-- Width in bits of a value of the type in a register (R114, R115, R100). -/
def Ty.bits : Ty → Nat
  | .none => 0 | .i8 | .n8 | .b8 | .e4m3 | .e5m2 | .e3m5 | .e8m0 => 8 | .i16 | .n16 | .b16 | .f16 | .bf16 => 16
  | .i32 | .n32 | .b32 | .f32 => 32 | .i64 | .n64 | .b64 | .f64 => 64 | .b128 => 128 | .e2m1 => 4

/-- R375: a peer's request names `len` bytes: those that it writes, or those of its atomic's type. -/
def PeerReq.fits (len : Nat) : PeerReq → Bool
  | .read => true
  | .write bytes => decide (bytes.length = len)
  | .atomic _ ty _ _ _ _ => decide (ty.bits / 8 = len)

/-- Registers of 32 bits that a value of the type takes: 1, a pair or a quad (R100). -/
def Ty.regs (t : Ty) : Nat := if t.bits = 64 then 2 else if t.bits = 128 then 4 else 1

/-- `.i` types (R114). -/
def Ty.isSigned : Ty → Bool | .i8 | .i16 | .i32 | .i64 => true | _ => false
/-- `.n` types. -/
def Ty.isNat : Ty → Bool | .n8 | .n16 | .n32 | .n64 => true | _ => false
/-- "Int" of R238. -/
def Ty.isInt (t : Ty) : Bool := t.isSigned || t.isNat
/-- "Bits" of R238, with `.b128`. -/
def Ty.isBits : Ty → Bool | .b8 | .b16 | .b32 | .b64 | .b128 => true | _ => false
/-- Float and scale types. -/
def Ty.isFloat : Ty → Bool
  | .f64 | .f32 | .f16 | .bf16 | .e4m3 | .e5m2 | .e2m1 | .e3m5 | .e8m0 => true | _ => false

/-- R238: "Int". -/
def tysInt : List Ty := [.i8, .i16, .i32, .i64, .n8, .n16, .n32, .n64]
/-- R238: "Int32/64". -/
def tysInt3264 : List Ty := [.i32, .i64, .n32, .n64]
/-- R238: "Bits". -/
def tysBits : List Ty := [.b8, .b16, .b32, .b64]
/-- R248: "Arith". -/
def tysArith : List Ty := [.f64, .f32, .f16, .bf16]
/-- R238, R323: every 32- and 64-bit type. -/
def tys3264 : List Ty := [.i32, .i64, .n32, .n64, .b32, .b64, .f32, .f64]
/-- R318: every type but none and `.e2m1`. -/
def tysMem : List Ty :=
  [.i8, .i16, .i32, .i64, .n8, .n16, .n32, .n64, .b8, .b16, .b32, .b64, .b128, .f64, .f32, .f16, .bf16, .e4m3,
   .e5m2, .e3m5, .e8m0]
/-- R279: the types of matrix elements. -/
def tysMatrix : List Ty := [.f32, .f64, .f16, .bf16, .e4m3, .e5m2, .e2m1, .i8, .i32]
/-- R265: sum, min and max reduce these. -/
def tysRedArith : List Ty := tysInt3264 ++ tysArith
/-- R265: and, or and xor reduce these. -/
def tysRedBits : List Ty := tysInt3264 ++ [.b32, .b64]

/-- How many registers an operand names. -/
inductive OpW
  /-- one -/
  | one
  /-- as the width of TYPE needs (R100) -/
  | ty
  /-- as the width of the source type needs (R213) -/
  | sty
  /-- an even register and the next -/
  | pair
  /-- `.cas`: twice the type's width (R323) -/
  | cas
  deriving DecidableEq, Repr

/-- The kind of an operand position (R207), with the classes that its instruction takes. -/
inductive Kind
  | absent
  /-- Value kind: whether a vector (`v`, or `g` at set and block scope), a scalar, an immediate may stand there -/
  | val (vec scal imm : Bool) (w : OpW)
  | matrix
  | mask
  /-- mask or scalar pair -/
  | maskOrPair
  | flag
  /-- a buffer record named by the number of its first scalar (R316) -/
  | record
  /-- a special register (R109) -/
  | special
  /-- the register field of `sread` and `swrite`, whose kind follows the special register (R346) -/
  | specialReg
  /-- a source type in OPB (R213) -/
  | srcType
  /-- the field that IMM32 replaces (R210) -/
  | long
  deriving DecidableEq, Repr

/-- How the kinds of an instruction's operands depend on its other fields. -/
inductive Vary
  | fixed
  /-- MOD[6] = 1 gives OPB the second coordinate (R318) -/
  | coord
  /-- MOD[6] = 1 gives DST the returned value (R323) -/
  | returns
  /-- MOD[7] = 1 makes DST a scratch offset (R315, R332) -/
  | scratchDst
  /-- DST may be absent (R276) -/
  | optDst
  /-- MOD[8:6] = 0 leaves out the scales (R300) -/
  | scaled
  /-- DST is a mask when a source is a vector (R258) -/
  | compare
  /-- the register field follows the special register (R346) -/
  | special
  deriving DecidableEq, Repr

/-- R210: the operand position that IMM32 replaces in the 96-bit form. -/
inductive LongPos | none | a | b
  deriving DecidableEq, Repr

/-- R210, R287, R315: what IMM32 holds besides a long immediate or a third operand. -/
inductive ImmRole
  | zero | offset | flags | index | count | shape
  deriving DecidableEq, Repr

/-- R119, R120: what MOD[2:0] may hold. -/
inductive RndRule
  /-- zero -/
  | zero
  /-- any mode -/
  | any
  /-- any mode but rs -/
  | noRs
  deriving DecidableEq, Repr

/-- R155, R214: what MOD[5:4] may hold. -/
inductive HintRule | zero | any | noRo | onlyRo
  deriving DecidableEq, Repr

/-- R211: what FLAG may hold. -/
inductive FlagRule | none | optional | required
  deriving DecidableEq, Repr

/-- Whether an instruction takes a guard (R21). -/
inductive GuardRule
  | any
  /-- GUARD and GINV must be 0 (R270 to R274, R330) -/
  | zero
  /-- GUARD and GINV are among the fields that hold zero (R326, R327, R329, R343, R345, R438) -/
  | unused
  deriving DecidableEq, Repr

/-- What EXTRA may hold. -/
inductive ExtraRule
  | zero
  /-- an ordering qualifier (R224) -/
  | ordering
  /-- a scratch swizzle in [1:0] (R315) -/
  | swizzle
  /-- a handler index (R336) -/
  | handler
  deriving DecidableEq, Repr

/-- What the word of an instruction may hold. -/
structure Row where
  opc    : Nat
  sub    : Nat
  /-- legal lengths in words (R223) -/
  lens   : List Nat
  dst    : Kind
  /-- DST is written; a store's DST is read -/
  writes : Bool := true
  a      : Kind := .absent
  b      : Kind := .absent
  /-- the third operand in IMM32 (R210) -/
  c      : Kind := .absent
  long   : LongPos := .none
  imm    : ImmRole := .zero
  /-- legal types (R212) -/
  tys    : List Ty := [.none]
  /-- legal source types (R213) -/
  stys   : List Ty := []
  vary   : Vary := .fixed
  scopes : List Scope := [.lane]
  /-- the types on which `.sat` is legal -/
  sat    : List Ty := []
  rnd    : RndRule := .zero
  hint   : HintRule := .zero
  /-- legal values of an opcode-specific MOD[8:6] (R214) -/
  xmods  : List Nat := [0]
  guard  : GuardRule := .any
  brec   : Bool := false
  quad   : Bool := false
  flag   : FlagRule := .none
  extra  : ExtraRule := .zero
  /-- forbidden in a sprout (R70, R314) -/
  noSprout : Bool := false
  deriving DecidableEq, Repr

/-- Any of `v`, `s` and immediate, of the type's width. -/
def Kind.src : Kind := .val true true true .ty
/-- A `v` or `s` destination of the type's width. -/
def Kind.dest : Kind := .val true true false .ty
/-- Any of `v`, `s` and immediate, one register. -/
def Kind.src1 : Kind := .val true true true .one
/-- An `s` register. -/
def Kind.scal1 : Kind := .val false true false .one
/-- An `s` register or an immediate. -/
def Kind.scalImm : Kind := .val false true true .one

/-- Two sources and a destination of one type, IMM32 replacing b (R238, R248). -/
def Row.bin (opc sub : Nat) (tys : List Ty) (sat : List Ty := []) (rnd : RndRule := .zero) : Row :=
  { opc, sub, lens := [2, 3], dst := .dest, a := .src, b := .src, long := .b, tys, sat, rnd }
/-- One source and a destination of one type. -/
def Row.un (opc sub : Nat) (tys : List Ty) (sat : List Ty := []) (rnd : RndRule := .zero) : Row :=
  { opc, sub, lens := [2], dst := .dest, a := .src, tys, sat, rnd }
/-- Three sources, the third in IMM32 (R210). -/
def Row.tri (opc sub : Nat) (tys : List Ty) (sat : List Ty := []) (rnd : RndRule := .zero) : Row :=
  { opc, sub, lens := [3], dst := .dest, a := .src, b := .src, c := .src, tys, sat, rnd }
/-- Shifts and rotates: the amount is one register (R242). -/
def Row.shift (sub : Nat) : Row :=
  { Row.bin 0x08 sub ([.b32, .b64] ++ tysInt3264) with b := .src1 }
/-- A count of bits, one register wide (R244). -/
def Row.count (sub : Nat) : Row :=
  { Row.un 0x0A sub [.b32, .b64] with dst := .val true true false .one }
/-- The special functions (R248, R120). -/
def Row.fn (sub : Nat) : Row := Row.un 0x2A sub tysArith [] .noRs
/-- Comparisons (R257, R258): DST is a mask when some source is a vector, a scalar otherwise. -/
def Row.compare (opc sub : Nat) (tys : List Ty) : Row :=
  { opc, sub, lens := [2, 3], dst := .maskOrPair, a := .src, b := .src, long := .b, tys, vary := .compare }
/-- Mask logic (R259). -/
def Row.maskBin (sub : Nat) : Row :=
  { opc := 0x43, sub, lens := [2], dst := .mask, a := .mask, b := .mask, scopes := [.warp] }
/-- Mask to scalar (R260). -/
def Row.maskScal (sub : Nat) : Row :=
  { opc := 0x44, sub, lens := [2], dst := .scal1, a := .mask, scopes := [.warp] }
/-- The scopes of cross-lane instructions (R236). -/
def scopesX : List Scope := [.warp, .set, .block]
/-- The types of a reduction (R265). -/
def RedOp.tys : RedOp → List Ty
  | .sum | .min | .max => tysRedArith
  | .and | .or | .xor => tysRedBits
/-- R265: `.sat` is legal on integer sums only. -/
def RedOp.sat : RedOp → List Ty | .sum => tysInt3264 | _ => []
/-- R223: the sub-operation numbers of a reduction. -/
def RedOp.code : RedOp → Nat | .sum => 0 | .min => 1 | .max => 2 | .and => 3 | .or => 4 | .xor => 5
/-- R223. -/
def CmpPred.code : CmpPred → Nat | .eq => 0 | .ne => 1 | .lt => 2 | .le => 3 | .gt => 4 | .ge => 5
/-- R223: opcode and sub-operation of an `fcmp` predicate. -/
def FcmpPred.code : FcmpPred → Nat × Nat
  | .eq => (0x41, 0) | .ne => (0x41, 1) | .lt => (0x41, 2) | .le => (0x41, 3) | .gt => (0x41, 4) | .ge => (0x41, 5)
  | .ord => (0x41, 6) | .ueq => (0x42, 0) | .une => (0x42, 1) | .ult => (0x42, 2) | .ule => (0x42, 3)
  | .ugt => (0x42, 4) | .uge => (0x42, 5) | .uno => (0x42, 6)
/-- R223. -/
def ShflMode.code : ShflMode → Nat | .idx => 0 | .up => 1 | .down => 2 | .xor => 3
/-- R223. -/
def MulForm.code : MulForm → Nat | .nn => 0 | .nt => 1 | .tn => 2
/-- R223. -/
def BraCond.code : BraCond → Nat | .always => 0 | .any => 1 | .all => 2 | .none => 3 | .nz => 4 | .z => 5

/-- Matrix source and destination, one type (R290, R291). -/
def Row.mat2 (opc sub : Nat) (tys : List Ty) (sat : List Ty) (rnd : RndRule) : Row :=
  { opc, sub, lens := [2], dst := .matrix, a := .matrix, b := .matrix, tys, sat, rnd, noSprout := true }
/-- Matrix algebra: a mask in IMM32 (R293). -/
def Row.algebra (opc : Nat) (b : Kind) : Row :=
  { opc, sub := 0, lens := [3], dst := .matrix, a := .matrix, b, c := .mask, tys := [.f32, .f64], rnd := .noRs,
    noSprout := true }
/-- R290: the types of element-wise arithmetic. -/
def tysMatArith : List Ty := [.f64, .f32, .f16, .bf16, .i32]
/-- R291: the destination types of a product. -/
def tysMatProd : List Ty := [.f64, .f32, .f16, .bf16, .i32]
/-- Loads and stores through a record (R315). -/
def Row.global (opc : Nat) : Row :=
  { opc, sub := 0, lens := [4], dst := .dest, a := .src1, b := .src1, tys := tysMem, scopes := [.lane, .warp],
    hint := .any, xmods := [0, 1], brec := true,
    vary := .coord }
/-- Scratch access (R321). -/
def Row.scratch (opc : Nat) : Row :=
  { opc, sub := 0, lens := [2], dst := .dest, a := .scal1, b := .src1, tys := tysMem, scopes := [.lane, .warp],
    xmods := [0, 1, 2, 3] }
/-- R323: the types of an atomic. -/
def AtomOp.types : AtomOp → List Ty
  | .add => tysInt3264
  | .fadd => [.f32, .f64]
  | .min | .max => tysInt3264 ++ [.f32, .f64]
  | .and | .or | .xor => tysInt3264 ++ [.b32, .b64]
  | .xchg => tys3264
  | .cas => [.b32, .b64]

/-- Atomics (R315, R323). -/
def Row.atomic (sub : Nat) (tys : List Ty) (sat : List Ty := []) (b : Kind := .src) : Row :=
  { opc := 0x84, sub, lens := [4], dst := .dest, a := .src1, b, tys, scopes := [.lane, .warp], sat, hint := .noRo,
    xmods := [0, 1], brec := true, extra := .ordering, vary := .returns }
/-- `cachectl` (R328), on which `.ro` is the one hint (R155). (DEDUCED, log entry 72.) -/
def Row.cachectl (x : Nat) : Row :=
  { opc := 0x86, sub := 0, lens := [2], dst := .absent, a := .record, b := .src1, tys := tysMem,
    scopes := [.lane, .warp], hint := .onlyRo, xmods := [x] }
/-- Phases (R326). -/
def Row.phase (sub : Nat) : Row :=
  { opc := 0x85, sub, lens := [2], dst := .absent, scopes := [.warp], hint := .any, guard := .unused }
/-- Bulk commands on the 128-bit form (R315, R330). -/
def Row.bulk (opc sub : Nat) : Row :=
  { opc, sub, lens := [4], dst := .absent, a := .scalImm, imm := .count, scopes := [.warp], hint := .any,
    guard := .zero, brec := true, flag := .optional, noSprout := true }
/-- Rings, pool and residency (R338). -/
def Row.ring (opc : Nat) (dst a b : Kind) (tys : List Ty) : Row :=
  { opc, sub := 0, lens := [2], dst, a, b, tys, scopes := [.warp], guard := .unused, noSprout := true }
/-- Control flow (R269). -/
def Row.control (opc sub : Nat) (lens : List Nat) : Row :=
  { opc, sub, lens, dst := .absent, scopes := [.warp] }

/-- The row of each encoded instruction; a step of the part has none. -/
def Instr.row : Instr → Option Row
  | .add _ => some (.bin 0x00 0 tysInt tysInt)
  | .addc _ => some { Row.bin 0x00 1 [.n32, .i32, .b32] with dst := .val true true false .pair }
  | .sub _ => some (.bin 0x01 0 tysInt tysInt)
  | .subb _ => some { Row.bin 0x01 1 [.n32, .i32, .b32] with dst := .val true true false .pair }
  | .mul _ => some (.bin 0x02 0 tysInt tysInt)
  | .mulhi _ => some (.bin 0x02 1 tysInt3264)
  | .mad _ => some (.tri 0x03 0 tysInt tysInt)
  | .div _ => some (.bin 0x04 0 tysInt3264 tysInt3264)
  | .rem _ => some (.bin 0x04 1 tysInt3264)
  | .min _ => some (.bin 0x05 0 tysInt)
  | .max _ => some (.bin 0x05 1 tysInt)
  | .abs _ => some (.un 0x06 0 [.i8, .i16, .i32, .i64] [.i8, .i16, .i32, .i64])
  | .neg _ => some (.un 0x06 1 tysInt tysInt)
  | .and _ => some (.bin 0x07 0 (tysInt ++ tysBits))
  | .or _ => some (.bin 0x07 1 (tysInt ++ tysBits))
  | .xor _ => some (.bin 0x07 2 (tysInt ++ tysBits))
  | .andn _ => some (.bin 0x07 3 (tysInt ++ tysBits))
  | .not _ => some { Row.un 0x07 4 (tysInt ++ tysBits) with lens := [2, 3], long := .a }
  | .shl _ => some (.shift 0)
  | .shr _ => some (.shift 1)
  | .sar _ => some (.shift 2)
  | .rot _ => some (.shift 3)
  | .bfx _ => some { Row.bin 0x09 0 (tysInt3264 ++ [.b32, .b64]) with b := .src1 }
  | .bfi _ => some { Row.tri 0x09 1 [.b32, .b64] with b := .src1 }
  | .popc _ => some (.count 0)
  | .clz _ => some (.count 1)
  | .brev _ => some (.un 0x0A 2 [.b32, .b64])
  | .sel _ => some { Row.tri 0x0B 0 tys3264 with c := .mask }
  | .mov _ => some (.un 0x0C 0 [.b32, .b64, .b128])
  | .movi _ => some { Row.un 0x0C 1 tys3264 with lens := [2, 3], a := .val false false true .one, long := .a }
  | .cvt _ => some { Row.un 0x0D 0 (tysInt ++ tysBits) (tysInt) with a := .val true true true .sty, b := .srcType, stys := tysInt ++ tysBits }
  | .lea _ => some { Row.bin 0x0E 0 [.n32, .n64] with xmods := [0, 1, 2, 3, 4, 5, 6, 7] }
  | .fadd _ => some (.bin 0x20 0 tysArith tysArith .any)
  | .fsub _ => some (.bin 0x20 1 tysArith tysArith .any)
  | .fmul _ => some (.bin 0x21 0 tysArith tysArith .any)
  | .fma _ => some (.tri 0x22 0 tysArith tysArith .any)
  | .fdiv _ => some (.bin 0x23 0 tysArith tysArith .noRs)
  | .fmin _ => some (.bin 0x24 0 tysArith)
  | .fmax _ => some (.bin 0x24 1 tysArith)
  | .fabs _ => some (.un 0x25 0 tysArith)
  | .fneg _ => some (.un 0x25 1 tysArith)
  | .fsign _ => some (.un 0x25 2 tysArith)
  | .frnd _ => some (.un 0x26 0 tysArith [] .noRs)
  | .fscale _ => some { Row.bin 0x27 0 tysArith tysArith .any with b := .src1 }
  | .fcvt _ => some {
      Row.un 0x28 0 [.f64, .f32, .f16, .bf16, .e4m3, .e5m2, .e2m1, .e3m5, .e8m0]
      [.f64, .f32, .f16, .bf16, .e4m3, .e5m2, .e2m1, .e3m5, .e8m0] .any with
      a := .val true true true .sty, b := .srcType, stys := [.f64, .f32, .f16, .bf16, .e4m3, .e5m2, .e2m1] }
  | .f2i _ => some { Row.un 0x28 1 tysInt tysInt .noRs with a := .val true true true .sty, b := .srcType, stys := tysArith }
  | .i2f _ => some { Row.un 0x28 2 tysArith tysArith .any with a := .val true true true .sty, b := .srcType, stys := tysInt }
  | .fclass _ => some { Row.un 0x29 0 [.f64, .f32, .f16, .bf16, .e4m3, .e5m2, .e2m1, .e3m5, .e8m0] with
      dst := .val true true false .one }
  | .rcp _ => some (.fn 0)
  | .rsq _ => some (.fn 1)
  | .sqrt _ => some (.fn 2)
  | .exp2 _ => some (.fn 3)
  | .log2 _ => some (.fn 4)
  | .sinpi _ => some (.fn 5)
  | .cospi _ => some (.fn 6)
  | .srand _ => some {
      opc := 0x2B, sub := 0, lens := [2, 3], dst := .absent, a := .scalImm, long := .a,
      tys := [.b32], scopes := [.warp] }
  | .cmp p _ => some (.compare 0x40 p.code (tysInt ++ tysBits))
  | .fcmp p _ => some (.compare p.code.1 p.code.2 tysArith)
  | .kand _ => some (.maskBin 0)
  | .kor _ => some (.maskBin 1)
  | .kxor _ => some (.maskBin 2)
  | .kandn _ => some (.maskBin 3)
  | .knot _ => some { Row.maskBin 4 with b := .absent }
  | .kmov _ => some { Row.maskBin 5 with dst := .maskOrPair, a := .maskOrPair, b := .absent }
  | .kpop _ => some (.maskScal 0)
  | .kfirst _ => some (.maskScal 1)
  | .kany _ => some (.maskScal 2)
  | .kall _ => some (.maskScal 3)
  | .ballot _ => some {
      opc := 0x45, sub := 0, lens := [2], dst := .maskOrPair, a := .val true false false .one,
      tys := [.b32], scopes := [.warp] }
  | .shfl m _ => some {
      opc := 0x50, sub := m.code, lens := [2], dst := .val true false false .ty,
      a := .src, b := .src1, tys := [.b32, .b64], scopes := scopesX }
  | .bcast _ => some {
      opc := 0x51, sub := 0, lens := [2], dst := .dest, a := .src,
      b := .scalImm, tys := [.b32, .b64], scopes := scopesX }
  | .red r _ => some {
      opc := 0x52, sub := r.code, lens := [2], dst := .val false true false .ty,
      a := .src, tys := r.tys, sat := r.sat, scopes := scopesX }
  | .scan r _ => some {
      opc := 0x53, sub := r.code, lens := [2], dst := .val true false false .ty,
      a := .src, tys := r.tys, sat := r.sat, scopes := scopesX }
  | .sred r _ => some {
      opc := 0x54, sub := r.code, lens := [3], dst := .val true false false .ty,
      a := .src, b := .mask, c := .scalImm, tys := r.tys, sat := r.sat, scopes := scopesX }
  | .topk _ => some {
      opc := 0x55, sub := 0, lens := [2, 3], dst := .val true false false .one,
      a := .src, b := .scalImm, long := .b, tys := [.f32, .f16, .bf16, .i32, .n32],
      scopes := [.warp, .set] }
  | .mld _ => some {
      opc := 0x60, sub := 0, lens := [4], dst := .matrix, a := .src1, b := .src1, imm := .shape,
      tys := tysMatrix, hint := .any, xmods := [0, 1], brec := true, vary := .coord, noSprout := true }
  | .mst _ => some {
      opc := 0x61, sub := 0, lens := [4], dst := .matrix, writes := false, a := .src1, b := .src1,
      tys := tysMatrix, hint := .noRo, xmods := [0, 1], brec := true, vary := .coord, noSprout := true }
  | .mshape _ => some {
      opc := 0x62, sub := 0, lens := [2], dst := .matrix, a := .src1, tys := tysMatrix,
      noSprout := true }
  | .mzero _ => some {
      opc := 0x63, sub := 0, lens := [2], dst := .matrix, a := .src1, b := .src1, tys := tysMatrix,
      noSprout := true }
  | .mid _ => some {
      opc := 0x64, sub := 0, lens := [2], dst := .matrix, a := .src1, tys := tysMatrix,
      noSprout := true }
  | .mget _ => some {
      opc := 0x65, sub := 0, lens := [2], dst := .val true false false .ty, a := .matrix, b := .src1,
      tys := tysMatrix, noSprout := true }
  | .mput _ => some {
      opc := 0x66, sub := 0, lens := [2], dst := .matrix, a := .src1, b := .src, tys := tysMatrix,
      noSprout := true }
  | .madd _ => some (.mat2 0x67 0 tysMatArith tysMatArith .any)
  | .msub _ => some (.mat2 0x67 1 tysMatArith tysMatArith .any)
  | .mscal _ => some { Row.mat2 0x68 0 tysMatArith tysMatArith .any with b := .src }
  | .mmul f _ => some (.mat2 0x69 f.code tysMatProd tysMatProd .any)
  | .mfma f _ => some { Row.mat2 0x6A f.code tysMatProd tysMatProd .any with lens := [3], c := .matrix }
  | .mtrn _ => some { Row.mat2 0x6B 0 tysMatrix [] .zero with b := .absent }
  | .minv _ => some (.algebra 0x6C .absent)
  | .mlu _ => some (.algebra 0x6D (.val true false false .pair))
  | .mchol _ => some (.algebra 0x6E .absent)
  | .msolve _ => some (.algebra 0x6F .matrix)
  | .mpow _ => some (.algebra 0x70 .src1)
  | .mma _ => some {
      opc := 0x71, sub := 0, lens := [4], dst := .matrix, a := .matrix, b := .matrix,
      scopes := [.warp, .set], sat := [.none], rnd := .any, xmods := [0, 1], quad := true, noSprout := true }
  | .mpack _ => some {
      opc := 0x72, sub := 0, lens := [3], dst := .matrix, a := .matrix, b := .srcType, stys := [.f32, .f16, .bf16],
      c := .val true false false .one, tys := [.e2m1, .e4m3, .e5m2], sat := [.e2m1, .e4m3, .e5m2], rnd := .any,
      xmods := [0, 1, 2], vary := .scaled, noSprout := true }
  | .munpack _ => some {
      opc := 0x73, sub := 0, lens := [3], dst := .matrix, a := .matrix, b := .srcType, stys := [.e2m1, .e4m3, .e5m2],
      c := .val true false false .one, tys := [.f32, .f16, .bf16], rnd := .any, xmods := [0, 1, 2], vary := .scaled, noSprout := true }
  | .ld _ => some (.global 0x80)
  | .st _ => some { Row.global 0x81 with dst := .src, writes := false, hint := .noRo }
  | .lds _ => some (.scratch 0x82)
  | .sts _ => some { Row.scratch 0x83 with dst := .src, writes := false }
  | .atomAdd _ => some (.atomic 0 (AtomOp.types .add) tysInt3264)
  | .atomFadd _ => some (.atomic 1 (AtomOp.types .fadd))
  | .atomMin _ => some (.atomic 2 (AtomOp.types .min))
  | .atomMax _ => some (.atomic 3 (AtomOp.types .max))
  | .atomAnd _ => some (.atomic 4 (AtomOp.types .and))
  | .atomOr _ => some (.atomic 5 (AtomOp.types .or))
  | .atomXor _ => some (.atomic 6 (AtomOp.types .xor))
  | .atomXchg _ => some (.atomic 7 (AtomOp.types .xchg))
  | .atomCas _ => some (.atomic 8 (AtomOp.types .cas) [] (.val true true false .cas))
  | .phaseRel _ => some (.phase 0)
  | .phaseAcq _ => some (.phase 1)
  | .phaseAr _ => some (.phase 2)
  | .cachectlPf1 _ => some (.cachectl 0)
  | .cachectlPf2 _ => some (.cachectl 1)
  | .cachectlInv _ => some (.cachectl 2)
  | .bankcfg _ => some {
      opc := 0x87, sub := 0, lens := [2], dst := .scal1, scopes := [.block],
      xmods := [0, 1, 2, 3, 4, 5], guard := .unused, noSprout := true }
  | .bcopy _ => some { Row.bulk 0xA0 0 with
      dst := .record, writes := false, b := .scalImm, hint := .noRo,
      xmods := [0, 2], extra := .swizzle, vary := .scratchDst }
  | .bcopyMc _ => some { Row.bulk 0xA0 1 with
      dst := .record, writes := false, b := .scalImm, hint := .noRo,
      xmods := [0, 2], extra := .swizzle, vary := .scratchDst }
  | .bput _ => some { Row.bulk 0xA1 0 with dst := .scalImm, writes := false, hint := .noRo, extra := .swizzle }
  | .bseal _ => some {
      opc := 0xA2, sub := 0, lens := [2], dst := .flag, scopes := [.warp], guard := .zero,
      noSprout := true }
  | .bwait _ => some {
      opc := 0xA3, sub := 0, lens := [2], dst := .absent, a := .flag, scopes := [.warp],
      guard := .zero, noSprout := true }
  | .bread _ => some { Row.bulk 0xA4 0 with flag := .required, extra := .handler }
  | .bjoin _ => some {
      opc := 0xA5, sub := 0, lens := [2], dst := .absent, a := .flag, scopes := [.warp],
      guard := .zero, noSprout := true }
  | .rpush _ => some (.ring 0xA6 .absent .scal1 (.val true false false .one) [.b32])
  | .rpop _ => some (.ring 0xA7 (.val true false false .one) .scal1 .absent [.b32])
  | .palloc _ => some (.ring 0xA8 (.val false true false .pair) .absent .absent [.none])
  | .pfree _ => some (.ring 0xA9 .absent (.val false true false .pair) .absent [.none])
  | .xres _ => some (.ring 0xAA .scal1 .scal1 .absent [.none])
  | .bra c _ => some { Row.control 0xB0 c.code [3] with
      imm := .offset,
      a := match c with | .always => .absent | .nz | .z => .scal1 | _ => .mask,
      guard := match c with | .always | .nz | .z => .zero | _ => .any }
  | .loop _ => some { Row.control 0xB1 0 [3] with dst := .scal1, imm := .offset, guard := .zero }
  | .call _ => some { Row.control 0xB2 0 [3] with imm := .offset, guard := .zero, noSprout := true }
  | .callInd _ => some { Row.control 0xB2 1 [2] with
      dst := .mask, a := .val true false false .pair, b := .mask,
      noSprout := true }
  | .ret _ => some { Row.control 0xB3 0 [2] with guard := .zero, noSprout := true }
  | .retire _ => some { Row.control 0xB4 0 [2] with scopes := [.lane] }
  | .exit _ => some { Row.control 0xB5 0 [2] with guard := .zero }
  | .region _ => some { Row.control 0xB6 0 [3] with imm := .index, noSprout := true }
  | .sync _ => some { Row.control 0xB7 0 [2] with dst := .scal1, scopes := scopesX, vary := .optDst }
  | .wait _ => some { Row.control 0xB8 0 [3] with imm := .flags }
  | .nop _ => some { opc := 0xC0, sub := 0, lens := [2], dst := .absent, guard := .unused }
  | .trap _ => some { Row.control 0xC1 0 [2] with a := .scalImm }
  | .eret _ => some { Row.control 0xC2 0 [2] with guard := .unused }
  | .eretRetry _ => some { Row.control 0xC2 0 [2] with guard := .unused, xmods := [1] }
  | .sread _ => some { opc := 0xC3, sub := 0, lens := [2], dst := .specialReg, a := .special, vary := .special }
  | .swrite _ => some { opc := 0xC3, sub := 1, lens := [2], dst := .special, vary := .special, a := .specialReg }
  | .brk _ => some { Row.control 0xC4 0 [2] with a := .val false false true .one }
  | .launch _ => some { Row.control 0xC5 0 [2] with a := .val false true false .pair, noSprout := true }
  | .fenceCode _ => some { Row.control 0xC6 0 [2] with guard := .unused }
  | _ => none

/-- The decoded fields of an encoded instruction. -/
def Instr.ops : Instr → Option Ops
  | .add o | .addc o | .sub o | .subb o | .mul o | .mulhi o | .mad o | .div o | .rem o | .min o | .max o | .abs o
  | .neg o | .and o | .or o | .xor o | .andn o | .not o | .shl o | .shr o | .sar o | .rot o | .bfx o | .bfi o
  | .popc o | .clz o | .brev o | .sel o | .mov o | .movi o | .cvt o | .lea o
  | .fadd o | .fsub o | .fmul o | .fma o | .fdiv o | .fmin o | .fmax o | .fabs o | .fneg o | .fsign o | .frnd o
  | .fscale o | .fcvt o | .f2i o | .i2f o | .fclass o | .rcp o | .rsq o | .sqrt o | .exp2 o | .log2 o | .sinpi o
  | .cospi o | .srand o | .cmp _ o | .fcmp _ o | .kand o | .kor o | .kxor o | .kandn o | .knot o | .kmov o
  | .kpop o | .kfirst o | .kany o | .kall o | .ballot o | .shfl _ o | .bcast o | .red _ o | .scan _ o | .sred _ o
  | .topk o | .mld o | .mst o | .mshape o | .mzero o | .mid o | .mget o | .mput o | .madd o | .msub o | .mscal o
  | .mmul _ o | .mfma _ o | .mtrn o | .minv o | .mlu o | .mchol o | .msolve o | .mpow o | .mma o | .mpack o
  | .munpack o | .ld o | .st o | .lds o | .sts o | .atomAdd o | .atomFadd o | .atomMin o | .atomMax o | .atomAnd o
  | .atomOr o | .atomXor o | .atomXchg o | .atomCas o | .phaseRel o | .phaseAcq o | .phaseAr o | .cachectlPf1 o
  | .cachectlPf2 o | .cachectlInv o | .bankcfg o | .bcopy o | .bcopyMc o | .bput o | .bseal o | .bwait o | .bread o
  | .bjoin o | .rpush o | .rpop o | .palloc o | .pfree o | .xres o | .bra _ o | .loop o | .call o | .callInd o
  | .ret o | .retire o | .exit o | .region o | .sync o | .wait o | .nop o | .trap o | .brk o | .eret o
  | .eretRetry o | .sread o | .swrite o | .launch o | .fenceCode o => some o
  | _ => none

end Sys2Proof
end

