-- ==== Sys2Proof/Machine/Numbers.lean ====
section
/-! DEFINITION. Bits and integers (R114 to R116, R239 to R247). A raw value is the number that the bits of a type
read as; arithmetic is exact on integers and fitted to the type at the end. -/

namespace Sys2Proof

/-- Bits `hi` down to `lo` of a number. -/
def bitsOf (x hi lo : Nat) : Nat := x / 2 ^ lo % 2 ^ (hi + 1 - lo)

/-- Bit `i` of a number. -/
def bitOf (x i : Nat) : Bool := x / 2 ^ i % 2 = 1

/-- The signed value of `n` bits. -/
def signedOf (n x : Nat) : Int := if x % 2 ^ n < 2 ^ (n - 1) then (x % 2 ^ n : Nat) else (x % 2 ^ n : Nat) - (2 ^ n : Nat)

/-- An integer modulo 2^n. -/
def wrapTo (n : Nat) (e : Int) : Nat := (e % (2 ^ n : Nat)).toNat

/-- The number of ones among the low `n` bits. -/
def popCount : Nat → Nat → Nat
  | 0, _ => 0
  | n + 1, x => x % 2 + popCount n (x / 2)

/-- The lowest set bit at or above `i` among `n` bits. -/
def lowestBit : Nat → Nat → Nat → Option Nat
  | 0, _, _ => none
  | n + 1, i, x => if x % 2 = 1 then some i else lowestBit n (i + 1) (x / 2)

/-- Zero bits above the highest set bit of `n` bits. -/
def leadingZeros (n x : Nat) : Nat := if x % 2 ^ n = 0 then n else n - 1 - (x % 2 ^ n).log2

/-- The low `n` bits in reverse order. -/
def reverseBits : Nat → Nat → Nat
  | 0, _ => 0
  | n + 1, x => x % 2 * 2 ^ n + reverseBits n (x / 2)

/-- R114: the value of a raw integer; bit types read as unsigned (R246). -/
def Ty.value (t : Ty) (x : Nat) : Int := if t.isSigned then signedOf t.bits x else (x % 2 ^ t.bits : Nat)

/-- R116: the least and greatest values of an integer type. -/
def Ty.minInt (t : Ty) : Int := if t.isSigned then -(2 ^ (t.bits - 1) : Nat) else 0
def Ty.maxInt (t : Ty) : Int := if t.isSigned then (2 ^ (t.bits - 1) : Nat) - 1 else (2 ^ t.bits : Nat) - 1

/-- R116: the exact result clamped to the type's range. -/
def Ty.clamp (t : Ty) (e : Int) : Int := max t.minInt (min t.maxInt e)

/-- R116, R239: the exact result fitted to the type, wrapped or, with `.sat`, clamped: raw bits of the type. -/
def Ty.fit (t : Ty) (sat : Bool) (e : Int) : Nat := wrapTo t.bits (if sat then t.clamp e else e)

/-- R114, R115: the bits that a raw value of a type writes into its registers. -/
def Ty.toReg (t : Ty) (x : Nat) : Nat :=
  if t.isSigned ∧ t.bits < 32 then wrapTo 32 (signedOf t.bits x) else x % 2 ^ t.bits

/-- Truncating division, as R240 gives it for a non-zero divisor. -/
def truncDiv (a b : Int) : Int := a.tdiv b

/-- R240: the quotient; a zero divisor gives every bit set. -/
def intDiv (t : Ty) (sat : Bool) (a b : Nat) : Nat :=
  if t.value b = 0 then 2 ^ t.bits - 1 else t.fit sat (truncDiv (t.value a) (t.value b))

/-- R240: the remainder, with the sign of a; a zero divisor gives a. -/
def intRem (t : Ty) (a b : Nat) : Nat :=
  if t.value b = 0 then a % 2 ^ t.bits
  else t.fit false (t.value a - t.value b * truncDiv (t.value a) (t.value b))

/-- R242 -/
def shiftLeft (n a s : Nat) : Nat := if s ≥ n then 0 else a * 2 ^ s % 2 ^ n
def shiftRight (n a s : Nat) : Nat := if s ≥ n then 0 else a % 2 ^ n / 2 ^ s
def shiftArith (n a s : Nat) : Nat := wrapTo n (signedOf n a / (2 ^ min s n : Nat))
def rotateLeft (n a s : Nat) : Nat := (a % 2 ^ n * 2 ^ (s % n)) % 2 ^ n + a % 2 ^ n / 2 ^ (n - s % n)

/-- R243: position and clipped length of a bit field. -/
def fieldPos (b : Nat) : Nat := b % 256
def fieldLen (n b : Nat) : Nat := if b % 256 ≥ n then 0 else min (b / 256 % 256) (n - b % 256)

/-- R243: `bfx`. -/
def extractField (t : Ty) (a b : Nat) : Nat :=
  let q := fieldLen t.bits b
  let f := a % 2 ^ t.bits / 2 ^ fieldPos b % 2 ^ q
  if q = 0 then 0 else if t.isSigned then wrapTo t.bits (signedOf q f) else f

/-- R243: `bfi`. -/
def insertField (t : Ty) (a b c : Nat) : Nat :=
  let q := fieldLen t.bits b
  let p := fieldPos b
  let c := c % 2 ^ t.bits
  if q = 0 then c else c % 2 ^ p + a % 2 ^ q * 2 ^ p + c / 2 ^ (p + q) * 2 ^ (p + q)

/-- The bytes of a number, lowest first. -/
def bytesOf : Nat → Nat → List Byte
  | 0, _ => []
  | n + 1, x => BitVec.ofNat 8 x :: bytesOf n (x / 256)

/-- The number whose bytes, lowest first, are given. -/
def ofBytes : List Byte → Nat
  | [] => 0
  | b :: r => b.toNat + 256 * ofBytes r

/-- The 32-bit words of a number, lowest first. -/
def wordsOf : Nat → Nat → List Word
  | 0, _ => []
  | n + 1, x => BitVec.ofNat 32 x :: wordsOf n (x / 2 ^ 32)

/-- The number whose 32-bit words, lowest first, are given. -/
def ofWords : List Word → Nat
  | [] => 0
  | w :: r => w.toNat + 2 ^ 32 * ofWords r

end Sys2Proof
end

