-- ==== Sys2Proof/Machine/Keccak.lean ====
section
/-! DEFINITION. SHA3-256 (R377, R380, R470, R471), by the permutation Keccak-f[1600] of FIPS 202. A state is a list of
25 lanes, lane (x, y) at 5 y + x. -/

namespace Sys2Proof

/-- Rotation left of 64 bits. -/
def rotl64 (x : DWord) (n : Nat) : DWord := x.rotateLeft n

/-- A lane of a state. -/
def lane64 (a : List DWord) (x y : Nat) : DWord := a.getD (5 * (y % 5) + x % 5) 0

/-- A state given lane by lane. -/
def keccakMap (f : Nat → Nat → DWord) : List DWord := (List.range 25).map (fun i => f (i % 5) (i / 5))

/-- θ -/
def keccakTheta (a : List DWord) : List DWord :=
  let c := (List.range 5).map (fun x => lane64 a x 0 ^^^ lane64 a x 1 ^^^ lane64 a x 2 ^^^ lane64 a x 3 ^^^ lane64 a x 4)
  keccakMap (fun x y => lane64 a x y ^^^ c.getD ((x + 4) % 5) 0 ^^^ rotl64 (c.getD ((x + 1) % 5) 0) 1)

/-- ρ and π in one walk over the lanes other than (0, 0), from (1, 0): the lane that stands at (x, y) after t steps goes to
(y, 2 x + 3 y), turned by the t-th triangular number, and the walk goes on from there. -/
def keccakRhoPi (a : List DWord) : List DWord :=
  ((List.range 24).foldl (fun (p : Nat × Nat × List DWord) t =>
    let (x, y, b) := p
    let y' := (2 * x + 3 * y) % 5
    (y, y', b.set (5 * y' + y) (rotl64 (lane64 a x y) ((t + 1) * (t + 2) / 2 % 64)))) (1, 0, a)).2.2

/-- χ -/
def keccakChi (a : List DWord) : List DWord :=
  keccakMap (fun x y => lane64 a x y ^^^ (~~~(lane64 a (x + 1) y) &&& lane64 a (x + 2) y))

/-- One step of the register of 8 bits whose low bits make up the round constants: feedback by x^8 + x^6 + x^5 + x^4 + 1. -/
def keccakShift (r : Nat) : Nat := if 128 ≤ r then 2 * r ^^^ 0x171 else 2 * r

/-- One round constant, and the register after it: bit 2^j - 1, for j from 0 to 6, is the low bit of the register. -/
def keccakConst (r : Nat) : Nat × Nat :=
  (List.range 7).foldl (fun (p : Nat × Nat) j => (p.1 + p.2 % 2 * 2 ^ (2 ^ j - 1), keccakShift p.2)) (0, r)

/-- The constants of the next `n` rounds, from a state of the register. -/
def keccakConsts : Nat → Nat → List DWord
  | 0, _ => []
  | n + 1, r => BitVec.ofNat 64 (keccakConst r).1 :: keccakConsts n (keccakConst r).2

/-- Keccak-f[1600]. -/
def keccakF (a : List DWord) : List DWord :=
  (keccakConsts 24 1).foldl (fun a rc => match keccakChi (keccakRhoPi (keccakTheta a)) with
    | [] => []
    | x :: r => (x ^^^ rc) :: r) a

/-- A block of 136 bytes absorbed. -/
def keccakAbsorb (a : List DWord) (block : List Byte) : List DWord :=
  keccakF ((List.range 25).map (fun i =>
    a.getD i 0 ^^^ (if i < 17 then BitVec.ofNat 64 (ofBytes ((block.drop (8 * i)).take 8)) else 0)))

/-- Blocks absorbed in turn; `n` blocks remain. -/
def keccakBlocks : Nat → List DWord → List Byte → List DWord
  | 0, a, _ => a
  | n + 1, a, m => keccakBlocks n (keccakAbsorb a (m.take 136)) (m.drop 136)

/-- The padded message of SHA3-256: 0x06, zeros, and 0x80 in the last byte of the block. -/
def sha3Pad (m : List Byte) : List Byte :=
  let q := 136 - m.length % 136
  if q = 1 then m ++ [0x86] else m ++ [0x06] ++ List.replicate (q - 2) 0 ++ [0x80]

/-- SHA3-256. -/
def sha3 (m : List Byte) : List Byte :=
  let p := sha3Pad m
  ((keccakBlocks (p.length / 136) (List.replicate 25 0) p).take 4).flatMap (fun w => bytesOf 8 w.toNat)

/-- R470: the first 8 bytes of the digest, as a number. -/
def sha3Sig (m : List Byte) : DWord := BitVec.ofNat 64 (ofBytes ((sha3 m).take 8))

end Sys2Proof
end

