-- ==== Sys2Proof/Machine/Fields.lean ====
section
/-! DEFINITION. The fields of a word (R205, R210, R211), what the part checks in them at decode (R225, R406), and
the operands that they name. -/

namespace Sys2Proof

/-- The fields of an instruction word as numbers. IMM32, REC, QUAD, EXTRA and OPC2 are 0 and FLAG is 15 in a word
that is too short to hold them. -/
structure Raw where
  /-- length in 32-bit words -/
  len   : Nat
  scope : Nat
  mslot : Nat
  opc   : Nat
  guard : Nat
  ginv  : Nat
  dst   : Nat
  a     : Nat
  b     : Nat
  ty    : Nat
  mod   : Nat
  imm   : Nat
  opc2  : Nat
  extra : Nat
  flag  : Nat
  quad  : Nat
  brec  : Nat
  deriving DecidableEq, Repr

/-- What decoding needs to know of the warp or sprout: its declared registers (R99, R70), its sets (R23, R57) and
the kind of its launch. -/
structure Ctx where
  vregs     : Nat
  sregs     : Nat
  kregs     : Nat
  /-- capacity of `m0` to `m15` in words, 0 when undeclared -/
  caps      : List Nat
  /-- `set_base` and number of members of each membership slot that holds a set -/
  slots     : List (Nat × Nat)
  sprout    : Bool
  /-- HANDLER_COUNT (R231) -/
  handlers  : Nat
  /-- the launch is a pipeline launch (R338) -/
  pipeline  : Bool
  /-- in handler mode (R345) -/
  inHandler : Bool
  deriving DecidableEq, Repr

/-- The context that refuses nothing for want of a declaration. -/
def Ctx.full : Ctx :=
  { vregs := 256, sregs := 128, kregs := 16, caps := List.replicate 16 64,
    slots := [(0, 1), (0, 1), (0, 1), (0, 1)], sprout := false, handlers := 128, pipeline := true,
    inHandler := true }

/-- R22. -/
def Scope.code : Scope → Nat | .lane => 0 | .warp => 1 | .set => 2 | .block => 3
/-- R22: every code names a scope. -/
def Scope.ofCode : Nat → Scope | 0 => .lane | 1 => .warp | 2 => .set | _ => .block

/-- R223, R214: opcodes that R223 lists with sub-operations, which their 64- and 96-bit forms hold in MOD[8:6]. -/
def subOpcodes : List Nat :=
  [0x00, 0x01, 0x02, 0x04, 0x05, 0x06, 0x07, 0x08, 0x09, 0x0A, 0x0C, 0x20, 0x24, 0x25, 0x28, 0x2A, 0x40, 0x41, 0x42,
   0x43, 0x44, 0x50, 0x52, 0x53, 0x54, 0x67, 0x69, 0x6A, 0x84, 0x85, 0xA0, 0xB0, 0xB2, 0xC3]

/-- R223: opcodes whose 128-bit form lists sub-operations by OPC2; of any other, it has the one sub-operation 0 (R214). -/
def opc2Opcodes : List Nat := [0x84, 0xA0]

/-- R214: the sub-operation of a word. -/
def Raw.sub (f : Raw) : Nat :=
  if f.len = 4 then (if opc2Opcodes.contains f.opc then f.opc2 else 0) else if subOpcodes.contains f.opc then f.mod / 64 else 0

/-- R214: MOD[8:6] where it is no sub-operation. -/
def Raw.xmod (f : Raw) : Nat :=
  if f.len ≠ 4 ∧ subOpcodes.contains f.opc then 0 else f.mod / 64

/-- How a special register moves (R109, R346). -/
inductive SpecialClass | lane | word | pair | mask
  deriving DecidableEq, Repr

/-- R109: the special registers, by number; other numbers are unassigned. -/
def specialClass : Nat → Option SpecialClass
  | 0x00 => some .lane
  | 0x01 | 0x02 | 0x03 | 0x04 | 0x05 | 0x08 | 0x09 | 0x0A | 0x0B | 0x10 | 0x11 => some .word
  | 0x18 => some .pair
  | 0x19 | 0x20 | 0x21 | 0x22 | 0x23 | 0x24 | 0x28 | 0x29 | 0x2A => some .word
  | 0x30 => some .pair
  | 0x31 | 0x32 | 0x33 | 0x34 | 0x35 => some .word
  | 0x36 => some .mask
  | 0x38 => some .word
  | _ => none

/-- R346: the kind of the register field that goes with a special register; none for a number that names none. -/
def specialKind (fld : Nat) : Kind :=
  match specialClass fld with
  | some .lane => .val true false false .one
  | some .word => .scal1
  | some .pair => .val false true false .pair
  | some .mask => .maskOrPair
  | none       => .specialReg

/-- A Value field that names a vector register. -/
def isVec (fld : Nat) : Bool := fld / 256 = 0

/-- The kinds of DST, OPA, OPB and the third operand in a given word. -/
def Row.kinds (r : Row) (f : Raw) : Kind × Kind × Kind × Kind :=
  let a := if f.len = 3 ∧ r.long = .a then .long else r.a
  let b := if f.len = 3 ∧ r.long = .b then .long else r.b
  match r.vary with
  | .fixed      => (r.dst, a, b, r.c)
  | .coord      => (r.dst, a, if f.xmod % 2 = 1 then b else .absent, r.c)
  | .returns    => (if f.xmod % 2 = 1 then r.dst else .absent, a, b, r.c)
  | .scratchDst => if f.xmod / 2 % 2 = 1 then (.scalImm, a, .absent, r.c) else (r.dst, a, b, r.c)
  | .optDst     => (if f.dst = 0 then .absent else r.dst, a, b, r.c)
  | .scaled     => (r.dst, a, b, if f.xmod = 0 then .absent else r.c)
  | .compare    => (if isVec f.a ∨ (b ≠ .long ∧ isVec f.b) then .mask else .scal1, a, b, r.c)
  | .special    =>
    if r.dst = .special then (.special, specialKind f.dst, b, r.c) else (specialKind f.a, .special, b, r.c)

/-- How many registers an operand names (R100, R213, R323). -/
def OpW.count (w : OpW) (ty sty : Ty) : Nat :=
  match w with
  | .one => 1 | .pair => 2 | .ty => ty.regs | .sty => sty.regs | .cas => 2 * ty.regs

/-- R57: what a set register's number is added to; none when the slot is empty. -/
def Ctx.base (c : Ctx) (scope mslot : Nat) : Option Nat :=
  if scope = 3 then some 0 else c.slots[mslot]?.map (·.1)

/-- A run of `w` registers from `n`, aligned, within the declared count: DETAIL 6 (R99, R100). -/
def runFaults (n w count : Nat) : List Nat := if n % w ≠ 0 ∨ n + w > count then [6] else []

/-- The DETAIL values of the checks of R207, R209, R99, R100, R109 and R316 that an operand field fails. Of a 64-bit `g`
operand the number of the `g` must be even, whatever the `v` that it names, and OPB[9:6] of a source type (R213) is an unused field.
(DEDUCED, log entry 13.) -/
def opdFaults (c : Ctx) (f : Raw) (ty sty : Ty) (k : Kind) (fld : Nat) : List Nat :=
  let cls := fld / 256
  let n := fld % 256
  match k with
  | .absent => if fld ≠ 0 then [4] else []
  | .long => if fld ≠ 0x300 then [5] else []
  | .srcType => if fld / 64 ≠ 0 then [4] else []
  | .specialReg => []
  | .matrix => if cls ≠ 3 ∨ n > 15 then [5] else if c.caps.getD n 0 = 0 then [6] else []
  | .mask => if cls ≠ 0 ∨ n > 15 then [5] else if n ≥ c.kregs then [6] else []
  | .maskOrPair =>
    if cls = 0 then (if n > 15 then [5] else if n ≥ c.kregs then [6] else [])
    else if cls = 1 then runFaults n 2 c.sregs
    else [5]
  | .flag => if cls ≠ 0 ∨ n > 11 then [5] else []
  | .special => if cls ≠ 0 ∨ n > 63 then [5] else if specialClass n = none then [6] else []
  | .record => if cls ≠ 1 then [5] else if n % 8 ≠ 0 ∨ n + 7 ≥ c.sregs then [6] else []
  | .val vec scal imm w =>
    let w := w.count ty sty
    if cls = 0 then (if vec ∧ f.scope < 2 then runFaults n w c.vregs else [5])
    else if cls = 1 then (if scal then runFaults n w c.sregs else [5])
    else if cls = 2 then
      if vec ∧ f.scope ≥ 2 ∧ n < 64 then
        (if n % w ≠ 0 then [6] else []) ++
        match c.base f.scope f.mslot with
        | none => []
        | some base => if base + n + w > c.vregs then [6] else []
      else [5]
    else if imm then [] else [5]

/-- The value kind of an operand position. -/
def Kind.isVal : Kind → Bool | .val .. => true | _ => false

/-- The third operand field (R210). -/
def Raw.c (f : Raw) : Nat := f.imm % 1024

/-- R209: at lane scope a scalar destination takes no vector source. R320, R321: at warp scope a memory instruction
takes no vector operand. -/
def mixFaults (r : Row) (f : Raw) : List Nat :=
  let (kd, ka, kb, kc) := r.kinds f
  let v (k : Kind) (fld : Nat) : Bool := k.isVal && isVec fld
  let src := v ka f.a || v kb f.b || v kc f.c
  (if f.scope = 0 ∧ r.writes ∧ kd.isVal ∧ f.dst / 256 = 1 ∧ src then [5] else []) ++
  (if f.scope = 1 ∧ 0x80 ≤ r.opc ∧ r.opc ≤ 0x84 ∧ (v kd f.dst ∨ src) then [5] else []) ++
  (if r.opc = 0x43 ∧ r.vary = .fixed ∧ kd = .maskOrPair ∧ f.dst / 256 = 1 ∧ f.a / 256 = 1 then [5] else [])

/-- R21 to R23, R48, R205: scope, membership slot and guard; R206 for words whose guard fields are unused.
(DEDUCED, log entry 13.) -/
def scopeFaults (c : Ctx) (r : Row) (f : Raw) : List Nat :=
  (if (r.scopes.contains (Scope.ofCode f.scope)) then [] else [7]) ++
  (if f.scope = 2 then (if f.mslot ≥ c.slots.length then [7] else []) else if f.mslot ≠ 0 then [7] else []) ++
  (if f.guard = 0 ∧ f.ginv ≠ 0 then [7] else []) ++
  (if f.guard ≥ c.kregs ∧ f.guard ≠ 0 then [6] else []) ++
  match r.guard with
  | .any => []
  | .zero => if f.guard ≠ 0 ∨ f.ginv ≠ 0 then [7] else []
  | .unused => if f.guard ≠ 0 ∨ f.ginv ≠ 0 then [4] else []

/-- R438: rings, the pool and residency; R343: `nop`. Their other fields count as unused. -/
def bareFaults (r : Row) (f : Raw) : List Nat :=
  (if 0xA6 ≤ r.opc ∧ r.opc ≤ 0xAA ∧ f.mod ≠ 0 then [4] else []) ++
  (if r.opc = 0xC0 ∧ (f.mslot ≠ 0 ∨ f.ty ≠ 0 ∨ f.mod ≠ 0) then [4] else [])

/-- R212, R213, R253, R300: TYPE and the source type. -/
def typeFaults (r : Row) (f : Raw) : List Nat :=
  let sty := Ty.ofCode (f.b % 64)
  (match Ty.ofCode f.ty with | some t => (if r.tys.contains t then [] else [8]) | none => [8]) ++
  (if r.b = .srcType then
    (match sty with | some t => (if r.stys.contains t then [] else [8]) | none => [8]) else []) ++
  -- `.blk8` only for `.e2m1` (R134, R300)
  (if r.vary = .scaled ∧ f.xmod = 1 ∧ Ty.ofCode f.ty ≠ some .e2m1 ∧ sty ≠ some .e2m1 then [8] else [])

/-- R116, R119, R120, R155, R214: MOD. -/
def modFaults (r : Row) (f : Raw) : List Nat :=
  let rnd := f.mod % 8
  let hint := f.mod / 16 % 4
  let ty := (Ty.ofCode f.ty).getD .none
  (match r.rnd with
   | .zero => if rnd ≠ 0 then [9] else []
   | .any => if rnd > 5 then [9] else []
   | .noRs => if rnd > 4 then [9] else []) ++
  (if 0x67 ≤ r.opc ∧ r.opc ≤ 0x68 ∧ ty = .i32 ∧ rnd ≠ 0 then [9] else []) ++
  (if f.mod / 8 % 2 = 1 ∧ ¬ r.sat.contains ty then [9] else []) ++
  (match r.hint with
   | .zero => if hint ≠ 0 then [9] else []
   | .any => []
   | .noRo => if hint = 1 then [9] else []
   | .onlyRo => if 1 < hint then [9] else []) ++
  (if f.len ≠ 4 ∧ subOpcodes.contains f.opc then [] else if r.xmods.contains (f.mod / 64) then [] else [9])

/-- R210, R287: IMM32. -/
def immFaults (r : Row) (f : Raw) : List Nat :=
  if f.len = 2 then [] else
  if r.c ≠ .absent then (if f.imm / 1024 ≠ 0 then [4] else [])
  else if f.len = 3 ∧ r.long ≠ .none then []
  else match r.imm with
  | .zero => if f.imm ≠ 0 then [4] else []
  | .flags => if f.imm / 4096 ≠ 0 then [4] else []
  | .shape => if f.imm ≠ 0 ∧ (f.imm / 2 ^ 31 = 0 ∨ f.imm % 2 ^ 31 / 4096 ≠ 0) then [5] else []
  | .offset | .index | .count => []

/-- R206, R211, R224, R315: REC, QUAD, FLAG and EXTRA of a 128-bit word. -/
def extFaults (c : Ctx) (r : Row) (f : Raw) : List Nat :=
  if f.len ≠ 4 then [] else
  (if r.brec then (if 8 * f.brec + 7 ≥ c.sregs then [6] else []) else if f.brec ≠ 0 then [4] else []) ++
  (if r.quad then (if f.quad > 124 ∨ f.quad + 3 ≥ c.sregs then [6] else []) else if f.quad ≠ 0 then [4] else []) ++
  (match r.flag with
   | .none => if f.flag ≠ 15 then [4] else []
   | .optional => if 12 ≤ f.flag ∧ f.flag ≤ 14 then [4] else []
   | .required => if 12 ≤ f.flag then [4] else []) ++
  match r.extra with
  | .zero => if f.extra ≠ 0 then [4] else []
  | .ordering =>
    (if f.extra % 8 ≠ 0 then [4] else []) ++ (if f.extra / 8 % 4 ≠ 0 ∧ f.extra / 32 = 0 then [9] else [])
  | .swizzle =>
    if f.extra / 4 ≠ 0 ∨ (r.vary = .scratchDst ∧ f.xmod / 2 % 2 = 0 ∧ f.extra ≠ 0) then [4] else []
  | .handler => if f.extra ≥ c.handlers then [12] else []

/-- R304: the destinations of a set-scope `mma`. -/
def mmaFaults (c : Ctx) (r : Row) (f : Raw) : List Nat :=
  if r.opc = 0x71 ∧ f.scope = 2 ∧ f.dst / 256 = 3 ∧ f.dst % 256 ≤ 15 then
    match c.slots[f.mslot]? with
    | some (_, n) =>
      let d := f.dst % 256
      if d + n > 16 ∨ (List.range n).any (fun i => c.caps.getD (d + i) 0 = 0) then [6] else []
    | none => []
  else []

/-- R102, R273, R338, R345: the rules of DETAIL 12, and the sprout check of R70 and R56. -/
def ruleFaults (c : Ctx) (r : Row) (f : Raw) : List Nat :=
  let (kd, _, _, _) := r.kinds f
  let writesK0 := r.writes ∧ (kd = .mask ∨ kd = .maskOrPair) ∧ f.dst = 0
  let indirect := r.opc = 0xB2 ∧ r.sub = 1
  (if writesK0 ∨ (r.opc ≥ 0x6C ∧ r.opc ≤ 0x70 ∧ f.c = 0) ∨ (indirect ∧ (f.b = 0 ∨ f.dst = f.b)) then [12] else []) ++
  (if 0xA6 ≤ r.opc ∧ r.opc ≤ 0xAA ∧ ¬ c.pipeline then [12] else []) ++
  (if r.opc = 0xC2 ∧ ¬ c.inHandler then [12] else []) ++
  (if c.sprout ∧ (r.noSprout ∨ f.scope ≥ 2) then [10] else [])

/-- Every check that a word fails after its opcode, sub-operation and length are known (R225), as DETAIL values.
(DEDUCED, log entry 13.) -/
def Row.faults (r : Row) (c : Ctx) (f : Raw) : List Nat :=
  let ty := (Ty.ofCode f.ty).getD .none
  let sty := (Ty.ofCode (f.b % 64)).getD .none
  let (kd, ka, kb, kc) := r.kinds f
  opdFaults c f ty sty kd f.dst ++ opdFaults c f ty sty ka f.a ++ opdFaults c f ty sty kb f.b ++
  (if r.c = .absent then [] else opdFaults c f ty sty kc f.c) ++
  mixFaults r f ++ scopeFaults c r f ++ bareFaults r f ++ typeFaults r f ++ modFaults r f ++ immFaults r f ++
  extFaults c r f ++ mmaFaults c r f ++ ruleFaults c r f

/-- R406: the lowest DETAIL of a list of failures. -/
def leastDetail (l : List Nat) : Nat := l.foldl Nat.min 12

/-- The operand that a field of a kind names. -/
def Opd.ofField (k : Kind) (imm fld : Nat) : Opd :=
  match k with
  | .absent | .srcType | .specialReg => .none
  | .long => .long (BitVec.ofNat 32 imm)
  | .matrix => .m (fld % 256)
  | .mask => .k (fld % 256)
  | .flag => .f (fld % 256)
  | .special => .sp (fld % 256)
  | .record => .s (fld % 256)
  | .maskOrPair => if fld / 256 = 0 then .k (fld % 256) else .s (fld % 256)
  | .val .. =>
    if fld / 256 = 0 then .v (fld % 256) else if fld / 256 = 1 then .s (fld % 256)
    else if fld / 256 = 2 then .g (fld % 256) else .imm (BitVec.ofNat 8 fld)

/-- The field of an operand; the field that IMM32 replaces holds 0x300 (R210). -/
def Opd.field : Opd → Nat
  | .none => 0
  | .v n | .k n | .f n | .sp n => n
  | .s n => 256 + n
  | .g n => 512 + n
  | .m n => 768 + n
  | .imm b => 768 + b.toNat
  | .long _ => 768

/-- The decoded fields of a word. -/
def Row.opsOf (r : Row) (f : Raw) : Ops :=
  let (kd, ka, kb, kc) := r.kinds f
  { len := f.len, scope := Scope.ofCode f.scope, mslot := f.mslot, guard := f.guard, ginv := f.ginv = 1,
    ty := (Ty.ofCode f.ty).getD .none,
    sty := if r.b = .srcType then (Ty.ofCode (f.b % 64)).getD .none else .none,
    dst := .ofField kd f.imm f.dst, a := .ofField ka f.imm f.a, b := .ofField kb f.imm f.b,
    c := if r.c = .absent then .none else .ofField kc f.imm f.c,
    rnd := f.mod % 8, sat := f.mod / 8 % 2 = 1, hint := f.mod / 16 % 4, xmod := f.xmod,
    imm := if r.imm = .zero then 0 else BitVec.ofNat 32 f.imm,
    brec := f.brec, quad := f.quad, flag := f.flag, extra := f.extra }

/-- IMM32 of decoded fields (R210). -/
def Ops.imm32 (o : Ops) : Nat :=
  match o.a, o.b, o.c with
  | .long w, _, _ => w.toNat
  | _, .long w, _ => w.toNat
  | _, _, .none => o.imm.toNat
  | _, _, c => c.field

/-- The fields that a row's word has for decoded operands. -/
def Row.rawOf (r : Row) (o : Ops) : Raw :=
  { len := o.len, scope := o.scope.code, mslot := o.mslot, opc := r.opc, guard := o.guard, ginv := o.ginv.toNat,
    dst := o.dst.field, a := o.a.field, b := if r.b = .srcType then o.sty.code else o.b.field, ty := o.ty.code,
    mod := o.rnd + 8 * o.sat.toNat + 16 * o.hint +
      64 * (if o.len ≠ 4 ∧ subOpcodes.contains r.opc then r.sub else o.xmod),
    imm := o.imm32, opc2 := if o.len = 4 then r.sub else 0, extra := o.extra, flag := o.flag, quad := o.quad,
    brec := o.brec }

end Sys2Proof
end

