-- ==== Sys2Proof/WellFormed.lean ====
section
/-! DEFINITION. Which terms of `Instr` are well formed: for an encoded instruction, that its fields are those of a
word the part accepts in some kernel (R202 to R214, R223); for a step of the part, that what it names exists. -/

namespace Sys2Proof

/-- R202, R223: the length is one of the row's. -/
def Ops.lengthOk (r : Row) (o : Ops) : Bool := r.lens.contains o.len

/-- R205, R211: the numbers fit their fields; a word too short for REC, QUAD, FLAG and EXTRA holds none of them. -/
def Ops.rangesOk (o : Ops) : Bool :=
  decide (o.guard < 16) && decide (o.mslot < 4) &&
    (if o.len = 4 then decide (o.brec < 16) && decide (o.quad < 128) && decide (o.flag < 16) && decide (o.extra < 128)
     else decide (o.brec = 0) && decide (o.quad = 0) && decide (o.flag = 15) && decide (o.extra = 0))

/-- R206 to R214: the fields pass every check of decode that rests on the word alone. -/
def Ops.fieldsOk (r : Row) (o : Ops) : Bool := decide (r.faults .full (r.rawOf o) = [])

/-- The operands are the ones that the fields name: every operand of the kind its position takes, and nothing in a
position that the instruction leaves unused. -/
def Ops.canonical (r : Row) (o : Ops) : Bool := decide (r.opsOf (r.rawOf o) = o)

/-- The fields of an instruction with row `r` are those of a word that the part accepts. -/
def Ops.wf (r : Row) (o : Ops) : Bool := o.lengthOk r && o.rangesOk && o.fieldsOk r && o.canonical r

/-- R368: the size of BAR2. -/
def bar2Size : Nat := 2 ^ 36

/-- R178, R323: an atomic of a peer has one of its types and a naturally aligned address, and clamps only as `.add`. -/
def PeerReq.ok (pa : Nat) : PeerReq → Bool
  | .atomic kind ty sat _ _ _ =>
    kind.types.contains ty && decide (pa % (ty.bits / 8) = 0) && (!sat || (decide (kind = .add) && tysInt3264.contains ty))
  | _ => true

/-- What a step of the part names exists: queues (R78), dies (R1), pipeline contexts (R353), vectors (R371), links
(R374), registers (R4, R370). -/
def Instr.eventOk : Instr → Bool
  | .launchQueueDoorbell q _ | .launchRecordTake q => decide (q < 64)
  | .walkEnd die _ | .migrateToSram die _ | .migrateToGddr7 die | .migrationLineMove die _ | .tierSplitWrite die _ =>
    decide (die < 4)
  | .forcedShortBatch c | .pipelineStall c => decide (c < 4)
  | .msixSend v => decide (v < 70)
  | .nertuFlitRetry n _ | .nertuLinkRetrain n _ | .remoteErrorResponse n _ _ _ =>
    decide (n < 8)
  | .registerWrite off _ => decide (off % 4 = 0)
  | .nertuInboundRequest n pa len req => decide (n < 8) && req.fits len && req.ok pa
  | .hostBar2Read off n => decide (n = 1 ∨ n = 2 ∨ n = 4 ∨ n = 8) && decide (off + n ≤ bar2Size)
  | .hostBar2Write off bytes =>
    decide (bytes.length = 1 ∨ bytes.length = 2 ∨ bytes.length = 4 ∨ bytes.length = 8) && decide (off + bytes.length ≤ bar2Size)
  | .instructionReplay _ lanes _ _ votes => decide (lanes ≠ 0) && decide (votes ≠ [])
  | _ => true

/-- A well-formed term of `Instr`. -/
def Instr.wf (i : Instr) : Bool :=
  match i.row, i.ops with
  | some r, some o => o.wf r
  | _, _ => i.eventOk

end Sys2Proof
end

