-- ==== Sys2Proof/Decode.lean ====
section
/-! DEFINITION. Decoding (R202 to R225): total on any bits, in the order of R225, refusing by name; and the encoder,
from the same encoding tables. -/

namespace Sys2Proof

/-- R215: a clause header. -/
structure Header where
  /-- bit n: `fn` must be clear -/
  wait   : Nat
  seta   : Nat
  setb   : Nat
  /-- words covered, after the header -/
  length : Nat
  stall  : Nat
  reuse  : Nat
  deriving DecidableEq, Repr

/-- R225: the fate of a word. -/
inductive Decoded
  /-- R204 -/
  | pad
  | header (h : Header)
  | instr (i : Instr)
  /-- the malformed-instruction trap with its DETAIL (R406) -/
  | malformed (detail : Nat)
  /-- the unimplemented-instruction trap -/
  | unimplemented
  deriving DecidableEq, Repr

/-- R202: the length in 32-bit words that the first word gives. -/
def lengthOf (w : Nat) : Nat := match w % 4 with | 1 => 3 | 2 => 4 | _ => 2

/-- R205, R210, R211: the fields of the `len` words whose bits are `w`. -/
def Raw.ofBits (len w : Nat) : Raw :=
  let hi := w / 2 ^ 64
  { len, scope := w / 4 % 4, mslot := w / 16 % 4, opc := w / 64 % 256, guard := w / 2 ^ 14 % 16,
    ginv := w / 2 ^ 18 % 2, dst := w / 2 ^ 19 % 1024, a := w / 2 ^ 29 % 1024, b := w / 2 ^ 39 % 1024,
    ty := w / 2 ^ 49 % 64, mod := w / 2 ^ 55 % 512,
    imm := if len = 2 then 0 else hi % 2 ^ 32,
    opc2 := if len = 4 then hi / 2 ^ 32 % 1024 else 0,
    extra := if len = 4 then hi / 2 ^ 42 % 128 else 0,
    flag := if len = 4 then hi / 2 ^ 49 % 16 else 15,
    quad := if len = 4 then hi / 2 ^ 53 % 128 else 0,
    brec := if len = 4 then hi / 2 ^ 60 % 16 else 0 }

/-- The bits of a word with these fields. -/
def Raw.bits (f : Raw) : Nat :=
  (match f.len with | 3 => 1 | 4 => 2 | _ => 0) + 4 * f.scope + 16 * f.mslot + 64 * f.opc + 2 ^ 14 * f.guard +
  2 ^ 18 * f.ginv + 2 ^ 19 * f.dst + 2 ^ 29 * f.a + 2 ^ 39 * f.b + 2 ^ 49 * f.ty + 2 ^ 55 * f.mod +
  (if f.len = 2 then 0 else 2 ^ 64 * f.imm) +
  (if f.len = 4 then 2 ^ 96 * f.opc2 + 2 ^ 106 * f.extra + 2 ^ 113 * f.flag + 2 ^ 117 * f.quad + 2 ^ 124 * f.brec
   else 0)

/-- R215. -/
def Header.ofBits (w : Nat) : Header :=
  { wait := w / 4 % 4096, seta := w / 2 ^ 14 % 16, setb := w / 2 ^ 18 % 16, length := w / 2 ^ 22 % 64,
    stall := w / 2 ^ 28 % 2 ^ 16, reuse := w / 2 ^ 44 % 256 }

/-- The bits of a clause header. -/
def Header.bits (h : Header) : Nat :=
  3 + 4 * h.wait + 2 ^ 14 * h.seta + 2 ^ 18 * h.setb + 2 ^ 22 * h.length + 2 ^ 28 * h.stall + 2 ^ 44 * h.reuse

/-- R223: the instruction of a major opcode and sub-operation. MOD[8:6] tells the forms of `cachectl` and `eret`
apart (R328, R345). -/
def instrOf (opc sub xmod : Nat) : Option (Ops → Instr) :=
  match opc, sub with
  | 0x00, 0 => some .add | 0x00, 1 => some .addc
  | 0x01, 0 => some .sub | 0x01, 1 => some .subb
  | 0x02, 0 => some .mul | 0x02, 1 => some .mulhi
  | 0x03, 0 => some .mad
  | 0x04, 0 => some .div | 0x04, 1 => some .rem
  | 0x05, 0 => some .min | 0x05, 1 => some .max
  | 0x06, 0 => some .abs | 0x06, 1 => some .neg
  | 0x07, 0 => some .and | 0x07, 1 => some .or | 0x07, 2 => some .xor | 0x07, 3 => some .andn | 0x07, 4 => some .not
  | 0x08, 0 => some .shl | 0x08, 1 => some .shr | 0x08, 2 => some .sar | 0x08, 3 => some .rot
  | 0x09, 0 => some .bfx | 0x09, 1 => some .bfi
  | 0x0A, 0 => some .popc | 0x0A, 1 => some .clz | 0x0A, 2 => some .brev
  | 0x0B, 0 => some .sel
  | 0x0C, 0 => some .mov | 0x0C, 1 => some .movi
  | 0x0D, 0 => some .cvt | 0x0E, 0 => some .lea
  | 0x20, 0 => some .fadd | 0x20, 1 => some .fsub
  | 0x21, 0 => some .fmul | 0x22, 0 => some .fma | 0x23, 0 => some .fdiv
  | 0x24, 0 => some .fmin | 0x24, 1 => some .fmax
  | 0x25, 0 => some .fabs | 0x25, 1 => some .fneg | 0x25, 2 => some .fsign
  | 0x26, 0 => some .frnd | 0x27, 0 => some .fscale
  | 0x28, 0 => some .fcvt | 0x28, 1 => some .f2i | 0x28, 2 => some .i2f
  | 0x29, 0 => some .fclass
  | 0x2A, 0 => some .rcp | 0x2A, 1 => some .rsq | 0x2A, 2 => some .sqrt | 0x2A, 3 => some .exp2
  | 0x2A, 4 => some .log2 | 0x2A, 5 => some .sinpi | 0x2A, 6 => some .cospi
  | 0x2B, 0 => some .srand
  | 0x40, 0 => some (.cmp .eq) | 0x40, 1 => some (.cmp .ne) | 0x40, 2 => some (.cmp .lt)
  | 0x40, 3 => some (.cmp .le) | 0x40, 4 => some (.cmp .gt) | 0x40, 5 => some (.cmp .ge)
  | 0x41, 0 => some (.fcmp .eq) | 0x41, 1 => some (.fcmp .ne) | 0x41, 2 => some (.fcmp .lt)
  | 0x41, 3 => some (.fcmp .le) | 0x41, 4 => some (.fcmp .gt) | 0x41, 5 => some (.fcmp .ge)
  | 0x41, 6 => some (.fcmp .ord)
  | 0x42, 0 => some (.fcmp .ueq) | 0x42, 1 => some (.fcmp .une) | 0x42, 2 => some (.fcmp .ult)
  | 0x42, 3 => some (.fcmp .ule) | 0x42, 4 => some (.fcmp .ugt) | 0x42, 5 => some (.fcmp .uge)
  | 0x42, 6 => some (.fcmp .uno)
  | 0x43, 0 => some .kand | 0x43, 1 => some .kor | 0x43, 2 => some .kxor | 0x43, 3 => some .kandn
  | 0x43, 4 => some .knot | 0x43, 5 => some .kmov
  | 0x44, 0 => some .kpop | 0x44, 1 => some .kfirst | 0x44, 2 => some .kany | 0x44, 3 => some .kall
  | 0x45, 0 => some .ballot
  | 0x50, 0 => some (.shfl .idx) | 0x50, 1 => some (.shfl .up) | 0x50, 2 => some (.shfl .down)
  | 0x50, 3 => some (.shfl .xor)
  | 0x51, 0 => some .bcast
  | 0x52, 0 => some (.red .sum) | 0x52, 1 => some (.red .min) | 0x52, 2 => some (.red .max)
  | 0x52, 3 => some (.red .and) | 0x52, 4 => some (.red .or) | 0x52, 5 => some (.red .xor)
  | 0x53, 0 => some (.scan .sum) | 0x53, 1 => some (.scan .min) | 0x53, 2 => some (.scan .max)
  | 0x53, 3 => some (.scan .and) | 0x53, 4 => some (.scan .or) | 0x53, 5 => some (.scan .xor)
  | 0x54, 0 => some (.sred .sum) | 0x54, 1 => some (.sred .min) | 0x54, 2 => some (.sred .max)
  | 0x54, 3 => some (.sred .and) | 0x54, 4 => some (.sred .or) | 0x54, 5 => some (.sred .xor)
  | 0x55, 0 => some .topk
  | 0x60, 0 => some .mld | 0x61, 0 => some .mst | 0x62, 0 => some .mshape | 0x63, 0 => some .mzero
  | 0x64, 0 => some .mid | 0x65, 0 => some .mget | 0x66, 0 => some .mput
  | 0x67, 0 => some .madd | 0x67, 1 => some .msub | 0x68, 0 => some .mscal
  | 0x69, 0 => some (.mmul .nn) | 0x69, 1 => some (.mmul .nt) | 0x69, 2 => some (.mmul .tn)
  | 0x6A, 0 => some (.mfma .nn) | 0x6A, 1 => some (.mfma .nt) | 0x6A, 2 => some (.mfma .tn)
  | 0x6B, 0 => some .mtrn | 0x6C, 0 => some .minv | 0x6D, 0 => some .mlu | 0x6E, 0 => some .mchol
  | 0x6F, 0 => some .msolve | 0x70, 0 => some .mpow | 0x71, 0 => some .mma
  | 0x72, 0 => some .mpack | 0x73, 0 => some .munpack
  | 0x80, 0 => some .ld | 0x81, 0 => some .st | 0x82, 0 => some .lds | 0x83, 0 => some .sts
  | 0x84, 0 => some .atomAdd | 0x84, 1 => some .atomFadd | 0x84, 2 => some .atomMin | 0x84, 3 => some .atomMax
  | 0x84, 4 => some .atomAnd | 0x84, 5 => some .atomOr | 0x84, 6 => some .atomXor | 0x84, 7 => some .atomXchg
  | 0x84, 8 => some .atomCas
  | 0x85, 0 => some .phaseRel | 0x85, 1 => some .phaseAcq | 0x85, 2 => some .phaseAr
  | 0x86, 0 => some (match xmod with | 1 => .cachectlPf2 | 2 => .cachectlInv | _ => .cachectlPf1)
  | 0x87, 0 => some .bankcfg
  | 0xA0, 0 => some .bcopy | 0xA0, 1 => some .bcopyMc | 0xA1, 0 => some .bput
  | 0xA2, 0 => some .bseal | 0xA3, 0 => some .bwait | 0xA4, 0 => some .bread | 0xA5, 0 => some .bjoin
  | 0xA6, 0 => some .rpush | 0xA7, 0 => some .rpop | 0xA8, 0 => some .palloc | 0xA9, 0 => some .pfree
  | 0xAA, 0 => some .xres
  | 0xB0, 0 => some (.bra .always) | 0xB0, 1 => some (.bra .any) | 0xB0, 2 => some (.bra .all)
  | 0xB0, 3 => some (.bra .none) | 0xB0, 4 => some (.bra .nz) | 0xB0, 5 => some (.bra .z)
  | 0xB1, 0 => some .loop | 0xB2, 0 => some .call | 0xB2, 1 => some .callInd | 0xB3, 0 => some .ret
  | 0xB4, 0 => some .retire | 0xB5, 0 => some .exit | 0xB6, 0 => some .region | 0xB7, 0 => some .sync
  | 0xB8, 0 => some .wait
  | 0xC0, 0 => some .nop | 0xC1, 0 => some .trap
  | 0xC2, 0 => some (match xmod with | 1 => .eretRetry | _ => .eret)
  | 0xC3, 0 => some .sread | 0xC3, 1 => some .swrite | 0xC4, 0 => some .brk | 0xC5, 0 => some .launch
  | 0xC6, 0 => some .fenceCode
  | _, _ => none

/-- The row of an instruction whatever its operands. (DEDUCED, log entry 12.) -/
def rowOf (mk : Ops → Instr) : Option Row :=
  (mk { len := 2, scope := .lane, mslot := 0, guard := 0, ginv := false, ty := .none, sty := .none, dst := .none,
        a := .none, b := .none, c := .none, rnd := 0, sat := false, hint := 0, xmod := 0, imm := 0, brec := 0,
        quad := 0, flag := 15, extra := 0 }).row

/-- R214, R223, R225: a 128-bit word holds an OPC2 that is no sub-operation of its opcode, whose 128-bit form lists none:
the sub-operation is looked at before the length and the other fields, those of `nop` too (R343).
(DEDUCED, log entry 12.) -/
def Raw.noSub (f : Raw) : Bool := decide (f.len = 4) && decide (f.opc2 ≠ 0) && !opc2Opcodes.contains f.opc

/-- R225 after the header test: the fate of an instruction's fields. (DEDUCED, log entry 12.) -/
def decodeRaw (c : Ctx) (f : Raw) : Decoded :=
  match if f.noSub then none else instrOf f.opc f.sub f.xmod with
  | none => .unimplemented
  | some mk =>
    match rowOf mk with
    | none => .unimplemented
    | some r =>
      if ¬ r.lens.contains f.len then .malformed 3
      else match r.faults c f with
        | [] => .instr (mk (r.opsOf f))
        | d => .malformed (leastDetail d)

/-- R225: the fate of the word at byte offset `off` of its 32-byte fetch block, whose bits (this word and the three
after it) are `w`. -/
def decodeAt (c : Ctx) (off w : Nat) : Decoded :=
  if off = 28 ∧ w % 2 ^ 32 = 0x3000 then .pad
  else if off + 4 * lengthOf w > 32 then .malformed 1
  else if w % 4 = 3 then
    let h := Header.ofBits w
    if w / 2 ^ 52 % 2 ^ 12 ≠ 0 ∨ (12 ≤ h.seta ∧ h.seta ≤ 14) ∨ (12 ≤ h.setb ∧ h.setb ≤ 14) then .malformed 2
    else .header h
  else decodeRaw c (.ofBits (lengthOf w) w)

/-- The fate of a word at the start of a fetch block, in the context that refuses nothing for want of a
declaration. -/
def decode (w : Nat) : Decoded := decodeAt .full 0 w

/-- The words of a well-formed instruction as one number, first word lowest (R202); 0 for a step of the part, which
has no word. -/
def encode (i : Instr) : Nat :=
  match i.row, i.ops with
  | some r, some o => (r.rawOf o).bits
  | _, _ => 0

/-- The instruction's length in bits; 0 for a step of the part. -/
def encodedBits (i : Instr) : Nat := match i.ops with | some o => 32 * o.len | none => 0

/-- The instruction that the decoder reads from a word numbered as spec/opcode_table.json numbers it. -/
def decodeTableWord (nbits w : Nat) : Option Instr :=
  match decode (w % 2 ^ nbits) with
  | .instr i => some i
  | _ => none

end Sys2Proof
end

