-- ==== Sys2Proof/Config.lean ====
section
/-! DEFINITION. What the spec leaves to the part: free values (no body, so nothing can evaluate them or prove a value
of them; DESIGN CHOICE, log entry 10) and the fixed figures of the part. -/

namespace Sys2Proof.Config

/-- Free value: what the part chooses where the spec leaves a choice open; the argument counts the choices made. -/
opaque choice : Nat → Nat

/-- Free value: the set of an L2 that a 256-byte line falls into, by its physical address ÷ 256 (R155). -/
opaque l2Set : Nat → Nat

/-- Free value: the entries that the compare buffers have room for (R469). -/
opaque compareEntries : Nat

/-- Free value: how many steps the part can take as it chooses before every step that it owes has its turn (R75, R76, R201). -/
opaque patience : Nat

/-- Free value: a `.b128` source that names an 8-bit immediate (R208 extends immediates to no such width). -/
opaque imm128 : Byte → BitVec 128

/-- Free value: the byte of a peer's memory at a physical address, by the step counter (R373, R375). -/
opaque peerByte : Nat → Nat → Byte

/-- Free value: the arrangement of the save area (R496): the byte at an offset, by the step counter. -/
opaque saveByte : Nat → Nat → Byte

/-- R133: for `.f64` `rsq`, `exp2`, `log2`, `sinpi` and `cospi`, whether the part returns the upper of the two values
that bracket the exact result, by function and source bits. -/
opaque upperBracket : Nat → DWord → Bool

/-- Free value: the device identity key, 1,312 bytes (R379). -/
opaque identityKey : Nat → Byte

/-- Free value: byte `i` of the ML-DSA-44 signature of a message by the device identity key (R380). -/
opaque signature : List Byte → Nat → Byte

/-- Free value: whether a firmware image carries a valid ML-DSA-44 signature under the fused public key (R377). -/
opaque imageVerifies : List Byte → Bool

/-- Free value: byte `i` of image `n` (0 scheduler, 1 memory controllers, 2 fabric) as the module flash holds it at
power-up, and how many bytes it has (R377). -/
opaque flashByte : Nat → Nat → Byte
opaque flashSize : Nat → Nat

/-- Free value: what the tests of a start find that a write of MB_CMD commands (R376, R378), by the step counter. -/
opaque startReport : Nat → StartReport

/-- R372, R488: the number of cores, dies, links and queues (R8, R78, R373). -/
def cores : Nat := 400
def dies : Nat := 4
def links : Nat := 8
def queues : Nat := 64
def contexts : Nat := 4

/-- R156: local frames of a die end here. -/
def dieBytes : Nat := 96 * 2 ^ 30
/-- R156: PA[45] tells a remote window. -/
def remoteBit : Nat := 2 ^ 45

end Sys2Proof.Config
end

