-- ==== Sys2Proof/Machine/Assoc.lean ====
section
/-! DEFINITION. Finite maps from numbers as plain data: lists of pairs with strictly rising keys. `get` and `set`
read and write a map whose unlisted keys hold a default, which is never listed, so that equal maps are equal lists;
`find`, `put` and `del` treat an unlisted key as absent. -/

namespace Sys2Proof

/-- A finite map from numbers. -/
abbrev NMap (β : Type) := List (Nat × β)

namespace NMap

variable {β : Type}

/-- The entry of a key. -/
def find (m : NMap β) (k : Nat) : Option β :=
  match m with
  | [] => none
  | (a, v) :: r => if k = a then some v else if k < a then none else find r k

/-- The map with `k` holding `v`. -/
def put (m : NMap β) (k : Nat) (v : β) : NMap β :=
  match m with
  | [] => [(k, v)]
  | (a, w) :: r => if k = a then (k, v) :: r else if k < a then (k, v) :: (a, w) :: r else (a, w) :: put r k v

/-- The map without `k`. -/
def del (m : NMap β) (k : Nat) : NMap β :=
  match m with
  | [] => []
  | (a, w) :: r => if k = a then r else if k < a then (a, w) :: r else (a, w) :: del r k

/-- What a key holds, `d` when it is not listed. -/
def get (d : β) (m : NMap β) (k : Nat) : β := (find m k).getD d

/-- The map with `k` holding `v`, where unlisted keys hold `d`. -/
def set [DecidableEq β] (d : β) (m : NMap β) (k : Nat) (v : β) : NMap β := if v = d then del m k else put m k v

/-- Keys strictly above `lo`, rising. -/
def above (lo : Nat) : NMap β → Bool
  | [] => true
  | (a, _) :: r => decide (lo < a) && above a r

/-- Keys strictly rising. -/
def sorted : NMap β → Bool
  | [] => true
  | (a, _) :: r => above a r

/-- The canonical form of a map whose unlisted keys hold `d`. -/
def wf [DecidableEq β] (d : β) (m : NMap β) : Bool := sorted m && m.all (fun p => !decide (p.2 = d))

/-- The map without the keys below `lo` or at or above `hi`. -/
def slice (m : NMap β) (lo hi : Nat) : NMap β := m.filter (fun p => decide (lo ≤ p.1) && decide (p.1 < hi))

/-- The map without the keys from `lo` up to `hi`. -/
def cut (m : NMap β) (lo hi : Nat) : NMap β := m.filter (fun p => !(decide (lo ≤ p.1) && decide (p.1 < hi)))

/-- Writes a list of values at rising keys. -/
def setAll [DecidableEq β] (d : β) (m : NMap β) : List (Nat × β) → NMap β
  | [] => m
  | (k, v) :: r => setAll d (set d m k v) r

end NMap

end Sys2Proof
end

