-- ==== Sys2Proof/Machine/State.lean ====
section
/-! DEFINITION. The state of the machine as plain data: everything the spec gives it, and the state right after
reset. -/

namespace Sys2Proof.Machine

/-! ### Registers of a warp or sprout -/

/-- A register of a warp. -/
inductive RegId | v (n : Nat) | s (n : Nat) | k (n : Nat) | m (n : Nat)
  deriving DecidableEq, Repr

/-- One value to be written into a register (R220): a lane of a vector, a scalar, a mask whole, some lanes of a mask
(R293), or a lane of a matrix with its shape tag, of which the first `bits` bits are written (R284). -/
inductive RegVal
  | v (n lane : Nat) (w : Word)
  | s (n : Nat) (w : Word)
  | k (n : Nat) (w : DWord)
  | kl (n : Nat) (lanes w : DWord)
  | m (n lane : Nat) (tag : Half) (bits : Nat) (words : List Word)
  deriving DecidableEq, Repr

/-- The registers of a warp or sprout (R98). -/
structure Regs where
  /-- vector registers: register `n`, lane `l` at key 64 n + l -/
  v       : NMap Word
  s       : NMap Word
  k       : NMap DWord
  /-- matrix registers: word `w` of lane `l` of register `n` at key (64 n + l) 64 + w -/
  m       : NMap Word
  /-- shape tags (R104): register `n`, lane `l` at key 64 n + l -/
  tag     : NMap Half
  /-- the lanes' stochastic generators (R122) -/
  gen     : NMap Word
  /-- `rand_seed` (R110) -/
  seed    : Word
  /-- `fpmode` (R111) -/
  fpmode  : Word
  /-- the held entries of the return-address stack, newest first (R108) -/
  ras     : List DWord
  /-- depth of the return-address stack, held and spilled -/
  depth   : Nat
  /-- R479: words of vector registers whose stored bits were inverted: register, lane, whether two bits were -/
  flawed  : List (Nat × Nat × Bool) := []
  deriving DecidableEq, Repr

/-- The trap registers (R109, R401). -/
structure TrapRegs where
  pc    : DWord
  cause : Word
  word0 : Word
  word1 : Word
  word2 : Word
  word3 : Word
  mask  : DWord
  deriving DecidableEq, Repr

/-- A trap that is to be taken (R398 to R401). -/
structure Trap where
  cause   : Nat
  detail  : Nat
  mask    : DWord
  pc      : Nat
  word0   : Word
  word1   : Word
  word2   : Word
  word3   : Word
  setwide : Bool
  /-- the faulting address, for the record (R394) -/
  addr    : Option Nat
  /-- the trap names the instruction that the warp would issue next (R411) -/
  next    : Bool
  /-- R418, R436: the flag whose failures the trap reports, which are behind it until the trap is taken (R428) -/
  flag    : Option Nat := none
  deriving DecidableEq, Repr

/-- R69: the burst registers. -/
structure BurstRegs where
  index : Word
  row   : Word
  col   : Word
  bytes : Word
  last  : Word
  deriving DecidableEq, Repr

/-- R109, R339: `ring_head`, `ring_tail` and `ring_free`, as the last `rpush` or `rpop` left them. -/
structure RingRegs where
  head : Word
  tail : Word
  free : Word
  deriving DecidableEq, Repr

/-- The region a warp is in (R60, R61): what a restart needs (R64). -/
structure Region where
  /-- address of the region's start -/
  start : Nat
  /-- ordinal of the region, from 0 -/
  num   : Nat
  /-- it was opened by a `region`, whose word is its start; a restart re-executes that word (R275) -/
  named : Bool
  /-- a restart has gone back to that word and it has not been executed since -/
  again : Bool
  /-- `k0` as of the region start (R274) -/
  k0    : DWord
  /-- live-in registers, one bit a register -/
  liveV : BitVec 256
  liveS : BitVec 128
  liveK : BitVec 16
  liveM : BitVec 16
  /-- registers written since the region began -/
  newV  : BitVec 256
  newS  : BitVec 128
  newK  : BitVec 16
  newM  : BitVec 16
  /-- generators and `rand_seed` as of the region start (R64) -/
  gen   : NMap Word
  seed  : Word
  /-- the cycle in which the region began (R92) -/
  since : Nat
  deriving DecidableEq, Repr

/-- The clause in force (R215 to R217). -/
structure Clause where
  wait : Nat
  seta : Nat
  setb : Nat
  /-- words that the header still covers -/
  left : Nat
  /-- the STALL field, and how many of the clause's instructions have issued -/
  stall  : Nat
  issued : Nat
  /-- no variable-latency instruction of the clause has issued -/
  fresh : Bool
  /-- the WAIT flags have been found clear -/
  passed : Bool
  /-- the operations for which this clause has set its flags busy (R217) -/
  ops    : List Nat
  deriving DecidableEq, Repr

/-- Results of an issued instruction that are not yet written (R219, R220). -/
structure Pending where
  op    : Nat
  vals  : List RegVal
  /-- the destination of a lane-scope comparison, a mask or a scalar, that the scalar side does not see yet, and its
  value there (R219) -/
  stale : Option (RegId × DWord)
  /-- the values are known; false while an atomic, a logged access or a ring instruction is under way -/
  known : Bool
  /-- registers that the instruction will write -/
  regs  : List RegId
  /-- the region that issued it: a restart of a later one does not discard it (R63, R64) -/
  region : Nat
  deriving DecidableEq, Repr

/-- A failure that the next `bwait` or `bjoin` on a flag raises (R418, R436). -/
structure FlagFault where
  /-- 15 is the open batch (R331) -/
  flag  : Nat
  cause : Nat
  detail : Nat
  word2 : Word
  word3 : Word
  /-- the region that issued the command, and that of the `bseal` that closed its batch (R64) -/
  region  : Nat
  sealing : Option Nat
  deriving DecidableEq, Repr

/-- R335: a destination line of a command that has completed behind a flag. -/
structure FlagDest where
  flag    : Nat
  line    : Nat
  region  : Nat
  sealing : Option Nat
  deriving DecidableEq, Repr

/-- Where the data of a load goes (R319, R287). -/
inductive MemDest
  | none
  /-- a register operand of a type -/
  | reg (ty : Ty) (d : Opd)
  /-- a matrix register; lane, rows and columns of each lane -/
  | matrix (n : Nat) (ty : Ty) (shapes : List (Nat × Nat × Nat))
  deriving DecidableEq, Repr

/-- One element access of one lane (R146, R289). -/
structure Access where
  lane : Nat
  /-- element number within the lane, 0 but for `mld` and `mst` -/
  elem : Nat
  /-- virtual address; none when the lane is out of bounds and reads zero or writes nothing (R144) -/
  va   : Option Nat
  /-- bytes -/
  w    : Nat
  /-- bytes to store; empty in a load -/
  data : List Byte
  /-- for an element narrower than a byte, the low bit of its place in the byte (R288) -/
  bit  : Nat
  /-- R146, R149: where the upper 8 of 16 bytes are; none: after the lower 8 -/
  half : Option Nat := none
  deriving DecidableEq, Repr

/-- A virtual line that waits on the host (R414, R436, R437). -/
structure Waiting where
  line  : Nat
  /-- the first byte of the access in the line -/
  va    : Nat
  write : Bool
  /-- the cause it has if the host cannot resolve it -/
  cause : Nat
  /-- SD_GEN when it began to wait (R449) -/
  gen   : Nat
  /-- the host has answered `retry`, and it waits for its replay (R448) -/
  told  : Bool
  deriving DecidableEq, Repr

/-- An entry of the operand log (R414). -/
structure LogEntry where
  op     : Nat
  pc     : Nat
  write  : Bool
  /-- an atomic: its lanes wait in the atomic's request -/
  atomic : Bool
  acc    : List Access
  /-- bytes gathered so far, by virtual address -/
  got    : NMap Byte
  dest   : MemDest
  /-- the lines that wait on the host -/
  lines  : List Waiting
  epoch  : Nat
  /-- the region that issued it (R416) -/
  region : Nat
  /-- an access held back behind a waiting one (R167): the addresses of its lines, virtual and physical; it waits on
  no page -/
  held   : Option (List (Nat × Nat))
  hint   : Nat
  /-- in a paired launch, the entry numbers of a store's virtual lines (R470) -/
  nums   : List (Nat × Nat)
  deriving DecidableEq, Repr

/-- What keeps a warp from issuing (R92). -/
inductive WaitOn
  | ready
  /-- stalled in a rendezvous of a set, by number, or of the block (256) (R52) -/
  | rendezvous (set : Nat)
  /-- waiting on a flag, a result, a queue or an owned line: it is tried again at each choice -/
  | stalled
  /-- waiting on a ring or `xres` (R338) -/
  | pipe
  /-- waiting on the page pool (R341) -/
  | pool
  /-- waiting for the compare buffer (R473) -/
  | full
  deriving DecidableEq, Repr

/-- A byte that a copy of a paired launch has stored and that has not been committed (R469). -/
structure PendByte where
  entry : Nat
  pa    : Nat
  byte  : Byte
  /-- an error in it that cannot be corrected: the DETAIL of a read that meets it (R466) -/
  bad   : Option Nat := none
  deriving DecidableEq, Repr

/-- R470: what an entry of the compare buffer performs when it commits. -/
inductive EntryWork
  /-- bytes of one line, by offset; the line's virtual address -/
  | store (va : Nat) (bytes : NMap Byte)
  /-- an atomic request -/
  | atomic (req : Nat)
  | bulk (cmd : Nat)
  /-- a ring, pool or residency instruction (R354) -/
  | pipe (op : Nat)
  deriving DecidableEq, Repr

/-- R470: an entry of a copy of a warp. -/
structure Entry where
  num    : Nat
  region : Nat
  /-- line address -/
  pa     : Nat
  sig    : DWord
  work   : EntryWork
  /-- QEPOCH at its issue (R182) -/
  epoch  : Nat
  /-- an error in it has been found that cannot be corrected (R466) -/
  bad    : Bool := false
  deriving DecidableEq, Repr

/-- R471: the state that a copy records at a region boundary. -/
structure Checkpoint where
  region : Region
  regs   : Regs
  /-- the boundary signature of the boundary that opened the region -/
  sig    : DWord
  /-- the number of its first entry -/
  first  : Nat
  deriving DecidableEq, Repr

/-- R469 to R476: what a copy of a paired warp keeps. -/
structure PairState where
  /-- the thread of the other copy -/
  peer      : Nat
  leading   : Bool
  entries   : List Entry
  nextEntry : Nat
  /-- how many of the numbers below `nextEntry` are of entries that have committed or are gone (R473) -/
  settled   : Nat
  /-- the first number after the last committed entry (R481) -/
  after     : Nat
  bytes     : List PendByte
  /-- checkpoints of the regions from the oldest uncommitted one on, oldest first -/
  checks    : List Checkpoint
  /-- rollbacks in a row to the same region start -/
  rollbacks : Nat
  /-- the copy has reached `exit`: the signature there (R481) -/
  exit      : Option DWord
  deriving DecidableEq, Repr

/-- A scope of a phase step (R166). -/
inductive PhaseScope | core | die | package | system
  deriving DecidableEq, Repr

/-- A warp, or a sprout of a `bread`. -/
inductive Role
  | warp (id : Nat)
  | sprout (bread burst : Nat)
  deriving DecidableEq, Repr

/-- A warp or a sprout (R35). -/
structure Thread where
  block   : Nat
  role    : Role
  /-- W: 16, 32 or 64 (R36) -/
  width   : Nat
  /-- quadrant, issue slot and first port that it holds (R40), and its warp entry or sprout slot (R92) -/
  quad    : Nat
  slot    : Nat
  port    : Nat
  entry   : Nat
  regs    : Regs
  /-- the program counter (R38) -/
  pc      : Nat
  burst   : BurstRegs
  ring    : RingRegs
  trap    : TrapRegs
  /-- `inject_ctl` (R478) and the region number in which it was armed -/
  inject  : Word
  injectAt : Nat
  /-- R479: the lane whose first checker result of a vector write in a region is wrong, and that region -/
  checkErr : Option (Nat × Nat)
  /-- handler mode (R402) -/
  handler : Bool
  /-- a trap held back while earlier instructions drain (R398) -/
  held    : Option Trap
  /-- a set-wide trap that waits for `eret` (R412) -/
  later   : Option Trap
  wait    : WaitOn
  /-- a restart that waits for the results of committed boundaries (R63) -/
  restarts : Bool
  /-- how many retirements of the core its datapaths have taken (R13, R460) -/
  reached : Nat
  /-- idle cycles that a STALL hint leaves (R215) -/
  idle    : Nat
  /-- the fetch block that it issues from: its address ÷ 32, its words, and whether one of them has issued (R184) -/
  fetched : Option (Nat × List Word × Bool)
  region  : Region
  /-- the clause in force; none: interlocked until the next header (R216) -/
  clause  : Option Clause
  pend    : List Pending
  /-- the operations that keep each flag busy (R106): flag, operation -/
  flags   : List (Nat × Nat)
  faults  : List FlagFault
  /-- R335: destination lines of completed commands behind each flag -/
  dests   : List FlagDest
  /-- the commands of the open batch (R331) -/
  batch   : List Nat
  log     : List LogEntry
  /-- the page that a fetch waits on, and the cause it has if the host cannot resolve it (R439) -/
  fetchWait : Option (Nat × Nat)
  /-- the page that a spill of the return-address stack waits on, and its cause (R409) -/
  spillWait : Option (Nat × Nat)
  /-- R409, R415: the host has answered the page fault of a spill, and the access that replays it is still to come -/
  spillAgain : Bool
  /-- R182: the epoch of that spill access -/
  spillEpoch : Nat
  /-- R167, R417: the cause with which a sprout retires once the accesses that a failing one held back are performed -/
  leaving   : Option Nat
  /-- R491: virtual lines whose next remote read meets an error response -/
  refused   : List Nat
  /-- R175: a phase whose release waits for the commit of earlier stores: whether it releases and acquires, its
  scope, and the region that it closed -/
  phase   : Option (Bool × Bool × PhaseScope × Nat)
  /-- times skipped in a row (R92) -/
  skips   : Nat
  /-- the cycle in which it was created -/
  born    : Nat
  ended   : Bool
  halted  : Bool
  pair    : Option PairState
  deriving DecidableEq, Repr

/-! ### Pipelines -/

/-- A ring (R351, R356). -/
structure Ring where
  consumer : Nat
  bank     : Nat
  /-- the expert of a buffer ring -/
  expert   : Option Nat
  slots    : Nat
  head     : Word
  tail     : Word
  /-- word `l` of slot `c` at key 64 c + l -/
  data     : NMap Word
  /-- poisoned 64-byte parts, by key ÷ 16 (R466) -/
  bad      : List Nat := []
  deriving DecidableEq, Repr

/-- An `xres` that waits (R366). -/
structure XresWait where
  tid    : Nat
  op     : Nat
  pc     : Nat
  words  : List Word
  expert : Nat
  dst    : Opd
  /-- the slot it will get and whether it started the move; none: not served yet -/
  slot   : Option (Nat × Bool)
  /-- its expert's counter has risen (R366) -/
  counted : Bool
  /-- in a paired launch, the trailing copy's thread and operation -/
  twin   : Option (Nat × Nat)
  deriving DecidableEq, Repr

/-- R338: what a ring, pool or residency instruction does to its context. -/
inductive PipeWork
  | push (ring : Nat) (words : List Word)
  | pop (ring : Nat) (dst : Opd) (lanes : DWord)
  | alloc (dst : Opd)
  | free (page : Nat)
  | xres (expert : Nat) (dst : Opd)
  deriving DecidableEq, Repr

/-- R354: an instruction of a paired copy that waits for its commit. -/
structure PipeOp where
  op    : Nat
  tid   : Nat
  pc    : Nat
  words : List Word
  work  : PipeWork
  deriving DecidableEq, Repr

/-- A pipeline context (R353). -/
structure PipeCtx where
  launch    : Nat
  rings     : List Ring
  experts   : List (Nat × Nat)
  poolBase  : Nat
  poolPages : Nat
  /-- free pages, oldest first; the open list, in allocation order (R360) -/
  free      : List Nat
  opened    : List Nat
  forceWait : Nat
  /-- cycles the conditions of R363 have held together -/
  waited    : Nat
  /-- cycles every live warp has waited (R486) -/
  stalled   : Nat
  reported  : Bool
  xdie      : Nat
  xcount    : Nat
  xfirst    : Nat
  xframes   : Nat
  /-- frequency counters (R365) -/
  counters  : NMap Nat
  /-- expert slots and the experts they hold -/
  holds     : NMap Nat
  /-- slots being moved: slot, new expert, frames still to move -/
  moving    : List (Nat × Nat × Nat)
  xres      : List XresWait
  /-- moves in this ageing period, and whether R487's record has been written -/
  moves     : Nat
  thrashed  : Bool
  deriving DecidableEq, Repr

/-! ### Code objects, launches and blocks -/

/-- A row of the group table (R42). -/
structure Group where
  num  : Nat
  base : Nat
  mask : Word
  deriving DecidableEq, Repr

/-- An entry of the region table (R232). -/
structure RegionMasks where
  v : BitVec 256
  s : BitVec 128
  k : BitVec 16
  m : BitVec 16
  deriving DecidableEq, Repr

/-- A loaded code object (R231, R232). Addresses are virtual. -/
structure CodeObj where
  base        : Nat
  width       : Nat
  warps       : Nat
  vregs       : Nat
  sregs       : Nat
  kregs       : Nat
  /-- capacity and format of `m0` to `m15` -/
  caps        : List Nat
  fmts        : List Nat
  fpmode      : Word
  scratch     : Nat
  cacheBanks  : Nat
  scratchBanks : Nat
  fifoBanks   : Nat
  params      : Nat
  reserve     : Nat
  saveSize    : Nat
  entry       : Nat
  groups      : List Group
  handlers    : List Nat
  /-- cause, handler address -/
  traps       : List (Nat × Nat)
  regions     : List RegionMasks
  restartable : Bool
  paired      : Bool
  interlocked : Bool
  stepping    : Nat
  /-- errata that the object relies on (R230) -/
  errata      : DWord
  deriving DecidableEq, Repr

/-- R81: a launch record. -/
structure LaunchRecord where
  code       : Nat
  blocks     : Nat
  interlocked : Bool
  pipeline   : Bool
  paired     : Bool
  restartable : Bool
  dieHint    : Nat
  prio       : Nat
  width      : Nat
  warps      : Nat
  tag        : Word
  producer   : Word
  mapA       : Int
  mapC       : Int
  mapN       : Nat
  tileEpoch  : Word
  tileFlags  : Nat
  tileCount  : Nat
  tileBytes  : Nat
  tileData   : Nat
  save       : Nat
  saveStride : Nat
  spill      : Nat
  spillStride : Nat
  errlog     : Nat
  completion : Nat
  deriving DecidableEq, Repr

/-- An open rendezvous (R52). -/
structure Rendezvous where
  /-- set number; 256 for the block -/
  set     : Nat
  addr    : Nat
  instr   : Instr
  words   : List Word
  /-- the threads that have arrived -/
  arrived : List Nat
  deriving DecidableEq, Repr

/-- The copies of a block (R469). -/
inductive Copy | only | leading | trailing
  deriving DecidableEq, Repr

/-- A block (R35). -/
structure Block where
  launch   : Nat
  /-- `block_id` -/
  id       : Nat
  copy     : Copy
  /-- the other copy's block, for a paired launch -/
  other    : Option Nat
  core     : Nat
  /-- the cycle in which it was placed (R94) -/
  since    : Nat
  /-- its warps in ascending `warp_id` -/
  warps    : List Nat
  scratch  : NMap Byte
  /-- poisoned 64-byte parts of scratch, by offset ÷ 64 (R466) -/
  badRows  : List Nat := []
  windows  : Nat
  /-- the most windows it has had (R442) -/
  maxWindows : Nat
  cacheCount : Nat
  fifoBanks  : Nat
  rends    : List Rendezvous
  /-- abandoned marks (R421): set numbers, 256 for the block -/
  abandoned : List Nat
  failed   : Bool
  /-- a conversion that waits (R153): its code, its status register, and the threads and operations that wait for it -/
  switch   : Option (Nat × Opd × List (Nat × Nat))
  /-- stopping for pre-emption or abort (R95, R423) -/
  stopping : Bool
  deriving DecidableEq, Repr

/-- The saved state of a pre-empted block (R96). -/
structure SavedBlock where
  block : Block
  warps : List Thread
  deriving DecidableEq, Repr

/-- A launch that has been taken (R83). -/
structure Launch where
  queue    : Nat
  recd     : LaunchRecord
  obj      : CodeObj
  /-- effective flags (R82) -/
  paired   : Bool
  restartable : Bool
  interlocked : Bool
  /-- the pipeline context it holds (R353) -/
  ctx      : Option Nat
  /-- what its descriptor and tables give, for a pipeline launch (R349 to R351) -/
  plan     : Option PipeCtx
  /-- submitted by a `launch` (R347) -/
  device   : Bool
  /-- `block_id`s not yet placed -/
  waiting  : List Nat
  saved    : List SavedBlock
  /-- how many `block_id`s have ended -/
  done     : Nat
  /-- some block has failed (R420) -/
  failed   : Bool
  /-- places no further block and ends with this status and detail (R84, R88) -/
  ending   : Option (Nat × Nat)
  /-- being aborted (R423): the detail -/
  aborting : Option Nat
  /-- offsets of the record's address fields whose failure has been recorded (R497) -/
  unusable : List Nat
  deriving DecidableEq, Repr

/-! ### Memory near the cores -/

/-- A 64-byte line of an L1 (R154) -/
structure Line where
  /-- line address -/
  pa     : Nat
  /-- virtual line address of the last store -/
  va     : Nat
  /-- bytes by offset; a byte that is dirty too has its dirty value -/
  filled : NMap Byte
  dirty  : NMap Byte
  /-- R155: 0 pseudo-LRU, 2 next victim, 3 kept -/
  hint   : Nat
  /-- epoch of the oldest dirty byte (R182) -/
  epoch  : Nat
  /-- poisoned (R466) -/
  bad    : Bool := false
  deriving DecidableEq, Repr

/-- A line of a staging area (R168). -/
structure Staged where
  pa    : Nat
  va    : Nat
  dirty : NMap Byte
  epoch : Nat
  /-- poisoned (R466) -/
  bad   : Bool := false
  /-- the DETAIL of a read that meets the poison (R442): 2, or 4 when a lost cache way brought it here (R455) -/
  mark  : Nat := 2
  deriving DecidableEq, Repr

/-- An entry of a TLB (R162). -/
structure TlbEntry where
  va   : Nat
  size : Nat
  pa   : Nat
  r    : Bool
  w    : Bool
  x    : Bool
  /-- SD_GEN when its walk ended (R449) -/
  gen  : Nat
  deriving DecidableEq, Repr

/-- A core (R14). -/
structure Core where
  l1     : List Line
  staged : List Staged
  tlb    : List TlbEntry
  /-- the instruction cache: fetch blocks by physical address ÷ 32 -/
  icache : NMap (List Word)
  /-- mismatch counts: slot (0 to 7) × 64 + position (R459) -/
  counts : NMap Nat
  /-- retired positions, slot × 64 + position, with whether a spare has taken the place -/
  retired : List (Nat × Bool)
  /-- ports closed to placement: slot × 4 + port (R461) -/
  closed : List Nat
  /-- spared out at start (R493) -/
  spared : Bool
  /-- remote lines whose next write-back meets an error response (R491) -/
  refused : List Nat
  deriving DecidableEq, Repr

/-- A migration (R158). -/
structure Migration where
  frame  : Nat
  /-- the near-memory slot; none: back to GDDR-7 -/
  slot   : Option Nat
  /-- lines moved, of 256 -/
  moved  : Nat
  /-- the pipeline context that started it, for `xres` -/
  ctx    : Option Nat
  deriving DecidableEq, Repr

/-- A walk under way (R163). -/
structure Walk where
  core   : Nat
  va     : Nat
  stamp  : Nat
  epoch  : Nat
  result : Option TlbEntry
  deriving DecidableEq, Repr

/-- A die's memory side and its registers. -/
structure Die where
  /-- 256-byte lines that the L2 holds, by physical address ÷ 256, each with its cache hint (R155) -/
  l2       : List (Nat × Nat)
  tlb      : List TlbEntry
  walks    : List Walk
  /-- TIER_SPLIT (R159) -/
  l2Units  : Nat
  refused  : Bool
  /-- MIG_FRAME, MIG_STATUS -/
  migFrame : Nat
  migs     : List Migration
  result   : Nat
  /-- near-memory slots and the frames they serve -/
  slots    : NMap Nat
  /-- the error log ring (R372) -/
  elogLo   : Word
  elogHi   : Word
  elogSize : Nat
  elogHead : Word
  elogTail : Word
  lost     : Word
  /-- R468 -/
  ceReg    : Word
  ceMem    : Word
  mismatch : Word
  retired  : Word
  rollbacks : Word
  deriving DecidableEq, Repr

/-! ### Work under way outside the warps -/

/-- A lane of an atomic that is yet to be performed. -/
structure AtomLane where
  lane : Nat
  va   : Nat
  /-- none while the translation waits on the host -/
  pa   : Option Nat
  arg  : DWord
  /-- a_new of `.cas` -/
  arg2 : DWord
  /-- its page was answered by the host: a data error that it meets is final (R415) -/
  late : Bool := false
  deriving DecidableEq, Repr

/-- An atomic on its way to its home slices (R176). -/
structure AtomReq where
  op     : Nat
  tid    : Nat
  block  : Nat
  core   : Nat
  pc     : Nat
  words  : List Word
  kind   : AtomOp
  ty     : Ty
  /-- the ordering qualifier (R224) -/
  extra  : Nat
  sat    : Bool
  fpmode : Word
  lanes  : List AtomLane
  /-- old values -/
  got    : List (Nat × DWord)
  /-- lanes that met a data error: lane, DETAIL, virtual address (R452) -/
  bad    : List (Nat × Nat × Nat)
  /-- where the old value goes; none when it is not returned -/
  dest   : Option Opd
  /-- R441: made once for the warp: the lanes that pass `k0` and the guard -/
  once   : Option DWord
  /-- the acquire that follows (R177) -/
  acq    : Option PhaseScope
  /-- the bread of the sprout that issued it (R181), and the number of the burst -/
  bread  : Option Nat
  burst  : Nat := 0
  epoch  : Nat
  /-- not before the region commits, in a paired launch (R474) -/
  gated  : Bool
  /-- the trailing copy's request, which takes the same old values (R474) -/
  twin   : Option Nat
  /-- R155: the cache hint of its lines in the L2 -/
  hint   : Nat
  deriving DecidableEq, Repr

/-- A place a bulk command reads or writes a byte of. -/
inductive Place
  | global (va : Nat)
  | scratch (off : Nat)
  /-- a byte that BOUNDS fills with zero -/
  | zero
  deriving DecidableEq, Repr

/-- One byte that a bulk command writes: where, from where, and the source's value at issue (R180, R332); none while an
earlier command has yet to write the source (R179) or its line has not been translated. -/
structure ByteMove where
  dst : Place
  src : Place
  old : Option Byte
  deriving DecidableEq, Repr

/-- A `bcopy` or `bput` under way (R331). -/
structure BulkCmd where
  tid   : Nat
  block : Nat
  core  : Nat
  op    : Nat
  pc    : Nat
  flag  : Option Nat
  moves : List ByteMove
  /-- the lines that have been translated, virtual and physical -/
  map   : List (Nat × Nat)
  /-- destination lines and scratch rows that it owns (R179): address ÷ 64 -/
  lines : List Nat
  rows  : List Nat
  /-- lines of its ends that wait on the host -/
  waits : List Waiting
  /-- the failure that will end it (R436): cause, detail, virtual address -/
  fail  : Option (Nat × Nat × Nat)
  epoch : Nat
  /-- the region that issued it (R107), and that of the `bseal` that closed its batch (R335) -/
  region : Nat
  sealing : Option Nat
  /-- its entry number in a paired launch (R470) -/
  num   : Nat
  /-- in a paired launch, not before the region commits -/
  gated : Bool
  /-- the trailing copy's command writes nothing (R475) -/
  dry   : Bool
  /-- R333: it reads each source byte once -/
  once  : Bool
  /-- R155: the cache hint of the destination lines in the L2 -/
  hint  : Nat
  deriving DecidableEq, Repr

/-- R67, R336: a burst of a `bread`. -/
inductive BurstState
  | unread
  /-- read; waits for a sprout slot -/
  | waiting (data : List Byte)
  | running
  | retired
  deriving DecidableEq, Repr

/-- R69, R336: a burst and where its bytes come from: virtual addresses, none for a zero-filled byte. -/
structure Burst where
  row   : Nat
  col   : Nat
  last  : Bool
  bytes : List (Option Nat)
  state : BurstState
  /-- the lines that wait on the host -/
  waits : List Waiting
  deriving DecidableEq, Repr

/-- A `bread` under way (R336). -/
structure Bread where
  tid     : Nat
  block   : Nat
  core    : Nat
  op      : Nat
  pc      : Nat
  flag    : Nat
  handler : Nat
  bursts  : List Burst
  /-- `sP` to `sP+15`, `fpmode` and `rand_seed` of the issuing warp (R68) -/
  params  : List Word
  fpmode  : Word
  seed    : Word
  quad    : Nat
  slot    : Nat
  /-- R155: the cache hint of the source lines -/
  hint    : Nat
  /-- the first burst to retire faulted and its cause (R418) -/
  failed  : Option (Nat × Nat)
  epoch   : Nat
  /-- the region of the issuing warp that it closes (R475) -/
  region  : Nat
  /-- entries of its sprouts that have ended, in a paired launch: burst, entry -/
  done    : List (Nat × Entry)
  /-- their pending bytes (R469): burst, byte -/
  left    : List (Nat × PendByte)
  deriving DecidableEq, Repr

/-! ### Error records -/

/-- R394: an error record. -/
structure ErrRec where
  code     : Nat
  step     : Nat := 0
  source   : Nat
  physical : Bool := false
  nested   : Bool := false
  paired   : Bool := false
  setwide  : Bool := false
  /-- the faulting address, when ADDR holds one -/
  addr     : Option Nat := none
  /-- what ADDR holds when it holds no address -/
  info     : Nat := 0
  core     : Nat := 0xFFFF
  warp     : Nat := 0xFF
  lane     : Nat := 0xFF
  tag      : Nat := 0
  block    : Nat := 0xFFFFFFFF
  pc       : Nat := 0
  deriving DecidableEq, Repr

/-- Where a record goes: the ring of a die (R372), or that of a launch, by its base (R396). -/
inductive RecDest
  | die (d : Nat)
  | launch (l base : Nat)
  deriving DecidableEq, Repr

/-! ### The package's registers -/

/-- A launch queue (R78), its descriptor register (R349) and device-side places (R93). -/
structure Queue where
  base   : Nat
  enable : Bool
  size   : Nat
  head   : Word
  tail   : Word
  pdesc  : Nat
  /-- records submitted by `launch`: 32 words each -/
  places : List (List Word)
  deriving DecidableEq, Repr

/-- Translation, quarantine and page-fault registers (R164, R182, R448). -/
structure Xlat where
  ptRoot   : Nat
  sdVa     : Nat
  sdPages  : Word
  sdGen    : Nat
  sdDone   : Nat
  /-- shootdowns under way, oldest first -/
  shoots   : List Nat
  qfFrame  : Nat
  /-- first frame, count, epoch tag, cycle of the push -/
  qf       : List (Nat × Nat × Nat × Nat)
  overrun  : Bool
  pushed   : Word
  released : Word
  qepoch   : Nat
  route    : Bool
  pfVa     : Nat
  deriving DecidableEq, Repr

/-- R374, R490: a Nertu link. -/
structure Link where
  inFrame  : Nat
  inFrames : Word
  up       : Bool
  /-- LINK.RATE -/
  rate     : Nat
  deriving DecidableEq, Repr

/-- The mailbox (R378). -/
structure Mailbox where
  cmd     : Byte
  busy    : Bool
  overrun : Bool
  result  : Nat
  len     : Word
  /-- the data buffer, by offset from 0x100 -/
  buf     : NMap Byte
  /-- the result, length and bytes that the running command will leave -/
  out     : Nat × Word × List Byte
  /-- R379: a restart waits for the launches that it aborts: what the tests of its start find -/
  restart : Option StartReport := none
  deriving DecidableEq, Repr

/-- R492: an entry of the start log. -/
structure StartEntry where
  start   : Nat
  step    : Nat
  outcome : Nat
  kind    : Nat
  object  : Word
  value   : Word
  reason  : Word
  deriving DecidableEq, Repr

/-- R376, R377, R493, R494: what Ocwick keeps. -/
structure Ocwick where
  log      : List StartEntry
  /-- number of the start in progress -/
  start    : Nat
  /-- where the entries of this start begin in the log -/
  mark     : Nat
  /-- images in flash: active copies and staged copies that commands 0x04 wrote; none: as the flash held it -/
  active   : List (Option (List Byte))
  staged   : List (Option (List Byte))
  /-- bytes of an image that is being staged -/
  chunk    : List Byte
  /-- images loaded at this start, by image; none: not verified -/
  loaded   : List (Option (Option (List Byte)))
  /-- the start history (R493): spared cores, positions retired (core, slot × 64 + position) -/
  spared   : List Nat
  positions : List (Nat × Nat)
  /-- last passing rate of each GDDR-7 channel and Nertu link, and the last PCIe generation -/
  gddr     : List Nat
  nertu    : List Nat
  pcie     : Nat
  /-- fabric links that train at half rate -/
  fabric   : List Nat
  deriving DecidableEq, Repr

/-- R488: Advanced Error Reporting. (PRESUMED, log entry 75.) -/
structure Aer where
  /-- Uncorrectable Error Status, Mask and Severity -/
  status   : Word
  mask     : Word
  severity : Word
  /-- Correctable Error Status and Mask -/
  corStatus : Word
  corMask  : Word
  /-- First Error Pointer -/
  first    : Nat
  /-- Header Log, four words -/
  header   : List Word
  deriving DecidableEq, Repr

/-- The device's other registers (R369, R371, R423, R468). -/
structure HostRegs where
  computeEn : Bool
  safe      : Bool
  spared    : Nat
  step      : Nat
  w2base    : Nat
  /-- MSI-X table: four words a vector (R371) -/
  msix      : NMap Word
  pending   : List Nat
  /-- the tag that an ABORT_TAG write named and whose completion word is not yet written -/
  aborting  : Option Word
  abortDone : Word
  testMode  : Bool
  pcieUp    : Bool
  pcieGen   : Nat
  /-- the arithmetic clock in MHz (R18) -/
  mhz       : Nat
  /-- what the last host read of BAR2 returned, lowest byte first (R370) -/
  readData  : List Byte
  /-- whether the last host read completed with Unsupported Request status (R488) -/
  readUr    : Bool
  /-- Advanced Error Reporting (R488) -/
  aer       : Aer
  deriving DecidableEq, Repr

/-! ### The machine -/

/-- The instruction now issuing: its thread, address and words (R401). -/
structure Cur where
  tid   : Nat
  pc    : Nat
  words : List Word
  deriving DecidableEq, Repr

/-- The state of the machine. -/
structure State where
  threads  : NMap Thread
  blocks   : NMap Block
  launches : NMap Launch
  cores    : NMap Core
  dies     : NMap Die
  /-- home memory of the package, by physical address (R156) -/
  mem      : List Host.Cell
  /-- poisoned 64-byte parts, by physical address ÷ 64, with the DETAIL of a data error there (R442, R452, R467) -/
  poison   : List (Nat × Nat)
  /-- bytes at Nertu peers that this package has written -/
  peer     : NMap Byte
  reqs     : List AtomReq
  cmds     : List BulkCmd
  breads   : NMap Bread
  /-- R179: records whose place in their ring, or the ring's header, lies on a line that a bulk command owns, oldest first -/
  recs     : List (RecDest × ErrRec)
  pipes    : List PipeOp
  /-- R80: the queue at which the round of the scheduler stands -/
  roundAt  : Nat
  queues   : NMap Queue
  ctxs     : NMap PipeCtx
  xlat     : Xlat
  links    : NMap Link
  host     : HostRegs
  mailbox  : Mailbox
  ocwick   : Ocwick
  /-- R85: tags and statuses of ended launches, newest first, at most 1,024 -/
  ended    : List (Word × Nat)
  /-- R112 -/
  clock    : DWord
  /-- the threads to issue in this cycle, in order, and the ports taken in it: slot, port (R92) -/
  issueQ   : List Nat
  taken    : List (Nat × Nat)
  /-- steps of the part's own that have passed since the steps that it owes last had their turn (R75, R76, R201) -/
  passed   : Nat
  cur      : Cur
  /-- steps of the part that come from outside it, still to be taken -/
  inputs   : List Instr
  /-- steps of the part that this clock value has made due, still to be taken -/
  due      : List Instr
  /-- numbers for the next thread, block, launch, operation -/
  nextId   : Nat
  /-- the step counter, from which free values are drawn -/
  tick     : Nat
  deriving DecidableEq, Repr

/-! ### Reset -/

/-- A core after reset: no line, no entry, every position in use. -/
def Core.init : Core :=
  { l1 := [], staged := [], tlb := [], icache := [], counts := [], retired := [], closed := [],
    spared := false, refused := [] }

/-- A die after reset (R159, R372, R468). -/
def Die.init : Die :=
  { l2 := [], tlb := [], walks := [], l2Units := 8, refused := false, migFrame := 0, migs := [],
    result := 0, slots := [], elogLo := 0, elogHi := 0, elogSize := 0, elogHead := 0, elogTail := 0, lost := 0,
    ceReg := 0, ceMem := 0, mismatch := 0, retired := 0, rollbacks := 0 }

/-- A queue after reset (R78). -/
def Queue.init : Queue :=
  { base := 0, enable := false, size := 4, head := 0, tail := 0, pdesc := 0, places := [] }

/-- R164, R182, R448. -/
def Xlat.init : Xlat :=
  { ptRoot := 0, sdVa := 0, sdPages := 0, sdGen := 0, sdDone := 0, shoots := [], qfFrame := 0, qf := [],
    overrun := false, pushed := 0, released := 0, qepoch := 0, route := false, pfVa := 0 }

/-- R374: a link after a start in which it trained at its full rate (224 Gb/s per lane). (PRESUMED, log entry 2.) -/
def Link.init : Link := { inFrame := 0, inFrames := 0, up := true, rate := 56 }

/-- R378: the registers; the data buffer, which the spec gives no reset value, reads as zeros. (DESIGN CHOICE, log entry 86.) -/
def Mailbox.init : Mailbox := { cmd := 0, busy := false, overrun := false, result := 0, len := 0, buf := [], out := (0, 0, []) }

/-- R488: no error is noted after reset. (PRESUMED, log entry 75.) -/
def Aer.init : Aer :=
  { status := 0, mask := 0x00400000, severity := 0x00462030, corStatus := 0, corMask := 0xE000, first := 0, header := [0, 0, 0, 0] }

/-- R369, R371, R423, R468: every vector is masked after reset, with address and data words of zero. (PRESUMED, log entries 2 and 3;
DESIGN CHOICE, log entry 86.) -/
def HostRegs.init : HostRegs :=
  { computeEn := true, safe := false, spared := 0, step := 5, w2base := 0,
    msix := (List.range 70).map (fun v => (4 * v + 3, 1)), pending := [], aborting := none, abortDone := 0,
    testMode := false, pcieUp := true, pcieGen := 7, mhz := 800, readData := [], readUr := false, aer := .init }

/-- R376, R492: what Ocwick holds after the first start, every step of which passed. (PRESUMED, log entry 2.) -/
def Ocwick.init : Ocwick :=
  { log := [⟨1, 1, 0, 0, 0, 0, 0⟩, ⟨1, 2, 0, 0, 0, 0, 0⟩, ⟨1, 3, 0, 0, 0, 0, 0⟩, ⟨1, 4, 0, 0, 0, 0, 0⟩,
            ⟨1, 5, 0, 0, 0, 0, 0⟩],
    start := 1, mark := 0, active := [none, none, none], staged := [none, none, none], chunk := [],
    loaded := [some none, some none, some none], spared := [], positions := [], gddr := List.replicate 24 48, nertu := List.replicate 8 224,
    pcie := 7, fabric := [] }

/-- No thread issues. (DESIGN CHOICE, log entry 4.) -/
def Cur.none : Cur := { tid := 0, pc := 0, words := [] }

/-- The machine right after reset: compute enabled by step 5 of a start (R376), nothing resident, memory with nothing
listed. (PRESUMED, log entry 2, DESIGN CHOICE, log entry 4.) -/
def State.reset : State :=
  { threads := [], blocks := [], launches := [], cores := [], dies := [], mem := [], poison := [], peer := [],
    reqs := [], cmds := [], breads := [], recs := [], pipes := [], roundAt := 0, queues := [], ctxs := [], xlat := .init, links := [], host := .init,
    mailbox := .init, ocwick := .init, ended := [], clock := 0, issueQ := [], taken := [], passed := 0, cur := .none, inputs := [], due := [], nextId := 1,
    tick := 0 }

/-! ### Stops -/

/-- Why the machine stops. -/
inductive Fault
  /-- `exec` raises it for an encoded instruction when no thread issues: the thread that `State.cur` names is not
  resident. No step of the machine does, for `step` passes such an entry over (safe). -/
  | noThread
  deriving DecidableEq, Repr

/-- Why an instruction is turned away. -/
inductive Refusal
  /-- An instruction without a meaning, named by its mnemonic (safe). Every instruction has its meaning, so that
  nothing raises it. -/
  | notModelled (mnemonic : String)
  deriving DecidableEq, Repr

end Sys2Proof.Machine
end

