-- ==== Sys2Proof/Machine/Access.lean ====
section
/-! DEFINITION. Finding and replacing the parts of the state, and drawing the free choices. -/

namespace Sys2Proof.Machine

/-! ### Choices -/

/-- One of `n` outcomes that the spec leaves open; with one outcome nothing is drawn. (DESIGN CHOICE, log entry 5.) -/
def State.draw (s : State) (n : Nat) : Nat × State :=
  if n ≤ 1 then (0, s) else (Config.choice s.tick % n, { s with tick := s.tick + 1 })

/-- One member of a list of outcomes that the spec leaves open; `d` when there is none. -/
def State.drawFrom {α : Type} (s : State) (d : α) (l : List α) : α × State :=
  let (i, s) := s.draw l.length
  (l.getD i d, s)

/-- A number that nothing has used before. -/
def State.fresh (s : State) : Nat × State := (s.nextId, { s with nextId := s.nextId + 1 })

/-! ### Threads, blocks, launches -/

def State.thread (s : State) (t : Nat) : Option Thread := NMap.find s.threads t
def State.setThread (s : State) (t : Nat) (th : Thread) : State := { s with threads := NMap.put s.threads t th }
/-- Changes a thread that is resident. -/
def State.modThread (s : State) (t : Nat) (f : Thread → Thread) : State :=
  match s.thread t with | some th => s.setThread t (f th) | none => s
def State.block (s : State) (b : Nat) : Option Block := NMap.find s.blocks b
def State.setBlock (s : State) (b : Nat) (blk : Block) : State := { s with blocks := NMap.put s.blocks b blk }
def State.modBlock (s : State) (b : Nat) (f : Block → Block) : State :=
  match s.block b with | some blk => s.setBlock b (f blk) | none => s
def State.launch (s : State) (l : Nat) : Option Launch := NMap.find s.launches l
def State.setLaunch (s : State) (l : Nat) (la : Launch) : State := { s with launches := NMap.put s.launches l la }
def State.modLaunch (s : State) (l : Nat) (f : Launch → Launch) : State :=
  match s.launch l with | some la => s.setLaunch l (f la) | none => s
def State.bread (s : State) (b : Nat) : Option Bread := NMap.find s.breads b
def State.modBread (s : State) (b : Nat) (f : Bread → Bread) : State :=
  match s.bread b with | some br => { s with breads := NMap.put s.breads b (f br) } | none => s
def State.ctx (s : State) (c : Nat) : Option PipeCtx := NMap.find s.ctxs c
def State.modCtx (s : State) (c : Nat) (f : PipeCtx → PipeCtx) : State :=
  match s.ctx c with | some x => { s with ctxs := NMap.put s.ctxs c (f x) } | none => s

/-! ### Cores, dies, queues, links: one of each number exists -/

def State.core (s : State) (n : Nat) : Core := NMap.get .init s.cores n
def State.setCore (s : State) (n : Nat) (c : Core) : State := { s with cores := NMap.put s.cores n c }
def State.modCore (s : State) (n : Nat) (f : Core → Core) : State := s.setCore n (f (s.core n))
def State.die (s : State) (n : Nat) : Die := NMap.get .init s.dies n
def State.setDie (s : State) (n : Nat) (d : Die) : State := { s with dies := NMap.put s.dies n d }
def State.modDie (s : State) (n : Nat) (f : Die → Die) : State := s.setDie n (f (s.die n))
def State.queue (s : State) (n : Nat) : Queue := NMap.get .init s.queues n
def State.setQueue (s : State) (n : Nat) (q : Queue) : State := { s with queues := NMap.put s.queues n q }
def State.link (s : State) (n : Nat) : Link := NMap.get .init s.links n
def State.setLink (s : State) (n : Nat) (l : Link) : State := { s with links := NMap.put s.links n l }

/-- R9: the die of a core. -/
def dieOf (core : Nat) : Nat := core / 100

/-! ### What a thread belongs to -/

/-- A thread with its block and launch. -/
structure Env where
  tid : Nat
  th  : Thread
  blk : Block
  la  : Launch
  deriving DecidableEq, Repr

/-- A thread with its block and launch, all resident. -/
def State.envOf (s : State) (t : Nat) : Option Env :=
  match s.thread t with
  | none => none
  | some th => match s.block th.block with
    | none => none
    | some blk => match s.launch blk.launch with
      | none => none
      | some la => some { tid := t, th, blk, la }

/-- The issuing thread. -/
def State.env (s : State) : Option Env := s.envOf s.cur.tid

/-- A warp, not a sprout. -/
def Thread.isWarp (th : Thread) : Bool := match th.role with | .warp _ => true | .sprout _ _ => false
/-- R394: `warp_id`, 0xFF for a sprout. -/
def Thread.warpId (th : Thread) : Nat := match th.role with | .warp w => w | .sprout _ _ => 0xFF
/-- R39: a thread that has neither ended nor halted. -/
def Thread.live (th : Thread) : Bool := !th.ended && !th.halted
/-- R398: every earlier instruction has written its results, and none waits in the operand log. -/
def Thread.drained (th : Thread) : Bool := decide (th.pend = []) && decide (th.log = [])

/-- The kernel of a launch has this warp's membership slots (R44): set number, base, members. -/
def CodeObj.sets (o : CodeObj) (w : Nat) : List Group := o.groups.filter (fun g => bitOf g.mask.toNat w)

/-- The members of a set, ascending (R42). -/
def Group.members (g : Group) : List Nat := (List.range 32).filter (fun w => bitOf g.mask.toNat w)

/-- The threads of a block's warps that are members of a set; 256 is the block (R46). -/
def Block.membersOf (b : Block) (o : CodeObj) (set : Nat) : List Nat :=
  if set = 256 then b.warps
  else match o.groups.find? (fun g => g.num = set) with
    | none => []
    | some g => g.members.filterMap (fun w => b.warps[w]?)

/-- The resident blocks of a core. -/
def State.blocksOn (s : State) (core : Nat) : List (Nat × Block) := s.blocks.filter (fun p => p.2.core = core)

/-- R151: the cache ways of a core: the banks that no resident block owns. -/
def State.ways (s : State) (core : Nat) : Nat :=
  24 - ((s.blocksOn core).map (fun p => p.2.windows + p.2.fifoBanks)).sum

end Sys2Proof.Machine
end

