-- ==== Sys2Proof/Machine/Flags.lean ====
section
/-! DEFINITION. The conditions that floating-point instructions raise (R131), the fields of `fpmode` (R111), and the
traps that enabled conditions cause (R132, R401). -/

namespace Sys2Proof

/-- R401: a condition's bit in DETAIL; R131: its enable stands ten bits higher in `fpmode`. -/
def fInvalid : Nat := 1
def fDivZero : Nat := 2
def fOverflow : Nat := 4
def fUnderflow : Nat := 8
def fInexact : Nat := 16

/-- A result with the conditions it raises. -/
structure FpRes where
  bits  : Nat
  conds : Nat
  deriving DecidableEq, Repr

/-- The union of two sets of conditions. -/
def orConds (a b : Nat) : Nat := a ||| b

/-- R111: the fields of `fpmode`. -/
structure FpEnv where
  enables   : Nat
  singular  : Bool
  minmaxNan : Bool
  nanOut    : Nat
  tininess  : Bool
  ftz       : Bool
  daz       : Bool
  round     : Nat
  deriving DecidableEq, Repr

/-- R111: reading `fpmode`. -/
def FpEnv.ofWord (w : Nat) : FpEnv :=
  { enables := bitsOf w 14 10, singular := bitOf w 9, minmaxNan := bitOf w 8, nanOut := bitsOf w 7 6,
    tininess := bitOf w 5, ftz := bitOf w 4, daz := bitOf w 3, round := bitsOf w 2 0 }

/-- R111: values that `fpmode` cannot take. -/
def fpmodeOk (w : Nat) : Bool :=
  decide (w / 2 ^ 15 = 0) && decide (bitsOf w 7 6 ≠ 3) && decide (bitsOf w 2 0 < 6)

/-- R131, R132: the lane raises an enabled condition. -/
def FpEnv.traps (e : FpEnv) (conds : Nat) : Bool := decide (conds &&& e.enables ≠ 0)

/-- R132, R401: the lanes that raised an enabled condition, and the conditions raised in those lanes. -/
def trapLanes (e : FpEnv) : List (Nat × Nat) → Nat × Nat
  | [] => (0, 0)
  | (lane, c) :: r =>
    let (m, d) := trapLanes e r
    if e.traps c then (2 ^ lane ||| m, c ||| d) else (m, d)

end Sys2Proof
end

