-- ==== Sys2Proof/Machine/FpOps.lean ====
section
/-! DEFINITION. Floating point (R117 to R131, R248 to R257): formats, rounding, and the operations on exact values.
Every operation is computed exactly and rounded once. -/

namespace Sys2Proof

/-! ### Formats (R117, R118) -/

/-- Mantissa bits. -/
def Ty.mbits : Ty → Nat
  | .f64 => 52 | .f32 => 23 | .f16 => 10 | .bf16 => 7 | .e4m3 => 3 | .e5m2 => 2 | .e2m1 => 1 | .e3m5 => 5 | _ => 0
/-- Exponent bias. -/
def Ty.bias : Ty → Nat
  | .f64 => 1023 | .f32 => 127 | .f16 => 15 | .bf16 => 127 | .e4m3 => 7 | .e5m2 => 15 | .e2m1 => 1 | .e3m5 => 3
  | .e8m0 => 127 | _ => 0
/-- Code of the largest finite magnitude. -/
def Ty.maxCode : Ty → Nat
  | .f64 => 0x7FEFFFFFFFFFFFFF | .f32 => 0x7F7FFFFF | .f16 => 0x7BFF | .bf16 => 0x7F7F | .e4m3 => 0x7E
  | .e5m2 => 0x7B | .e2m1 => 0x7 | .e3m5 => 0xFF | .e8m0 => 0xFE | _ => 0
/-- The format follows IEEE 754 in its specials. -/
def Ty.ieee : Ty → Bool | .f64 | .f32 | .f16 | .bf16 | .e5m2 => true | _ => false
/-- R127: DAZ and FTZ apply. -/
def Ty.flushes : Ty → Bool | .f64 | .f32 | .f16 | .bf16 | .e4m3 | .e5m2 => true | _ => false
/-- The format has a sign. -/
def Ty.signed : Ty → Bool | .e3m5 | .e8m0 => false | _ => true
/-- The sign bit, when the value is negative. -/
def Ty.signBit (t : Ty) (neg : Bool) : Nat := if neg && t.signed then 2 ^ (t.bits - 1) else 0
/-- The result of an infinite value: infinity, the signed NaN of `.e4m3`, else the maximum (R121). -/
def Ty.infCode (t : Ty) (neg : Bool) : Nat :=
  t.signBit neg + (if t.ieee then t.maxCode + 1 else if t = .e4m3 then 0x7F else t.maxCode)
/-- Signed maximum. -/
def Ty.maxFin (t : Ty) (neg : Bool) : Nat := t.signBit neg + t.maxCode
/-- R117: the canonical NaN; `.e2m1` and `.e3m5` have none and take 0 (R124, R125). -/
def Ty.canonNan (t : Ty) : Nat :=
  if t.ieee then t.maxCode + 1 + 2 ^ (t.mbits - 1)
  else match t with | .e4m3 => 0x7F | .e8m0 => 0xFF | _ => 0
/-- Exponent of the least normal number. -/
def Ty.emin (t : Ty) : Int := 1 - (t.bias : Int)
/-- The encoding of 1 (R279). -/
def Ty.one : Ty → Nat
  | .f32 => 0x3F800000 | .f64 => 0x3FF0000000000000 | .f16 => 0x3C00 | .bf16 => 0x3F80 | .e4m3 => 0x38
  | .e5m2 => 0x3C | .e2m1 => 0x2 | _ => 1

/-- A decoded value: a NaN with its mantissa field, an infinity, or ± m × 2^e. -/
inductive FpVal
  | nan (neg : Bool) (man : Nat) (quiet : Bool)
  | inf (neg : Bool)
  | fin (neg : Bool) (m : Nat) (e : Int)
  deriving DecidableEq, Repr

/-- The magnitude field of raw bits. -/
def Ty.magOf (t : Ty) (x : Nat) : Nat := x % 2 ^ (if t.signed then t.bits - 1 else t.bits)
/-- The sign of raw bits. -/
def Ty.negOf (t : Ty) (x : Nat) : Bool := t.signed && bitOf x (t.bits - 1)

/-- R117, R118: the value of raw bits. -/
def fpVal (t : Ty) (x : Nat) : FpVal :=
  let neg := t.negOf x
  let mag := t.magOf x
  let man := mag % 2 ^ t.mbits
  let e := mag / 2 ^ t.mbits
  if t = .e8m0 then (if mag = 0xFF then .nan false 0 true else .fin false 1 ((mag : Int) - 127))
  else if t.ieee ∧ mag > t.maxCode then
    (if man = 0 then .inf neg else .nan neg man (decide (2 ^ (t.mbits - 1) ≤ man)))
  else if t = .e4m3 ∧ mag = 0x7F then .nan neg man true
  else if e = 0 then .fin neg man (t.emin - t.mbits)
  else .fin neg (2 ^ t.mbits + man) ((e : Int) - t.bias - t.mbits)

/-- A subnormal number (R117). -/
def isSubnormal (t : Ty) (x : Nat) : Bool :=
  decide (t.magOf x / 2 ^ t.mbits = 0) && decide (t.magOf x ≠ 0) && decide (t ≠ .e8m0)

/-- R127: a source as the instruction reads it. -/
def FpEnv.source (env : FpEnv) (t : Ty) (x : Nat) : Nat :=
  if env.daz && t.flushes && isSubnormal t x then t.signBit (t.negOf x) else x % 2 ^ t.bits

def FpVal.isNan : FpVal → Bool | .nan .. => true | _ => false
def FpVal.isSnan : FpVal → Bool | .nan _ _ q => !q | _ => false
def FpVal.neg : FpVal → Bool | .nan n _ _ => n | .inf n => n | .fin n _ _ => n
def FpVal.isZero : FpVal → Bool | .fin _ m _ => decide (m = 0) | _ => false

/-! ### Rounding (R119 to R122, R128) -/

/-- An exact magnitude m × 2^e, or, with `sticky`, one strictly between m × 2^e and (m + 1) × 2^e. -/
structure Mag where
  m      : Nat
  e      : Int
  sticky : Bool := false
  deriving DecidableEq, Repr

/-- R119, R122: whether a magnitude of which `rem` out of 2^sh is discarded goes up. `u` is the generator's state. -/
def goesUp (mode u : Nat) (neg sticky : Bool) (kept rem sh : Nat) : Bool :=
  match mode with
  | 0 => decide (rem * 2 > 2 ^ sh) || (decide (rem * 2 = 2 ^ sh) && (sticky || decide (kept % 2 = 1)))
  | 1 => false
  | 2 => !neg && (decide (rem ≠ 0) || sticky)
  | 3 => neg && (decide (rem ≠ 0) || sticky)
  | 4 => decide (rem * 2 ≥ 2 ^ sh) && decide (sh ≠ 0)
  | _ =>
    if sh = 0 then false
    else if sh > 32 then decide (rem / 2 ^ (sh - 32) + u ≥ 2 ^ 32)
    else decide (rem + u / 2 ^ (32 - sh) ≥ 2 ^ sh)

/-- A magnitude in units of 2^q, rounded, and whether it was inexact. -/
def quantize (mode u : Nat) (neg : Bool) (x : Mag) (q : Int) : Nat × Bool :=
  if q ≤ x.e then (x.m * 2 ^ (x.e - q).toNat + (goesUp mode u neg x.sticky x.m 0 0).toNat, x.sticky)
  else
    let sh := (q - x.e).toNat
    let kept := x.m / 2 ^ sh
    let rem := x.m % 2 ^ sh
    (kept + (goesUp mode u neg x.sticky kept rem sh).toNat, decide (rem ≠ 0) || x.sticky)

/-- R121: what an overflowing result becomes. To `.e4m3` it is the signed NaN under every mode, as R124 has it, where
the table of R121 gives the maximum under some. (DEDUCED, log entry 14.) -/
def overflowCode (t : Ty) (mode : Nat) (sat neg : Bool) : Nat :=
  if sat || (!t.ieee && t ≠ .e4m3) then t.maxFin neg
  else if t = .e4m3 then t.infCode neg
  else match mode with
    | 1 => t.maxFin neg
    | 2 => if neg then t.maxFin neg else t.infCode neg
    | 3 => if neg then t.infCode neg else t.maxFin neg
    | _ => t.infCode neg

/-- R128: the result is tiny. -/
def isTiny (env : FpEnv) (t : Ty) (mode u : Nat) (neg : Bool) (x : Mag) : Bool :=
  let ex := x.e + x.m.log2
  if env.tininess then decide (ex < t.emin)
  else decide (ex < t.emin) &&
    !(decide (ex = t.emin - 1) && decide (2 ^ (t.mbits + 1) ≤ (quantize mode u neg x (ex - t.mbits)).1))

/-- R125, R128: rounding to `.e8m0`, whose least number is 2^-127. -/
def roundE8m0 (env : FpEnv) (mode u : Nat) (neg : Bool) (x : Mag) : FpRes :=
  if x.m = 0 ∨ neg then ⟨0xFF, fInvalid⟩
  else
    let ex := x.e + x.m.log2
    let (k, nx) := quantize mode u neg x ex
    -- at the midpoint rn takes the even exponent field
    let tie := decide (mode = 0) && decide (2 * (x.m % 2 ^ x.m.log2) = 2 ^ x.m.log2) && !x.sticky
    let up : Int := if tie then (ex + 127) % 2 else (k : Int) - 1
    let e := ex + up
    let c := if nx then fInexact else 0
    if e > 127 then ⟨0xFE, fOverflow ||| fInexact⟩
    else if e < -127 then ⟨0x00, fUnderflow ||| fInexact⟩
    else ⟨(e + 127).toNat, c ||| (if nx && env.tininess && decide (ex < -127) then fUnderflow else 0)⟩

/-- R121, R122, R128, R249: the value ± x rounded to a format by a mode, with its conditions. -/
def roundFp (env : FpEnv) (t : Ty) (mode u : Nat) (sat neg : Bool) (x : Mag) : FpRes :=
  if t = .e8m0 then roundE8m0 env mode u neg x
  else if x.m = 0 then ⟨t.signBit neg, 0⟩
  else if neg && !t.signed then ⟨0, fInvalid⟩
  else
    let ex := x.e + x.m.log2
    let q := max ex t.emin - t.mbits
    let (k, nx) := quantize mode u neg x q
    let code := (ex - t.emin).toNat * 2 ^ t.mbits + k
    let tiny := isTiny env t mode u neg x
    if code > t.maxCode then ⟨overflowCode t mode sat neg, fOverflow ||| fInexact⟩
    else if env.ftz && t.flushes && tiny then ⟨t.signBit neg, fUnderflow ||| fInexact⟩
    else ⟨t.signBit neg + code, (if nx then fInexact else 0) ||| (if tiny && nx then fUnderflow else 0)⟩

/-- R122: one step of a lane's generator. -/
def genStep (x : Nat) : Nat :=
  let x := x % 2 ^ 32
  let x := x ^^^ (x * 2 ^ 13 % 2 ^ 32)
  let x := x ^^^ (x / 2 ^ 17)
  x ^^^ (x * 2 ^ 5 % 2 ^ 32)

/-- R122: the state that a seed gives lane `l`. -/
def genSeed (seed lane : Nat) : Nat :=
  let s := (seed ^^^ ((lane + 1) * 0x9E3779B9 % 2 ^ 32)) % 2 ^ 32
  if s = 0 then 0x6D2B79F5 else s

/-! ### NaN results (R129) -/

/-- A chosen NaN, quieted and carried into a format. -/
def quietNan (d s : Ty) (neg : Bool) (man : Nat) : Nat :=
  if d.ieee then
    let m := if s.mbits ≥ d.mbits then man / 2 ^ (s.mbits - d.mbits) else man * 2 ^ (d.mbits - s.mbits)
    d.signBit neg + (d.maxCode + 1) + (m ||| 2 ^ (d.mbits - 1))
  else if d = .e4m3 then d.signBit neg + 0x7F
  else d.canonNan

/-- The first NaN of a list of sources. -/
def firstNan (d : Ty) : List (Ty × Nat) → Option Nat
  | [] => none
  | (t, x) :: r => match fpVal t x with
    | .nan neg man _ => some (quietNan d t neg man)
    | _ => firstNan d r

/-- R129: the NaN that sources a, b, c give; canonical when none of them is a NaN. -/
def FpEnv.nan (env : FpEnv) (d : Ty) (srcs : List (Ty × Nat)) : Nat :=
  let order := match env.nanOut, srcs with
    | 1, l => l
    | 2, a :: b :: r => b :: a :: r
    | 2, l => l
    | _, _ => []
  (firstNan d order).getD d.canonNan

/-- R131: invalid when some source is a signalling NaN. -/
def snanConds (srcs : List (Ty × Nat)) : Nat :=
  if srcs.any (fun p => (fpVal p.1 p.2).isSnan) then fInvalid else 0

/-- The NaN result of sources of which one is a NaN. -/
def FpEnv.nanRes (env : FpEnv) (d : Ty) (srcs : List (Ty × Nat)) : FpRes := ⟨env.nan d srcs, snanConds srcs⟩

/-- An invalid operation's result. -/
def invalidRes (d : Ty) : FpRes := ⟨d.canonNan, fInvalid⟩

/-- An infinite result (R249). -/
def infRes (d : Ty) (sat neg : Bool) (conds : Nat) : FpRes :=
  ⟨if sat then d.maxFin neg else d.infCode neg, conds⟩

/-! ### Exact sums and products -/

/-- A signed exact value n × 2^e. -/
structure Exact where
  n : Int
  e : Int
  deriving DecidableEq, Repr

/-- The exact value of a finite number. -/
def FpVal.exact : FpVal → Exact
  | .fin neg m e => ⟨if neg then -(m : Int) else m, e⟩
  | _ => ⟨0, 0⟩

def Exact.add (x y : Exact) : Exact :=
  let e := min x.e y.e
  ⟨x.n * (2 ^ (x.e - e).toNat : Nat) + y.n * (2 ^ (y.e - e).toNat : Nat), e⟩

def Exact.mul (x y : Exact) : Exact := ⟨x.n * y.n, x.e + y.e⟩

/-- The comparison of exact values. -/
def Exact.cmp (x y : Exact) : Ordering :=
  let e := min x.e y.e
  compare (x.n * (2 ^ (x.e - e).toNat : Nat)) (y.n * (2 ^ (y.e - e).toNat : Nat))

/-- An exact value rounded; an exact zero takes the sign given (R121). -/
def roundExact (env : FpEnv) (t : Ty) (mode u : Nat) (sat zneg : Bool) (x : Exact) : FpRes :=
  roundFp env t mode u sat (if x.n = 0 then zneg else decide (x.n < 0)) ⟨x.n.natAbs, x.e, false⟩

/-- The sum of two values that are no NaN (R121, R131). -/
def sumFp (env : FpEnv) (t : Ty) (mode u : Nat) (sat : Bool) (x y : FpVal) : FpRes :=
  match x, y with
  | .inf a, .inf b => if a = b then infRes t sat a 0 else invalidRes t
  | .inf a, _ => infRes t sat a 0
  | _, .inf b => infRes t sat b 0
  | x, y =>
    let zneg := if x.isZero && y.isZero && x.neg = y.neg then x.neg else decide (mode = 3)
    roundExact env t mode u sat zneg (x.exact.add y.exact)

/-- The value with its sign inverted. -/
def FpVal.negate : FpVal → FpVal
  | .nan n m q => .nan n m q | .inf n => .inf (!n) | .fin n m e => .fin (!n) m e

/-- The product of two values that are no NaN, exact; none when it is 0 × ∞. -/
def prodVal (x y : FpVal) : Option FpVal :=
  match x, y with
  | .inf a, y => if y.isZero then none else some (.inf (a != y.neg))
  | x, .inf b => if x.isZero then none else some (.inf (x.neg != b))
  | .fin a m e, .fin b n f => some (.fin (a != b) (m * n) (e + f))
  | _, _ => none

/-! ### Operations (R248 to R252) -/

/-- `fadd`, or `fsub` with `neg`. -/
def fpAdd (env : FpEnv) (t : Ty) (mode u : Nat) (sat neg : Bool) (a b : Nat) : FpRes :=
  let a := env.source t a
  let b := env.source t b
  let x := fpVal t a
  let y := fpVal t b
  if x.isNan || y.isNan then env.nanRes t [(t, a), (t, b)]
  else sumFp env t mode u sat x (if neg then y.negate else y)

def fpMul (env : FpEnv) (t : Ty) (mode u : Nat) (sat : Bool) (a b : Nat) : FpRes :=
  let a := env.source t a
  let b := env.source t b
  let x := fpVal t a
  let y := fpVal t b
  if x.isNan || y.isNan then env.nanRes t [(t, a), (t, b)]
  else match prodVal x y with
    | none => invalidRes t
    | some (.inf n) => infRes t sat n 0
    | some p => roundExact env t mode u sat p.neg p.exact

/-- `fma` of sources of types `ta`, `tb`, `tc`, rounded once to `t` (R250, R292). -/
def fpFma3 (env : FpEnv) (t ta tb tc : Ty) (mode u : Nat) (sat : Bool) (a b c : Nat) : FpRes :=
  let a := env.source ta a
  let b := env.source tb b
  let c := env.source tc c
  let x := fpVal ta a
  let y := fpVal tb b
  let z := fpVal tc c
  let srcs := [(ta, a), (tb, b), (tc, c)]
  let p := if x.isNan || y.isNan then none else prodVal x y
  let bad := !(x.isNan || y.isNan) && p.isNone
  if x.isNan || y.isNan || z.isNan then
    ⟨env.nan t srcs, snanConds srcs ||| (if bad then fInvalid else 0)⟩
  else match p with
    | none => invalidRes t
    | some p => sumFp env t mode u sat p z

/-- `fma` (R250). -/
def fpFma (env : FpEnv) (t : Ty) (mode u : Nat) (sat : Bool) (a b c : Nat) : FpRes :=
  fpFma3 env t t t t mode u sat a b c

/-- The quotient of magnitudes with at least 66 significant bits. -/
def divMag (m : Nat) (e : Int) (n : Nat) (f : Int) : Mag :=
  let k := n.log2 + 66 - m.log2
  ⟨m * 2 ^ k / n, e - f - k, decide (m * 2 ^ k % n ≠ 0)⟩

/-- The quotient of two values that are no NaN. -/
def quotFp (env : FpEnv) (t : Ty) (mode : Nat) (sat : Bool) (x y : FpVal) : FpRes :=
  let neg := x.neg != y.neg
  match x, y with
  | .inf _, .inf _ => invalidRes t
  | .inf _, _ => infRes t sat neg 0
  | _, .inf _ => ⟨t.signBit neg, 0⟩
  | .fin _ m e, .fin _ n f =>
    if n = 0 then (if m = 0 then invalidRes t else infRes t sat neg fDivZero)
    else if m = 0 then ⟨t.signBit neg, 0⟩
    else roundFp env t mode 0 sat neg (divMag m e n f)
  | _, _ => invalidRes t

def fpDiv (env : FpEnv) (t : Ty) (mode : Nat) (sat : Bool) (a b : Nat) : FpRes :=
  let a := env.source t a
  let b := env.source t b
  let x := fpVal t a
  let y := fpVal t b
  if x.isNan || y.isNan then env.nanRes t [(t, a), (t, b)] else quotFp env t mode sat x y

/-- `frnd` (R251). -/
def fpRnd (env : FpEnv) (t : Ty) (mode : Nat) (a : Nat) : FpRes :=
  let a := env.source t a
  match fpVal t a with
  | .nan .. => env.nanRes t [(t, a)]
  | .inf n => ⟨t.infCode n, 0⟩
  | .fin n m e =>
    if e ≥ 0 ∨ m = 0 then ⟨a, 0⟩
    else ⟨(roundFp env t mode 0 false n ⟨(quantize mode 0 n ⟨m, e, false⟩ 0).1, 0, false⟩).bits, 0⟩

/-- `fscale` (R251). -/
def fpScale (env : FpEnv) (t : Ty) (mode u : Nat) (sat : Bool) (a b : Nat) : FpRes :=
  let a := env.source t a
  match fpVal t a with
  | .nan .. => env.nanRes t [(t, a)]
  | .inf n => infRes t sat n 0
  | .fin n m e => roundFp env t mode u sat n ⟨m, e + max (-4000) (min 4000 (signedOf 32 b)), false⟩

/-- R124, R125, R127, R129: conversion between formats. -/
def fpCvt (env : FpEnv) (d s : Ty) (mode u : Nat) (sat : Bool) (a : Nat) : FpRes :=
  let a := env.source s a
  match fpVal s a with
  | .nan .. => if d.ieee ∨ d = .e4m3 then env.nanRes d [(s, a)] else ⟨d.canonNan, fInvalid⟩
  | .inf n =>
    if d = .e3m5 then (if n then ⟨0, fInvalid⟩ else ⟨0xFF, 0⟩)
    else if d = .e8m0 then ⟨0xFF, fInvalid⟩
    else if sat ∨ d = .e2m1 then ⟨d.maxFin n, 0⟩
    else ⟨d.infCode n, if d = .e4m3 then fInvalid else 0⟩
  | .fin n m e => roundFp env d mode u sat n ⟨m, e, false⟩

/-- R126: float to integer. -/
def fpToInt (env : FpEnv) (d s : Ty) (mode : Nat) (a : Nat) : FpRes :=
  let a := env.source s a
  match fpVal s a with
  | .nan .. => ⟨0, fInvalid⟩
  | .inf n => ⟨wrapTo d.bits (if n then d.minInt else d.maxInt), fInvalid ||| fInexact⟩
  | .fin n m e =>
    let (k, nx) := quantize mode 0 n ⟨m, e, false⟩ 0
    let v : Int := if n then -(k : Int) else k
    let c := d.clamp v
    ⟨wrapTo d.bits c, (if nx then fInexact else 0) ||| (if c ≠ v then fInvalid ||| fInexact else 0)⟩

/-- R126: integer to float. -/
def intToFp (env : FpEnv) (d s : Ty) (mode u : Nat) (a : Nat) : FpRes :=
  let v := s.value a
  roundFp env d mode u false (decide (v < 0)) ⟨v.natAbs, 0, false⟩

/-- R208: an integer as a floating-point source, rounded by rn. -/
def immToFp (t : Ty) (v : Int) : Nat :=
  (roundFp (.ofWord 0) t 0 0 false (decide (v < 0)) ⟨v.natAbs, 0, false⟩).bits

/-- R252 -/
def fpAbs (t : Ty) (a : Nat) : Nat := t.magOf a
def fpNeg (t : Ty) (a : Nat) : Nat := if t.negOf a then t.magOf a else t.magOf a + 2 ^ (t.bits - 1)
def fpSign (t : Ty) (a : Nat) : Nat :=
  match fpVal t a with
  | .nan .. => a % 2 ^ t.bits
  | .inf n => t.signBit n + t.one
  | .fin n m _ => if m = 0 then a % 2 ^ t.bits else t.signBit n + t.one

/-- R254 -/
def fpClass (t : Ty) (a : Nat) : Nat :=
  match fpVal t a with
  | .nan _ _ q => if q then 2 else 1
  | .inf n => if n then 2 ^ 2 else 2 ^ 9
  | .fin n m _ =>
    if m = 0 then (if n then 2 ^ 5 else 2 ^ 6)
    else if isSubnormal t a then (if n then 2 ^ 4 else 2 ^ 7)
    else (if n then 2 ^ 3 else 2 ^ 8)

/-! ### Order (R130, R257, R268) -/

/-- The order of two values that are no NaN, with −0 equal to +0. -/
def FpVal.cmp (x y : FpVal) : Ordering :=
  match x, y with
  | .inf a, .inf b => compare (!a).toNat (!b).toNat
  | .inf a, _ => if a then .lt else .gt
  | _, .inf b => if b then .gt else .lt
  | x, y => x.exact.cmp y.exact

/-- The order with −0 below +0 (R130). -/
def FpVal.order (x y : FpVal) : Ordering :=
  match x.cmp y with
  | .eq => if x.isZero && y.isZero then compare (!x.neg).toNat (!y.neg).toNat else .eq
  | o => o

/-- R128: FTZ applied to a result that is not rounded. -/
def FpEnv.flush (env : FpEnv) (t : Ty) (x : Nat) : Nat :=
  if env.ftz && t.flushes && isSubnormal t x then t.signBit (t.negOf x) else x

/-- `fmin` and `fmax` (R130). `errat`: erratum 5 of R424, −0 and +0 count as equal and a is returned. -/
def fpMinMax (env : FpEnv) (t : Ty) (isMax errat : Bool) (a b : Nat) : FpRes :=
  let a := env.source t a
  let b := env.source t b
  let x := fpVal t a
  let y := fpVal t b
  let srcs := [(t, a), (t, b)]
  if x.isNan && y.isNan || (x.isNan || y.isNan) && env.minmaxNan then env.nanRes t srcs
  else if x.isNan then ⟨b, snanConds srcs⟩
  else if y.isNan then ⟨a, snanConds srcs⟩
  else
    let o := if errat then x.cmp y else x.order y
    ⟨if (match o with | .lt => !isMax | .gt => isMax | .eq => true) then a else b, 0⟩

/-- R257: a comparison, with its invalid condition. -/
def fpCompare (env : FpEnv) (t : Ty) (p : FcmpPred) (a b : Nat) : Bool × Nat :=
  let a := env.source t a
  let b := env.source t b
  let x := fpVal t a
  let y := fpVal t b
  let nan := x.isNan || y.isNan
  let snan := snanConds [(t, a), (t, b)]
  let qnan := if nan then fInvalid else 0
  let o := x.cmp y
  match p with
  | .eq => (!nan && o == .eq, snan)
  | .ne => (!nan && o != .eq, snan)
  | .lt => (!nan && o == .lt, qnan)
  | .le => (!nan && o != .gt, qnan)
  | .gt => (!nan && o == .gt, qnan)
  | .ge => (!nan && o != .lt, qnan)
  | .ord => (!nan, snan)
  | .ueq => (nan || o == .eq, snan)
  | .une => (nan || o != .eq, snan)
  | .ult => (nan || o == .lt, snan)
  | .ule => (nan || o != .gt, snan)
  | .ugt => (nan || o == .gt, snan)
  | .uge => (nan || o != .lt, snan)
  | .uno => (nan, snan)

end Sys2Proof
end

