-- ==== Sys2Proof/Machine/Operands.lean ====
section
/-! DEFINITION. Registers and operands: reading and writing registers (R37, R98 to R105, R113), the operand forms
(R207 to R210), active lanes (R21, R47, R235) and the registers that an instruction reads and writes (R219 to R221). -/

namespace Sys2Proof.Machine

/-! ### Registers -/

/-- `v n` in lane `l`. -/
def Regs.vec (r : Regs) (n l : Nat) : Word := NMap.get 0 r.v (64 * n + l)
/-- `s n`. -/
def Regs.scal (r : Regs) (n : Nat) : Word := NMap.get 0 r.s n
/-- `k n`. -/
def Regs.mask (r : Regs) (n : Nat) : DWord := NMap.get 0 r.k n
/-- Word `w` of lane `l` of `m n`. -/
def Regs.mat (r : Regs) (n l w : Nat) : Word := NMap.get 0 r.m ((64 * n + l) * 64 + w)
/-- The shape tag of lane `l` of `m n` (R104). -/
def Regs.tagOf (r : Regs) (n l : Nat) : Half := NMap.get 0 r.tag (64 * n + l)
/-- The generator of lane `l` (R122). -/
def Regs.genOf (r : Regs) (l : Nat) : Nat := (NMap.get 0 r.gen l).toNat

/-- Consecutive vector registers as one number, the lowest first (R100). -/
def Regs.vecs (r : Regs) (n k l : Nat) : Nat := ofWords ((List.range k).map (fun i => r.vec (n + i) l))
/-- Consecutive scalar registers as one number. -/
def Regs.scals (r : Regs) (n k : Nat) : Nat := ofWords ((List.range k).map (fun i => r.scal (n + i)))

/-- A word of a vector register written: its check bits are right again (R479). -/
def Regs.setVec (r : Regs) (n l : Nat) (w : Word) : Regs :=
  { r with v := NMap.put r.v (64 * n + l) w, flawed := r.flawed.filter (fun f => !(decide (f.1 = n) && decide (f.2.1 = l))) }
def Regs.setScal (r : Regs) (n : Nat) (w : Word) : Regs := { r with s := NMap.put r.s n w }
def Regs.setMask (r : Regs) (n : Nat) (w : DWord) : Regs := { r with k := NMap.put r.k n w }
def Regs.setGen (r : Regs) (l : Nat) (x : Nat) : Regs := { r with gen := NMap.put r.gen l (BitVec.ofNat 32 x) }

/-- R104, R105, R284: a lane of a matrix register: its tag and the first `bits` bits of its words. -/
def Regs.setMat (r : Regs) (n l : Nat) (tag : Half) (bits : Nat) (words : List Word) : Regs :=
  { r with
    tag := NMap.put r.tag (64 * n + l) tag,
    m := (List.range ((bits + 31) / 32)).foldl (fun m i =>
      let old := (NMap.get 0 m ((64 * n + l) * 64 + i)).toNat
      let keep := if 32 * (i + 1) ≤ bits then 0 else 2 ^ (bits - 32 * i)
      let new := ((words.getD i 0)).toNat
      let w := if keep = 0 then new else new % keep + old / keep * keep
      NMap.put m ((64 * n + l) * 64 + i) (BitVec.ofNat 32 w)) r.m }

/-- The lanes of a warp as a mask (R37). -/
def laneMask (w : Nat) : DWord := BitVec.ofNat 64 (2 ^ w - 1)

/-- One value written into its register. Bits of a mask beyond the warp's lanes are ignored (R37). -/
def Regs.put (w : Nat) (r : Regs) : RegVal → Regs
  | .v n l x => r.setVec n l x
  | .s n x => r.setScal n x
  | .k n x => r.setMask n (x &&& laneMask w)
  | .kl n lanes x => r.setMask n ((x &&& lanes ||| r.mask n &&& ~~~lanes) &&& laneMask w)
  | .m n l tag bits words => r.setMat n l tag bits words

/-- Values written in turn. -/
def Regs.putAll (w : Nat) (r : Regs) (vals : List RegVal) : Regs := vals.foldl (Regs.put w) r

/-- The register that a value is for. -/
def RegVal.reg : RegVal → RegId
  | .v n _ _ => .v n | .s n _ => .s n | .k n _ | .kl n _ _ => .k n | .m n _ _ _ _ => .m n

/-! ### Lanes -/

/-- The lanes of a warp, ascending. -/
def Thread.lanes (th : Thread) : List Nat := List.range th.width

/-- R21, R36: the lanes that pass `k0` and the guard. -/
def Thread.active (th : Thread) (o : Ops) : DWord :=
  let k0 := th.regs.mask 0
  let g := th.regs.mask o.guard
  (if o.guard = 0 then k0 else if o.ginv then k0 &&& ~~~g else k0 &&& g) &&& laneMask th.width

/-- The active lanes, ascending. -/
def Thread.activeLanes (th : Thread) (o : Ops) : List Nat := th.lanes.filter (fun l => (th.active o).getLsbD l)

/-! ### Operands (R208 to R210) -/

/-- R210: an FP32 value converted exactly to `.f64`. -/
def f32to64 (x : Nat) : Nat :=
  match fpVal .f32 x with
  | .nan n m _ => Ty.f64.signBit n + (Ty.f64.maxCode + 1) + m * 2 ^ 29
  | .inf n => Ty.f64.infCode n
  | .fin n m e => (roundFp (.ofWord 0) .f64 0 0 false n ⟨m, e, false⟩).bits

/-- R208: an 8-bit immediate as a source of a type. -/
def immRaw (t : Ty) (b : Byte) : Nat :=
  if t.isFloat then immToFp t b.toInt
  else if t = .b128 then (Config.imm128 b).toNat
  else wrapTo t.bits b.toInt

/-- R210: a long immediate as a source of a type. (DEDUCED, log entry 14.) -/
def longRaw (t : Ty) (w : Word) : Nat :=
  if t = .i64 then wrapTo 64 w.toInt else if t = .f64 then f32to64 w.toNat else w.toNat % 2 ^ t.bits

/-- The raw value of a source operand in a lane, `t.bits` wide. `base` is the `set_base` of a set register (R57). -/
def Regs.raw (r : Regs) (base : Nat) (t : Ty) (lane : Nat) : Opd → Nat
  | .v n => r.vecs n t.regs lane % 2 ^ t.bits
  | .g n => r.vecs (base + n) t.regs lane % 2 ^ t.bits
  | .s n => r.scals n t.regs % 2 ^ t.bits
  | .imm b => immRaw t b
  | .long w => longRaw t w
  | .k n => if (r.mask n).getLsbD lane then 1 else 0
  | _ => 0

/-- R219: what the scalar side still sees of a register that a lane-scope comparison has written, and not yet toward
it. -/
def Thread.staleVal (th : Thread) (r : RegId) : Option DWord :=
  th.pend.findSome? (fun p => match p.stale with | some (k, w) => if k = r then some w else none | none => none)

/-- R219: a mask as the scalar side of an instruction reads it. -/
def Thread.scalarMask (th : Thread) (n : Nat) : DWord := (th.staleVal (.k n)).getD (th.regs.mask n)

/-- R219, R261, R270: a source of `bra` or `ballot` in a lane: the scalar that a comparison has written is read as the
scalar side sees it. -/
def Thread.scalarSideRaw (th : Thread) (t : Ty) (lane : Nat) (d : Opd) : Nat :=
  match d with
  | .s n => match th.staleVal (.s n) with | some w => w.toNat | none => th.regs.raw 0 t lane d
  | _ => th.regs.raw 0 t lane d

/-- R114, R115: the register values of a raw result, one word after the other. -/
def regWords (t : Ty) (x : Nat) : List Word := wordsOf t.regs (t.toReg x)

/-- The values that a result of a type writes into a destination, in a lane. -/
def destVals (base : Nat) (t : Ty) (d : Opd) (lane x : Nat) : List RegVal :=
  match d with
  | .v n => (regWords t x).zipIdx.map (fun p => .v (n + p.2) lane p.1)
  | .g n => (regWords t x).zipIdx.map (fun p => .v (base + n + p.2) lane p.1)
  | .s n => (regWords t x).zipIdx.map (fun p => .s (n + p.2) p.1)
  | _ => []

/-- R235: no operand is a vector. -/
def allScalar (o : Ops) : Bool :=
  let v : Opd → Bool := fun d => match d with | .v _ | .g _ => true | _ => false
  !(v o.dst || v o.a || v o.b || v o.c)

/-! ### Matrix operands (R104, R105, R279, R301) -/

/-- R279: the shape-tag format of a type. -/
def fmtOf (t : Ty) : Nat :=
  match t with
  | .f32 => 0 | .f64 => 1 | .f16 => 2 | .bf16 => 3 | .e4m3 => 4 | .e5m2 => 5 | .e2m1 => 6 | .i8 => 7 | .i32 => 8
  | _ => 15

/-- R105: the type of a format. -/
def tyOfFmt (f : Nat) : Ty :=
  match f with
  | 0 => .f32 | 1 => .f64 | 2 => .f16 | 3 => .bf16 | 4 => .e4m3 | 5 => .e5m2 | 6 => .e2m1 | 7 => .i8 | 8 => .i32
  | _ => .none

/-- R104: a shape tag. -/
def mkTag (rows cols : Nat) (t : Ty) : Half := BitVec.ofNat 16 ((rows - 1) * 1024 + (cols - 1) * 16 + fmtOf t)

/-- A lane's matrix: its shape, type and elements (R105). -/
structure Mat where
  rows : Nat
  cols : Nat
  ty   : Ty
  els  : List Nat
  deriving DecidableEq, Repr

/-- Elements packed one after the other, `b` bits each. -/
def packEls (b : Nat) : List Nat → Nat
  | [] => 0
  | x :: r => x % 2 ^ b + 2 ^ b * packEls b r

/-- The matrix in a lane of a register. -/
def Regs.matrix (r : Regs) (n l : Nat) : Mat :=
  let tag := (r.tagOf n l).toNat
  let rows := bitsOf tag 15 10 + 1
  let cols := bitsOf tag 9 4 + 1
  let t := tyOfFmt (bitsOf tag 3 0)
  let x := ofWords ((List.range ((rows * cols * t.bits + 31) / 32)).map (r.mat n l))
  { rows, cols, ty := t, els := (List.range (rows * cols)).map (fun i => x / 2 ^ (i * t.bits) % 2 ^ t.bits) }

/-- R284: the write of a matrix into a lane of a register. -/
def Mat.val (m : Mat) (n l : Nat) : RegVal :=
  let bits := m.rows * m.cols * m.ty.bits
  .m n l (mkTag m.rows m.cols m.ty) bits (wordsOf ((bits + 31) / 32) (packEls m.ty.bits m.els))

/-- The number of a matrix operand. -/
def matNo (d : Opd) : Nat := match d with | .m n => n | _ => 0

/-- R301: the block length that MOD[8:6] gives; 0 is no block mode. -/
def blockLen (o : Ops) : Nat := if o.xmod = 1 then 8 else if o.xmod = 2 then 32 else 0

/-- R301: registers of the scale run of a matrix. -/
def scaleRun (len rows cols : Nat) : Nat := if len = 0 then 0 else (rows * ((cols + len - 1) / len) + 3) / 4

/-- R301: the scale registers that an `mpack` writes or a `munpack` reads. -/
def Thread.scaleRegs (th : Thread) (o : Ops) : List RegId :=
  match o.c, o.a with
  | .v n, .m a =>
    let run := (th.activeLanes o).map (fun l =>
      let tag := (th.regs.tagOf a l).toNat
      scaleRun (blockLen o) (bitsOf tag 15 10 + 1) (bitsOf tag 9 4 + 1))
    (List.range (run.foldl Nat.max 0)).map (fun i => .v (n + i))
  | _, _ => []

/-! ### The registers that an instruction touches -/

/-- The registers of an operand that names `w` of them; those of a set register count from `base` (R57). -/
def opdRegs (base : Nat) (d : Opd) (w : Nat) : List RegId :=
  match d with
  | .v n => (List.range w).map (fun i => .v (n + i))
  | .g n => (List.range w).map (fun i => .v (base + n + i))
  | .s n => (List.range w).map (fun i => .s (n + i))
  | .k n => [.k n]
  | .m n => [.m n]
  | _ => []

/-- The registers of an operand of a kind. -/
def kindRegs (base : Nat) (k : Kind) (d : Opd) (o : Ops) : List RegId :=
  match k with
  | .val _ _ _ w => opdRegs base d (w.count o.ty o.sty)
  | .maskOrPair => opdRegs base d 2
  | .record => opdRegs base d 8
  | .matrix | .mask => opdRegs base d 1
  | _ => []

/-- Operands that an instruction writes besides its destination: mlu's permutation, the mask of matrix algebra,
call.ind's two masks (R273, R293, R296). -/
def extraWrites (base : Nat) (i : Instr) (o : Ops) : List RegId :=
  match i with
  | .mlu _ => opdRegs base o.b 2 ++ opdRegs base o.c 1
  | .minv _ | .mchol _ | .msolve _ | .mpow _ => opdRegs base o.c 1
  | .callInd _ => opdRegs base o.b 1
  | _ => []

/-- Whether the destination is read as well (R241, R271, R273, R289): `mma.acc` reads its accumulators (R305), and `mld`
with shape word 0 the tag of its destination (R287). -/
def readsDst : Instr → Bool
  | .addc _ | .subb _ | .loop _ | .callInd _ | .mput _ => true
  | .mma o => decide (o.xmod % 2 = 1)
  | .mld o => decide (o.imm = 0)
  | _ => false

/-- Instructions whose b operand is written and not read, or whose c operand is. -/
def bWritten : Instr → Bool | .mlu _ => true | _ => false
def cWritten : Instr → Bool | .mlu _ | .minv _ | .mchol _ | .msolve _ | .mpow _ | .mpack _ => true | _ => false

/-- The registers that an instruction writes; set registers count from `base`. -/
def writeRegs (base : Nat) (i : Instr) : List RegId :=
  match i.row, i.ops with
  | some r, some o =>
    let (kd, _, _, _) := r.kinds (r.rawOf o)
    (if r.writes then kindRegs base kd o.dst o else []) ++ extraWrites base i o
  | _, _ => []

/-- The registers that an instruction reads, its guard apart; set registers count from `base`. -/
def readRegs (base : Nat) (i : Instr) : List RegId :=
  match i.row, i.ops with
  | some r, some o =>
    let (kd, ka, kb, kc) := r.kinds (r.rawOf o)
    (if !r.writes || readsDst i then kindRegs base kd o.dst o else []) ++ kindRegs base ka o.a o ++
    (if bWritten i then [] else kindRegs base kb o.b o) ++ (if cWritten i then [] else kindRegs base kc o.c o) ++
    (if r.brec then opdRegs base (.s (8 * o.brec)) 8 else []) ++ (if r.quad then opdRegs base (.s o.quad) 4 else [])
  | _, _ => []

/-- The registers that a thread's instruction writes. -/
def Thread.writes (th : Thread) (base : Nat) (i : Instr) : List RegId :=
  match i with
  | .mpack o => writeRegs base i ++ th.scaleRegs o
  | _ => writeRegs base i

/-- The registers that a thread's instruction reads, its guard apart. -/
def Thread.reads (th : Thread) (base : Nat) (i : Instr) : List RegId :=
  match i with
  | .munpack o => readRegs base i ++ th.scaleRegs o
  | _ => readRegs base i

/-- R219: the variable-latency instructions. Every comparison is one. (DEDUCED, log entry 81.) -/
def isLong (i : Instr) : Bool :=
  match i with
  | .ld _ | .lds _ | .mld _ | .rpop _ | .palloc _ => true
  | .atomAdd o | .atomFadd o | .atomMin o | .atomMax o | .atomAnd o | .atomOr o | .atomXor o | .atomXchg o
  | .atomCas o => o.xmod % 2 = 1
  | .div _ | .rem _ | .fdiv _ | .rcp _ | .rsq _ | .sqrt _ | .exp2 _ | .log2 _ | .sinpi _ | .cospi _ => true
  | .mst _ | .madd _ | .msub _ | .mscal _ | .mmul _ _ | .mfma _ _ | .mtrn _ | .minv _ | .mlu _ | .mchol _ | .msolve _
  | .mpow _ | .mma _ | .mpack _ | .munpack _ => true
  | .shfl _ _ | .bcast _ | .red _ _ | .scan _ _ | .sred _ _ | .topk _ => true
  | .cmp _ _ | .fcmp _ _ => true
  | .sync o => decide (2 ≤ o.scope.code)
  | .bankcfg _ => true
  | _ => false

end Sys2Proof.Machine
end

