-- ==== Sys2Proof/Machine/Home.lean ====
section
/-! DEFINITION. Physical memory at its homes (R156, R158, R373, R452), the lines that bulk commands own (R179),
interrupt vectors (R371) and error records (R372, R394). -/

namespace Sys2Proof.Machine

/-! ### Addresses (R156, R158, R373) -/

/-- R156: a Nertu remote window. -/
def isRemote (pa : Nat) : Bool := bitOf pa 45
/-- R156: the home die. -/
def homeDie (pa : Nat) : Nat := bitsOf pa 47 46
/-- R373: the link of a remote address. -/
def remoteLink (pa : Nat) : Nat := bitsOf pa 44 42
/-- R156: an address in a local frame of the package. -/
def isLocal (pa : Nat) : Bool := decide (pa < 2 ^ 48) && !isRemote pa && decide (bitsOf pa 44 0 < Config.dieBytes)
/-- R373: a remote address laid out as a leaf may hold it. -/
def isPeer (pa : Nat) : Bool :=
  decide (pa < 2 ^ 48) && isRemote pa && decide (homeDie pa = remoteLink pa / 2) && !bitOf pa 41 &&
    decide (bitsOf pa 38 37 = 0) && decide (bitsOf pa 36 0 < Config.dieBytes)
/-- R158: a 30-bit frame number as a physical address. -/
def frameAddr (f : Nat) : Nat := bitsOf f 29 28 * 2 ^ 46 + bitsOf f 27 0 * 2 ^ 16
/-- R158: the frame number of a local address. -/
def frameOf (pa : Nat) : Nat := homeDie pa * 2 ^ 28 + bitsOf pa 43 16

/-- The 64-byte line of an address. -/
def lineOf (pa : Nat) : Nat := pa / 64 * 64

/-! ### Home slices -/

/-- What a byte of memory that nothing has written reads as. (DESIGN CHOICE, log entry 1.) -/
def emptyByte : Byte := 0

/-- The byte at its home: memory of the package, or a peer's, where an unlisted byte is free. -/
def State.homeByte (s : State) (pa : Nat) : Byte :=
  if isRemote pa then (NMap.find s.peer pa).getD (Config.peerByte 0 pa) else NMap.get emptyByte s.mem pa

/-- R375: before a remote line is read, its owner may have written it: then its bytes are free.
(DEDUCED, log entry 65.) -/
def State.peerTurn (s : State) (pa : Nat) : State :=
  if !isRemote pa then s
  else
    let (i, s) := s.draw 2
    if i = 0 then s
    else { s with peer := (List.range 64).foldl (fun m k =>
      NMap.put m (lineOf pa + k) (Config.peerByte s.tick (lineOf pa + k))) s.peer }

/-- R490: a remote line whose link is down. -/
def State.linkDown (s : State) (pa : Nat) : Bool := isRemote pa && !(s.link (remoteLink pa)).up

/-- Bytes at their homes. -/
def State.homeBytes (s : State) (pa : Nat) : Nat → List Byte
  | 0 => []
  | n + 1 => s.homeByte pa :: s.homeBytes (pa + 1) n

/-- One byte performed at its home. -/
def State.setHome (s : State) (pa : Nat) (b : Byte) : State :=
  if isRemote pa then { s with peer := NMap.put s.peer pa b } else { s with mem := NMap.set emptyByte s.mem pa b }

/-- Bytes performed at their homes in turn. -/
def State.setHomes (s : State) : List (Nat × Byte) → State
  | [] => s
  | (pa, b) :: r => (s.setHome pa b).setHomes r

/-- R452: a write of bytes of one line, by offset; one that covers all 64 bytes clears the line's poison. -/
def State.writeLine (s : State) (line : Nat) (bytes : NMap Byte) : State :=
  let s := s.setHomes (bytes.map (fun p => (line + p.1, p.2)))
  if bytes.length = 64 then { s with poison := s.poison.filter (fun p => p.1 ≠ line / 64) } else s

/-- Bytes from an address on, grouped into a write of each line. -/
def State.writeHome (s : State) (pa : Nat) (bytes : List Byte) : State :=
  s.setHomes (bytes.zipIdx.map (fun p => (pa + p.2, p.1)))

/-- R452, R467: the part that an address lies in is poisoned. -/
def State.poisoned (s : State) (pa : Nat) : Bool := s.poison.any (fun p => p.1 = pa / 64)

/-- R442: the DETAIL of a data error in a poisoned part. -/
def State.poisonDetail (s : State) (pa : Nat) : Nat := ((s.poison.find? (fun p => p.1 = pa / 64)).map (·.2)).getD 4

/-- R442, R452, R467: a part of memory is poisoned. What a migration has poisoned (DETAIL 4) stays so until a write clears
it, and any other poison is that of the last error. (DEDUCED, log entry 60.) -/
def State.addPoison (s : State) (part detail : Nat) : State :=
  let old := s.poison.any (fun p => p.1 = part && p.2 = 4)
  { s with poison := (part, if old then 4 else detail) :: s.poison.filter (fun p => p.1 ≠ part) }

/-- R158: the line of an address is in near memory: where a migration under way has moved it, or where its frame is served
from. -/
def State.inSram (s : State) (pa : Nat) : Bool :=
  let d := s.die (homeDie pa)
  match d.migs.find? (fun m => decide (m.frame = frameOf pa) && decide (pa % 65536 / 256 < m.moved)) with
  | some m => m.slot.isSome
  | none => d.slots.any (fun p => p.2 = frameOf pa)

/-- R442, R466: the DETAIL of an error in the storage that holds an address at its home. (DEDUCED, log entry 60.) -/
def State.storageDetail (s : State) (pa : Nat) : Nat := if s.inSram pa then 2 else 1

/-- R179: a bulk command under way owns the line of this address. -/
def State.owned (s : State) (pa : Nat) : Bool := s.cmds.any (fun c => !c.dry && c.lines.contains (pa / 64))

/-- R179: a command owns a line, virtual and physical; one whose page waits on the host it owns by its virtual address. -/
def BulkCmd.owns (c : BulkCmd) (vline pa : Nat) : Bool :=
  !c.dry && (c.lines.contains (pa / 64) || c.waits.any (fun w => w.write && decide (w.line = vline)))

/-- R179: a bulk command under way owns a line, virtual and physical. -/
def State.lineOwned (s : State) (l : Nat × Nat) : Bool := s.cmds.any (fun c => c.owns l.1 l.2)

/-- R179: a bulk command under way of this block owns the scratch row of this offset. -/
def State.rowOwned (s : State) (blk off : Nat) : Bool :=
  s.cmds.any (fun c => !c.dry && decide (c.block = blk) && c.rows.contains (off / 64))

/-! ### Vectors and records -/

/-- R371: an event on a vector. Its message is sent by MSIX_SEND. -/
def State.signal (s : State) (vec : Nat) : State :=
  if s.host.pending.contains vec then s
  else { s with host := { s.host with pending := s.host.pending ++ [vec] } }

/-- R394: the 32 bytes of a record. -/
def ErrRec.bytes (r : ErrRec) : List Byte :=
  bytesOf 4 (r.code * 2 ^ 16 + r.step * 2 ^ 12 + r.source * 2 ^ 8 + r.physical.toNat * 16 + r.nested.toNat * 8 +
    r.paired.toNat * 4 + r.setwide.toNat * 2 + r.addr.isSome.toNat) ++
  bytesOf 4 (r.core * 2 ^ 16 + r.warp * 256 + r.lane) ++ bytesOf 4 r.tag ++ bytesOf 4 r.block ++
  bytesOf 8 r.pc ++ bytesOf 8 (r.addr.getD r.info)

/-- R372: the ring of a die holds no further record. -/
def Die.elogFull (d : Die) : Bool := decide (d.elogSize = 0) || decide ((d.elogHead - d.elogTail).toNat = 2 ^ d.elogSize)
/-- R372: where the next record of a die's ring goes. -/
def Die.elogAt (d : Die) : Nat :=
  d.elogHi.toNat * 2 ^ 32 + d.elogLo.toNat + 32 * (d.elogHead.toNat % 2 ^ d.elogSize)

/-- R372: a record's bytes written at an address of the package's memory. (DESIGN CHOICE, log entry 20.) -/
def State.ringBytes (s : State) (pa : Nat) (r : ErrRec) : State := if isLocal pa then s.writeHome pa r.bytes else s

/-- R179: a record that its place, or an earlier record for the same ring, keeps back. -/
def State.deferRec (s : State) (d : RecDest) (r : ErrRec) : State := { s with recs := s.recs ++ [(d, r)] }

/-- R179: the ring of a die cannot take a record now: a bulk command owns its place, or an earlier record waits. -/
def State.ringWaits (s : State) (die : Nat) : Bool :=
  s.recs.any (fun p => p.1 = .die die) || s.owned (s.die die).elogAt

/-- R372: a record to the ring of a die, or to its lost-record counter; one whose line a bulk command owns waits (R179). -/
def State.ringRecord (s : State) (die : Nat) (r : ErrRec) : State :=
  if (s.die die).elogFull then s.modDie die (fun d => { d with lost := d.lost + 1 })
  else if s.ringWaits die then s.deferRec (.die die) r
  else ((s.ringBytes (s.die die).elogAt r).modDie die (fun d => { d with elogHead := d.elogHead + 1 })).signal (64 + die)

end Sys2Proof.Machine
end

