-- ==== Sys2Proof/Machine/Memory.lean ====
section
/-! DEFINITION. Memory as a core sees it: the L1 and staging area, releases and acquires, the L2, loads and stores, code
fetch (R154 to R156, R165 to R185, R466). Addresses here are physical. -/

namespace Sys2Proof.Machine

/-! ### Lines of a core -/

/-- The line that holds an address. -/
def Core.line (c : Core) (pa : Nat) : Option Line := c.l1.find? (fun l => l.pa = lineOf pa)
/-- The staged line of an address. -/
def Core.stagedLine (c : Core) (pa : Nat) : Option Staged := c.staged.find? (fun l => l.pa = lineOf pa)
/-- The core without a line. -/
def Core.dropLine (c : Core) (pa : Nat) : Core := { c with l1 := c.l1.filter (fun l => l.pa ≠ lineOf pa) }
/-- The core with a line replaced or added. -/
def Core.putLine (c : Core) (l : Line) : Core := { c.dropLine l.pa with l1 := l :: (c.dropLine l.pa).l1 }
/-- R154: the set of an address. -/
def setOf (pa : Nat) : Nat := pa / 64 % 1024

/-- R491: a write-back to a peer meets an error response: its link is down, or the owner refuses it. -/
def State.refused (s : State) (core pa : Nat) : Bool := s.linkDown pa || (s.core core).refused.contains (lineOf pa)

/-- A line's dirty bytes go home, and poison goes with them (R467): they clear none. A remote line that is refused drops them
and leaves a record (R491). -/
def State.writeBack (s : State) (core pa va : Nat) (dirty : NMap Byte) (bad : Bool) : State :=
  if dirty = [] then s
  else if s.refused core pa then
    (s.modCore core (fun c => { c with refused := c.refused.filter (· ≠ lineOf pa) })).ringRecord (homeDie pa)
      { code := 0x0305, source := 7, addr := some va, core := core }
  else if bad then (s.setHomes (dirty.map (fun p => (lineOf pa + p.1, p.2)))).addPoison (pa / 64) (s.storageDetail pa)
  else s.writeLine (lineOf pa) dirty

/-- R179: some dirty line of the core is owned by a bulk command, so that a release of it waits. -/
def State.dirtyOwned (s : State) (core : Nat) : Bool :=
  (s.core core).staged.any (fun l => s.owned l.pa) ||
    (s.core core).l1.any (fun l => decide (l.dirty ≠ []) && s.owned l.pa)

/-- R169 step 2: every dirty byte of a core is performed at its home: staging first, then the newer bytes of the L1,
which stay as filled bytes. `remote` covers bytes homed at peers. A line that a bulk command owns is kept back (R179). -/
def State.releaseCore (s : State) (core : Nat) (remote : Bool) : State :=
  let c := s.core core
  let goes (pa : Nat) : Bool := (remote || !isRemote pa) && !s.owned pa
  let s := (c.staged.filter (fun l => goes l.pa)).foldl (fun s l => s.writeBack core l.pa l.va l.dirty l.bad) s
  let s := (c.l1.filter (fun l => goes l.pa)).foldl (fun s l => s.writeBack core l.pa l.va l.dirty l.bad) s
  let c := { c with refused := (s.core core).refused }
  s.setCore core { c with
    staged := c.staged.filter (fun l => !goes l.pa),
    l1 := c.l1.map (fun l => if goes l.pa then
      { l with filled := l.dirty.foldl (fun f p => NMap.put f p.1 p.2) l.filled, dirty := [], epoch := 0 } else l) }

/-- R170, R375: a forced release of a core. (DEDUCED, log entry 17.) -/
def State.forcedRelease (s : State) (core : Nat) : State := s.releaseCore core true

/-- R469: the lines of which copies and sprouts on a core hold pending bytes: who, and the line. -/
def State.pendingOn (s : State) (core : Nat) : List (Nat × Nat) :=
  (s.threads.flatMap (fun p => match p.2.pair with
    | none => []
    | some q => if (s.block p.2.block).any (fun b => decide (b.core = core)) then
        q.bytes.map (fun b => (p.1, lineOf b.pa)) else []) ++
   s.breads.flatMap (fun p => if p.2.core = core then p.2.left.map (fun b => (p.1, lineOf b.2.pa)) else [])).eraseDups

/-- R467, R469: pending bytes that a core holds in the line of an address are in error. -/
def State.spoiltOn (s : State) (core pa : Nat) : Bool :=
  let bad (b : PendByte) : Bool := decide (lineOf b.pa = lineOf pa) && b.bad.isSome
  s.threads.any (fun p => (s.block p.2.block).any (fun b => decide (b.core = core)) && p.2.pair.any (fun q => q.bytes.any bad)) ||
    s.breads.any (fun p => decide (p.2.core = core) && p.2.left.any (fun b => bad b.2))

/-- R467: a line of an L1 is no longer in error when it holds no dirty byte and no pending byte in error. -/
def State.heal (s : State) (core pa : Nat) : State :=
  let bad := s.spoiltOn core pa
  s.modCore core (fun c => { c with l1 := c.l1.map (fun l =>
    if l.pa = lineOf pa then { l with bad := l.bad && (decide (l.dirty ≠ []) || bad) } else l) })

/-- R469: the lines of pending bytes that stand in the staging area: those that the L1 does not hold. -/
def State.pendingStaged (s : State) (core : Nat) : Nat :=
  ((s.pendingOn core).filter (fun p => ((s.core core).line p.2).isNone)).length

/-- R168, R469: the lines of a staging area in use. -/
def State.stagedLines (s : State) (core : Nat) : Nat := (s.core core).staged.length + s.pendingStaged core

/-- R171: the core discards its filled bytes, of remote lines too with `remote`; pending bytes stay (R469). -/
def State.acquireCore (s : State) (core : Nat) (remote : Bool) : State :=
  let pending := s.pendingOn core
  s.modCore core (fun c => { c with
    l1 := (c.l1.map (fun l => if remote || !isRemote l.pa then { l with filled := [] } else l)).filter
      (fun l => !(decide (l.filled = []) && decide (l.dirty = [])) || pending.any (fun p => p.2 = l.pa)) })

/-- R168, R170: dirty bytes of a line go to the staging area; a full area first makes the core release. -/
def State.stage (s : State) (core pa va : Nat) (dirty : NMap Byte) (epoch : Nat) (bad : Bool) : State :=
  if dirty = [] then s
  else
    let s := if ((s.core core).stagedLine pa).isNone && decide (4096 ≤ s.stagedLines core) then
      s.forcedRelease core else s
    let c := s.core core
    let old := (c.stagedLine pa).getD { pa := lineOf pa, va := va, dirty := [], epoch := epoch }
    let new := { old with va := va, dirty := dirty.foldl (fun f p => NMap.put f p.1 p.2) old.dirty, epoch := min old.epoch epoch,
                          bad := old.bad || bad, mark := if old.bad then old.mark else 2 }
    s.setCore core { c with staged := new :: c.staged.filter (fun l => l.pa ≠ lineOf pa) }

/-- R154, R168, R170: a line leaves the L1. Dirty bytes that find the staging area full go home by the forced release; what it
keeps back for a bulk command's sake (R179) is staged. -/
def State.evict (s : State) (core pa : Nat) : State :=
  match (s.core core).line pa with
  | none => s
  | some l =>
    let full := ((s.core core).stagedLine pa).isNone && decide (4096 ≤ s.stagedLines core)
    let s := if l.dirty ≠ [] ∧ full then s.forcedRelease core else s
    match (s.core core).line pa with
    | none => s
    | some l => (s.modCore core (·.dropLine pa)).stage core pa l.va l.dirty l.epoch l.bad

/-- R155: of the lines of a set, each with its hint, those that may be evicted next: a line that came in as the next victim,
else one that is not kept, else any. -/
def evictable (ls : List (Nat × Nat)) : List Nat :=
  let next := ls.filter (fun p => p.2 = 2)
  let plain := ls.filter (fun p => p.2 ≠ 3)
  (if next ≠ [] then next else if plain ≠ [] then plain else ls).map (·.1)

/-- R155: the lines of a set of the L1 that may be evicted next. -/
def Core.victims (c : Core) (set : Nat) : List Nat :=
  evictable ((c.l1.filter (fun l => setOf l.pa = set)).map (fun l => (l.pa, l.hint)))

/-! ### The L2 (R155 to R157, R168) -/

/-- R156: before an L2 line of 256 bytes leaves, the L1 copies of its parts are recalled. -/
def State.recall (s : State) (line : Nat) : State :=
  s.cores.foldl (fun s p =>
    (p.2.l1.filter (fun l => l.pa / 256 = line)).foldl (fun s l => s.evict p.1 l.pa) s) s

/-- R170, R179, R469: `n` more lines might not fit into the staging area of a core, and no release can make room: it would wait
for a line that a bulk command owns, or pending bytes, which no release moves, take the room. Of the `n` lines those that the L1
holds with pending bytes, and at most 256 that a store adds (R473), are pending ones. -/
def State.stagingWaits (s : State) (core n : Nat) : Bool :=
  let held := s.pendingStaged core
  decide (4096 < s.stagedLines core + n) &&
    (s.dirtyOwned core || decide (4096 < held + min n ((s.pendingOn core).length - held + 256)))

/-- R170: an L2 line whose recall need not wait. -/
def State.recallable (s : State) (line : Nat) : Bool :=
  s.cores.all (fun p => !(p.2.l1.any (fun l => decide (l.pa / 256 = line) && decide (l.dirty ≠ []))) || !s.stagingWaits p.1 4)

/-- R157, R168: how many 256-byte lines the L2 of a die can hold: its units, but for the 25 MiB of the staging areas. -/
def Die.l2Lines (d : Die) : Nat := d.l2Units * 262144 - 102400

/-- R155: the lines of an L2 that may leave for a line to come in: those of its set, which the part defines, or, when none of
them can and the L2 is full, those that may leave another set.
(DESIGN CHOICE, log entry 73.) -/
def State.l2Victims (s : State) (die line : Nat) : List Nat :=
  let all := (s.die die).l2
  let inSet (line : Nat) : List Nat :=
    (evictable (all.filter (fun p => Config.l2Set p.1 = Config.l2Set line))).filter s.recallable
  if inSet line = [] ∧ (s.die die).l2Lines ≤ all.length then (all.map (·.1)).filter (fun l => (inSet l).contains l)
  else inSet line

/-- R156: a line leaves an L2. -/
def State.l2Evict (s : State) (die line : Nat) : State :=
  (s.recall line).modDie die (fun d => { d with l2 := d.l2.filter (·.1 ≠ line) })

/-- R155, R156: a home slice takes a line into its L2, with its hint. Another line may leave, by the part's choice, and must
when the L2 is full. A remote line enters no L2 of the package. (DESIGN CHOICE, log entry 73.) -/
def State.touchL2 (s : State) (pa hint : Nat) : State :=
  if isRemote pa then s
  else
    let die := homeDie pa
    let line := pa / 256
    match (s.die die).l2.find? (fun p => p.1 = line) with
    | some p =>
      if hint ≠ 3 ∨ p.2 = 3 then s
      else s.modDie die (fun d => { d with l2 := d.l2.map (fun q => if q.1 = line then (line, 3) else q) })
    | none =>
      let vs := s.l2Victims die line
      let must := decide ((s.die die).l2Lines ≤ (s.die die).l2.length)
      let (v, s) := s.drawFrom none (vs.map some ++ (if must then [] else [none]))
      let s := match v with | some l => s.l2Evict die l | none => s
      s.modDie die (fun d => { d with l2 := (line, hint) :: d.l2 })

/-! ### Lines that enter the L1 -/

/-- R155: evicts a line of a full set. The spec gives pseudo-LRU no algorithm: any line that may go goes.
(DESIGN CHOICE, log entry 73.) -/
def State.makeRoom (s : State) (core pa ways : Nat) : State :=
  let c := s.core core
  if (c.l1.filter (fun l => setOf l.pa = setOf pa)).length < ways then s
  else
    let (v, s) := s.drawFrom 0 (c.victims (setOf pa))
    s.evict core v

/-- R154, R156: the line of an address, allocated when it is missing, in the L2 of its home too; the core has ways. -/
def State.allocate (s : State) (core pa hint : Nat) : Line × State :=
  match (s.core core).line pa with
  | some l => ({ l with hint := if hint = 3 then 3 else l.hint }, s)
  | none =>
    ({ pa := lineOf pa, va := 0, filled := [], dirty := [], hint := hint, epoch := 0 },
      (s.touchL2 pa hint).makeRoom core pa (s.ways core))

/-! ### Loads and stores -/

/-- R154, R174: the line from its home, with the bytes that the core has staged. -/
def State.lineBytes (s : State) (core pa : Nat) : List Byte :=
  let st := (((s.core core).stagedLine pa).map (·.dirty)).getD []
  (s.homeBytes (lineOf pa) 64).zipIdx.map (fun p => (NMap.find st p.2).getD p.1)

/-- A byte of a line in the L1: dirty or filled. -/
def Core.inL1 (c : Core) (pa : Nat) : Option Byte :=
  (c.line pa).bind (fun l => (NMap.find l.dirty (pa % 64)).orElse (fun _ => NMap.find l.filled (pa % 64)))

/-- A byte that the core holds: dirty, filled or staged. -/
def Core.holds (c : Core) (pa : Nat) : Option Byte :=
  (c.inL1 pa).orElse (fun _ => (c.stagedLine pa).bind (fun l => NMap.find l.dirty (pa % 64)))

/-- R154: a load's miss fills the whole line; its dirty bytes keep their values. A line that cannot be read at its home
fills nothing (R452, R490). -/
def State.fill (s : State) (core pa hint : Nat) : State :=
  let s := (s.touchL2 pa hint).peerTurn pa
  if s.ways core = 0 ∨ s.poisoned pa ∨ s.linkDown pa then s
  else
    let (l, s) := s.allocate core pa hint
    let fresh := (s.lineBytes core pa).zipIdx.map (fun p => (p.2, p.1))
    s.modCore core (·.putLine { l with filled := fresh.filter (fun p => (NMap.find l.dirty p.1).isNone) })

/-- A byte as a load of the core reads it, once its line has been filled. -/
def State.seenByte (s : State) (core pa : Nat) : Byte := ((s.core core).holds pa).getD (s.homeByte pa)

/-- R154: a load of these bytes hits: the L1 holds them, or, on a core with no cache ways, the staging area. -/
def State.loadHit (s : State) (core pa n : Nat) : Bool :=
  let c := s.core core
  (List.range n).all (fun i => (if s.ways core = 0 then c.holds (pa + i) else c.inL1 (pa + i)).isSome)

/-- R155: a hit with `.keep` marks the line. -/
def Core.keepLine (c : Core) (pa : Nat) : Core :=
  { c with l1 := c.l1.map (fun l => if l.pa = lineOf pa then { l with hint := 3 } else l) }

/-- R154, R155, R168, R178: bytes of one line as a load of the core reads them, all at once. -/
def State.loadBytes (s : State) (core hint pa n : Nat) : List Byte × State :=
  let s := if !s.loadHit core pa n then s.fill core pa hint
    else if hint = 3 then s.modCore core (·.keepLine pa) else s
  ((List.range n).map (fun i => s.seenByte core (pa + i)), s)

/-- R442, R455, R466: the DETAIL of the error that a read of a byte meets in the core's own storage: its L1, or its staging area. -/
def Core.heldBad (c : Core) (pa : Nat) : Option Nat :=
  let staged := ((c.stagedLine pa).filter (·.bad)).map (·.mark)
  match c.line pa with
  | some l =>
    if l.bad then some 3
    else if ((NMap.find l.dirty (pa % 64)).orElse (fun _ => NMap.find l.filled (pa % 64))).isSome then none
    else staged
  | none => staged

/-- R467: the DETAIL of the error that a read meets where the core holds a pending byte: in the L1, or, when the L1 does not hold
the line, in the staging area. -/
def Core.partBad (c : Core) (pa : Nat) : Option Nat :=
  match c.line pa with
  | some l => if l.bad then some 3 else none
  | none => ((c.stagedLine pa).filter (·.bad)).map (·.mark)

/-- R467: a store of all 64 bytes of a line clears the core's poison of it. -/
def Core.cleanse (c : Core) (pa : Nat) : Core :=
  { c with l1 := c.l1.map (fun l => if l.pa = lineOf pa then { l with bad := false } else l),
           staged := c.staged.map (fun l => if l.pa = lineOf pa then { l with bad := false } else l) }

/-- The lines, of those that bytes are stored to, that they cover whole. -/
def wholeLines (pas : List Nat) : List Nat :=
  ((pas.map lineOf).eraseDups).filter (fun l => (List.range 64).all (fun i => pas.contains (l + i)))

/-- R154, R182: a plain store of a byte; `va` is the virtual address of its line. -/
def State.storeByte (s : State) (core hint va pa : Nat) (b : Byte) : State :=
  if s.ways core = 0 then s.stage core pa va [(pa % 64, b)] s.xlat.qepoch false
  else
    let (l, s) := s.allocate core pa hint
    s.modCore core (·.putLine { l with
      va := va, dirty := NMap.put l.dirty (pa % 64) b,
      epoch := if l.dirty = [] then s.xlat.qepoch else l.epoch })

/-- A plain store of bytes. -/
def State.storeBytes (s : State) (core hint va pa : Nat) : List Byte → State
  | [] => s
  | b :: r => (s.storeByte core hint va pa b).storeBytes core hint va (pa + 1) r

/-- R176: the core writes a line's dirty bytes home and discards its copy. -/
def State.flushLine (s : State) (core pa : Nat) : State :=
  let c := s.core core
  let s := match c.stagedLine pa with | some l => s.writeBack core l.pa l.va l.dirty l.bad | none => s
  let s := match c.line pa with | some l => s.writeBack core l.pa l.va l.dirty l.bad | none => s
  s.modCore core (fun c => { c.dropLine pa with staged := c.staged.filter (fun l => l.pa ≠ lineOf pa) })

/-- R328, R180: the core discards the filled bytes of a line. -/
def State.discardLine (s : State) (core pa : Nat) : State :=
  s.modCore core (fun c => match c.line pa with
    | none => c
    | some l => if l.dirty = [] then c.dropLine pa else c.putLine { l with filled := [] })

/-- R179, R180: an engine writes these bytes of a line at its home: the issuing core's copies of them, which are older, go. What
else the core has stored in the line stays with it (R168). -/
def State.dropBytes (s : State) (core pa : Nat) (offs : List Nat) : State :=
  let keep (m : NMap Byte) : NMap Byte := m.filter (fun p => !offs.contains p.1)
  let pending := s.pendingOn core
  let s := s.modCore core (fun c => { c with
    staged := (c.staged.map (fun l => if l.pa = lineOf pa then { l with dirty := keep l.dirty } else l)).filter (fun l => l.dirty ≠ []),
    l1 := (c.l1.map (fun l => if l.pa = lineOf pa then { l with dirty := keep l.dirty, filled := keep l.filled } else l)).filter
      (fun l => decide (l.pa ≠ lineOf pa) || decide (l.dirty ≠ []) || decide (l.filled ≠ []) || pending.any (fun p => p.2 = l.pa)) })
  s.heal core pa

/-- R455, R452: a line in error with dirty bytes leaves with its way: a record, and its part is poisoned, at its home and in the
staging area to which its bytes go, by DETAIL 4. -/
def State.wayError (s : State) (core pa : Nat) : State :=
  let s := (s.evict core pa).modCore core (fun c => { c with
    staged := c.staged.map (fun l => if l.pa = lineOf pa then { l with mark := 4 } else l) })
  (s.addPoison (pa / 64) 4).ringRecord (dieOf core)
      { code := 0x0201, source := 4, physical := true, addr := some (lineOf pa) }

/-- R152: a way leaves the cache: a line of each full set goes, and of any other set perhaps. -/
def State.loseWay (s : State) (core ways : Nat) : State :=
  let sets := ((s.core core).l1.map (fun l => setOf l.pa)).eraseDups
  sets.foldl (fun s set =>
    let ls := ((s.core core).l1.filter (fun l => setOf l.pa = set)).map (·.pa)
    let (i, s) := s.draw (if ls.length ≤ ways then ls.length + 1 else ls.length)
    match ls[i]? with
    | some pa => if ((s.core core).line pa).any (fun l => l.bad && decide (l.dirty ≠ [])) then s.wayError core pa else s.evict core pa
    | none => s) s

/-! ### Code (R184) -/

/-- The 32-byte fetch block of a physical address, as its home holds it. -/
def State.homeBlock (s : State) (pa : Nat) : List Word := wordsOf 8 (ofBytes (s.homeBytes (pa / 32 * 32) 32))

/-- R184: the fetch block that the core's instruction cache gives. A block it holds may have left it at any time, which matters
when the home would now give another one, or, not `sound`, none. (DESIGN CHOICE, log entry 67.) -/
def State.cachedBlock (s : State) (core pa : Nat) (sound : Bool) : Option (List Word) × State :=
  match NMap.find (s.core core).icache (pa / 32) with
  | none => (none, s)
  | some old =>
    let (i, s) := s.draw (if sound && decide (old = s.homeBlock pa) then 1 else 2)
    (if i = 0 then some old else none, s)

/-- R184: a fetch block from its home, which the core's instruction cache takes. (DESIGN CHOICE, log entry 19.) -/
def State.fillBlock (s : State) (core pa : Nat) : List Word × State :=
  let new := s.homeBlock pa
  (new, s.modCore core (fun c => { c with icache := NMap.put c.icache (pa / 32) new }))

/-- R184: `fence.code`: the core's instruction cache and every fetched block that has not yet issued. -/
def State.fenceCode (s : State) (core : Nat) : State :=
  let s := s.modCore core (fun c => { c with icache := [] })
  { s with threads := s.threads.map (fun (p : Nat × Thread) =>
      if (s.block p.2.block).any (fun b => decide (b.core = core)) then
        (p.1, { p.2 with fetched := p.2.fetched.filter (·.2.2) }) else p) }

end Sys2Proof.Machine
end

