-- ==== Sys2Proof/Machine/Translate.lean ====
section
/-! DEFINITION. Translation (R160 to R164, R447, R449, R497). -/

namespace Sys2Proof.Machine

/-- R161: the rights that an access needs. -/
inductive Need | r | w | rw | x
  deriving DecidableEq, Repr

/-- A failure of translation: cause and DETAIL (R442), whether R447 lets the host resolve it, and the address of a table
entry that could not be read (R452). -/
structure TFault where
  cause  : Nat
  detail : Nat
  route  : Bool
  entry  : Option Nat := none
  deriving DecidableEq, Repr

/-- How a walk ends; `wait`: an entry's line is owned by a bulk command (R179). -/
inductive WalkRes
  | leaf (e : TlbEntry)
  | fault (f : TFault)
  | wait
  deriving DecidableEq, Repr

/-- R160: levels of the tables: the lowest index bit and the number of index bits. -/
def walkLevels : List (Nat × Nat) := [(40, 12), (29, 11), (21, 8), (16, 5)]

/-- R161: reading the entries from a table down, each at its home, which leaves the L2 as it is.
(DESIGN CHOICE, log entry 19, DESIGN CHOICE, log entry 53.) -/
def State.walkFrom (s : State) (va : Nat) : List (Nat × Nat) → Nat → WalkRes
  | [], _ => .fault ⟨0x14, 3, false, none⟩
  | (sh, n) :: rest, table =>
    let ea := table + 8 * (va / 2 ^ sh % 2 ^ n)
    let e := ofBytes (s.homeBytes ea 8)
    let addr := bitsOf e 47 8 * 256
    let bad := WalkRes.fault ⟨0x14, 3, false, none⟩
    if s.owned ea then .wait
    else if s.poisoned ea then .fault { cause := 0x18, detail := s.poisonDetail ea, route := false, entry := some ea }
    else if !bitOf e 0 then .fault ⟨0x14, 2, true, none⟩
    else if bitsOf e 63 48 ≠ 0 ∨ bitsOf e 7 5 ≠ 0 then bad
    else if bitOf e 1 then
      if sh = 40 ∨ (bitOf e 3 ∧ !bitOf e 2) ∨ addr % 2 ^ sh ≠ 0 then bad
      else if !(isLocal addr || isPeer addr) then .fault ⟨0x14, 4, false, none⟩
      else .leaf { va := va / 2 ^ sh * 2 ^ sh, size := 2 ^ sh, pa := addr, r := bitOf e 2, w := bitOf e 3,
                   x := bitOf e 4, gen := s.xlat.sdGen }
    else match rest with
      | [] => bad
      | (_, m) :: _ =>
        if addr % (8 * 2 ^ m) ≠ 0 then bad
        else if !isLocal addr then .fault ⟨0x14, 4, false, none⟩
        else s.walkFrom va rest addr

/-- R160: a walk of a virtual address. A PT_ROOT that names no local frame ends it as an entry that names none does.
(DESIGN CHOICE, log entry 77.) -/
def State.walk (s : State) (va : Nat) : WalkRes :=
  if isLocal s.xlat.ptRoot then s.walkFrom va walkLevels s.xlat.ptRoot else .fault ⟨0x14, 4, false, none⟩

def TlbEntry.covers (e : TlbEntry) (va : Nat) : Bool := decide (e.va ≤ va) && decide (va < e.va + e.size)
/-- R161: the leaf grants these rights. -/
def TlbEntry.grants (e : TlbEntry) : Need → Bool | .r => e.r | .w => e.w | .rw => e.r && e.w | .x => e.x
/-- The physical address. -/
def TlbEntry.addr (e : TlbEntry) (va : Nat) : Nat := e.pa + (va - e.va)

/-- R442: the DETAIL of a permission fault. -/
def Need.detail : Need → Nat | .r => 1 | .w => 2 | .rw => 3 | .x => 4

/-- Fills the TLBs of a core and its die with an entry (R162). -/
def State.fillTlb (s : State) (core : Nat) (e : TlbEntry) : State :=
  let put (l : List TlbEntry) := e :: l.filter (fun t => !(t.covers e.va) && !(e.covers t.va))
  (s.modCore core (fun c => { c with tlb := put c.tlb })).modDie (dieOf core) (fun d => { d with tlb := put d.tlb })

/-- How a translation ends. -/
inductive Trans
  | ok (pa : Nat)
  | fault (f : TFault)
  | wait
  deriving DecidableEq, Repr

/-- R395, R397, R452: the memory controller that cannot give a walker a table entry records it. (DEDUCED, log entry 60.) -/
def State.walkRefusal (s : State) (core : Nat) (f : TFault) : State :=
  match f.entry with
  | some ea => s.ringRecord (homeDie ea) { code := f.cause, source := 4, physical := true, addr := some ea, core := core }
  | none => s

/-- A walk on behalf of an access, and the fill that follows it (R162, R163: it starts and ends in one step).
(DESIGN CHOICE, log entry 53.) -/
def State.walkFor (s : State) (core va : Nat) (need : Need) : Trans × State :=
  match s.walk va with
  | .wait => (.wait, s)
  | .fault f => (.fault f, s.walkRefusal core f)
  | .leaf e =>
    (if e.grants need then .ok (e.addr va) else .fault ⟨0x15, need.detail, true, none⟩, s.fillTlb core e)

/-- R162: translation of an access of a core. A TLB entry may have been replaced at any time, which matters only when a
walk would now end otherwise. `since` is the least SD_GEN of an entry that may be used (R449).
(DESIGN CHOICE, log entry 53.) -/
def State.translate (s : State) (core va : Nat) (need : Need) (since : Nat) : Trans × State :=
  let usable (e : TlbEntry) : Bool := e.covers va && decide (since ≤ e.gen)
  let hit := ((s.core core).tlb.find? usable).orElse (fun _ => (s.die (dieOf core)).tlb.find? usable)
  match hit with
  | none => s.walkFor core va need
  | some e =>
    if e.grants need then
      let same := match s.walk va with
        | .leaf n => decide (n.addr va = e.addr va) && n.grants need
        | _ => false
      let (i, s) := s.draw (if same then 1 else 2)
      if i = 0 then (.ok (e.addr va), s) else s.walkFor core va need
    else
      let keep (l : List TlbEntry) := l.filter (fun t => !t.covers va)
      let s := (s.modCore core (fun c => { c with tlb := keep c.tlb })).modDie (dieOf core)
        (fun d => { d with tlb := keep d.tlb })
      s.walkFor core va need

/-- R447: whether a failure is a page fault for the host to resolve. -/
def State.routed (s : State) (f : TFault) : Bool := s.xlat.route && f.route

/-! ### The scheduler's own accesses (R497) -/

/-- How the scheduler reaches a byte. -/
inductive Reach
  | ok (pa : Nat)
  | fail
  /-- a bulk command owns a line that is needed (R179) -/
  | wait
  deriving DecidableEq, Repr

/-- R497: a virtual byte as the walker of die 0 reaches it. (DEDUCED, log entry 47.) -/
def State.reach (s : State) (va : Nat) (need : Need) : Reach :=
  if va ≥ 2 ^ 52 then .fail
  else match s.walk va with
    | .wait => .wait
    | .fault _ => .fail
    | .leaf e =>
      let pa := e.addr va
      if !e.grants need || (s.poisoned pa && decide (need = .r)) || s.linkDown pa then .fail
      else if s.lineOwned (lineOf va, pa) then .wait
      else .ok pa

/-- R497: bytes read; else the first virtual address that fails, or none while one waits. -/
def State.readVirt (s : State) (va : Nat) : Nat → Except (Option Nat) (List Byte)
  | 0 => .ok []
  | n + 1 =>
    match s.reach va .r with
    | .fail => .error (some va)
    | .wait => .error none
    | .ok pa => match s.readVirt (va + 1) n with
      | .error a => .error a
      | .ok r => .ok (s.homeByte pa :: r)

/-- R497: the physical addresses of bytes to write; else the first virtual address that fails, or none while one waits. -/
def State.writableVirt (s : State) (va : Nat) : Nat → Except (Option Nat) (List Nat)
  | 0 => .ok []
  | n + 1 =>
    match s.reach va .w with
    | .fail => .error (some va)
    | .wait => .error none
    | .ok pa => match s.writableVirt (va + 1) n with
      | .error a => .error a
      | .ok r => .ok (pa :: r)

/-- R497: bytes written; nothing is written when some byte cannot be. -/
def State.writeVirt (s : State) (va : Nat) (bytes : List Byte) : Except (Option Nat) State :=
  match s.writableVirt va bytes.length with
  | .error a => .error a
  | .ok pas => .ok (s.setHomes (pas.zip bytes))

/-- The state as an access sees it that does not wait for owned lines. -/
def State.calm (s : State) : State := { s with cmds := [] }

/-- R397: where an access of the scheduler that fails is refused: a poisoned table entry or byte, or a byte over a link that
is down. -/
def State.refusedAt (s : State) (va : Nat) : Option Nat :=
  match s.walk va with
  | .wait => none
  | .fault f => f.entry
  | .leaf e => if s.poisoned (e.addr va) || s.linkDown (e.addr va) then some (e.addr va) else none

/-- R397: the walker of die 0 refuses an access of the scheduler: its walk ends in no leaf, and no table entry is unreadable. -/
def State.walkerRefuses (s : State) (va : Nat) : Bool :=
  decide (va < 2 ^ 52) && (match s.walk va with | .fault f => f.entry.isNone | _ => false)

/-- R395, R397: the agent that refuses an access of the scheduler records it. (DEDUCED, log entry 60.) -/
def State.refusedHere (s : State) (va : Nat) : State :=
  match s.refusedAt va with
  | some pa => s.ringRecord (homeDie pa) { code := 0x18, source := if isRemote pa then 7 else 4, physical := true, addr := some pa }
  | none => if s.walkerRefuses va then s.ringRecord 0 { code := 0x14, source := 3, addr := some va } else s

end Sys2Proof.Machine
end

