-- ==== Sys2Proof/Machine/Records.lean ====
section
/-! DEFINITION. Error records of launches and threads (R395, R396, R497). -/

namespace Sys2Proof.Machine

/-- R466: a GDDR-7 transfer that fails its link CRC is retried up to 4 times, and is then uncorrectable: the retries, which
CE_MEM counts (R468), and what the read finds. Nothing but GDDR-7 has that CRC. -/
def readOutcome (c : ReadCheck) (gddr : Bool) : Nat × ReadCheck :=
  match c with
  | .crc n => if !gddr then (0, .clean) else (min n 4, if 4 < n then .uncorrectable else .clean)
  | c => (0, c)

/-- R497: the record of an address field of a launch record that cannot be used. -/
def unusableRec (la : Launch) (va : Nat) : ErrRec := { code := 0x0309, source := 9, addr := some va, tag := la.recd.tag.toNat }

/-- R497: that record in the ring of die 0: one for each field of a launch. -/
def State.noteUnusable (s : State) (l field va : Nat) : State :=
  match s.launch l with
  | none => s
  | some la =>
    if la.unusable.contains field then s
    else ((s.setLaunch l { la with unusable := field :: la.unusable }).refusedHere va).ringRecord 0 (unusableRec la va)

/-- R396: the copy of a record in a ring of a launch: the bytes to write, or the address that fails; none while a bulk command
owns a line of it (R179). (DEDUCED, log entry 21.) -/
def State.ringCopy (s : State) (base : Nat) (r : ErrRec) : Except (Option Nat) (List (Nat × Byte)) :=
  match s.readVirt base 12 with
  | .error va => .error va
  | .ok h =>
    let cap := ofBytes (h.take 4)
    let written := ofBytes ((h.drop 4).take 4)
    let used := ofBytes (h.drop 8)
    let slot := base + 64 + 32 * (written % 2 ^ cap)
    if cap < 4 ∨ cap > 16 ∨ (written + 2 ^ 32 - used) % 2 ^ 32 = 2 ^ cap then .ok []
    else match s.writableVirt slot 32, s.writableVirt (base + 4) 4 with
      | .ok a, .ok b => .ok (a.zip r.bytes ++ b.zip (bytesOf 4 (written + 1)))
      | .error va, _ => .error va
      | .ok _, .error va => .error va

/-- R179, R396: a record copied to a ring of a launch, unless an earlier one waits or it has to wait itself.
(DEDUCED, log entry 21.) -/
def State.copyRecord (s : State) (l base : Nat) (r : ErrRec) : State :=
  if s.recs.any (fun p => p.1 = .launch l base) then s.deferRec (.launch l base) r
  else match s.ringCopy base r with
    | .error none => s.deferRec (.launch l base) r
    | .error (some va) => s.noteUnusable l 0x58 va
    | .ok bytes => s.setHomes bytes

/-- R396: a record copied to the ring of its launch. (DEDUCED, log entry 21.) -/
def State.launchRecord (s : State) (l : Nat) (r : ErrRec) : State :=
  match s.launch l with
  | none => s
  | some la => if la.recd.errlog = 0 then s else s.copyRecord l la.recd.errlog r

/-- R179: the records that waited for lines that a bulk command owned are written, in their order. -/
def State.flushRecs (s : State) : State :=
  s.recs.foldl (fun (s : State) p => match p.1 with
    | .die d => s.ringRecord d p.2
    | .launch l base => s.copyRecord l base p.2) { s with recs := [] }

/-- R395, R396: a record of a launch. (DEDUCED, log entry 21.) -/
def State.recordOf (s : State) (die l : Nat) (r : ErrRec) : State := (s.ringRecord die r).launchRecord l r

/-- R396, R497: the failure of an address field of a launch, whose record is one of the launch. -/
def State.unusable (s : State) (l field va : Nat) : State :=
  match s.launch l with
  | none => s
  | some la =>
    if la.unusable.contains field then s else (s.noteUnusable l field va).launchRecord l (unusableRec la va)

/-- R394, R395: the fields of a record that name a thread; of a warp in handler mode it says so. -/
def Env.ident (e : Env) (r : ErrRec) : ErrRec :=
  { r with source := if e.th.isWarp then 0 else 1, paired := e.la.paired, core := e.blk.core, warp := e.th.warpId,
           tag := e.la.recd.tag.toNat, block := e.blk.id, nested := r.nested || (e.th.isWarp && e.th.handler) }

/-- R394, R395: a record about a thread. -/
def State.threadRecord (s : State) (e : Env) (r : ErrRec) : State :=
  s.recordOf (dieOf e.blk.core) e.blk.launch (e.ident r)

/-- R395, R397, R490, R491: the record of an error response to a read or an atomic, by the agent that refused it: the link of
a remote line, or a memory controller. (DEDUCED, log entry 60.) -/
def State.refusalRecord (s : State) (e : Env) (pc pa : Nat) : State :=
  s.recordOf (homeDie pa) e.blk.launch
    { e.ident { code := 0x18, source := 0, physical := true, addr := some pa, pc := pc } with source := if isRemote pa then 7 else 4 }

/-- R397: the records of the requests that were refused, one for each line. -/
def State.refusals (s : State) (e : Env) (pc : Nat) (pas : List Nat) : State :=
  (pas.foldl (fun (l : List Nat) pa => if l.any (fun x => lineOf x = lineOf pa) then l else l ++ [pa]) []).foldl
    (fun (s : State) pa => s.refusalRecord e pc pa) s

/-- R395, R397: the walker of a die refuses an access of a thread of a core there: its walk of a line, given by an address
in it, ends in no leaf, and the host is not asked (R447). A table entry that cannot be read is recorded by its controller.
(DEDUCED, log entry 60.) -/
def State.walkerRecords (s : State) (e : Env) (pc : Nat) (bad : List (Nat × TFault)) : State :=
  (bad.filter (fun b => decide (b.2.cause = 0x14) && b.2.entry.isNone && !s.routed b.2)).foldl (fun (s : State) b =>
    s.recordOf (dieOf e.blk.core) e.blk.launch
      { e.ident { code := 0x14, source := 0, addr := some b.1, pc := pc } with source := 3 }) s

/-- R452, R490, R491: the DETAIL of the error response to a read of a line at its home. -/
def State.homeBad (s : State) (th : Thread) (va pa : Nat) : Option Nat :=
  if s.poisoned pa then some (s.poisonDetail pa)
  else if isRemote pa && (s.linkDown pa || th.refused.contains (lineOf va)) then some 5
  else none

/-- R491: the error responses of lines have been met. -/
def Thread.met (th : Thread) (lines : List Nat) : Thread := { th with refused := th.refused.filter (fun l => !lines.contains l) }

/-- R394: the lowest lane of a mask. -/
def laneOf (mask : Nat) : Nat := (lowestBit 64 0 mask).getD 0xFF

end Sys2Proof.Machine
end

