-- ==== Sys2Proof/Machine/Fetch.lean ====
section
/-! DEFINITION. Fetching the words at a program counter (R184, R202 to R204, R225, R439), and what decoding needs to
know of a warp or sprout. -/

namespace Sys2Proof.Machine

/-- What decoding needs to know of a thread (R56, R70, R99). -/
def Env.decodeCtx (e : Env) : Ctx :=
  match e.th.role with
  | .sprout _ _ =>
    { vregs := 32, sregs := 16, kregs := 4, caps := [], slots := [], sprout := true,
      handlers := e.la.obj.handlers.length, pipeline := e.la.recd.pipeline, inHandler := false }
  | .warp w =>
    { vregs := e.la.obj.vregs, sregs := e.la.obj.sregs, kregs := e.la.obj.kregs, caps := e.la.obj.caps,
      slots := (e.la.obj.sets w).map (fun g => (g.base, g.members.length)), sprout := false,
      handlers := e.la.obj.handlers.length, pipeline := e.la.recd.pipeline, inHandler := e.th.handler }

/-- What the fetch of an instruction finds. -/
inductive Fetched
  /-- the word at `pc`, decoded, with its 32-bit words, and the clause then in force -/
  | found (pc : Nat) (words : List Word) (d : Decoded) (clause : Option Clause)
  /-- pad words and headers up to `pc`; the fetch goes on from there -/
  | passed (pc : Nat) (clause : Option Clause)
  /-- the fetch fails (R439) -/
  | fault (pc : Nat) (f : TFault)
  /-- the block's line is owned by a bulk command (R179) -/
  | wait
  deriving DecidableEq, Repr

/-- R184, R439: a fetch block, by its virtual address, which the thread keeps. A home that cannot give it makes the fetch fail,
and the agent, a walker included, records it (R397, R452, R490); an error response of a remote owner is met once (R491).
(DEDUCED, log entry 60.) -/
def State.fetchAt (s : State) (e : Env) (pc : Nat) : Except Fetched (List Word) × State :=
  if pc ≥ 2 ^ 52 then (.error (.fault pc { cause := 0x14, detail := 5, route := false }), s)
  else match s.translate e.blk.core pc .x 0 with
    | (.wait, s) => (.error .wait, s)
    | (.fault f, s) => (.error (.fault pc (if f.cause = 0x14 then { f with detail := 5 } else f)), s.walkerRecords e pc [(pc, f)])
    | (.ok pa, s) =>
      let keep (s : State) (words : List Word) : State := s.modThread e.tid (fun th => { th with fetched := some (pc / 32, words, false) })
      match s.cachedBlock e.blk.core pa (!s.lineOwned (lineOf pc, pa) && (s.homeBad e.th pc pa).isNone) with
      | (some words, s) => (.ok words, keep s words)
      | (none, s) =>
        if s.lineOwned (lineOf pc, pa) then (.error .wait, s)
        else match s.homeBad e.th pc pa with
          | some d => (.error (.fault pc { cause := 0x18, detail := d, route := false }),
              (s.refusalRecord e pc pa).modThread e.tid (fun th => th.met [lineOf pc]))
          | none =>
            let (words, s) := (s.peerTurn pa).fillBlock e.blk.core pa
            (.ok words, keep s words)

/-- R215: the clause that a header opens. -/
def Clause.ofHeader (h : Header) : Clause :=
  { wait := h.wait, seta := h.seta, setb := h.setb, left := h.length, stall := h.stall, issued := 0, fresh := true, passed := false, ops := [] }

/-- R216: words of the span that are behind. -/
def Clause.pass (c : Option Clause) (n : Nat) : Option Clause :=
  match c with
  | some c => if c.left ≤ n then none else some { c with left := c.left - n }
  | none => none

/-- R184, R450: the fetch block from which a thread issues at `pc`: the one it has fetched, or a block fetched now. -/
def State.threadBlock (s : State) (e : Env) (pc : Nat) : Except Fetched (List Word) × State :=
  match (s.thread e.tid).bind (·.fetched) with
  | some (b, words, _) => if b = pc / 32 then (.ok words, s) else s.fetchAt e pc
  | none => s.fetchAt e pc

/-- R204, R215, R225: the instruction that a thread would issue at `pc`: past pad words and clause headers. `fuel` bounds
the words passed in one step. -/
def State.fetchFrom (s : State) (e : Env) (c : Ctx) : Nat → Nat → Option Clause → Fetched × State
  | 0, pc, cl => (.passed pc cl, s)
  | fuel + 1, pc, cl =>
    match s.threadBlock e pc with
    | (.error f, s) => (f, s)
    | (.ok block, s) =>
      let off := pc % 32
      let words := block.drop (off / 4)
      let w := ofWords (words.take 4)
      match decodeAt c off w with
      | .pad => s.fetchFrom e c fuel (pc + 4) (Clause.pass cl 1)
      | .header h => s.fetchFrom e c fuel (pc + 8) (some (.ofHeader h))
      | d => (.found pc (words.take (lengthOf w)) d cl, s)

/-- The instruction that a thread would issue next. -/
def State.fetchNext (s : State) (e : Env) : Fetched × State :=
  s.fetchFrom e e.decodeCtx 8 e.th.pc e.th.clause

end Sys2Proof.Machine
end

