-- ==== Sys2Proof/Machine/Ops.lean ====
section
/-! DEFINITION. The shared operations on warps and sprouts: taking a trap and returning from one (R398 to R405), halts
(R420, R421), the retirement of a sprout (R417, R418), set-wide faults (R410 to R413), restarts and regions (R60 to
R66), and the completion of a rendezvous (R52, R53). -/

namespace Sys2Proof.Machine

/-! ### Rendezvous -/

/-- The live members that a rendezvous waits for (R53). -/
def State.liveMembers (s : State) (b : Block) (o : CodeObj) (set : Nat) : List Nat :=
  (b.membersOf o set).filter (fun t => match s.thread t with | some th => th.live | none => false)

/-- The code object of a block. -/
def State.objOf (s : State) (b : Block) : Option CodeObj := (s.launch b.launch).map (·.obj)

/-- R53: every live member has arrived. -/
def State.rendDone (s : State) (b : Block) (r : Rendezvous) : Bool :=
  match s.objOf b with
  | none => false
  | some o => (s.liveMembers b o r.set).all (fun t => r.arrived.contains t)

/-- R53: an open rendezvous that an end or a halt has completed executes next: one of its members is issued. -/
def State.settle (s : State) (blk : Nat) : State :=
  match s.block blk with
  | none => s
  | some b =>
    (b.rends.filter (fun r => s.rendDone b r)).foldl (fun s r =>
      match r.arrived with
      | t :: _ => if s.issueQ.contains t then s else { s with issueQ := t :: s.issueQ }
      | [] => s) s

/-- An arrival withdrawn (R411, R420); a rendezvous with no arrival left is dropped. -/
def Block.withdraw (b : Block) (t : Nat) : Block :=
  let rest := b.rends.map (fun r => { r with arrived := r.arrived.filter (· ≠ t) })
  { b with rends := rest.filter (fun r => r.arrived ≠ []) }

/-! ### Launch abort (R419 step 6, R423) -/

/-- R420, R453: the logged instructions of a thread other than atomics are dropped, with the results that they owe; accesses that
were held back behind them (R167) are performed as if they had not been. (DEDUCED, log entry 42.) -/
def Thread.dropLogged (th : Thread) : Thread :=
  let gone := (th.log.filter (fun q => !q.atomic && q.held.isNone)).map (·.op)
  { th with log := th.log.filter (fun q => q.atomic || q.held.isSome), pend := th.pend.filter (fun p => !gone.contains p.op) }

/-- R423, R453: an abort starts; the first detail stands. Details other than 5 stop the running blocks, whose warps' logged
instructions are dropped. (DEDUCED, log entry 50.) -/
def State.beginAbort (s : State) (l detail : Nat) : State :=
  match s.launch l with
  | none => s
  | some la =>
    if la.aborting.isSome then s
    else
      let s := s.setLaunch l { la with aborting := some detail }
      let stop (p : Nat × Block) : Nat × Block := if p.2.launch = l then (p.1, { p.2 with stopping := true }) else p
      let drop (p : Nat × Thread) : Nat × Thread :=
        if p.2.isWarp && (s.block p.2.block).any (fun b => decide (b.launch = l)) then (p.1, p.2.dropLogged) else p
      if detail = 5 then s else { s with blocks := s.blocks.map stop, threads := s.threads.map drop }

/-! ### Halts (R420, R421) -/

/-- R405, R420: one thread halts: it issues nothing more, and its logged instructions are dropped; its handler mode ends. -/
def Thread.halt (th : Thread) : Thread :=
  let th := th.dropLogged
  { th with halted := true, ended := false, handler := false, wait := .ready, restarts := false, held := none, later := none,
            fetchWait := none, spillWait := none, spillAgain := false,
            pend := th.pend.filter (fun p => p.known || decide (p.region < th.region.num)) }

/-- R420, R421: the marks that a halt of a warp leaves on its block. -/
def Block.markHalt (b : Block) (o : CodeObj) (t w : Nat) : Block :=
  let marks := 256 :: (o.sets w).map (·.num)
  { b.withdraw t with failed := true, abandoned := (marks ++ b.abandoned).eraseDups }

/-- R420: one copy of a warp halts. -/
def State.haltOne (s : State) (t : Nat) : State :=
  match s.envOf t with
  | none => s
  | some e =>
    let s := s.setThread t e.th.halt
    let s := s.setBlock e.th.block (e.blk.markHalt e.la.obj t e.th.warpId)
    ((s.modLaunch e.blk.launch (fun la => { la with failed := true })).settle e.th.block)

/-- R403, R404, R419, R420, R477: a warp halts, with one record; the other copy of a paired warp halts with it. A
launch that is not restartable is aborted. -/
def State.halt (s : State) (t : Nat) (r : ErrRec) : State :=
  match s.envOf t with
  | none => s
  | some e =>
    let s := s.threadRecord e { r with step := 4 }
    let s := s.haltOne t
    let s := match e.th.pair with | some p => s.haltOne p.peer | none => s
    if e.la.restartable then s else s.beginAbort e.blk.launch 4

/-! ### Sprouts that end (R72, R181, R417, R418, R475) -/

/-- R72, R181, R418: the last sprout of a bread has retired: its flag clears, and the clear acts as an acquire. In a
paired launch the region that it closes must have committed (R475). -/
def State.finishBread (s : State) (id : Nat) : State :=
  match s.bread id with
  | none => s
  | some br =>
    match s.thread br.tid with
    | none => if s.reqs.any (fun r => r.bread = some id) then s else { s with breads := NMap.del s.breads id }
    | some th =>
      let committed := match th.pair with
        | none => true
        | some p => p.checks.all (fun c => decide (br.region < c.region.num))
      if !committed || !br.bursts.all (fun b => b.state = .retired) || s.reqs.any (fun r => r.bread = some id) then s
      else
        let faults := match br.failed with
          | some (i, c) => th.faults ++ [⟨br.flag, 0x0D, 0, BitVec.ofNat 32 i, BitVec.ofNat 32 c, br.region, none⟩]
          | none => th.faults
        let s := s.setThread br.tid { th with flags := th.flags.filter (·.2 ≠ br.op), faults := faults }
        ({ s with breads := NMap.del s.breads id }).acquireCore br.core false

/-- A burst of a bread retires; the first that faulted is kept (R418). -/
def State.retireBurst (s : State) (id burst : Nat) (fault : Option Nat) : State :=
  (s.modBread id (fun br => { br with
    bursts := br.bursts.zipIdx.map (fun p => if p.2 = burst then { p.1 with state := .retired, waits := [] } else p.1),
    failed := br.failed.orElse (fun _ => fault.map (fun c => (burst, c))) })).finishBread id

/-- R475, R469: the entries and pending bytes of a sprout of a paired launch stay with its `bread`. -/
def State.keepEntries (s : State) (th : Thread) : State :=
  match th.role, th.pair with
  | .sprout id burst, some p => s.modBread id (fun b => { b with done := b.done ++ p.entries.map (fun x => (burst, x)),
                                                                  left := b.left ++ p.bytes.map (fun x => (burst, x)) })
  | _, _ => s

/-- R67, R417: a sprout ends; with a cause when it faulted. -/
def State.retireSprout (s : State) (t : Nat) (fault : Option Nat) : State :=
  match s.thread t with
  | none => s
  | some th =>
    let s := (({ s with threads := NMap.del s.threads t } : State)).keepEntries th
    match th.role with
    | .warp _ => s
    | .sprout id burst => s.retireBurst id burst fault

/-! ### Traps (R398 to R405) -/

/-- R398: earlier instructions have written their results and cleared their flags. -/
def Thread.clear (th : Thread) : Bool := th.drained && decide (th.flags = [])

/-- R481: a paired copy that has reached `exit`. -/
def Thread.exited (th : Thread) : Bool := th.pair.any (fun p => p.exit.isSome)

/-- R95, R398, R63, R481: nothing keeps a thread from issuing: of a block that stops, the warps do not issue; its sprouts run
to retirement (R72). A paired copy that has reached `exit` issues nothing more. -/
def Env.mayIssue (e : Env) : Bool := !(e.blk.stopping && e.th.isWarp) && e.th.held.isNone && !e.th.restarts && !e.th.exited

/-- R401: a trap of the instruction now issuing. -/
def State.trapOf (s : State) (cause detail : Nat) (mask : DWord) : Trap :=
  { cause := cause, detail := detail, mask := mask, pc := s.cur.pc,
    word0 := s.cur.words.getD 0 0, word1 := s.cur.words.getD 1 0, word2 := s.cur.words.getD 2 0,
    word3 := s.cur.words.getD 3 0, setwide := false, addr := none, next := false }

/-- R400: `trap_cause`. -/
def Trap.causeWord (t : Trap) : Word :=
  BitVec.ofNat 32 (t.setwide.toNat * 2 ^ 31 + t.detail % 1024 * 2 ^ 16 + t.cause)

/-- R401: the trap registers. -/
def Trap.regs (t : Trap) : TrapRegs :=
  { pc := BitVec.ofNat 64 t.pc, cause := t.causeWord, word0 := t.word0, word1 := t.word1, word2 := t.word2,
    word3 := t.word3, mask := t.mask }

/-- R403: the record of a trap. (DEDUCED, log entry 21.) -/
def Trap.asRec (t : Trap) (nested : Bool) : ErrRec :=
  { code := t.cause, source := 0, nested := nested, setwide := t.setwide, addr := t.addr, lane := laneOf t.mask.toNat,
    pc := t.pc }

/-- R402: the trap table's entry for a cause. -/
def CodeObj.handlerFor (o : CodeObj) (cause : Nat) : Option Nat := (o.traps.find? (fun p => p.1 = cause)).map (·.2)

/-- R402: a warp in its trap handler. The failures that the trap reports are no longer behind their flag (R436). -/
def Thread.enter (th : Thread) (t : Trap) (pc : Nat) : Thread :=
  { th with trap := t.regs, pc := pc, handler := true, held := none, clause := none, fetched := none, wait := .ready,
            spillAgain := false,
            faults := match t.flag with | none => th.faults | some f => th.faults.filter (fun x => x.flag ≠ f) }

/-- R398, R401 to R404, R417: a thread that has drained takes its trap: the trap registers are written and the warp
enters the handler that the trap table names, or halts when there is none or when it is in handler mode; a sprout
retires. -/
def State.takeTrap (s : State) (tid : Nat) (t : Trap) : State :=
  match s.envOf tid with
  | none => s
  | some e =>
    if !e.th.isWarp then
      (s.threadRecord e { t.asRec false with source := 1 }).retireSprout tid (some t.cause)
    else if e.th.handler then s.halt tid (t.asRec true)
    else match e.la.obj.handlerFor t.cause with
      | some pc => s.setThread tid (e.th.enter t pc)
      | none => (s.setThread tid { e.th with trap := t.regs }).halt tid (t.asRec false)

/-- R411: a trap that names the instruction the warp would issue next takes its words now: zero words, at the warp's program counter,
when that instruction cannot be fetched at once. (DESIGN CHOICE, log entry 83.) -/
def State.resolveTrap (s : State) (e : Env) (t : Trap) : Trap × State :=
  if !t.next then (t, s)
  else match s.fetchNext e with
    | (.found pc words _ _, s) =>
      ({ t with pc := pc, word0 := words.getD 0 0, word1 := words.getD 1 0, word2 := words.getD 2 0,
                word3 := words.getD 3 0 }, s)
    | (_, s) => ({ t with pc := e.th.pc }, s)

/-- R398: a trap is taken once the thread has drained, and is held back until then, or until a restart that waits
(R63). -/
def State.raise (s : State) (tid : Nat) (t : Trap) : State :=
  match s.envOf tid with
  | none => s
  | some e =>
    if !e.th.live then s
    else if e.th.clear && !e.th.restarts then
      let (t, s) := s.resolveTrap e t
      s.takeTrap tid t
    else s.setThread tid { e.th with held := some t, wait := .ready }

/-- R402, R404, R412: `eret` leaves handler mode and continues at an address; a set-wide fault that waits for the warp
traps there. -/
def State.leaveHandler (s : State) (tid pc : Nat) : State :=
  match s.thread tid with
  | none => s
  | some th =>
    let s := s.setThread tid { th with handler := false, pc := pc, clause := none, fetched := none, wait := .ready, later := none }
    match th.later with
    | none => s
    | some t => s.raise tid t

/-! ### Set-wide faults (R410 to R413) -/

/-- R411: the trap of one member. `own` is the rendezvous that faults, and `mask` the lanes of a member that arrived
there. -/
def memberTrap (b : Block) (t cause detail : Nat) (own : Option Nat) (mask : DWord) : Trap :=
  let base : Trap :=
    { cause := cause, detail := detail, mask := 0, pc := 0, word0 := 0, word1 := 0, word2 := 0, word3 := 0,
      setwide := true, addr := none, next := true }
  match b.rends.find? (fun r => r.arrived.contains t) with
  | none => base
  | some r =>
    { base with
      mask := if own = some r.set then mask else 0, pc := r.addr,
      word0 := r.words.getD 0 0, word1 := r.words.getD 1 0, word2 := r.words.getD 2 0, word3 := r.words.getD 3 0,
      next := false }

/-- R398, R412: a member takes the set-wide fault, when it has drained or at its next `eret`. -/
def State.suspend (s : State) (tid : Nat) (t : Trap) : State :=
  match s.thread tid with
  | none => s
  | some th =>
    if th.handler then s.setThread tid { th with later := some { t with next := true } }
    else s.raise tid t

/-- R410, R411: a set-wide fault of a set, or of the block (256): every live member is suspended and the rendezvous is
dropped. `traps` gives each member's trap. -/
def State.setWide (s : State) (blk : Nat) (members : List (Nat × Trap)) : State :=
  let s := s.modBlock blk (fun b => members.foldl (fun b p => b.withdraw p.1) b)
  let s := members.foldl (fun s p => s.modThread p.1 (fun th => { th with wait := .ready })) s
  members.foldl (fun s p => s.suspend p.1 p.2) s

/-- The guard-qualified active lanes of a member at a rendezvous. -/
def State.arrivedMask (s : State) (t : Nat) (i : Instr) : DWord :=
  match s.thread t, i.ops with
  | some th, some o => th.active o
  | _, _ => 0

/-- R55, R405: every live warp of the block stalls in a rendezvous and none can complete. -/
def State.deadlocked (s : State) (b : Block) : Bool :=
  let live := b.warps.filter (fun t => match s.thread t with | some th => th.live | none => false)
  decide (live ≠ []) && !b.stopping &&
    live.all (fun t => match s.thread t with
      | some th => !th.handler && th.held.isNone && b.rends.any (fun r => r.arrived.contains t)
      | none => false) &&
    !(b.rends.any (fun r => s.rendDone b r))

/-- R55, R411, R412: the rendezvous-deadlock fault, when it arises: every warp traps once.
(DESIGN CHOICE, log entry 39.) -/
def State.checkDeadlock (s : State) (blk : Nat) : State :=
  match s.block blk with
  | none => s
  | some b =>
    if !s.deadlocked b then s
    else
      let lowest := (b.rends.map (·.set)).foldl Nat.min 256
      let live := b.warps.filter (fun t => match s.thread t with | some th => th.live | none => false)
      s.setWide blk (live.map (fun t =>
        let r := b.rends.find? (fun r => r.arrived.contains t)
        let mask := match r with | some r => s.arrivedMask t r.instr | none => 0
        (t, memberTrap b t 0x0A lowest (r.map (·.set)) mask)))

/-! ### Regions (R60 to R66) -/

/-- The registers of a list as bits. -/
def bitsOfRegs (n : Nat) (f : RegId → Option Nat) (l : List RegId) : BitVec n :=
  l.foldl (fun m r => match f r with | some i => m ||| BitVec.ofNat n (2 ^ i) | none => m) 0

/-- R61: registers written join those written since the region began. -/
def Region.wrote (r : Region) (l : List RegId) : Region :=
  { r with
    newV := r.newV ||| bitsOfRegs 256 (fun x => match x with | .v n => some n | _ => none) l,
    newS := r.newS ||| bitsOfRegs 128 (fun x => match x with | .s n => some n | _ => none) l,
    newK := r.newK ||| bitsOfRegs 16 (fun x => match x with | .k n => some n | _ => none) l,
    newM := r.newM ||| bitsOfRegs 16 (fun x => match x with | .m n => some n | _ => none) l }

/-- R60, R61, R64: a region opens at `pc`: with the live-in masks that a `region` names, or, at an implicit boundary,
with the previous live-ins and everything written since. A `region` that a restart re-executes opens its region again
(R480); a checker error that was armed for an earlier region is past (R479). -/
def Thread.openRegion (th : Thread) (pc clock : Nat) (named : Option RegionMasks) : Thread :=
  let r := th.region
  let num := if named.isSome && r.again && decide (r.start = pc) then r.num else r.num + 1
  { th with
    checkErr := th.checkErr.filter (fun p => decide (num ≤ p.2)),
    region :=
      { start := pc, num := num, named := named.isSome, again := false, k0 := th.regs.mask 0,
        liveV := match named with | some m => m.v | none => r.liveV ||| r.newV,
        liveS := match named with | some m => m.s | none => r.liveS ||| r.newS,
        liveK := (match named with | some m => m.k | none => r.liveK ||| r.newK) ||| 1,
        liveM := match named with | some m => m.m | none => r.liveM ||| r.newM,
        newV := 0, newS := 0, newK := 0, newM := 0, gen := th.regs.gen, seed := th.regs.seed, since := clock } }

/-- R60: region 0, at the entry. -/
def Region.first (entry clock : Nat) (k0 : DWord) (gen : NMap Word) : Region :=
  { start := entry, num := 0, named := false, again := false, k0 := k0, liveV := 0, liveS := 0, liveK := 1, liveM := 0,
    newV := 0, newS := 0, newK := 0, newM := 0, gen := gen, seed := 0, since := clock }

/-- R65: the lowest vector register of the warp's set-register storage. -/
def Env.storageBase (e : Env) : Nat := ((e.la.obj.sets e.th.warpId).map (·.base)).foldl Nat.min 256

/-- R64 steps 1, 3 and 5, R113, R274: the registers after a restart. `fpmode` stays as R64 and R113 have it, and a matrix keeps the
format its tag held, in region 0 too, though R60 says that a restart there returns the warp to its start state.
(DEDUCED, log entry 24.) -/
def Env.restartRegs (e : Env) : Regs :=
  let r := e.th.regs
  let g := e.th.region
  let base := e.storageBase
  { r with
    v := r.v.filter (fun p => g.liveV.getLsbD (p.1 / 64) || decide (base ≤ p.1 / 64)),
    s := r.s.filter (fun p => g.liveS.getLsbD p.1),
    k := NMap.put (r.k.filter (fun p => g.liveK.getLsbD p.1)) 0 g.k0,
    m := r.m.filter (fun p => g.liveM.getLsbD (p.1 / 4096)),
    tag := (r.tag.map (fun p => if g.liveM.getLsbD (p.1 / 64) then p else (p.1, p.2 &&& 0xF))).filter (·.2 ≠ 0),
    gen := g.gen, seed := g.seed, flawed := r.flawed.filter (fun f => g.liveV.getLsbD f.1 || decide (base ≤ f.1)) }

/-- R335: no `bseal` of region `num` or a later one closed the command's batch. -/
def BulkCmd.sealedBefore (c : BulkCmd) (num : Nat) : Bool := match c.sealing with | some r => decide (r < num) | none => true

/-- R63, R107: the operations that the warp issued before its region start, which no restart discards. -/
def State.keptOps (s : State) (t : Nat) (th : Thread) : List Nat :=
  (th.pend.filter (fun p => p.region < th.region.num)).map (·.op) ++
  (th.log.filter (fun p => p.region < th.region.num)).map (·.op) ++
  (s.cmds.filter (fun c => c.tid = t ∧ c.region < th.region.num ∧ c.sealedBefore th.region.num)).map (·.op) ++
  (s.reqs.filter (·.tid = t)).map (·.op) ++ (s.breads.filter (fun p => p.2.tid = t)).map (·.2.op)

/-- R63: every committed boundary of the warp has written its results (R106: a `bread` when its last sprout retires), so
that it can be restarted. (DEDUCED, log entry 40.) -/
def State.restartable (s : State) (t : Nat) (th : Thread) : Bool :=
  th.pend.all (fun p => p.known || !decide (p.region < th.region.num)) && !(s.breads.any (fun p => p.2.tid = t))

/-- R64, R335: the flag under which something that a bulk command left is found after a restart of region `num`: none
when the restart discards the command; the open batch when it discards the `bseal` alone. -/
def keptFlag (num flag region : Nat) (sealing : Option Nat) : Option (Nat × Option Nat) :=
  if num ≤ region then none
  else match sealing with
    | some r => if num ≤ r then some (15, none) else some (flag, sealing)
    | none => some (flag, none)

/-- R64: what is left of a failure behind a flag. -/
def FlagFault.kept (f : FlagFault) (num : Nat) : Option FlagFault :=
  (keptFlag num f.flag f.region f.sealing).map (fun p => { f with flag := p.1, sealing := p.2 })

/-- R64: what is left of a destination line behind a flag. -/
def FlagDest.kept (f : FlagDest) (num : Nat) : Option FlagDest :=
  (keptFlag num f.flag f.region f.sealing).map (fun p => { f with flag := p.1, sealing := p.2 })

/-- R64, R107, R405, R416: a warp restarts its region. Results of earlier instructions are written first (R63).
(DEDUCED, log entry 40.) -/
def State.restart (s : State) (t : Nat) : State :=
  match s.envOf t with
  | none => s
  | some e =>
    let num := e.th.region.num
    let done := e.th.pend.filter (fun p => p.known && decide (p.region < num))
    let th := { e.th with regs := done.foldl (fun r p => Regs.putAll e.th.width r p.vals) e.th.regs }
    let kept := s.keptOps t e.th
    let regs := ({ e with th := th } : Env).restartRegs
    let s := s.setThread t { th with
      regs := regs, pc := th.region.start, handler := false, held := if th.restarts then th.held else none,
      wait := .ready, restarts := false, reached := (s.core e.blk.core).retired.length, idle := 0, fetched := none,
      clause := none,
      pend := th.pend.filter (fun p => !p.known && decide (p.region < num)),
      flags := th.flags.filter (fun p => kept.contains p.2 && !(done.any (fun q => q.op = p.2))),
      faults := th.faults.filterMap (·.kept num), dests := th.dests.filterMap (·.kept num),
      batch := th.batch.filter (fun c => kept.contains c) ++
        (s.cmds.filter (fun c => c.tid = t ∧ c.region < num ∧ !c.sealedBefore num)).map (·.op),
      log := th.log.filter (fun p => p.atomic || decide (p.region < num)), spillWait := none, spillAgain := false, fetchWait := none,
      region := { th.region with again := th.region.named, newV := 0, newS := 0, newK := 0, newM := 0 } }
    let drop (c : BulkCmd) : BulkCmd :=
      if c.tid = t ∧ (num ≤ c.region ∨ !c.sealedBefore num) then { c with flag := none, sealing := none } else c
    let s := { s with cmds := s.cmds.map drop }
    s.modBlock e.th.block (·.withdraw t)

/-- R63, R64: a restart in place. It waits until the committed boundaries of the warp have written their results; what the
region has in flight is discarded at once, and a trap that arrives meanwhile is kept for the warp. -/
def State.startRestart (s : State) (t : Nat) : State :=
  match s.thread t with
  | none => s
  | some th =>
    if s.restartable t th then s.restart t
    else
      let num := th.region.num
      (s.setThread t { th with
        restarts := true, held := none, wait := .ready,
        pend := th.pend.filter (fun p => decide (p.region < num)),
        log := th.log.filter (fun p => p.atomic || decide (p.region < num)) }).modBlock th.block (·.withdraw t)

/-- R63: a restart that waited goes on. -/
def State.settleRestart (s : State) (t : Nat) : State :=
  match s.thread t with
  | none => s
  | some th => if th.restarts && s.restartable t th then s.restart t else s

/-! ### Start (R36, R68, R113) -/

/-- R36, R113: the registers of a warp at its start. -/
def Regs.start (width : Nat) (fpmode : Word) (fmts caps : List Nat) : Regs :=
  { v := [], s := [], k := [(0, laneMask width)], m := [],
    tag := ((List.range 16).flatMap (fun n =>
      if caps.getD n 0 = 0 ∨ fmts.getD n 0 = 0 then []
      else (List.range width).map (fun l => (64 * n + l, BitVec.ofNat 16 (fmts.getD n 0))))),
    gen := (List.range width).map (fun l => (l, BitVec.ofNat 32 (genSeed 0 l))), seed := 0, fpmode := fpmode, ras := [],
    depth := 0 }

/-- R36: a warp at its start. -/
def Thread.start (b : Nat) (role : Role) (width entry clock : Nat) (quad slot port ent : Nat) (regs : Regs) : Thread :=
  { block := b, role := role, width := width, quad := quad, slot := slot, port := port, entry := ent, regs := regs,
    pc := entry, burst := ⟨0, 0, 0, 0, 0⟩, ring := ⟨0, 0, 0⟩, trap := ⟨0, 0, 0, 0, 0, 0, 0⟩, inject := 0, injectAt := 0,
    checkErr := none, handler := false, held := none, later := none, wait := .ready,
    restarts := false, reached := 0, idle := 0, fetched := none,
    region := .first entry clock (laneMask width) regs.gen, clause := none, pend := [], flags := [], faults := [], dests := [],
    batch := [], log := [], fetchWait := none, spillWait := none, spillAgain := false, spillEpoch := 0, leaving := none, refused := [], phase := none, skips := 0, born := clock, ended := false, halted := false, pair := none }

end Sys2Proof.Machine
end

