-- ==== Sys2Proof/Machine/Paired.lean ====
section
/-! DEFINITION. Paired launches (R469 to R476): entries and their signatures, checkpoints, and the rollback of both
copies of a warp. -/

namespace Sys2Proof.Machine

/-! ### Signatures (R470, R471) -/

/-- R470: the 80 bytes of a store entry: the line's address, its bytes with zeros outside the mask, and the mask. -/
def entryMessage (pa : Nat) (bytes : NMap Byte) : List Byte :=
  bytesOf 8 pa ++ (List.range 64).map (fun i => NMap.get 0 bytes i) ++
    bytesOf 8 (bytes.foldl (fun m p => m + 2 ^ p.1) 0)

/-- R471: the boundary signature: the boundary's address, the region's entry count, and the checkpointed state in
register-number order. (DESIGN CHOICE, log entry 23.) -/
def boundarySig (addr count : Nat) (r : Regs) (g : Region) (storage : Nat) : DWord :=
  let words (l : NMap Word) : List Byte := l.flatMap (fun p => bytesOf 4 p.1 ++ bytesOf 4 p.2.toNat)
  sha3Sig (bytesOf 8 addr ++ bytesOf 4 count ++
    words (r.v.filter (fun p => g.liveV.getLsbD (p.1 / 64) || decide (storage ≤ p.1 / 64))) ++
    words (r.s.filter (fun p => g.liveS.getLsbD p.1)) ++
    (r.k.filter (fun p => g.liveK.getLsbD p.1)).flatMap (fun p => bytesOf 4 p.1 ++ bytesOf 8 p.2.toNat) ++
    words (r.m.filter (fun p => g.liveM.getLsbD (p.1 / 4096))) ++
    (r.tag.filter (fun p => g.liveM.getLsbD (p.1 / 64))).flatMap (fun p => bytesOf 4 p.1 ++ bytesOf 2 p.2.toNat) ++
    r.ras.flatMap (fun a => bytesOf 8 a.toNat))

/-! ### Limits (R473) -/

/-- R473: the copy may go no further: a boundary would leave it more than 4 regions, or `n` new entries more than 256,
past what has committed. Entries that still wait on the host or on an engine count. A sprout's copy, which has no peer, is
not limited. -/
def PairState.full (p : PairState) (boundary : Bool) (n : Nat) : Bool :=
  decide (p.peer ≠ 0) && ((boundary && decide (4 ≤ p.checks.length)) || decide (256 < p.nextEntry - p.settled + n))

/-! ### Rollback (R476) -/

/-- R476, R481: a copy without its uncommitted entries and pending bytes; its next entry takes the first number after its last
committed one, and `c` is its oldest checkpoint. -/
def PairState.rewind (p : PairState) (c : Checkpoint) : PairState :=
  { p with entries := [], nextEntry := p.after, settled := p.after, bytes := [], checks := [c], rollbacks := p.rollbacks + 1,
           exit := none }

/-- R466, R476: lines of an L1 in error that hold nothing but filled bytes are invalid. -/
def State.dropSpoilt (s : State) (core : Nat) : State :=
  let pending := s.pendingOn core
  s.modCore core (fun c => { c with l1 := c.l1.filter (fun l => !l.bad || decide (l.dirty ≠ []) || pending.any (fun p => p.2 = l.pa)) })

/-- R471, R476: the registers `r` of a copy that goes back to a checkpoint. `fpmode`, and the formats that the tags of matrices hold
that are not live-in, are no part of it (R113), but the checkpoint of region 0 is the warp's start (R36, R480).
(DEDUCED, log entry 24.) -/
def Checkpoint.regsFrom (c : Checkpoint) (r : Regs) : Regs :=
  if c.region.num = 0 then { c.regs with flawed := [] }
  else
    let live (p : Nat × Half) : Bool := c.region.liveM.getLsbD (p.1 / 64)
    { c.regs with
      fpmode := r.fpmode, flawed := [],
      tag := (r.tag.filter (fun p => !live p)).foldl (fun m p => NMap.put m p.1 p.2) (c.regs.tag.filter live) }

/-- R476: one copy of a warp returns to the start of its oldest uncommitted region. (DEDUCED, log entry 24.) -/
def State.rollOne (s : State) (t : Nat) : State :=
  match s.thread t with
  | none => s
  | some th => match th.pair with
    | none => s
    | some p => match p.checks with
      | [] => s
      | c :: _ =>
        let num := c.region.num
        let gone := (s.breads.filter (fun b => b.2.tid = t ∧ num ≤ b.2.region)).map (·.1)
        let keepT (q : Nat × Thread) : Bool := match q.2.role with | .sprout b _ => !gone.contains b | .warp _ => true
        let s := { s with
          reqs := s.reqs.filter (fun r => !(decide (r.tid = t) && r.gated) &&
            !(match r.bread with | some b => gone.contains b | none => false)),
          cmds := s.cmds.filter (fun r => !(decide (r.tid = t) && decide (num ≤ r.region))),
          pipes := s.pipes.filter (·.tid ≠ t),
          breads := s.breads.filter (fun b => !gone.contains b.1), threads := s.threads.filter keepT }
        let s := s.setThread t { th with
          regs := c.regsFrom th.regs, region := c.region, phase := none, ended := false,
          pend := th.pend.filter (fun q => q.region < num), log := th.log.filter (fun q => q.region < num),
          pair := some (p.rewind c) }
        (match s.block th.block with | some b => s.dropSpoilt b.core | none => s).restart t

/-- R468: a saturating counter. -/
def bump (w : Word) : Word := if w = 0xFFFFFFFF then w else w + 1

/-- R476: both copies of a warp roll back; `pa` is the line of a mismatched entry. The third in a row aborts the
launch. -/
def State.rollback (s : State) (t : Nat) (pa : Option Nat) : State :=
  match s.envOf t with
  | none => s
  | some e => match e.th.pair with
    | none => s
    | some p =>
      let (lead, trail) := if p.leading then (t, p.peer) else (p.peer, t)
      match s.envOf lead, s.envOf trail with
      | some le, some te =>
        let start := match le.th.pair with
          | some q => (match q.checks with | c :: _ => c.region.start | [] => le.th.region.start)
          | none => 0
        let r : ErrRec := { code := 0x0107, step := 2, source := 0, physical := pa.isSome, addr := pa, pc := start }
        let s := s.rollOne lead
        let s := s.rollOne trail
        let count (d : Die) : Die := { d with rollbacks := bump d.rollbacks }
        let s := (s.modDie (dieOf le.blk.core) count).modDie (dieOf te.blk.core) count
        let s := s.threadRecord le r
        if 3 ≤ p.rollbacks + 1 then
          (s.threadRecord le { r with code := 0x0108 }).beginAbort e.blk.launch 7
        else s
      | _, _ => s

/-! ### Entries and checkpoints -/

/-- R476: entries of equal numbers that differ: the line of the first. -/
def entryClash (a b : List Entry) : Option Nat :=
  match a.find? (fun x => b.any (fun y => decide (x.num = y.num) && !(decide (x.sig = y.sig)))) with
  | some x => some x.pa
  | none => none

/-- R476: checkpoints of one region whose signatures differ. -/
def checkClash (a b : List Checkpoint) : Bool :=
  a.any (fun x => b.any (fun y => decide (x.region.num = y.region.num) && !(decide (x.sig = y.sig))))

/-- R470: the numbers of `n` new entries. -/
def State.reserve (s : State) (t n : Nat) : Nat × State :=
  match s.thread t with
  | none => (0, s)
  | some th => match th.pair with
    | none => (0, s)
    | some p => (p.nextEntry, s.setThread t { th with pair := some { p with nextEntry := p.nextEntry + n } })

/-- An entry put in the order of the numbers. -/
def putEntry (x : Entry) : List Entry → List Entry
  | [] => [x]
  | y :: r => if x.num < y.num then x :: y :: r else y :: putEntry x r

/-- R470, R471: entries of one instruction of a region, with their numbers: number, line, signature, work. The region is that of
the instruction, which may have been passed since. -/
def State.addEntries (s : State) (t region : Nat) (l : List (Nat × Nat × DWord × EntryWork)) : State :=
  match s.thread t with
  | none => s
  | some th => match th.pair with
    | none => s
    | some p =>
      let put (es : List Entry) (x : Nat × Nat × DWord × EntryWork) : List Entry :=
        putEntry { num := x.1, region := region, pa := x.2.1, sig := x.2.2.1, work := x.2.2.2, epoch := s.xlat.qepoch } es
      s.setThread t { th with pair := some { p with entries := l.foldl put p.entries } }

/-- R470: one entry, numbered now. -/
def State.addEntry (s : State) (t region pa : Nat) (sig : DWord) (work : EntryWork) : State :=
  let (n, s) := s.reserve t 1
  s.addEntries t region [(n, pa, sig, work)]

/-- R467: stores of a copy clear the poison of its pending bytes in the lines that they cover whole. -/
def PairState.cleanse (p : PairState) (pas : List Nat) : PairState :=
  let whole := wholeLines pas
  { p with bytes := p.bytes.map (fun b => if whole.contains (lineOf b.pa) then { b with bad := none } else b) }

/-- R469, R470: the stores of a paired copy: one entry for each line, and its pending bytes. A line is given as its number,
its virtual address and its bytes. -/
def State.pairStore (s : State) (t region : Nat) (lines : List (Nat × Nat × List (Nat × Byte))) : State :=
  match s.thread t with
  | none => s
  | some th => match th.pair with
    | none => s
    | some p =>
      let works := lines.map (fun l =>
        let pa := lineOf ((l.2.2.head?.map (·.1)).getD 0)
        let m := l.2.2.foldl (fun m b => NMap.put m (b.1 % 64) b.2) ([] : NMap Byte)
        (l.1, pa, sha3Sig (entryMessage pa m), EntryWork.store l.2.1 m))
      let new := lines.flatMap (fun l => l.2.2.map (fun b => { entry := l.1, pa := b.1, byte := b.2 : PendByte }))
      let p := p.cleanse (new.map (·.pa))
      (s.setThread t { th with pair := some { p with bytes := p.bytes ++ new } }).addEntries t region works

/-- R469: a byte as a paired copy's own pending stores hold it. -/
def Thread.pending (th : Thread) (pa : Nat) : Option Byte :=
  match th.pair with
  | none => none
  | some p => ((p.bytes.filter (fun b => b.pa = pa)).getLast?).map (·.byte)

/-- R466, R467: the pending bytes of a copy in the line of an address are in error: the DETAIL. -/
def Thread.pendingBad (th : Thread) (pa : Nat) : Option Nat :=
  match th.pair with
  | none => none
  | some p => (p.bytes.filter (fun b => lineOf b.pa = lineOf pa)).findSome? (·.bad)

/-- R471: a copy records the checkpoint of the region that it has opened; `addr` is the boundary's address. A region that a
rollback has opened again has its checkpoint (R480). -/
def State.checkpoint (s : State) (t addr : Nat) : State :=
  match s.envOf t with
  | none => s
  | some e => match e.th.pair with
    | none => s
    | some p =>
      let g := e.th.region
      if p.checks.any (fun c => c.region.num = g.num) then s else
      let count := p.nextEntry - ((p.checks.getLast?).map (·.first)).getD 0
      let sig := boundarySig addr count e.th.regs g e.storageBase
      s.setThread t { e.th with pair := some { p with checks := p.checks ++ [⟨g, e.th.regs, sig, p.nextEntry⟩] } }

/-- R471, R474: results of a boundary belong to the checkpoints of the regions that follow it. -/
def Thread.patchChecks (th : Thread) (region : Nat) (vals : List RegVal) : Thread :=
  match th.pair with
  | none => th
  | some p =>
    let fix (c : Checkpoint) : Checkpoint :=
      if region < c.region.num then { c with regs := Regs.putAll th.width c.regs vals } else c
    { th with pair := some { p with checks := p.checks.map fix } }

end Sys2Proof.Machine
end

