-- ==== Sys2Proof/Machine/Silent.lean ====
section
/-! DEFINITION. Checked issue: what a mismatch does (R456 to R462), and errors in stored registers (R463 to R465). -/

namespace Sys2Proof.Machine

/-- R498, R460: slot × 64 + position. -/
def Thread.position (th : Thread) (lane : Nat) : Nat := (th.quad * 2 + th.slot) * 64 + th.port * 16 + lane

/-- R459: a count rises to at most 7. -/
def bumpCount (m : NMap Nat) (k : Nat) : NMap Nat := NMap.put m k (min 7 (NMap.get 0 m k + 1))

/-- R13, R460: a thread that has taken `reached` of the core's retirements is still on the old datapath of a position. -/
def Core.onOld (c : Core) (reached pos : Nat) : Bool := (c.retired.drop reached).any (fun p => decide (p.1 = pos) && p.2)

/-- R12, R456: the lane that follows a lane of a thread in the lane space of an instruction, which `space` gives as its
threads in turn: it holds the checker pipe. -/
def State.nextLane (s : State) (th : Thread) (tid : Nat) (space : List Nat) (lane : Nat) : Thread × Nat :=
  if lane + 1 < th.width then (th, lane + 1)
  else
    let k := (space.findIdx? (· = tid)).getD 0
    (((space[(k + 1) % max 1 space.length]?).bind s.thread).getD th, 0)

/-- R459, R460: the positions that hold a lane's primary pipe and its checker pipe. -/
def State.lanePipes (s : State) (e : Env) (space : List Nat) (lane : Nat) : Nat × Nat :=
  let (m, l) := s.nextLane e.th e.tid space lane
  (e.th.position lane, m.position l)

/-- R13, R460: a lane that neither of its pipes computes on a datapath that has been retired and that its thread has not
left yet. A mismatch in another lane is handled by R457 and R458 alone. -/
def State.counted (s : State) (e : Env) (space : List Nat) (lane : Nat) : Bool :=
  let c := s.core e.blk.core
  let (m, l) := s.nextLane e.th e.tid space lane
  !c.onOld e.th.reached (e.th.position lane) && !c.onOld m.reached (m.position l)

/-- R459: the positions that a detection counts. -/
def State.counts (s : State) (e : Env) (space lanes : List Nat) : List Nat :=
  (lanes.filter (s.counted e space)).flatMap (fun l => let (p, q) := s.lanePipes e space l; [p, q])

/-- R459, R468: one detection of mismatching lanes. -/
def State.countLanes (s : State) (e : Env) (space lanes : List Nat) : State :=
  let s := s.modCore e.blk.core (fun c => { c with counts := (s.counts e space lanes).foldl bumpCount c.counts })
  s.modDie (dieOf e.blk.core) (fun d => { d with mismatch := bump d.mismatch })

/-- R460: a detection has brought the count of a position to 3 or more: the slot of the first such position. -/
def State.slotFull (s : State) (e : Env) (space lanes : List Nat) : Option Nat :=
  ((s.counts e space lanes).find? (fun p => decide (3 ≤ NMap.get 0 (s.core e.blk.core).counts p))).map (· / 64)

/-- R460: the position that each lane's vote names. -/
def voteNames (pipes : Nat × Nat) : Vote → Option Nat
  | .forwardChecker => some pipes.2
  | .primary => some pipes.1
  | .undecided => none

/-- R460: the position to retire in a slot, and the row that decided: 0 or 1, or 2 when the counts did. -/
def State.diagnose (s : State) (e : Env) (space lanes : List Nat) (votes : List Vote) (slot : Nat) : Nat × Nat :=
  let named := (lanes.zipIdx.filter (fun p => s.counted e space p.1)).map (fun p =>
    (voteNames (s.lanePipes e space p.1) (votes.getD p.2 .undecided), votes.getD p.2 .undecided))
  let best := ((s.core e.blk.core).counts.filter (fun p => p.1 / 64 = slot)).foldl
    (fun (b : Nat × Nat) p => if b.2 < p.2 then p else b) (64 * slot, 0)
  match named with
  | (some p, v) :: _ =>
    if named.all (fun q => q.1 = some p) then (p, if v = .forwardChecker then 0 else 1) else (best.1, 2)
  | _ => (best.1, 2)

/-- R498: an entry of the start log for a retirement. (DEDUCED, log entry 61.) -/
def State.logRetirement (s : State) (core pos outcome : Nat) : State :=
  { s with ocwick := { s.ocwick with log := s.ocwick.log ++
      [{ start := s.ocwick.start, step := 0, outcome := outcome, kind := 2, object := BitVec.ofNat 32 core,
         value := BitVec.ofNat 32 pos, reason := 0 }] } }

/-- R13, R460 steps 2 and 3, R461: a position of a slot is retired; false when both spares are in use. A spare that takes
it serves a thread from its next restart or start on. (DEDUCED, log entry 70.) -/
def State.retirePosition (s : State) (core pos : Nat) : Bool × State :=
  let slot := pos / 64
  let c := s.core core
  let used := (c.retired.filter (fun p => p.1 / 64 = slot && p.2)).length
  if used < 2 then
    let s := s.setCore core { c with
      retired := c.retired ++ [(pos, true)], counts := c.counts.filter (fun p => p.1 / 64 ≠ slot) }
    let s := s.modDie (dieOf core) (fun d => { d with retired := bump d.retired })
    (true, s.logRetirement core pos 1)
  else
    let s := s.setCore core { c with
      retired := c.retired ++ [(pos, false)], closed := ((slot * 4 + pos % 64 / 16) :: c.closed).eraseDups }
    (false, s.logRetirement core pos 3)

/-- R458, R460, R476: a warp restarts for a silent error; a paired warp rolls back. -/
def State.silentRestart (s : State) (e : Env) (r : ErrRec) : State :=
  if e.th.pair.isSome then s.rollback e.tid none else (s.threadRecord e r).startRestart e.tid

/-- R460, R461, R462: step 3: the diagnosis, the retirement and the restart of the warp, or its halt. A sprout goes on: of
R460 and R461 it has the records alone. -/
def State.retireStep (s : State) (e : Env) (space lanes : List Nat) (votes : List Vote) (slot : Nat) : State :=
  let (pos, row) := s.diagnose e space lanes votes slot
  let lane := lanes.headD 0
  let source := if e.th.isWarp then 0 else 1
  let taken : ErrRec :=
    { code := 0x0102, step := 3, source := source, lane := lane, info := pos % 64 + 256 * row, pc := e.th.pc }
  let full : ErrRec := { code := 0x0103, source := source, lane := lane, pc := e.th.pc }
  match s.retirePosition e.blk.core pos with
  | (true, s) => if e.th.isWarp then s.silentRestart e taken else s.threadRecord e taken
  | (false, s) => if e.th.isWarp then s.halt e.tid full else s.threadRecord e full

/-- R457 to R462: checked issue finds an instruction of a thread to mismatch `times` times in some lanes of its lane space;
whether a later issue agrees. The answer says whether the instruction goes on. -/
def State.mismatch (s : State) (e : Env) (space lanes : List Nat) (times : Nat) (agrees : Bool) (votes : List Vote) :
    Bool × State :=
  if times = 0 then (true, s)
  else if e.th.isWarp then
    let s := s.countLanes e space lanes
    match s.slotFull e space lanes with
    | some slot => (false, s.retireStep e space lanes votes slot)
    | none =>
      if times = 1 ∧ agrees then (true, s)
      else
        let s := s.countLanes e space lanes
        match s.slotFull e space lanes with
        | some slot => (false, s.retireStep e space lanes votes slot)
        | none => (false, s.silentRestart e
            { code := 0x0101, step := 2, source := 0, lane := lanes.headD 0, pc := e.th.pc })
  else
    -- a sprout replays up to three times
    let n := if agrees then min times 3 else 4
    let s := (List.range n).foldl (fun s _ =>
      let s := s.countLanes e space lanes
      match s.slotFull e space lanes with
      | some slot => s.retireStep e space lanes votes slot
      | none => s) s
    if agrees then (true, s)
    else (false, s.raise e.tid { (s.trapOf 0x18 6 (BitVec.ofNat 64 (lanes.foldl (fun m l => m ||| 2 ^ l) 0))) with
      pc := e.th.pc })

/-! ### Register errors (R464, R465) -/

/-- R465: a restart of the current region zeroes the word. -/
def Env.discards (e : Env) : CheckedWord → Bool
  | .v n _ => !e.th.region.liveV.getLsbD n && decide (n < e.storageBase)
  | .s n => !e.th.region.liveS.getLsbD n
  | .k n => decide (n ≠ 0) && !e.th.region.liveK.getLsbD n
  | .m n _ _ | .tag n _ => !e.th.region.liveM.getLsbD n
  | .ras _ | .entry => false

/-- R465: an uncorrectable error in a word that a thread reads. -/
def State.uncorrectable (s : State) (e : Env) (w : CheckedWord) (lane : Nat) : State :=
  if !e.th.isWarp then s.raise e.tid { (s.trapOf 0x18 3 (BitVec.ofNat 64 (2 ^ lane))) with pc := e.th.pc }
  else if e.th.pair.isSome then s.rollback e.tid none
  else if e.discards w then
    (s.threadRecord e { code := 0x0104, step := 2, source := 0, lane := lane, pc := e.th.pc }).startRestart e.tid
  else s.halt e.tid { code := 0x0105, source := 0, lane := lane, pc := e.th.pc }

/-- R464: a corrected register error is counted. -/
def State.correctReg (s : State) (core : Nat) : State :=
  s.modDie (dieOf core) (fun d => { d with ceReg := bump d.ceReg })

/-! ### Injection (R478, R479) -/

/-- R479: the injection of a region that a warp has just opened. -/
def State.inject (s : State) (t : Nat) : State :=
  match s.envOf t with
  | none => s
  | some e =>
    let w := e.th.inject.toNat
    let kind := bitsOf w 30 29
    let bit := bitsOf w 28 24
    let reg := bitsOf w 23 16
    let lane := bitsOf w 15 10
    let th := e.th
    if !s.host.testMode ∨ !bitOf w 31 ∨ th.region.num < th.injectAt + max 1 (bitsOf w 9 0) then s
    else
      let th' := { th with inject := BitVec.ofNat 32 (w % 2 ^ 31) }
      let trailing := match th.pair with | some p => !p.leading | none => false
      if kind = 0 ∧ !trailing then s.setThread t th'
      else
        let ok := decide (reg < e.la.obj.vregs) && decide (lane < th.width)
        let flip (r : Regs) (m : Nat) : Regs := r.setVec reg lane (r.vec reg lane ^^^ BitVec.ofNat 32 m)
        let th' := if !ok then th' else match kind with
          | 0 => { th' with regs := flip th.regs (2 ^ bit) }
          | 1 => { th' with checkErr := some (lane, th.region.num) }
          | 2 => { th' with regs := { th.regs with flawed := th.regs.flawed ++ [(reg, lane, false)] } }
          | _ => { th' with regs := { th.regs with flawed := th.regs.flawed ++ [(reg, lane, true)] } }
        (s.setThread t th').threadRecord e { code := 0x0109, source := 0, lane := lane, info := w, pc := th.pc }

end Sys2Proof.Machine
end

