-- ==== Sys2Proof/Machine/Gate.lean ====
section
/-! DEFINITION. Issue: what holds an instruction back (R106, R217, R220, R221, R473), how a completed one advances its
thread (R60, R61, R216, R217, R219), and the rendezvous of set- and block-scope instructions (R49 to R54). -/

namespace Sys2Proof.Machine

/-! ### What a meaning answers -/

/-- What the meaning of an instruction does. -/
inductive Res
  /-- it completes with these results -/
  | done (s : State) (vals : List RegVal)
  /-- it completes; its results arrive later (R219) -/
  | async (s : State) (p : Pending)
  /-- it completes and control goes to an address -/
  | jump (s : State) (vals : List RegVal) (pc : Nat)
  /-- it traps -/
  | trap (s : State) (t : Trap)
  /-- it waits at issue and is tried again -/
  | wait (s : State) (w : WaitOn)
  /-- the thread has ended, or does not go on from here -/
  | stop (s : State)

/-! ### Region boundaries (R61) -/

/-- R61: the implicit boundaries, and `region`. -/
def isBoundary (i : Instr) : Bool :=
  match i with
  | .atomAdd _ | .atomFadd _ | .atomMin _ | .atomMax _ | .atomAnd _ | .atomOr _ | .atomXor _ | .atomXchg _
  | .atomCas _ | .bread _ | .bankcfg _ | .phaseRel _ | .phaseAcq _ | .phaseAr _ | .rpush _ | .rpop _ | .palloc _
  | .pfree _ | .xres _ | .call _ | .callInd _ | .ret _ | .region _ => true
  | .sync o | .shfl _ o | .bcast o | .red _ o | .scan _ o | .sred _ o | .topk o | .mma o => decide (2 ≤ o.scope.code)
  | _ => false

/-! ### Hazards -/

/-- R216, R221: the instruction runs in native mode: its clause's header covers it. -/
def Env.native (e : Env) (len : Nat) : Bool :=
  !e.la.interlocked && match e.th.clause with | some c => decide (len ≤ c.left) | none => false

/-- R217: the flag that a variable-latency instruction of the clause in force sets; 15 is none. -/
def Env.headerFlag (e : Env) (len : Nat) : Nat :=
  if !e.native len then 15
  else match e.th.clause with | some c => if c.fresh then c.seta else c.setb | none => 15

/-- R106, R217: the header's flag is still busy from an earlier clause. -/
def Env.flagHazard (e : Env) (i : Instr) (len : Nat) : Bool :=
  let f := e.headerFlag len
  let mine := match e.th.clause with | some c => c.ops | none => []
  isLong i && decide (f < 12) && e.th.flags.any (fun p => decide (p.1 = f) && !mine.contains p.2)

/-- R219: whether an instruction reads masks as the scalar side does. -/
def readsScalarSide (i : Instr) : Bool :=
  match i with
  | .kpop _ | .kfirst _ | .kany _ | .kall _ | .ballot _ | .bra _ _ => true
  | .kmov o => match o.dst with | .s _ => true | _ => false
  | _ => false

/-- R219: a comparison. -/
def isCompare : Instr → Bool | .cmp _ _ | .fcmp _ _ => true | _ => false

/-- The registers that the thread's instruction reads, its guard apart; `bread` reads `sP` to `sP+15` (R68). -/
def Env.reads (e : Env) (i : Instr) : List RegId :=
  match i with
  | .bread _ => e.th.reads 0 i ++ opdRegs 0 (.s e.la.obj.params) 16
  | _ => e.th.reads 0 i

/-- R220, R221: an earlier result holds the instruction back: it would write a register before that result does, its
guard waits for it, or, interlocked, a source does. -/
def Env.regHazard (e : Env) (i : Instr) (o : Ops) : Bool :=
  let writes := e.th.writes 0 i
  let reads := e.reads i
  let queued := isLong i && !isCompare i
  e.th.pend.any (fun p =>
    let late (r : RegId) : Bool := p.regs.contains r
    let stale (r : RegId) : Bool := match p.stale with | some (k, _) => decide (r = k) | none => false
    (!queued && writes.any late) ||
    (decide (o.guard ≠ 0) && late (.k o.guard) && !stale (.k o.guard)) ||
    (!e.native o.len && reads.any (fun r => late r && (!stale r || readsScalarSide i))))

/-- R473, R471: in a paired launch a boundary waits for earlier results and for the limits. -/
def Env.pairHazard (e : Env) (i : Instr) : Bool :=
  match e.th.pair with
  | none => false
  | some p => isBoundary i && e.th.isWarp && (decide (e.th.pend ≠ []) || p.full true 0)

/-- Instructions that reach memory, scratch or a queue, or fetch afresh (R171, R177: they wait for an acquire that is under
way; R200); `mma` reads its block scales from scratch (R135). -/
def reaches (i : Instr) : Bool :=
  match i with
  | .ld _ | .st _ | .lds _ | .sts _ | .mld _ | .mst _ | .atomAdd _ | .atomFadd _ | .atomMin _ | .atomMax _ | .atomAnd _
  | .atomOr _ | .atomXor _ | .atomXchg _ | .atomCas _ | .phaseRel _ | .phaseAcq _ | .phaseAr _ | .bcopy _ | .bcopyMc _
  | .bput _ | .bread _ | .rpush _ | .rpop _ | .palloc _ | .pfree _ | .xres _ | .launch _ | .call _ | .callInd _
  | .ret _ | .fenceCode _ | .mma _ => true
  | _ => false

/-- R167: an access that a waiting one held back, or that the host has answered, is yet to be performed, and none waits on the
host before it: later accesses follow it. (DEDUCED, log entry 42.) -/
def Thread.backlog (th : Thread) : Bool := (th.log.takeWhile (fun q => q.lines.all (·.told))).any (fun q => !q.atomic)

/-- R167, R171, R175, R177: a phase or an acquiring atomic of the thread that is not yet complete holds back its later accesses,
and so does its backlog. An atomic of a paired sprout, which waits for its commit, holds none (R76, R475). -/
def State.accessHold (s : State) (e : Env) (i : Instr) : Bool :=
  reaches i && (e.th.phase.isSome || e.th.backlog ||
    s.reqs.any (fun r => decide (r.tid = e.tid) && r.acq.isSome && (e.th.isWarp || !r.gated)))

/-- R342, R366: an `xres` of the thread that is not yet complete holds it. -/
def State.resHold (s : State) (e : Env) : Bool :=
  s.ctxs.any (fun p => p.2.xres.any (fun w => decide (w.tid = e.tid) || decide (w.twin.map (·.1) = some e.tid))) ||
    s.pipes.any (fun p => decide (p.tid = e.tid) && (match p.work with | .xres _ _ => true | _ => false))

/-- What holds an instruction back at issue. -/
def Env.hazard (e : Env) (i : Instr) (o : Ops) : Bool := e.flagHazard i o.len || e.regHazard i o || e.pairHazard i

/-- A thread that is held back and tried again. -/
def State.hold (s : State) (t : Nat) (w : WaitOn) : State := s.modThread t (fun th => { th with wait := w })

/-! ### Completion -/

/-- R217: an operation that keeps the header's flag busy. -/
def Thread.setFlag (th : Thread) (flag op : Nat) : Thread :=
  let clause := th.clause.map (fun c => { c with fresh := false, ops := op :: c.ops })
  if flag < 12 then { th with flags := th.flags ++ [(flag, op)], clause := clause } else { th with clause := clause }

/-- R216: the words of the instruction are behind; one that the span does not cover ends the clause. -/
def Thread.passWords (th : Thread) (len : Nat) : Thread :=
  { th with clause := match th.clause with
      | some c => if c.left < len then none else Clause.pass (some { c with issued := c.issued + 1 }) len
      | none => none }

/-- R215, R218: the idle cycles that the clause's STALL hint gives after an instruction. -/
def Env.stallHint (e : Env) (len : Nat) : Nat :=
  if !e.native len then 0
  else match e.th.clause with
    | some c => if c.issued < 8 then 2 ^ bitsOf c.stall (2 * c.issued + 1) (2 * c.issued) - 1 else 0
    | none => 0

/-- R184: the fetch block that a thread keeps when it goes on at `pc`. -/
def Thread.keepBlock (th : Thread) (pc : Nat) : Option (Nat × List Word × Bool) :=
  th.fetched.bind (fun f => if f.1 = pc / 32 then some (f.1, f.2.1, true) else none)

/-- R60, R61, R471, R479: the region that a boundary opens at `pc`. -/
def State.boundary (s : State) (t addr pc : Nat) (named : Option RegionMasks) : State :=
  let s := s.modThread t (fun th => th.openRegion pc s.clock.toNat named)
  (s.checkpoint t addr).inject t

/-- R215, R218: the idle cycles of a thread that completes an instruction of `len` words. -/
def State.stallOf (s : State) (t len : Nat) : Nat := match s.envOf t with | some e => e.stallHint len | none => 0

/-- R61: the registers that the thread's instructions of its region have still to write. -/
def Thread.due (th : Thread) : List RegId := (th.pend.filter (fun p => p.region = th.region.num)).flatMap (·.regs)

/-- R38, R216, R61: a completed instruction, which has written the registers `wrote`, leaves its thread at `pc`. What it writes
later counts as written too; a register that no lane writes does not (R234). -/
def State.advance (s : State) (t : Nat) (i : Instr) (len pc : Nat) (wrote : List RegId) : State :=
  let at_ := match s.thread t with | some th => th.pc | none => 0
  let idle := s.stallOf t len
  let s := s.modThread t (fun th =>
    { th.passWords len with pc := pc, wait := .ready, idle := idle, fetched := th.keepBlock pc, region := th.region.wrote (wrote ++ th.due) })
  match i with
  | .region _ => s
  | _ => if isBoundary i && (match s.thread t with | some th => th.isWarp | none => false) then
      s.boundary t at_ pc none else s

/-- R219: what the scalar side sees of a register before a comparison's result reaches it. -/
def Regs.sideVal (r : Regs) : RegId → DWord
  | .k n => r.mask n
  | .s n => (r.scal n).setWidth 64
  | _ => 0

/-- R219, R220: results of a thread's instruction: written now, or, of a variable-latency one, by a RESULT_WRITE. A
comparison's is written now, and the scalar side alone sees it later. -/
def State.results (s : State) (e : Env) (i : Instr) (o : Ops) (vals : List RegVal) : State :=
  if !isLong i then s.modThread e.tid (fun th => { th with regs := Regs.putAll th.width th.regs vals })
  else if vals = [] then s.modThread e.tid (fun th => th.setFlag 15 0)
  else
    let (op, s) := s.fresh
    let flag := e.headerFlag o.len
    let now := if isCompare i then vals else []
    s.modThread e.tid (fun th => { th.setFlag flag op with
      regs := Regs.putAll th.width th.regs now,
      pend := th.pend ++ [{ op := op, vals := if isCompare i then [] else vals,
                            stale := now.head?.map (fun v => (v.reg, e.th.regs.sideVal v.reg)),
                            known := true, regs := vals.map (·.reg), region := th.region.num }] })

/-- R217, R219: an operation whose results arrive later. -/
def State.asyncResults (s : State) (e : Env) (o : Ops) (p : Pending) : State :=
  let flag := e.headerFlag o.len
  s.modThread e.tid (fun th =>
    { th.setFlag flag p.op with pend := th.pend ++ [{ p with region := th.region.num }] })

/-- R479: the lane whose checker result is wrong by injection, in the region that was named. -/
def Env.armed (e : Env) : Option Nat := (e.th.checkErr.filter (fun p => decide (p.2 = e.th.region.num))).map (·.1)

/-- R479: the lane in which the checker result of an instruction with these results is wrong by injection. -/
def Env.checkedLane (e : Env) (vals : List RegVal) : Option Nat :=
  e.armed.filter (fun l => vals.any (fun v => match v with | .v _ k _ => decide (k = l) | _ => false))

/-- R479: the same for an instruction whose results arrive later. -/
def Env.checkedLater (e : Env) (o : Ops) (regs : List RegId) : Option Nat :=
  e.armed.filter (fun l => (e.th.active o).getLsbD l && regs.any (fun r => match r with | .v _ => true | _ => false))

/-- R457, R479: an instruction that has left the state `s`, from `s0`, goes on by `next` unless the checker results of its threads
are wrong in a lane each: then it mismatches once for each of them, in turn. -/
def State.checkedAll (space : List Nat) : List (Env × Nat) → State → State → (State → State) → State
  | [], _, s, next => next s
  | (e, l) :: rest, s0, s, next =>
    let clear (s : State) : State := s.modThread e.tid (fun th => { th with checkErr := none })
    match s0.mismatch e space [l] 1 true [.forwardChecker] with
    | (true, s0) => State.checkedAll space rest (clear s0) (clear (s.mismatch e space [l] 1 true [.forwardChecker]).2) next
    | (false, s0) => clear s0

/-- R457, R479: the same for an instruction of one thread. -/
def State.checked (s0 s : State) (e : Env) (space : List Nat) (lane : Option Nat) (next : State → State) : State :=
  State.checkedAll space ((lane.map (fun l => (e, l))).toList) s0 s next

/-- R464, R465, R479: a vector source whose stored bits were inverted; set registers count from `base` (R57). -/
def Env.flawRead (e : Env) (i : Instr) (base : Nat) : Option (Nat × Nat × Bool) :=
  e.th.regs.flawed.find? (fun f => (e.th.reads base i).contains (.v f.1))

/-- R464, R465: a flawed word is read: it is corrected, and the instruction issues again, or it cannot be. -/
def State.meetFlaw (s : State) (e : Env) (f : Nat × Nat × Bool) : State :=
  let s := s.modThread e.tid (fun th => { th with regs := { th.regs with
    flawed := th.regs.flawed.filter (fun g => !(decide (g.1 = f.1) && decide (g.2.1 = f.2.1))) } })
  if f.2.2 then s.uncorrectable e (.v f.1 f.2.1) f.2.1 else s.correctReg e.blk.core

/-- R418, R436: flags that a `wait` or a clause WAIT has found clear are consumed: the failures behind them raise
nothing. -/
def Thread.consume (th : Thread) (flags : Nat) : Thread :=
  { th with faults := th.faults.filter (fun f => !(decide (f.flag < 12) && bitOf flags f.flag)) }

/-- What follows from the answer of a meaning. -/
def State.finish (s0 : State) (e : Env) (i : Instr) (o : Ops) : Res → State
  | .done s vals => s0.checked s e [e.tid] (e.checkedLane vals) (fun s =>
      (s.results e i o vals).advance e.tid i o.len (s0.cur.pc + 4 * o.len) (vals.map (·.reg)))
  | .async s p => s0.checked s e [e.tid] (e.checkedLater o p.regs) (fun s =>
      (s.asyncResults e o p).advance e.tid i o.len (s0.cur.pc + 4 * o.len) p.regs)
  | .jump s vals pc => ((s.results e i o vals).advance e.tid i o.len pc (vals.map (·.reg))).modThread e.tid
      (fun th => { th with clause := none, fetched := none })
  | .trap s t => s.raise e.tid t
  | .wait s w => s.hold e.tid w
  | .stop s => s

/-- The issue of an instruction by a thread that is resident. -/
def State.issueAt (s : State) (e : Env) (i : Instr) (o : Ops) (body : Env → State → Res) : State :=
  if s.resHold e then s.hold e.tid .pipe
  else if e.hazard i o || s.accessHold e i then s.hold e.tid .stalled
  else match e.flawRead i 0 with
    | some f => s.meetFlaw e f
    | none => s.finish e i o (body e s)

/-- The meaning of an encoded instruction: it issues for the current thread. (DESIGN CHOICE, log entry 69.) -/
def issue (s : State) (i : Instr) (o : Ops) (body : Env → State → Res) : Host.Outcome State Fault Refusal :=
  match s.env with
  | none => .fault .noThread
  | some e => .next (s.issueAt e i o body)

/-! ### Set and block scope -/

/-- What a set- or block-scope instruction acts on: the members that are live, with their ranks, and their leader. -/
structure SetCtx where
  /-- set number, 256 for the block -/
  set     : Nat
  /-- `set_base`, 0 for the block (R57) -/
  base    : Nat
  width   : Nat
  /-- number of members, live or not -/
  size    : Nat
  leader  : Env
  /-- rank, member -/
  members : List (Nat × Env)

/-- What a set- or block-scope instruction does. -/
inductive SetRes
  /-- results of each member -/
  | done (s : State) (vals : List (Nat × List RegVal))
  /-- a set-wide trap: cause, DETAIL, the faulting lanes of each member -/
  | trap (s : State) (cause detail : Nat) (masks : List (Nat × DWord))
  /-- it cannot be performed yet -/
  | wait (s : State)

/-- R47, R57: the set that a set- or block-scope instruction names: number, base, all members. -/
def Env.setOf (e : Env) (o : Ops) : Nat × Nat × List Nat :=
  if o.scope = .block then (256, 0, e.blk.warps)
  else match (e.la.obj.sets e.th.warpId)[o.mslot]? with
    | some g => (g.num, g.base, e.blk.membersOf e.la.obj g.num)
    | none => (0, 0, [])

/-- R49, R53: the live members of a complete rendezvous. -/
def State.setCtx (s : State) (e : Env) (o : Ops) : Option SetCtx :=
  let (set, base, all) := e.setOf o
  let ms := (all.zipIdx.filterMap (fun p => (s.envOf p.1).map (fun m => (p.2, m)))).filter (fun p => p.2.th.live)
  match ms with
  | [] => none
  | m :: _ => some { set, base, width := e.th.width, size := all.length, leader := m.2, members := ms }

/-- R52, R53, R410, R456, R464: a rendezvous that is complete executes once, and every member goes on. -/
def State.execSet (s : State) (e : Env) (i : Instr) (o : Ops) (body : SetCtx → State → SetRes) : State :=
  match s.setCtx e o with
  | none => s
  | some c =>
    let close (s : State) : State := s.modBlock e.th.block (fun b => { b with rends := b.rends.filter (·.set ≠ c.set) })
    match c.members.findSome? (fun m => (m.2.flawRead i c.base).map (fun f => (m.2, f))) with
    | some (m, f) => s.meetFlaw m f
    | none => match body c s with
      | .wait s => s.hold e.tid (.rendezvous c.set)
      | .trap s cause detail masks =>
        match s.block e.th.block with
        | none => s
        | some b => s.setWide e.th.block (c.members.map (fun m =>
            let mask := ((masks.find? (fun p => p.1 = m.2.tid)).map (·.2)).getD 0
            (m.2.tid, memberTrap b m.2.tid cause detail (some c.set) mask)))
      | .done t vals =>
        let mine (m : Env) : List RegVal := ((vals.find? (fun p => p.1 = m.tid)).map (·.2)).getD []
        let next (t : State) : State := c.members.foldl (fun s m =>
          (s.results m.2 i o (mine m.2)).advance m.2.tid i o.len (s.cur.pc + 4 * o.len) ((mine m.2).map (·.reg))) (close t)
        State.checkedAll (e.setOf o).2.2 (c.members.filterMap (fun m => (m.2.checkedLane (mine m.2)).map (fun l => (m.2, l)))) s t next

/-- R54, R411: a member arrives at another address. -/
def State.rendMismatch (s : State) (e : Env) (o : Ops) (set : Nat) : State :=
  let live := s.liveMembers e.blk e.la.obj set
  s.setWide e.th.block (live.map (fun t =>
    if t = e.tid then (t, { s.trapOf 0x09 set (e.th.active o) with setwide := true })
    else
      let mask := match e.blk.rends.find? (fun r => r.arrived.contains t) with
        | some r => s.arrivedMask t r.instr | none => 0
      (t, memberTrap e.blk t 0x09 set (some set) mask)))

/-- R52 to R55: a set- or block-scope instruction: the thread arrives, and the last arrival executes it.
(DEDUCED, log entry 18.) -/
def State.issueSetAt (s : State) (e : Env) (i : Instr) (o : Ops) (body : SetCtx → State → SetRes) : State :=
  let (set, _, _) := e.setOf o
  let arrived := e.blk.rends.find? (fun r => r.set = set)
  let here := match arrived with | some r => r.arrived.contains e.tid | none => false
  if !here && (decide (e.th.pend ≠ []) || e.flagHazard i o.len || e.pairHazard i || s.accessHold e i) then s.hold e.tid .stalled
  else match arrived with
    | some r =>
      if !here && r.addr ≠ s.cur.pc then s.rendMismatch e o set
      else
        let r' := if here then r else { r with arrived := r.arrived ++ [e.tid] }
        let s := s.modBlock e.th.block (fun b => { b with rends := b.rends.map (fun x => if x.set = set then r' else x) })
        let s := s.hold e.tid (.rendezvous set)
        if s.rendDone e.blk r' then s.execSet e i o body else s.checkDeadlock e.th.block
    | none =>
      let r : Rendezvous := { set, addr := s.cur.pc, instr := i, words := s.cur.words, arrived := [e.tid] }
      let s := s.modBlock e.th.block (fun b => { b with rends := b.rends ++ [r] })
      let s := s.hold e.tid (.rendezvous set)
      if s.rendDone e.blk r then s.execSet e i o body else s.checkDeadlock e.th.block

/-- The meaning of a set- or block-scope instruction. -/
def issueSet (s : State) (i : Instr) (o : Ops) (body : SetCtx → State → SetRes) : Host.Outcome State Fault Refusal :=
  match s.env with
  | none => .fault .noThread
  | some e => .next (s.issueSetAt e i o body)

/-! ### Forms of lane-scope instructions -/

/-- R234, R235: the lanes in which a lane-scope instruction acts: lane 0 once, in the all-scalar form, when some lane
passes. -/
def Env.actLanes (e : Env) (o : Ops) : List Nat :=
  if allScalar o then (if e.th.active o = 0 then [] else [0]) else e.th.activeLanes o

/-- R234: a lane-scope instruction that computes one value of TYPE in each lane from its sources. -/
def issueLanes (s : State) (i : Instr) (o : Ops) (f : Env → Nat → Nat) : Host.Outcome State Fault Refusal :=
  issue s i o (fun e s => .done s ((e.actLanes o).flatMap (fun l => destVals 0 o.ty o.dst l (f e l))))

end Sys2Proof.Machine
end

