-- ==== Sys2Proof/Machine/Integer.lean ====
section
/-! DEFINITION. Integer, bit and address instructions (R238 to R247). -/

namespace Sys2Proof.Machine

/-- Source a of an instruction in a lane, in TYPE. -/
def Env.srcA (e : Env) (o : Ops) (l : Nat) : Nat := e.th.regs.raw 0 o.ty l o.a
/-- Source b. -/
def Env.srcB (e : Env) (o : Ops) (l : Nat) : Nat := e.th.regs.raw 0 o.ty l o.b
/-- Source c. -/
def Env.srcC (e : Env) (o : Ops) (l : Nat) : Nat := e.th.regs.raw 0 o.ty l o.c
/-- A source of one 32-bit register, whatever TYPE is (R242, R243). -/
def Env.wordB (e : Env) (o : Ops) (l : Nat) : Nat := e.th.regs.raw 0 .b32 l o.b

/-- R239: exact arithmetic on two values, fitted to the type. -/
def issueInt (s : State) (i : Instr) (o : Ops) (f : Int → Int → Int) : Host.Outcome State Fault Refusal :=
  issueLanes s i o (fun e l => o.ty.fit o.sat (f (o.ty.value (e.srcA o l)) (o.ty.value (e.srcB o l))))

/-- R239: a bitwise operation. -/
def issueBits (s : State) (i : Instr) (o : Ops) (f : Nat → Nat → Nat) : Host.Outcome State Fault Refusal :=
  issueLanes s i o (fun e l => f (e.srcA o l) (e.srcB o l))

/-- R242: a shift or rotate by a 32-bit amount. -/
def issueShift (s : State) (i : Instr) (o : Ops) (f : Nat → Nat → Nat → Nat) : Host.Outcome State Fault Refusal :=
  issueLanes s i o (fun e l => f o.ty.bits (e.srcA o l) (e.wordB o l))

/-- R239: `add`. -/
def execAdd (o : Ops) (s : State) : Host.Outcome State Fault Refusal := issueInt s (.add o) o (· + ·)
/-- R239: `sub`. -/
def execSub (o : Ops) (s : State) : Host.Outcome State Fault Refusal := issueInt s (.sub o) o (· - ·)
/-- R239: `mul`. -/
def execMul (o : Ops) (s : State) : Host.Outcome State Fault Refusal := issueInt s (.mul o) o (· * ·)
/-- R239: `mulhi`. -/
def execMulhi (o : Ops) (s : State) : Host.Outcome State Fault Refusal :=
  issueInt s (.mulhi o) o (fun a b => a * b / (2 ^ o.ty.bits : Nat))
/-- R239: `mad`. -/
def execMad (o : Ops) (s : State) : Host.Outcome State Fault Refusal :=
  issueLanes s (.mad o) o (fun e l => o.ty.fit o.sat
    (o.ty.value (e.srcA o l) * o.ty.value (e.srcB o l) + o.ty.value (e.srcC o l)))
/-- R239: `min`. -/
def execMin (o : Ops) (s : State) : Host.Outcome State Fault Refusal := issueInt s (.min o) o (fun a b => min a b)
/-- R239: `max`. -/
def execMax (o : Ops) (s : State) : Host.Outcome State Fault Refusal := issueInt s (.max o) o (fun a b => max a b)
/-- R239: `abs`. -/
def execAbs (o : Ops) (s : State) : Host.Outcome State Fault Refusal :=
  issueLanes s (.abs o) o (fun e l => o.ty.fit o.sat (o.ty.value (e.srcA o l)).natAbs)
/-- R239: `neg`. -/
def execNeg (o : Ops) (s : State) : Host.Outcome State Fault Refusal :=
  issueLanes s (.neg o) o (fun e l => o.ty.fit o.sat (-(o.ty.value (e.srcA o l))))

/-- R241: a 32-bit limb of a chain: the pair that `low` names supplies the carry in and takes the carry out. -/
def issueChain (s : State) (i : Instr) (o : Ops) (f : Nat → Nat → Nat → Nat × Nat) : Host.Outcome State Fault Refusal :=
  issue s i o (fun e s => .done s ((e.actLanes o).flatMap (fun l =>
    let cin := e.th.regs.raw 0 .b64 l o.dst / 2 ^ 32 % 2
    let (lo, hi) := f (e.th.regs.raw 0 .b32 l o.a) (e.th.regs.raw 0 .b32 l o.b) cin
    destVals 0 .b64 o.dst l (lo + 2 ^ 32 * hi))))

/-- R241: `addc`. -/
def execAddc (o : Ops) (s : State) : Host.Outcome State Fault Refusal :=
  issueChain s (.addc o) o (fun a b c => ((a + b + c) % 2 ^ 32, (a + b + c) / 2 ^ 32))
/-- R241: `subb`. -/
def execSubb (o : Ops) (s : State) : Host.Outcome State Fault Refusal :=
  issueChain s (.subb o) o (fun a b c => ((a + 2 ^ 33 - b - c) % 2 ^ 32, if a < b + c then 1 else 0))

/-- R240: `div`. -/
def execDiv (o : Ops) (s : State) : Host.Outcome State Fault Refusal :=
  issueLanes s (.div o) o (fun e l => intDiv o.ty o.sat (e.srcA o l) (e.srcB o l))
/-- R240: `rem`. -/
def execRem (o : Ops) (s : State) : Host.Outcome State Fault Refusal :=
  issueLanes s (.rem o) o (fun e l => intRem o.ty (e.srcA o l) (e.srcB o l))

/-- R239: `and`. -/
def execAnd (o : Ops) (s : State) : Host.Outcome State Fault Refusal := issueBits s (.and o) o (· &&& ·)
/-- R239: `or`. -/
def execOr (o : Ops) (s : State) : Host.Outcome State Fault Refusal := issueBits s (.or o) o (· ||| ·)
/-- R239: `xor`. -/
def execXor (o : Ops) (s : State) : Host.Outcome State Fault Refusal := issueBits s (.xor o) o (· ^^^ ·)
/-- R239: `andn`. -/
def execAndn (o : Ops) (s : State) : Host.Outcome State Fault Refusal :=
  issueBits s (.andn o) o (fun a b => a &&& (2 ^ o.ty.bits - 1 - b))
/-- R239: `not`. -/
def execNot (o : Ops) (s : State) : Host.Outcome State Fault Refusal :=
  issueLanes s (.not o) o (fun e l => 2 ^ o.ty.bits - 1 - e.srcA o l)

/-- R242: `shl`. -/
def execShl (o : Ops) (s : State) : Host.Outcome State Fault Refusal := issueShift s (.shl o) o shiftLeft
/-- R242: `shr`. -/
def execShr (o : Ops) (s : State) : Host.Outcome State Fault Refusal := issueShift s (.shr o) o shiftRight
/-- R242: `sar`. -/
def execSar (o : Ops) (s : State) : Host.Outcome State Fault Refusal := issueShift s (.sar o) o shiftArith
/-- R242: `rot`. -/
def execRot (o : Ops) (s : State) : Host.Outcome State Fault Refusal := issueShift s (.rot o) o rotateLeft

/-- R243: `bfx`. -/
def execBfx (o : Ops) (s : State) : Host.Outcome State Fault Refusal :=
  issueLanes s (.bfx o) o (fun e l => extractField o.ty (e.srcA o l) (e.wordB o l))
/-- R243: `bfi`. -/
def execBfi (o : Ops) (s : State) : Host.Outcome State Fault Refusal :=
  issueLanes s (.bfi o) o (fun e l => insertField o.ty (e.srcA o l) (e.wordB o l) (e.srcC o l))

/-- R244: a count of bits, one 32-bit register wide. -/
def issueCount (s : State) (i : Instr) (o : Ops) (f : Nat → Nat → Nat) : Host.Outcome State Fault Refusal :=
  issue s i o (fun e s => .done s ((e.actLanes o).flatMap (fun l =>
    destVals 0 .n32 o.dst l (f o.ty.bits (e.srcA o l)))))
/-- R244: `popc`. -/
def execPopc (o : Ops) (s : State) : Host.Outcome State Fault Refusal := issueCount s (.popc o) o popCount
/-- R244: `clz`. -/
def execClz (o : Ops) (s : State) : Host.Outcome State Fault Refusal := issueCount s (.clz o) o leadingZeros
/-- R244: `brev`. -/
def execBrev (o : Ops) (s : State) : Host.Outcome State Fault Refusal :=
  issueLanes s (.brev o) o (fun e l => reverseBits o.ty.bits (e.srcA o l))

/-- R245: `sel`. -/
def execSel (o : Ops) (s : State) : Host.Outcome State Fault Refusal :=
  issueLanes s (.sel o) o (fun e l => if e.srcC o l = 1 then e.srcA o l else e.srcB o l)
/-- R245: `mov`. -/
def execMov (o : Ops) (s : State) : Host.Outcome State Fault Refusal := issueLanes s (.mov o) o (fun e l => e.srcA o l)
/-- R245: `movi`. -/
def execMovi (o : Ops) (s : State) : Host.Outcome State Fault Refusal := issueLanes s (.movi o) o (fun e l => e.srcA o l)
/-- R246: `cvt`. -/
def execCvt (o : Ops) (s : State) : Host.Outcome State Fault Refusal :=
  issueLanes s (.cvt o) o (fun e l => o.ty.fit o.sat (o.sty.value (e.th.regs.raw 0 o.sty l o.a)))
/-- R247: `lea`. -/
def execLea (o : Ops) (s : State) : Host.Outcome State Fault Refusal :=
  issueLanes s (.lea o) o (fun e l => (e.srcA o l + e.srcB o l * 2 ^ o.xmod) % 2 ^ o.ty.bits)

end Sys2Proof.Machine
end

