-- ==== Sys2Proof/Machine/Special.lean ====
section
/-! DEFINITION. The special functions (R133, R255), in integer arithmetic. Each function gives the magnitude of its
exact result, with a mark when the result is not exactly the magnitude given; digits are correct far beyond the point
at which any of the four formats rounds. -/

namespace Sys2Proof

/-! ### Roots -/

/-- The greatest number of `n` bits, added to `r`, whose square is at most `x`. -/
def isqrtBits : Nat → Nat → Nat → Nat
  | 0, r, _ => r
  | n + 1, r, x => isqrtBits n (if (r + 2 ^ n) * (r + 2 ^ n) ≤ x then r + 2 ^ n else r) x

/-- The integer square root. -/
def isqrt (x : Nat) : Nat := isqrtBits (x.log2 / 2 + 1) 0 x

/-- The square root of m × 2^e. -/
def sqrtMag (m : Nat) (e : Int) : Mag :=
  let e' := e - 160 - (e % 2)
  let x := m * 2 ^ (e - e').toNat
  let r := isqrt x
  ⟨r, e' / 2, decide (r * r ≠ x)⟩

/-- One over the square root of m × 2^e. -/
def rsqMag (m : Nat) (e : Int) : Mag :=
  let (m, e) := if e % 2 = 0 then (m, e) else (m * 2, e - 1)
  let n := m.log2 + 140
  let y := isqrt (2 ^ (2 * n) / m)
  ⟨y, -(n : Int) - e / 2, decide (y * y * m ≠ 2 ^ (2 * n))⟩

/-! ### Series in fixed point -/

/-- Fractional bits of the fixed point. -/
def fixBits : Nat := 384

/-- 1 in fixed point. -/
def fixOne : Nat := 2 ^ fixBits

/-- `n` terms of the sum over k of ± p / (k d^k), k odd from `k`: `alt` alternates the signs. -/
def oddSeries (alt : Bool) (d2 : Nat) : Nat → Nat → Nat → Int
  | 0, _, _ => 0
  | n + 1, k, p => (p / k : Nat) + (if alt then -(oddSeries alt d2 n (k + 2) (p / d2)) else oddSeries alt d2 n (k + 2) (p / d2))

/-- The natural logarithm of 2. -/
def fixLn2 : Nat := (2 * oddSeries false 9 130 1 (fixOne / 3)).toNat

/-- π, by Machin's formula. -/
def fixPi : Nat := (16 * oddSeries true 25 90 1 (fixOne / 5) - 4 * oddSeries true (239 * 239) 30 1 (fixOne / 239)).toNat

/-- 1 + y/k (1 + y/(k+1) (1 + …)). -/
def expSeries (y : Nat) : Nat → Nat → Nat
  | 0, _ => fixOne
  | n + 1, k => fixOne + y * expSeries y n (k + 1) / (k * fixOne)

/-- 1 − z²/(k (k+1)) (1 − z²/((k+2)(k+3)) (1 − …)), of `z2` = z². -/
def trigSeries (z2 : Nat) : Nat → Nat → Nat
  | 0, _ => fixOne
  | n + 1, k => fixOne - z2 * trigSeries z2 n (k + 2) / (k * (k + 1) * fixOne)

/-- An inexact fixed-point value as a magnitude: its last digits may be in error and are dropped. -/
def fixMag (x : Nat) (e : Int) : Mag := ⟨x / 2 ^ 32, e - fixBits + 32, true⟩

/-! ### Exponential and logarithm -/

/-- 2^(n + r/d), 0 < r < d. -/
def exp2Mag (n : Int) (r d : Nat) : Mag :=
  fixMag (expSeries (r * fixLn2 / d) 90 1) n

/-- `n` binary digits of the logarithm to base 2 of x, 1 ≤ x < 2, x in units of 2^-640. -/
def log2Digits : Nat → Nat → Nat → Nat
  | 0, _, acc => acc
  | n + 1, x, acc =>
    let y := x * x / 2 ^ 640
    if y ≥ 2 ^ 641 then log2Digits n (y / 2) (2 * acc + 1) else log2Digits n y (2 * acc)

/-- The logarithm to base 2 of m × 2^e, m not a power of two: its sign and magnitude. -/
def log2Mag (m : Nat) (e : Int) : Bool × Mag :=
  let k := m.log2
  let frac := log2Digits 224 (m * 2 ^ (640 - k)) 0
  let v : Int := (e + k) * (2 ^ 224 : Nat) + frac
  -- a negative value is digits short of its magnitude
  if v < 0 then (true, ⟨v.natAbs - 1, -224, true⟩) else (false, ⟨v.natAbs, -224, true⟩)

/-! ### Sine and cosine of π t -/

/-- sin(π r/d), 0 < r/d ≤ 1/4, d = 2^k. -/
def sinMag (r k : Nat) : Mag :=
  if r.log2 + 120 < k then ⟨r * fixPi / 2 ^ 32, -(k : Int) - fixBits + 32, true⟩
  else
    let z := r * fixPi / 2 ^ k
    fixMag (z * trigSeries (z * z / fixOne) 90 2 / fixOne) 0

/-- cos(π r/d), 0 < r/d ≤ 1/4, d = 2^k. -/
def cosMag (r k : Nat) : Mag :=
  let z := r * fixPi / 2 ^ k
  fixMag (min (fixOne - 1) (trigSeries (z * z / fixOne) 90 1)) 0

/-- |sin| or |cos| of π m 2^e, its sign for positive m, and whether it is exact: R255. -/
def trigMag (isSin : Bool) (m : Nat) (e : Int) : Bool × Mag :=
  let k := (-e).toNat
  let d := 2 ^ k
  let r := (m * 2 ^ e.toNat) % (2 * d)
  let neg := decide (r ≥ d)
  let r := r % d
  -- fold the half turn about 1/2
  let fold := decide (2 * r > d)
  let neg := neg != (fold && !isSin)
  let r := if fold then d - r else r
  if r = 0 then (neg, ⟨if isSin then 0 else 1, 0, false⟩)
  else if 2 * r = d then (neg, ⟨if isSin then 1 else 0, 0, false⟩)
  else if 4 * r > d then (neg, if isSin then cosMag (d - 2 * r) (k + 1) else sinMag (d - 2 * r) (k + 1))
  else (neg, if isSin then sinMag r k else cosMag r k)

/-! ### The functions of opcode 0x2A -/

/-- R133: the rounded result of a function that `.f64` only brackets. `fn` numbers the function. -/
def roundBracket (env : FpEnv) (t : Ty) (mode fn src : Nat) (neg : Bool) (x : Mag) : FpRes :=
  if t ≠ .f64 then roundFp env t mode 0 false neg x
  else
    let up := Config.upperBracket (8 * fn + mode) (BitVec.ofNat 64 src)
    let r := roundFp env t (if up then (if neg then 3 else 2) else 1) 0 false neg x
    if r.conds &&& fOverflow ≠ 0 then ⟨overflowCode t mode false neg, fOverflow ||| fInexact⟩ else r

/-- R133, R131: `rcp`. -/
def fpRcp (env : FpEnv) (t : Ty) (mode a : Nat) : FpRes :=
  let a := env.source t a
  let x := fpVal t a
  if x.isNan then env.nanRes t [(t, a)] else quotFp env t mode false (.fin false 1 0) x

/-- R133, R131: `sqrt`. -/
def fpSqrt (env : FpEnv) (t : Ty) (mode a : Nat) : FpRes :=
  let a := env.source t a
  match fpVal t a with
  | .nan .. => env.nanRes t [(t, a)]
  | .inf n => if n then invalidRes t else ⟨t.infCode false, 0⟩
  | .fin n m e =>
    if m = 0 then ⟨t.signBit n, 0⟩ else if n then invalidRes t
    else roundFp env t mode 0 false false (sqrtMag m e)

/-- R133, R131: `rsq`. -/
def fpRsq (env : FpEnv) (t : Ty) (mode a : Nat) : FpRes :=
  let a := env.source t a
  match fpVal t a with
  | .nan .. => env.nanRes t [(t, a)]
  | .inf n => if n then invalidRes t else ⟨0, 0⟩
  | .fin n m e =>
    if m = 0 then infRes t false n fDivZero else if n then invalidRes t
    else roundBracket env t mode 1 a false (rsqMag m e)

/-- R133, R255: `exp2`. In `.f64` the power of an integer below −1074 is bracketed by 0 and 2^−1074. -/
def fpExp2 (env : FpEnv) (t : Ty) (mode a : Nat) : FpRes :=
  let a := env.source t a
  match fpVal t a with
  | .nan .. => env.nanRes t [(t, a)]
  | .inf n => ⟨if n then 0 else t.infCode false, 0⟩
  | .fin n m e =>
    let d : Nat := 2 ^ (-e).toNat
    let v : Int := (m * 2 ^ e.toNat : Nat)
    let v := if n then -v else v
    let q := max (-4000) (min 4000 (v / d))
    let r := (v % d).toNat
    if r = 0 ∧ (t ≠ .f64 ∨ -1074 ≤ q) then roundFp env t mode 0 false false ⟨1, q, false⟩
    else if r = 0 then roundBracket env t mode 3 a false ⟨1, q, false⟩
    else roundBracket env t mode 3 a false (exp2Mag q r d)

/-- R133, R131: `log2`. -/
def fpLog2 (env : FpEnv) (t : Ty) (mode a : Nat) : FpRes :=
  let a := env.source t a
  match fpVal t a with
  | .nan .. => env.nanRes t [(t, a)]
  | .inf n => if n then invalidRes t else ⟨t.infCode false, 0⟩
  | .fin n m e =>
    if m = 0 then infRes t false true fDivZero
    else if n then invalidRes t
    else if m = 2 ^ m.log2 then
      let k := e + m.log2
      roundFp env t mode 0 false (decide (k < 0)) ⟨k.natAbs, 0, false⟩
    else
      let (neg, x) := log2Mag m e
      roundBracket env t mode 4 a neg x

/-- R133, R255: `sinpi` and `cospi`. -/
def fpTrig (env : FpEnv) (t : Ty) (isSin : Bool) (mode a : Nat) : FpRes :=
  let a := env.source t a
  match fpVal t a with
  | .nan .. => env.nanRes t [(t, a)]
  | .inf _ => invalidRes t
  | .fin n m e =>
    let (neg, x) := trigMag isSin m e
    if x.m = 0 then ⟨if isSin then t.signBit n else 0, 0⟩
    else roundBracket env t mode (if isSin then 5 else 6) a (neg != (isSin && n)) x

end Sys2Proof
end

