-- ==== Sys2Proof/Machine/Float.lean ====
section
/-! DEFINITION. Floating-point instructions (R248 to R256) with their conditions and traps (R131, R132, R430) and the
stochastic generators (R122, R123). -/

namespace Sys2Proof.Machine

/-- `fpmode` as the instruction captures it at issue (R111). -/
def Env.fp (e : Env) : FpEnv := .ofWord e.th.regs.fpmode.toNat

/-- R122: the generator of a lane after one step. -/
def Env.rsState (e : Env) (l : Nat) : Nat := genStep (e.th.regs.genOf l)

/-- R122, R123: the generators of lanes after one rounding each by rs. -/
def stepGens (r : Regs) (lanes : List Nat) : Regs := lanes.foldl (fun r l => r.setGen l (genStep (r.genOf l))) r

/-- R131, R132, R249: an instruction that computes a result with conditions in each lane: an enabled condition writes
no lane, steps no generator and traps; `steps` tells a form that may round by rs. -/
def issueFp (s : State) (i : Instr) (o : Ops) (dty : Ty) (steps : Bool) (f : Env → Nat → FpRes) :
    Host.Outcome State Fault Refusal :=
  issue s i o (fun e s =>
    let lanes := e.actLanes o
    let res := lanes.map (fun l => (l, f e l))
    let (mask, conds) := trapLanes e.fp (res.map (fun p => (p.1, p.2.conds)))
    if mask ≠ 0 then .trap s (s.trapOf 0x05 conds (BitVec.ofNat 64 mask))
    else
      let s := if steps && decide (o.rnd = 5) then
        s.modThread e.tid (fun th => { th with regs := stepGens th.regs lanes }) else s
      .done s (res.flatMap (fun p => destVals 0 dty o.dst p.1 p.2.bits)))

/-- R248: `fadd`. -/
def execFadd (o : Ops) (s : State) : Host.Outcome State Fault Refusal :=
  issueFp s (.fadd o) o o.ty true (fun e l => fpAdd e.fp o.ty o.rnd (e.rsState l) o.sat false (e.srcA o l) (e.srcB o l))
/-- R248: `fsub`. -/
def execFsub (o : Ops) (s : State) : Host.Outcome State Fault Refusal :=
  issueFp s (.fsub o) o o.ty true (fun e l => fpAdd e.fp o.ty o.rnd (e.rsState l) o.sat true (e.srcA o l) (e.srcB o l))
/-- R248: `fmul`. -/
def execFmul (o : Ops) (s : State) : Host.Outcome State Fault Refusal :=
  issueFp s (.fmul o) o o.ty true (fun e l => fpMul e.fp o.ty o.rnd (e.rsState l) o.sat (e.srcA o l) (e.srcB o l))
/-- R250: `fma`. -/
def execFma (o : Ops) (s : State) : Host.Outcome State Fault Refusal :=
  issueFp s (.fma o) o o.ty true (fun e l =>
    fpFma e.fp o.ty o.rnd (e.rsState l) o.sat (e.srcA o l) (e.srcB o l) (e.srcC o l))
/-- R248, R133: `fdiv`. -/
def execFdiv (o : Ops) (s : State) : Host.Outcome State Fault Refusal :=
  issueFp s (.fdiv o) o o.ty false (fun e l => fpDiv e.fp o.ty o.rnd o.sat (e.srcA o l) (e.srcB o l))

/-- R230, R424: the launch relies on an erratum that C2 retains. -/
def Env.erratum (e : Env) (n : Nat) : Bool := e.la.obj.errata.getLsbD n

/-- R130, R424: `fmin`. (DEDUCED, log entry 15.) -/
def execFmin (o : Ops) (s : State) : Host.Outcome State Fault Refusal :=
  issueFp s (.fmin o) o o.ty false (fun e l => fpMinMax e.fp o.ty false (e.erratum 5) (e.srcA o l) (e.srcB o l))
/-- R130, R424: `fmax`. (DEDUCED, log entry 15.) -/
def execFmax (o : Ops) (s : State) : Host.Outcome State Fault Refusal :=
  issueFp s (.fmax o) o o.ty false (fun e l => fpMinMax e.fp o.ty true (e.erratum 5) (e.srcA o l) (e.srcB o l))
/-- R252: `fabs`. -/
def execFabs (o : Ops) (s : State) : Host.Outcome State Fault Refusal :=
  issueLanes s (.fabs o) o (fun e l => fpAbs o.ty (e.srcA o l))
/-- R252: `fneg`. -/
def execFneg (o : Ops) (s : State) : Host.Outcome State Fault Refusal :=
  issueLanes s (.fneg o) o (fun e l => fpNeg o.ty (e.srcA o l))
/-- R252: `fsign`. -/
def execFsign (o : Ops) (s : State) : Host.Outcome State Fault Refusal :=
  issueLanes s (.fsign o) o (fun e l => fpSign o.ty (e.srcA o l))
/-- R251: `frnd`. -/
def execFrnd (o : Ops) (s : State) : Host.Outcome State Fault Refusal :=
  issueFp s (.frnd o) o o.ty false (fun e l => fpRnd e.fp o.ty o.rnd (e.srcA o l))
/-- R251: `fscale`. -/
def execFscale (o : Ops) (s : State) : Host.Outcome State Fault Refusal :=
  issueFp s (.fscale o) o o.ty true (fun e l => fpScale e.fp o.ty o.rnd (e.rsState l) o.sat (e.srcA o l) (e.wordB o l))

/-- Source a in the source type of a conversion (R213). -/
def Env.srcS (e : Env) (o : Ops) (l : Nat) : Nat := e.th.regs.raw 0 o.sty l o.a

/-- R253: `fcvt`. Under rs it steps the generator (R122), also where its two types are equal and it rounds nothing.
(DEDUCED, log entry 14.) -/
def execFcvt (o : Ops) (s : State) : Host.Outcome State Fault Refusal :=
  issueFp s (.fcvt o) o o.ty true (fun e l => fpCvt e.fp o.ty o.sty o.rnd (e.rsState l) o.sat (e.srcS o l))
/-- R126, R253: `f2i`. -/
def execF2i (o : Ops) (s : State) : Host.Outcome State Fault Refusal :=
  issueFp s (.f2i o) o o.ty false (fun e l => fpToInt e.fp o.ty o.sty o.rnd (e.srcS o l))
/-- R126, R253: `i2f`. -/
def execI2f (o : Ops) (s : State) : Host.Outcome State Fault Refusal :=
  issueFp s (.i2f o) o o.ty true (fun e l => intToFp e.fp o.ty o.sty o.rnd (e.rsState l) (e.srcS o l))
/-- R254: `fclass`. -/
def execFclass (o : Ops) (s : State) : Host.Outcome State Fault Refusal :=
  issue s (.fclass o) o (fun e s => .done s ((e.actLanes o).flatMap (fun l =>
    destVals 0 .n32 o.dst l (fpClass o.ty (e.srcA o l)))))
/-- R133: `rcp`. -/
def execRcp (o : Ops) (s : State) : Host.Outcome State Fault Refusal :=
  issueFp s (.rcp o) o o.ty false (fun e l => fpRcp e.fp o.ty o.rnd (e.srcA o l))
/-- R133: `rsq`. -/
def execRsq (o : Ops) (s : State) : Host.Outcome State Fault Refusal :=
  issueFp s (.rsq o) o o.ty false (fun e l => fpRsq e.fp o.ty o.rnd (e.srcA o l))
/-- R133: `sqrt`. -/
def execSqrt (o : Ops) (s : State) : Host.Outcome State Fault Refusal :=
  issueFp s (.sqrt o) o o.ty false (fun e l => fpSqrt e.fp o.ty o.rnd (e.srcA o l))
/-- R133: `exp2`. -/
def execExp2 (o : Ops) (s : State) : Host.Outcome State Fault Refusal :=
  issueFp s (.exp2 o) o o.ty false (fun e l => fpExp2 e.fp o.ty o.rnd (e.srcA o l))
/-- R133: `log2`. -/
def execLog2 (o : Ops) (s : State) : Host.Outcome State Fault Refusal :=
  issueFp s (.log2 o) o o.ty false (fun e l => fpLog2 e.fp o.ty o.rnd (e.srcA o l))
/-- R133: `sinpi`. -/
def execSinpi (o : Ops) (s : State) : Host.Outcome State Fault Refusal :=
  issueFp s (.sinpi o) o o.ty false (fun e l => fpTrig e.fp o.ty true o.rnd (e.srcA o l))
/-- R133: `cospi`. -/
def execCospi (o : Ops) (s : State) : Host.Outcome State Fault Refusal :=
  issueFp s (.cospi o) o o.ty false (fun e l => fpTrig e.fp o.ty false o.rnd (e.srcA o l))

/-- R110, R122, R256: the registers with every lane's generator seeded. -/
def Regs.seedAll (r : Regs) (width : Nat) (x : Word) : Regs :=
  { (List.range width).foldl (fun r l => r.setGen l (genSeed x.toNat l)) r with seed := x }

/-- R256: `srand`. -/
def execSrand (o : Ops) (s : State) : Host.Outcome State Fault Refusal :=
  issue s (.srand o) o (fun e s =>
    let x := BitVec.ofNat 32 (e.th.regs.raw 0 .b32 0 o.a)
    .done (s.modThread e.tid (fun th => { th with regs := th.regs.seedAll th.width x })) [])

end Sys2Proof.Machine
end

