-- ==== Sys2Proof/Machine/Mask.lean ====
section
/-! DEFINITION. Comparisons and mask instructions (R257 to R261). -/

namespace Sys2Proof.Machine

/-- R257: the order of two integers. -/
def intCompare (p : CmpPred) (x y : Int) : Bool :=
  match p with
  | .eq => decide (x = y) | .ne => decide (x ≠ y) | .lt => decide (x < y) | .le => decide (x ≤ y)
  | .gt => decide (x > y) | .ge => decide (x ≥ y)

/-- The lanes of a list as a mask. -/
def maskOf (lanes : List Nat) : DWord := BitVec.ofNat 64 (lanes.foldl (fun m l => m ||| 2 ^ l) 0)

/-- R258: what a comparison writes: a mask whole, or 1 or 0 in a scalar. -/
def compareVals (d : Opd) (res : List (Nat × Bool)) : List RegVal :=
  match d with
  | .k n => [.k n (maskOf ((res.filter (·.2)).map (·.1)))]
  | d => res.flatMap (fun p => destVals 0 .n32 d p.1 p.2.toNat)

/-- R257, R258: `cmp`. -/
def execCmp (p : CmpPred) (o : Ops) (s : State) : Host.Outcome State Fault Refusal :=
  issue s (.cmp p o) o (fun e s => .done s (compareVals o.dst ((e.actLanes o).map (fun l =>
    (l, intCompare p (o.ty.value (e.srcA o l)) (o.ty.value (e.srcB o l)))))))

/-- R257, R258, R131: `fcmp`. -/
def execFcmp (p : FcmpPred) (o : Ops) (s : State) : Host.Outcome State Fault Refusal :=
  issue s (.fcmp p o) o (fun e s =>
    let res := (e.actLanes o).map (fun l => (l, fpCompare e.fp o.ty p (e.srcA o l) (e.srcB o l)))
    let (mask, conds) := trapLanes e.fp (res.map (fun q => (q.1, q.2.2)))
    if mask ≠ 0 then .trap s (s.trapOf 0x05 conds (BitVec.ofNat 64 mask))
    else .done s (compareVals o.dst (res.map (fun q => (q.1, q.2.1)))))

/-! ### Mask logic (R259) -/

/-- R259: a mask operand, or a scalar pair. -/
def Env.maskSrc (e : Env) (d : Opd) : DWord :=
  match d with
  | .k n => e.th.regs.mask n
  | .s n => BitVec.ofNat 64 (e.th.regs.scals n 2)
  | _ => 0

/-- R259: the lanes of G take the new value, the others keep the old one. -/
def Env.mergeMask (e : Env) (o : Ops) (old new : DWord) : DWord :=
  let g := e.th.active o
  ((new &&& g) ||| (old &&& ~~~g)) &&& laneMask e.th.width

/-- R259: a mask instruction that computes its result from its two operands. -/
def issueMask (s : State) (i : Instr) (o : Ops) (f : DWord → DWord → DWord) : Host.Outcome State Fault Refusal :=
  issue s i o (fun e s =>
    match o.dst with
    | .k n => .done s [.k n (e.mergeMask o (e.th.regs.mask n) (f (e.maskSrc o.a) (e.maskSrc o.b)))]
    | _ => .done s [])

/-- R259: `kand`. -/
def execKand (o : Ops) (s : State) : Host.Outcome State Fault Refusal := issueMask s (.kand o) o (· &&& ·)
/-- R259: `kor`. -/
def execKor (o : Ops) (s : State) : Host.Outcome State Fault Refusal := issueMask s (.kor o) o (· ||| ·)
/-- R259: `kxor`. -/
def execKxor (o : Ops) (s : State) : Host.Outcome State Fault Refusal := issueMask s (.kxor o) o (· ^^^ ·)
/-- R259: `kandn`. -/
def execKandn (o : Ops) (s : State) : Host.Outcome State Fault Refusal :=
  issueMask s (.kandn o) o (fun a b => a &&& ~~~b)
/-- R259: `knot`. -/
def execKnot (o : Ops) (s : State) : Host.Outcome State Fault Refusal := issueMask s (.knot o) o (fun a _ => ~~~a)

/-- R259, R219: `kmov`. -/
def execKmov (o : Ops) (s : State) : Host.Outcome State Fault Refusal :=
  issue s (.kmov o) o (fun e s =>
    match o.dst, o.a with
    | .k n, a => .done s [.k n (e.mergeMask o (e.th.regs.mask n) (e.maskSrc a))]
    | .s n, .k m =>
      let new := e.mergeMask o (BitVec.ofNat 64 (e.th.regs.scals n 2)) (e.th.scalarMask m)
      .done s (destVals 0 .b64 (.s n) 0 new.toNat)
    | _, _ => .done s [])

/-! ### Masks read toward the scalar side (R260, R261, R219) -/

/-- R260, R219: the mask that a scalar-side instruction reads. -/
def Env.scalarSrc (e : Env) (d : Opd) : DWord := match d with | .k n => e.th.scalarMask n | _ => 0

/-- R260: an instruction that writes a scalar from its mask and G. -/
def issueMaskScal (s : State) (i : Instr) (o : Ops) (f : Env → DWord → DWord → Nat) :
    Host.Outcome State Fault Refusal :=
  issue s i o (fun e s => .done s (destVals 0 .n32 o.dst 0 (f e (e.scalarSrc o.a) (e.th.active o))))

/-- R260: `kpop`. -/
def execKpop (o : Ops) (s : State) : Host.Outcome State Fault Refusal :=
  issueMaskScal s (.kpop o) o (fun _ a g => popCount 64 (a &&& g).toNat)
/-- R260, R424: `kfirst`. -/
def execKfirst (o : Ops) (s : State) : Host.Outcome State Fault Refusal :=
  issueMaskScal s (.kfirst o) o (fun e a g =>
    (lowestBit 64 0 (a &&& g).toNat).getD (if e.erratum 2 then 64 else 0xFFFFFFFF))
/-- R260: `kany`. -/
def execKany (o : Ops) (s : State) : Host.Outcome State Fault Refusal :=
  issueMaskScal s (.kany o) o (fun _ a g => if a &&& g = 0 then 0 else 1)
/-- R260: `kall`. -/
def execKall (o : Ops) (s : State) : Host.Outcome State Fault Refusal :=
  issueMaskScal s (.kall o) o (fun _ a g => if a &&& g = g then 1 else 0)

/-- R261: `ballot`. -/
def execBallot (o : Ops) (s : State) : Host.Outcome State Fault Refusal :=
  issue s (.ballot o) o (fun e s =>
    let m := maskOf ((e.th.activeLanes o).filter (fun l => e.th.scalarSideRaw .b32 l o.a ≠ 0))
    match o.dst with
    | .k n => .done s [.k n m]
    | d => .done s (destVals 0 .b64 d 0 m.toNat))

end Sys2Proof.Machine
end

