-- ==== Sys2Proof/Machine/CrossLane.lean ====
section
/-! DEFINITION. Cross-lane instructions (R262 to R268) and the tree that reductions share (R138). -/

namespace Sys2Proof

/-! ### The tree (R138) -/

/-- R138: absent values pass the other through. -/
def joinOpt (f : Nat → Nat → Nat) : Option Nat → Option Nat → Option Nat
  | none, y => y
  | x, none => x
  | some x, some y => some (f x y)

/-- R138: the node over lanes m 2^j to (m + 1) 2^j − 1. -/
def treeNode (f : Nat → Nat → Nat) (leaf : Nat → Option Nat) : Nat → Nat → Option Nat
  | 0, m => leaf m
  | j + 1, m => joinOpt f (treeNode f leaf j (2 * m)) (treeNode f leaf j (2 * m + 1))

/-- R138: the maximal nodes lying wholly inside lanes `lo` to `hi`, left to right. -/
def treeCover (f : Nat → Nat → Nat) (leaf : Nat → Option Nat) (lo hi : Nat) : Nat → Nat → List (Option Nat)
  | 0, m => if lo ≤ m ∧ m ≤ hi then [leaf m] else []
  | j + 1, m =>
    if lo ≤ m * 2 ^ (j + 1) ∧ (m + 1) * 2 ^ (j + 1) ≤ hi + 1 then [treeNode f leaf (j + 1) m]
    else if (m + 1) * 2 ^ (j + 1) ≤ lo ∨ hi < m * 2 ^ (j + 1) then []
    else treeCover f leaf lo hi j (2 * m) ++ treeCover f leaf lo hi j (2 * m + 1)

/-- The least h with n ≤ 2^h. -/
def treeHeight (n : Nat) : Nat := if n ≤ 1 then 0 else (n - 1).log2 + 1

/-- R138: the combination over lanes `lo` to `hi` of `n` lanes; none when it is absent. -/
def treeRange (f : Nat → Nat → Nat) (leaf : Nat → Option Nat) (n lo hi : Nat) : Option Nat :=
  (treeCover f leaf lo hi (treeHeight n) 0).foldl (joinOpt f) none

/-! ### Combinations (R265) -/

/-- R120: the rounding of float reductions: `fpmode`.ROUND, with rs taken as rn. -/
def FpEnv.foldMode (e : FpEnv) : Nat := if e.round = 5 then 0 else e.round

/-- R130, R138, R265: the combination of two float nodes; DAZ applies to the lanes' values only. -/
def RedOp.fp (r : RedOp) (env : FpEnv) (t : Ty) (x y : Nat) : Nat :=
  let env := { env with daz := false }
  match r with
  | .min => (fpMinMax env t false false x y).bits
  | .max => (fpMinMax env t true false x y).bits
  | _ => (fpAdd env t env.foldMode 0 false false x y).bits

/-- R138, R265: the identity. -/
def RedOp.identity (r : RedOp) (t : Ty) : Nat :=
  match r with
  | .min => if t.isFloat then t.infCode false else wrapTo t.bits t.maxInt
  | .max => if t.isFloat then t.infCode true else wrapTo t.bits t.minInt
  | .and => 2 ^ t.bits - 1
  | _ => 0

/-- R265: the exact combination of integers, fitted at the end. -/
def RedOp.int (r : RedOp) (t : Ty) (sat : Bool) (xs : List Nat) : Nat :=
  match xs with
  | [] => r.identity t
  | x :: rest => match r with
    | .sum => t.fit sat (xs.map t.value).sum
    | .min => wrapTo t.bits ((rest.map t.value).foldl (fun a b => if a ≤ b then a else b) (t.value x))
    | .max => wrapTo t.bits ((rest.map t.value).foldl (fun a b => if a ≤ b then b else a) (t.value x))
    | .and => rest.foldl (· &&& ·) x
    | .or => rest.foldl (· ||| ·) x
    | .xor => rest.foldl (· ^^^ ·) x

/-- R138, R265: the full reduction over `n` lanes: the root of the tree. (DEDUCED, log entry 14.) -/
def RedOp.root (r : RedOp) (env : FpEnv) (t : Ty) (sat : Bool) (n : Nat) (leaf : Nat → Option Nat) : Nat :=
  if t.isFloat then
    (treeNode (r.fp env t) (fun l => if l < n then (leaf l).map (env.source t) else none) (treeHeight n) 0).getD (r.identity t)
  else r.int t sat ((List.range n).filterMap leaf)

/-- R138, R265: the combination over lanes `lo` to `hi` of `n` lanes. (DEDUCED, log entry 14.) -/
def RedOp.over (r : RedOp) (env : FpEnv) (t : Ty) (sat : Bool) (n : Nat) (leaf : Nat → Option Nat) (lo hi : Nat) :
    Nat :=
  if t.isFloat then (treeRange (r.fp env t) (fun l => (leaf l).map (env.source t)) n lo hi).getD (r.identity t)
  else r.int t sat ((List.range n).filterMap (fun l => if lo ≤ l ∧ l ≤ hi then leaf l else none))

end Sys2Proof

namespace Sys2Proof.Machine

/-! ### The lane space (R45 to R47, R262) -/

/-- A warp alone as the lane space. -/
def Env.solo (e : Env) : SetCtx :=
  { set := 0, base := 0, width := e.th.width, size := 1, leader := e, members := [(0, e)] }

/-- The number of lanes. -/
def SetCtx.count (c : SetCtx) : Nat := c.size * c.width

/-- The member whose lane a lane of the space is, and that lane. -/
def SetCtx.member (c : SetCtx) (l : Nat) : Option (Env × Nat) :=
  (c.members.find? (fun m => m.1 = l / c.width)).map (fun m => (m.2, l % c.width))

/-- R47, R59: a lane is active. -/
def SetCtx.active (c : SetCtx) (o : Ops) (l : Nat) : Bool :=
  match c.member l with
  | some (m, k) => (m.th.active o).getLsbD k
  | none => false

/-- The active lanes, ascending. -/
def SetCtx.actives (c : SetCtx) (o : Ops) : List Nat := (List.range c.count).filter (c.active o)

/-- R48, R49, R262: a source in a lane: a set register of its member, or a scalar or immediate of the leader. -/
def SetCtx.raw (c : SetCtx) (t : Ty) (d : Opd) (l : Nat) : Nat :=
  match d with
  | .v _ | .g _ => match c.member l with
    | some (m, k) => m.th.regs.raw c.base t k d
    | none => 0
  | _ => c.leader.th.regs.raw c.base t 0 d

/-- The value of an active lane. -/
def SetCtx.leaf (c : SetCtx) (o : Ops) (l : Nat) : Option Nat :=
  if c.active o l then some (c.raw o.ty o.a l) else none

/-- Results of a type in lanes of the space, member by member. -/
def SetCtx.lanesOut (c : SetCtx) (t : Ty) (d : Opd) (res : List (Nat × Nat)) : List (Nat × List RegVal) :=
  c.members.map (fun m => (m.2.tid,
    (res.filter (fun p => p.1 / c.width = m.1)).flatMap (fun p => destVals c.base t d (p.1 % c.width) p.2)))

/-- R47: a scalar result, the same in every live member. -/
def SetCtx.scalarOut (c : SetCtx) (t : Ty) (d : Opd) (x : Nat) : List (Nat × List RegVal) :=
  c.members.map (fun m => (m.2.tid, destVals c.base t d 0 x))

/-- The guard-qualified active lanes of each member. -/
def SetCtx.masks (c : SetCtx) (o : Ops) : List (Nat × DWord) := c.members.map (fun m => (m.2.tid, m.2.th.active o))

/-- R262: an instruction over a lane space: at warp scope the warp is the space. -/
def issueCross (s : State) (i : Instr) (o : Ops) (body : SetCtx → State → SetRes) : Host.Outcome State Fault Refusal :=
  if o.scope = .warp then
    issue s i o (fun e s => match body e.solo s with
      | .done s vals => .done s (vals.flatMap (·.2))
      | .trap s cause detail masks => .trap s (s.trapOf cause detail (((masks.head?).map (·.2)).getD 0))
      | .wait s => .wait s .stalled)
  else issueSet s i o body

/-! ### Meanings -/

/-- R263: the lane that a lane reads. -/
def shflSource (m : ShflMode) (l b : Nat) : Int :=
  match m with
  | .idx => b
  | .up => (l : Int) - b
  | .down => l + b
  | .xor => (l ^^^ b : Nat)

/-- R263: `shfl`. -/
def execShfl (m : ShflMode) (o : Ops) (s : State) : Host.Outcome State Fault Refusal :=
  issueCross s (.shfl m o) o (fun c s => .done s (c.lanesOut o.ty o.dst ((c.actives o).map (fun l =>
    let j := shflSource m l (c.raw .b32 o.b l)
    let from_ := if 0 ≤ j ∧ j < c.count ∧ c.active o j.toNat then j.toNat else l
    (l, c.raw o.ty o.a from_)))))

/-- R264, R424: `bcast`. -/
def execBcast (o : Ops) (s : State) : Host.Outcome State Fault Refusal :=
  issueCross s (.bcast o) o (fun c s =>
    let j := c.raw .b32 o.b 0
    let x := if j < c.count ∧ c.active o j then c.raw o.ty o.a j else 0
    match o.dst with
    | .s _ =>
      if c.leader.erratum 9 && decide (c.actives o = []) then .done s []
      else .done s (c.scalarOut o.ty o.dst x)
    | d => .done s (c.lanesOut o.ty d ((c.actives o).map (fun l => (l, x)))))

/-- R138, R265: `red`. -/
def execRed (r : RedOp) (o : Ops) (s : State) : Host.Outcome State Fault Refusal :=
  issueCross s (.red r o) o (fun c s =>
    .done s (c.scalarOut o.ty o.dst (r.root c.leader.fp o.ty o.sat c.count (c.leaf o))))

/-- R266: `scan`. -/
def execScan (r : RedOp) (o : Ops) (s : State) : Host.Outcome State Fault Refusal :=
  issueCross s (.scan r o) o (fun c s => .done s (c.lanesOut o.ty o.dst ((c.actives o).map (fun l =>
    (l, r.over c.leader.fp o.ty o.sat c.count (c.leaf o) 0 l)))))

/-- R267: a lane heads a segment. -/
def SetCtx.head (c : SetCtx) (d : Opd) (l : Nat) : Bool :=
  decide (l = 0) || match c.member l, d with
    | some (m, k), .k n => (m.th.regs.mask n).getLsbD k
    | _, _ => false

/-- R267: the head of the segment of a lane. -/
def SetCtx.headOf (c : SetCtx) (d : Opd) (l : Nat) : Nat :=
  (((List.range (l + 1)).filter (c.head d)).getLast?).getD 0

/-- R267: the last lane of the segment of a lane. -/
def SetCtx.tailOf (c : SetCtx) (d : Opd) (l : Nat) : Nat :=
  match (List.range c.count).find? (fun h => decide (l < h) && c.head d h) with
  | some h => h - 1
  | none => c.count - 1

/-- R267: the range that a lane receives, if it is written. -/
def SetCtx.segment (c : SetCtx) (d : Opd) (sel l : Nat) : Option (Nat × Nat) :=
  if sel = 0 then some (c.headOf d l, c.tailOf d l)
  else if sel = 1 then some (c.headOf d l, l)
  else if c.headOf d l = l then some (l, c.tailOf d l)
  else none

/-- R267, R408: `sred`. -/
def execSred (r : RedOp) (o : Ops) (s : State) : Host.Outcome State Fault Refusal :=
  issueCross s (.sred r o) o (fun c s =>
    let sel := c.raw .b32 o.c 0
    if 2 < sel then .trap s 0x02 11 (c.masks o)
    else .done s (c.lanesOut o.ty o.dst ((c.actives o).filterMap (fun l =>
      (c.segment o.b sel l).map (fun p =>
        (l, r.over c.leader.fp o.ty o.sat c.count (c.leaf o) p.1 p.2))))))

/-- R268: whether one active lane ranks before another: larger values first, then the lower lane. -/
def ranksBefore (env : FpEnv) (t : Ty) (x y : Nat × Nat) : Bool :=
  let o : Ordering :=
    if t.isFloat then
      match fpVal t (env.source t x.2), fpVal t (env.source t y.2) with
      | .nan .., .nan .. => .eq
      | .nan .., _ => .lt
      | _, .nan .. => .gt
      | a, b => a.order b
    else compare (t.value x.2) (t.value y.2)
  match o with | .gt => true | .lt => false | .eq => decide (x.1 < y.1)

/-- R268: a lane put into its place among ranked lanes. -/
def rankInsert (before : Nat × Nat → Nat × Nat → Bool) (x : Nat × Nat) : List (Nat × Nat) → List (Nat × Nat)
  | [] => [x]
  | y :: r => if before x y then x :: y :: r else y :: rankInsert before x r

/-- R268: `topk`. -/
def execTopk (o : Ops) (s : State) : Host.Outcome State Fault Refusal :=
  issueCross s (.topk o) o (fun c s =>
    let lanes := c.actives o
    let ranked := (lanes.map (fun l => (l, c.raw o.ty o.a l))).foldr (rankInsert (ranksBefore c.leader.fp o.ty)) []
    let k := min (min (c.raw .b32 o.b 0) c.count) ranked.length
    .done s (c.lanesOut .n32 o.dst (lanes.map (fun j =>
      (j, if j < k then ((ranked.map (·.1)).getD j 0) else 0xFFFFFFFF)))))

end Sys2Proof.Machine
end

