-- ==== Sys2Proof/Machine/Matrix.lean ====
section
/-! DEFINITION. Per-lane matrix instructions: the outcome of R282, shaping and elements (R285, R286), element-wise
arithmetic and products (R290 to R292). -/

namespace Sys2Proof

/-! ### Roundings of one lane (R123, R283) -/

/-- What a lane's roundings leave behind: its generator and the conditions raised so far. -/
structure Calc where
  gen   : Nat
  conds : Nat
  deriving DecidableEq, Repr

/-- R283: one rounding, given the generator's state after its step under rs. -/
def Calc.round (c : Calc) (mode : Nat) (f : Nat → FpRes) : Nat × Calc :=
  let g := if mode = 5 then genStep c.gen else c.gen
  let r := f g
  (r.bits, { gen := g, conds := c.conds ||| r.conds })

/-- Roundings in turn, one for each member of a list. -/
def Calc.rounds {α : Type} (c : Calc) (mode : Nat) (f : α → Nat → FpRes) : List α → List Nat × Calc
  | [] => ([], c)
  | x :: r =>
    let (y, c) := c.round mode (f x)
    let (ys, c) := c.rounds mode f r
    (y :: ys, c)

/-- R283: DAZ applies to an instruction's element sources; what it computes from them is not flushed again. -/
def FpEnv.inner (env : FpEnv) : FpEnv := { env with daz := false }

/-- R292: the chain format of a product. -/
def chainTy (t : Ty) : Ty := match t with | .f64 => .f64 | .i8 => .i32 | _ => .f32

/-- R136, R292: a fused chain in ascending k: `ab` gives the factors, already read under DAZ, `t0` the addend in its own
format `tc`. -/
def fpChain (env : FpEnv) (ct ta tb tc : Ty) (mode t0 : Nat) (ab : List (Nat × Nat)) (c : Calc) : Nat × Calc :=
  match ab with
  | [] => (t0, c)
  | (a, b) :: r =>
    let (t, c) := c.round mode (fun u => fpFma3 env.inner ct ta tb tc mode u false a b t0)
    fpChain env ct ta tb ct mode t r c

/-- R292: the chain of `.i8` products: exact, wrapped or clamped at each step, which is no rounding of R122, so that no generator
steps under `.rs`. (DEDUCED, log entry 84.) -/
def intChain (sat : Bool) (t0 : Nat) (ab : List (Nat × Nat)) : Nat :=
  ab.foldl (fun t p => Ty.i32.fit sat (Ty.i32.value t + Ty.i8.value p.1 * Ty.i8.value p.2)) t0

/-- R292: `.sat` replaces an infinite element by the largest finite value. -/
def satInf (t : Ty) (sat : Bool) (x : Nat) : Nat :=
  match fpVal t x with
  | .inf n => if sat then t.maxFin n else x
  | _ => x

end Sys2Proof

namespace Sys2Proof.Machine

/-! ### The outcome of a per-lane matrix instruction (R282) -/

/-- What a lane computes. -/
structure LaneRes where
  vals     : List RegVal
  conds    : Nat := 0
  gen      : Nat := 0
  singular : Bool := false

/-- R281: why a lane does not compute. -/
inductive LaneFault | mismatch | overflow
  deriving DecidableEq, Repr

/-- R281: the first check that a lane fails. -/
def laneFault (mismatch overflow : Bool) : Option LaneFault :=
  if mismatch then some .mismatch else if overflow then some .overflow else none

/-- The lanes of a fault class. -/
def faultLanes (bad : List (Nat × Option LaneFault)) (f : LaneFault) : List Nat :=
  (bad.filter (fun p => p.2 = some f)).map (·.1)

/-- R280 to R283, R293: a per-lane matrix instruction. `mask` is the mask that marks singular lanes. -/
def issueMat (s : State) (i : Instr) (o : Ops) (mask : Opd) (check : Env → Nat → Option LaneFault)
    (run : Env → Nat → LaneRes) : Host.Outcome State Fault Refusal :=
  issue s i o (fun e s =>
    let lanes := e.th.activeLanes o
    let bad := lanes.map (fun l => (l, check e l))
    let m6 := faultLanes bad .mismatch
    let m7 := faultLanes bad .overflow
    if m6 ≠ [] then .trap s (s.trapOf 0x06 0 (maskOf m6))
    else if m7 ≠ [] then .trap s (s.trapOf 0x07 0 (maskOf m7))
    else
      let res := lanes.map (fun l => (l, run e l))
      let sing := (res.filter (fun p => p.2.singular)).map (·.1)
      let (traps, conds) := trapLanes e.fp (res.map (fun p => (p.1, p.2.conds)))
      if sing ≠ [] ∧ e.fp.singular then .trap s (s.trapOf 0x08 0 (maskOf sing))
      else if traps ≠ 0 then .trap s (s.trapOf 0x05 conds (BitVec.ofNat 64 traps))
      else
        let s := if o.rnd ≠ 5 then s else s.modThread e.tid (fun th =>
          { th with regs := res.foldl (fun r p => r.setGen p.1 p.2.gen) th.regs })
        let marks := match mask with
          | .k n => if lanes = [] then [] else
              [.kl n (e.th.active o) (maskOf sing)]
          | _ => []
        .done s (res.flatMap (fun p => p.2.vals) ++ marks))

/-- R281: a result does not fit its register. -/
def Env.overflows (e : Env) (d : Opd) (rows cols : Nat) (t : Ty) : Bool :=
  decide (rows = 0) || decide (64 < rows) || decide (cols = 0) || decide (64 < cols) ||
    decide (32 * (e.la.obj.caps.getD (matNo d) 0) < rows * cols * t.bits)

/-- The matrix of a lane of an operand. -/
def Env.mat (e : Env) (d : Opd) (l : Nat) : Mat := e.th.regs.matrix (matNo d) l

/-- R283: the elements of a matrix as arithmetic reads them. (DEDUCED, log entry 14.) -/
def Mat.sources (m : Mat) (env : FpEnv) : List Nat :=
  if m.ty.isFloat then m.els.map (env.source m.ty) else m.els

/-- The state of a lane's roundings at the start. -/
def Env.calc (e : Env) (l : Nat) : Calc := { gen := e.th.regs.genOf l, conds := 0 }

/-- A lane's result matrix. -/
def laneMat (m : Mat) (d : Opd) (l : Nat) (c : Calc) : LaneRes :=
  { vals := [m.val (matNo d) l], conds := c.conds, gen := c.gen }

/-- A lane's 32-bit source. -/
def Env.word (e : Env) (d : Opd) (l : Nat) : Nat := e.th.regs.raw 0 .b32 l d

/-! ### Shape and elements (R285, R286) -/

/-- R285: `mshape`. -/
def execMshape (o : Ops) (s : State) : Host.Outcome State Fault Refusal :=
  issueMat s (.mshape o) o .none
    (fun e l => laneFault false
      (e.overflows o.dst (bitsOf (e.word o.a l) 15 8) (bitsOf (e.word o.a l) 7 0) o.ty))
    (fun e l => { vals := [.m (matNo o.dst) l (mkTag (bitsOf (e.word o.a l) 15 8) (bitsOf (e.word o.a l) 7 0) o.ty) 0 []] })

/-- R285: `mzero`. -/
def execMzero (o : Ops) (s : State) : Host.Outcome State Fault Refusal :=
  issueMat s (.mzero o) o .none
    (fun e l => laneFault false (e.overflows o.dst (e.word o.a l) (e.word o.b l) o.ty))
    (fun e l => laneMat ⟨e.word o.a l, e.word o.b l, o.ty, List.replicate (e.word o.a l * e.word o.b l) 0⟩ o.dst l
      (e.calc l))

/-- R279: the identity of a size. -/
def identityEls (t : Ty) (n : Nat) : List Nat :=
  (List.range n).flatMap (fun i => (List.range n).map (fun j => if i = j then t.one else 0))

/-- R285: `mid`. -/
def execMid (o : Ops) (s : State) : Host.Outcome State Fault Refusal :=
  issueMat s (.mid o) o .none
    (fun e l => laneFault false (e.overflows o.dst (e.word o.a l) (e.word o.a l) o.ty))
    (fun e l => laneMat ⟨e.word o.a l, e.word o.a l, o.ty, identityEls o.ty (e.word o.a l)⟩ o.dst l (e.calc l))

/-- R285, R286: `mget`. -/
def execMget (o : Ops) (s : State) : Host.Outcome State Fault Refusal :=
  issueMat s (.mget o) o .none
    (fun e l =>
      let m := e.mat o.a l
      laneFault (decide (m.rows * m.cols ≤ e.word o.b l) || decide (m.ty ≠ o.ty)) false)
    (fun e l => { vals := destVals 0 o.ty o.dst l ((e.mat o.a l).els.getD (e.word o.b l) 0) })

/-- R285, R286: `mput`. -/
def execMput (o : Ops) (s : State) : Host.Outcome State Fault Refusal :=
  issueMat s (.mput o) o .none
    (fun e l =>
      let m := e.mat o.dst l
      laneFault (decide (m.rows * m.cols ≤ e.word o.a l) || decide (m.ty ≠ o.ty)) false)
    (fun e l =>
      let m := e.mat o.dst l
      laneMat { m with els := m.els.set (e.word o.a l) (e.th.regs.raw 0 o.ty l o.b) } o.dst l (e.calc l))

/-- R285: a matrix transposed. -/
def Mat.transpose (m : Mat) : Mat :=
  { m with rows := m.cols, cols := m.rows,
           els := (List.range m.cols).flatMap (fun i => (List.range m.rows).map (fun j => m.els.getD (j * m.cols + i) 0)) }

/-- R285: `mtrn`. -/
def execMtrn (o : Ops) (s : State) : Host.Outcome State Fault Refusal :=
  issueMat s (.mtrn o) o .none
    (fun e l =>
      let m := e.mat o.a l
      laneFault (decide (m.ty ≠ o.ty)) (e.overflows o.dst m.cols m.rows o.ty))
    (fun e l => laneMat (e.mat o.a l).transpose o.dst l (e.calc l))

/-! ### Element-wise arithmetic (R290) -/

/-- R290: the elements of a result from the pairs of source elements. -/
def elementwise (env : FpEnv) (o : Ops) (fl : Nat × Nat → Nat → FpRes) (int : Int → Int → Int)
    (ps : List (Nat × Nat)) (c : Calc) : List Nat × Calc :=
  if o.ty.isFloat then c.rounds o.rnd (fun p u => fl (env.source o.ty p.1, env.source o.ty p.2) u) ps
  else (ps.map (fun p => o.ty.fit o.sat (int (o.ty.value p.1) (o.ty.value p.2))), c)

/-- R290: `madd` and `msub`. -/
def issueMatAdd (s : State) (i : Instr) (o : Ops) (neg : Bool) : Host.Outcome State Fault Refusal :=
  issueMat s i o .none
    (fun e l =>
      let a := e.mat o.a l
      let b := e.mat o.b l
      laneFault (decide (a.ty ≠ o.ty) || decide (b.ty ≠ o.ty) || decide (a.rows ≠ b.rows) || decide (a.cols ≠ b.cols))
        (e.overflows o.dst a.rows a.cols o.ty))
    (fun e l =>
      let a := e.mat o.a l
      let (els, c) := elementwise e.fp o (fun p u => fpAdd e.fp o.ty o.rnd u o.sat neg p.1 p.2)
        (fun x y => if neg then x - y else x + y) (a.els.zip (e.mat o.b l).els) (e.calc l)
      laneMat { a with els } o.dst l c)

/-- R290: `madd`. -/
def execMadd (o : Ops) (s : State) : Host.Outcome State Fault Refusal := issueMatAdd s (.madd o) o false
/-- R290: `msub`. -/
def execMsub (o : Ops) (s : State) : Host.Outcome State Fault Refusal := issueMatAdd s (.msub o) o true

/-- R290: `mscal`. -/
def execMscal (o : Ops) (s : State) : Host.Outcome State Fault Refusal :=
  issueMat s (.mscal o) o .none
    (fun e l =>
      let a := e.mat o.a l
      laneFault (decide (a.ty ≠ o.ty)) (e.overflows o.dst a.rows a.cols o.ty))
    (fun e l =>
      let a := e.mat o.a l
      let b := e.th.regs.raw 0 o.ty l o.b
      let (els, c) := elementwise e.fp o (fun p u => fpMul e.fp o.ty o.rnd u o.sat p.1 p.2) (· * ·)
        (a.els.map (fun x => (x, b))) (e.calc l)
      laneMat { a with els } o.dst l c)

/-! ### Products (R291, R292) -/

/-- R291: the formats of A and B that a destination type admits. -/
def pairingOk (t a b : Ty) : Bool :=
  let narrow := decide (t = .f32) || decide (t = .f16) || decide (t = .bf16)
  match t, a, b with
  | .f64, .f64, .f64 => true
  | .f32, .f32, .f32 => true
  | .i32, .i8, .i8 => true
  | _, .f16, .f16 | _, .bf16, .bf16 | _, .e2m1, .e2m1 => narrow
  | _, .e4m3, .e4m3 | _, .e4m3, .e5m2 | _, .e5m2, .e4m3 | _, .e5m2, .e5m2 => narrow
  | _, _, _ => false

/-- R291: A', B' as the product reads them. -/
def mulLeft (f : MulForm) (a : Mat) : Mat := match f with | .tn => a.transpose | _ => a
def mulRight (f : MulForm) (b : Mat) : Mat := match f with | .nt => b.transpose | _ => b

/-- The factors of element (i, j). -/
def factors (a b : Mat) (i j : Nat) : List (Nat × Nat) :=
  (List.range a.cols).map (fun k => (a.els.getD (i * a.cols + k) 0, b.els.getD (k * b.cols + j) 0))

/-- R292: one element of a product; `c0` is the element of mc. -/
def productEl (env : FpEnv) (t ta tb : Ty) (mode : Nat) (sat : Bool) (ab : List (Nat × Nat)) (c0 : Option Nat)
    (c : Calc) : Nat × Calc :=
  let ct := chainTy ta
  if ta = .i8 then (intChain sat (c0.getD 0) ab, c)
  else
    let (x, c) := match c0 with
      | none => fpChain env ct ta tb ct mode 0 ab c
      | some y => fpChain env ct ta tb t mode (env.source t y) ab c
    let (x, c) := if t = ct then (x, c) else c.round mode (fun u => fpCvt env.inner t ct mode u false x)
    (satInf t sat x, c)

/-- Elements in turn. -/
def productEls (env : FpEnv) (t : Ty) (mode : Nat) (sat : Bool) (a b : Mat) (c0 : Option (List Nat)) :
    List (Nat × Nat) → Calc → List Nat × Calc
  | [], c => ([], c)
  | (i, j) :: r, c =>
    let (x, c) := productEl env t a.ty b.ty mode sat (factors a b i j) (c0.map (fun l => l.getD (i * b.cols + j) 0)) c
    let (xs, c) := productEls env t mode sat a b c0 r c
    (x :: xs, c)

/-- R292: the product of A' and B', with mc added. -/
def product (env : FpEnv) (t : Ty) (mode : Nat) (sat : Bool) (a b : Mat) (mc : Option (List Nat)) (c : Calc) :
    Mat × Calc :=
  let a := { a with els := a.sources env }
  let b := { b with els := b.sources env }
  let at_ := (List.range a.rows).flatMap (fun i => (List.range b.cols).map (fun j => (i, j)))
  let (els, c) := productEls env t mode sat a b mc at_ c
  ({ rows := a.rows, cols := b.cols, ty := t, els }, c)

/-- R291, R292: `mmul` and `mfma`. -/
def issueProduct (s : State) (i : Instr) (o : Ops) (f : MulForm) (acc : Bool) : Host.Outcome State Fault Refusal :=
  issueMat s i o .none
    (fun e l =>
      let a := mulLeft f (e.mat o.a l)
      let b := mulRight f (e.mat o.b l)
      let mc := e.mat o.c l
      laneFault (!pairingOk o.ty a.ty b.ty || decide (a.cols ≠ b.rows) ||
          (acc && (decide (mc.rows ≠ a.rows) || decide (mc.cols ≠ b.cols) || decide (mc.ty ≠ o.ty))))
        (e.overflows o.dst a.rows b.cols o.ty))
    (fun e l =>
      let mc := if acc then some (e.mat o.c l).els else none
      let (m, c) := product e.fp o.ty o.rnd o.sat (mulLeft f (e.mat o.a l)) (mulRight f (e.mat o.b l)) mc (e.calc l)
      laneMat m o.dst l c)

/-- R291: `mmul`. -/
def execMmul (f : MulForm) (o : Ops) (s : State) : Host.Outcome State Fault Refusal :=
  issueProduct s (.mmul f o) o f false
/-- R291: `mfma`. -/
def execMfma (f : MulForm) (o : Ops) (s : State) : Host.Outcome State Fault Refusal :=
  issueProduct s (.mfma f o) o f true

end Sys2Proof.Machine
end

