-- ==== Sys2Proof/Machine/MatrixAlgebra.lean ====
section
/-! DEFINITION. Matrix algebra (R293 to R299) and block formats (R300 to R302). -/

namespace Sys2Proof

/-! ### Elimination (R294 to R298) -/

/-- A matrix under elimination: row-major elements, and the columns of a row. -/
structure Grid where
  cols : Nat
  els  : List Nat
  deriving DecidableEq, Repr

def Grid.get (g : Grid) (i j : Nat) : Nat := g.els.getD (i * g.cols + j) 0
def Grid.set (g : Grid) (i j x : Nat) : Grid := { g with els := g.els.set (i * g.cols + j) x }
/-- Two rows swapped. -/
def Grid.swap (g : Grid) (p q : Nat) : Grid :=
  (List.range g.cols).foldl (fun h k => (h.set p k (g.get q k)).set q k (g.get p k)) g

/-- R294: x − f × y, rounded once; its sources count in the order f, y, x where NAN_OUT chooses among them.
(DEDUCED, log entry 14.) -/
def fpSubMul (env : FpEnv) (t : Ty) (mode x f y : Nat) : FpRes :=
  let nan := (fpVal t f).isNan || (fpVal t y).isNan || (fpVal t x).isNan
  fpFma3 env t t t t mode 0 false (if nan then f else fpNeg t f) y x

/-- A step of an elimination on a grid, with the lane's conditions. -/
abbrev Elim := Grid × Calc

/-- Element (i, j) replaced by a rounding. -/
def Elim.round (m : Elim) (mode i j : Nat) (f : Grid → FpRes) : Elim :=
  let (x, c) := m.2.round mode (fun _ => f m.1)
  (m.1.set i j x, c)

/-- R294: the pivot row of column `j` among rows `j` to n − 1; none when it is singular. -/
def pivotRow (t : Ty) (n j : Nat) (g : Grid) : Option Nat :=
  let rank (i : Nat) : Nat := if (fpVal t (g.get i j)).isNan then t.magOf t.canonNan + 2 ^ t.bits else t.magOf (g.get i j)
  let best := ((List.range n).filter (fun i => j ≤ i)).foldl (fun b i => if rank b < rank i then i else b) j
  match fpVal t (g.get best j) with
  | .fin _ m _ => if m = 0 then none else some best
  | _ => none

/-- R295: one column of Gauss–Jordan elimination. -/
def gaussColumn (env : FpEnv) (t : Ty) (mode n j p : Nat) (m : Elim) : Elim :=
  let m : Elim := (m.1.swap p j, m.2)
  let v := m.1.get j j
  let m := (List.range (2 * n)).foldl (fun m k => Elim.round m mode j k (fun g => fpDiv env t mode false (g.get j k) v)) m
  ((List.range n).filter (· ≠ j)).foldl (fun m i =>
    let f := m.1.get i j
    (List.range (2 * n)).foldl (fun m k =>
      Elim.round m mode i k (fun g => fpSubMul env t mode (g.get i k) f (g.get j k))) m) m

/-- R295: the columns in turn; the flag tells that a pivot was singular. -/
def gaussJordan (env : FpEnv) (t : Ty) (mode n : Nat) : List Nat → Elim → Bool × Elim
  | [], m => (false, m)
  | j :: r, m => match pivotRow t n j m.1 with
    | none => (true, m)
    | some p => gaussJordan env t mode n r (gaussColumn env t mode n j p m)

/-- R295: the inverse of an n × n matrix; none when it is singular. -/
def matInverse (env : FpEnv) (t : Ty) (mode n : Nat) (a : List Nat) (c : Calc) : Option (List Nat) × Calc :=
  let g : Grid := { cols := 2 * n, els := (List.range n).flatMap (fun i =>
    (List.range n).map (fun j => a.getD (i * n + j) 0) ++ (List.range n).map (fun j => if i = j then t.one else 0)) }
  match gaussJordan env t mode n (List.range n) (g, c) with
  | (true, m) => (none, m.2)
  | (false, m) =>
    (some ((List.range n).flatMap (fun i => (List.range n).map (fun j => m.1.get i (n + j)))), m.2)

/-- R296: one column of the factorisation, the rows already swapped. -/
def luColumn (env : FpEnv) (t : Ty) (mode n j : Nat) (m : Elim) : Elim :=
  ((List.range n).filter (fun i => j < i)).foldl (fun m i =>
    let m := Elim.round m mode i j (fun g => fpDiv env t mode false (g.get i j) (g.get j j))
    ((List.range n).filter (fun k => j < k)).foldl (fun m k =>
      Elim.round m mode i k (fun g => fpSubMul env t mode (g.get i k) (g.get i j) (g.get j k))) m) m

/-- Two entries of a permutation swapped. -/
def swapAt (l : List Nat) (p q : Nat) : List Nat := (l.set p (l.getD q 0)).set q (l.getD p 0)

/-- R296: the factorisation with its permutation; the flag tells that a pivot was singular. -/
def luFactor (env : FpEnv) (t : Ty) (mode n : Nat) : List Nat → List Nat → Elim → Bool × List Nat × Elim
  | [], perm, m => (false, perm, m)
  | j :: r, perm, m => match pivotRow t n j m.1 with
    | none => (true, perm, m)
    | some p =>
      luFactor env t mode n r (swapAt perm p j) (luColumn env t mode n j (m.1.swap p j, m.2))

/-- R297: one element of L below the diagonal. -/
def cholBelow (env : FpEnv) (t : Ty) (mode : Nat) (a : Grid) (j i : Nat) (m : Elim) : Elim :=
  let m : Elim := (m.1.set i j (a.get i j), m.2)
  let m := (List.range j).foldl (fun m k =>
    Elim.round m mode i j (fun g => fpSubMul env t mode (g.get i j) (g.get i k) (g.get j k))) m
  Elim.round m mode i j (fun g => fpDiv env t mode false (g.get i j) (g.get j j))

/-- R297: the columns in turn; the flag tells that a pivot was singular. -/
def cholesky (env : FpEnv) (t : Ty) (mode n : Nat) (a : Grid) : List Nat → Elim → Bool × Elim
  | [], m => (false, m)
  | j :: r, m =>
    let m : Elim := (m.1.set j j (a.get j j), m.2)
    let m := (List.range j).foldl (fun m k =>
      Elim.round m mode j j (fun g => fpSubMul env t mode (g.get j j) (g.get j k) (g.get j k))) m
    match fpVal t (m.1.get j j) with
    | .fin false s _ =>
      if s = 0 then (true, m)
      else
        let m := Elim.round m mode j j (fun g => fpSqrt env t mode (g.get j j))
        cholesky env t mode n a r (((List.range n).filter (fun i => j < i)).foldl (fun m i => cholBelow env t mode a j i m) m)
    | _ => (true, m)

/-- R298: one column of the solution, forward and then backward. -/
def solveColumn (env : FpEnv) (t : Ty) (mode n c : Nat) (lu : Grid) (m : Elim) : Elim :=
  let m := (List.range n).foldl (fun m i => (List.range i).foldl (fun m k =>
    Elim.round m mode i c (fun y => fpSubMul env t mode (y.get i c) (lu.get i k) (y.get k c))) m) m
  (List.range n).reverse.foldl (fun m i =>
    let m := ((List.range n).filter (fun k => i < k)).foldl (fun m k =>
      Elim.round m mode i c (fun y => fpSubMul env t mode (y.get i c) (lu.get i k) (y.get k c))) m
    Elim.round m mode i c (fun y => fpDiv env t mode false (y.get i c) (lu.get i i))) m

/-! ### Block formats (R300 to R302) -/

/-- R301: the largest magnitude of a block after DAZ. -/
inductive BlockMax
  | nan
  | inf
  | mag (m : Nat) (e : Int)
  deriving DecidableEq, Repr

/-- R301: amax of a block of values. -/
def blockMax (vals : List FpVal) : BlockMax :=
  vals.foldl (fun b v => match b, v with
    | .nan, _ => .nan
    | _, .nan .. => .nan
    | .inf, _ => .inf
    | _, .inf _ => .inf
    | .mag m e, .fin _ n f => if (Exact.mk m e).cmp (Exact.mk n f) = .lt then .mag n f else .mag m e) (.mag 0 0)

/-- R301: the scale of a block. -/
def blockScale (env : FpEnv) (d : Ty) (len : Nat) (b : BlockMax) : Nat :=
  match fpVal d d.maxCode with
  | .fin _ mm me =>
    if len = 8 then
      match b with
      | .nan => 0x60
      | .inf => 0xFF
      | .mag m e => if m = 0 then 0x60 else (roundFp env .e3m5 2 0 true false (divMag m e mm me)).bits
    else
      match b with
      | .nan => 0xFF
      | .inf => 0xFE
      | .mag m e =>
        if m = 0 then 0x7F
        else
          let q := divMag m e mm me
          let up : Int := if decide (q.m = 2 ^ q.m.log2) && !q.sticky then 0 else 1
          (max 0 (min 254 (q.e + q.m.log2 + up + 127))).toNat
  | _ => 0

/-- R301: the type of a scale. -/
def scaleTy (len : Nat) : Ty := if len = 8 then .e3m5 else .e8m0

/-- R301: an element divided by its scale and rounded with saturation; `x` is read under DAZ. A NaN element gives its own NaN,
whatever its scale. (DESIGN CHOICE, log entry 79.) -/
def packEl (env : FpEnv) (d s : Ty) (len mode u x scale : Nat) : FpRes :=
  match fpVal s x, fpVal (scaleTy len) scale with
  | .nan .., _ => fpCvt env d s mode u true x
  | _, .nan .. =>
    if d.ieee ∨ d = .e4m3 then env.nanRes d [(s, x), (scaleTy len, scale)] else ⟨d.canonNan, fInvalid⟩
  | .inf n, _ => ⟨d.maxFin n, 0⟩
  | .fin n m e, .fin _ sm se =>
    if m = 0 then ⟨d.signBit n, 0⟩ else roundFp env d mode u true n (divMag m e sm se)
  | _, _ => ⟨d.canonNan, fInvalid⟩

/-- R302: an element times its scale, rounded; `x` is read under DAZ. -/
def unpackEl (env : FpEnv) (d s : Ty) (len mode u x scale : Nat) : FpRes :=
  let srcs := [(s, x), (scaleTy len, scale)]
  let a := fpVal s x
  let b := fpVal (scaleTy len) scale
  if a.isNan || b.isNan then env.nanRes d srcs
  else match prodVal a b with
    | none => invalidRes d
    | some (.inf n) => ⟨d.infCode n, 0⟩
    | some p => roundExact env d mode u false p.neg p.exact

end Sys2Proof

namespace Sys2Proof.Machine

/-! ### Matrix algebra (R293) -/

/-- R293: A is square, no larger than 8 × 8 and in the format of T. -/
def algebraOk (m : Mat) (t : Ty) : Bool := decide (m.rows = m.cols) && decide (m.rows ≤ 8) && decide (m.ty = t)

/-- R293: what a singular lane writes: its shape filled with the canonical NaN. -/
def nanMat (t : Ty) (rows cols : Nat) : Mat := ⟨rows, cols, t, List.replicate (rows * cols) t.canonNan⟩

/-- R293: a lane's result, or its singular outcome. -/
def algebraRes (o : Ops) (l rows cols : Nat) (r : Option (List Nat) × Calc) : LaneRes :=
  match r with
  | (some els, c) => laneMat ⟨rows, cols, o.ty, els⟩ o.dst l c
  | (none, c) => { laneMat (nanMat o.ty rows cols) o.dst l c with singular := true }

/-- A's elements as arithmetic reads them. -/
def Env.srcEls (e : Env) (d : Opd) (l : Nat) : List Nat := (e.mat d l).sources e.fp

/-- R293: an algebra instruction on A alone. -/
def issueAlgebra (s : State) (i : Instr) (o : Ops) (f : Env → Nat → Nat → Option (List Nat) × Calc) :
    Host.Outcome State Fault Refusal :=
  issueMat s i o o.c
    (fun e l =>
      let a := e.mat o.a l
      laneFault (!algebraOk a o.ty) (e.overflows o.dst a.rows a.cols o.ty))
    (fun e l => let n := (e.mat o.a l).rows; algebraRes o l n n (f e l n))

/-- R295: `minv`. -/
def execMinv (o : Ops) (s : State) : Host.Outcome State Fault Refusal :=
  issueAlgebra s (.minv o) o (fun e l n => matInverse e.fp.inner o.ty o.rnd n (e.srcEls o.a l) (e.calc l))

/-- R296: the factorisation of A in a lane. -/
def Env.luOf (e : Env) (o : Ops) (l n : Nat) : Bool × List Nat × Elim :=
  luFactor e.fp.inner o.ty o.rnd n (List.range n) (List.range n) (⟨n, e.srcEls o.a l⟩, e.calc l)

/-- R296: the permutation in its pair of registers. -/
def permVals (d : Opd) (l : Nat) (perm : List Nat) : List RegVal := destVals 0 .b64 d l (packEls 8 perm)

/-- R296: `mlu`. -/
def execMlu (o : Ops) (s : State) : Host.Outcome State Fault Refusal :=
  issueMat s (.mlu o) o o.c
    (fun e l =>
      let a := e.mat o.a l
      laneFault (!algebraOk a o.ty) (e.overflows o.dst a.rows a.cols o.ty))
    (fun e l =>
      let n := (e.mat o.a l).rows
      match e.luOf o l n with
      | (true, _, m) =>
        let r := algebraRes o l n n (none, m.2)
        { r with vals := r.vals ++ destVals 0 .b64 o.b l (2 ^ 64 - 1) }
      | (false, perm, m) =>
        let r := algebraRes o l n n (some m.1.els, m.2)
        { r with vals := r.vals ++ permVals o.b l perm })

/-- R297: `mchol`. -/
def execMchol (o : Ops) (s : State) : Host.Outcome State Fault Refusal :=
  issueAlgebra s (.mchol o) o (fun e l n =>
    match cholesky e.fp.inner o.ty o.rnd n ⟨n, e.srcEls o.a l⟩ (List.range n) (⟨n, List.replicate (n * n) 0⟩, e.calc l) with
    | (true, m) => (none, m.2)
    | (false, m) => (some m.1.els, m.2))

/-- R298: `msolve`. -/
def execMsolve (o : Ops) (s : State) : Host.Outcome State Fault Refusal :=
  issueMat s (.msolve o) o o.c
    (fun e l =>
      let a := e.mat o.a l
      let b := e.mat o.b l
      laneFault (!algebraOk a o.ty || decide (b.ty ≠ o.ty) || decide (b.rows ≠ a.rows))
        (e.overflows o.dst a.rows b.cols o.ty))
    (fun e l =>
      let n := (e.mat o.a l).rows
      let p := (e.mat o.b l).cols
      let b := e.srcEls o.b l
      match e.luOf o l n with
      | (true, _, m) => algebraRes o l n p (none, m.2)
      | (false, perm, m) =>
        let y : Grid := ⟨p, (List.range n).flatMap (fun i => (List.range p).map (fun c => b.getD (perm.getD i 0 * p + c) 0))⟩
        let (y, c) := (List.range p).foldl (fun m' c => solveColumn e.fp.inner o.ty o.rnd n c m.1 m') (y, m.2)
        algebraRes o l n p (some y.els, c))

/-- R299: the product of two n × n matrices by the chain of R292. -/
def squareMul (env : FpEnv) (t : Ty) (mode n : Nat) (a b : List Nat) (c : Calc) : List Nat × Calc :=
  let (m, c) := product env.inner t mode false ⟨n, n, t, a⟩ ⟨n, n, t, b⟩ none c
  (m.els, c)

/-- R299: binary exponentiation; `fuel` bounds the bits of the exponent. -/
def powLoop (env : FpEnv) (t : Ty) (mode n : Nat) : Nat → Nat → List Nat → List Nat → Calc → List Nat × Calc
  | 0, _, r, _, c => (r, c)
  | fuel + 1, m, r, p, c =>
    if m = 0 then (r, c)
    else
      let (r, c) := if m % 2 = 1 then squareMul env t mode n r p c else (r, c)
      let (p, c) := if m / 2 > 0 then squareMul env t mode n p p c else (p, c)
      powLoop env t mode n fuel (m / 2) r p c

/-- R299: `mpow`. -/
def execMpow (o : Ops) (s : State) : Host.Outcome State Fault Refusal :=
  issueAlgebra s (.mpow o) o (fun e l n =>
    let env := e.fp
    let x := Ty.i32.value (e.th.regs.raw 0 .i32 l o.b)
    let a := e.srcEls o.a l
    let go (p : List Nat) (c : Calc) : Option (List Nat) × Calc :=
      let (r, c) := powLoop env o.ty o.rnd n 33 x.natAbs (identityEls o.ty n) p c
      (some r, c)
    if 0 ≤ x then go a (e.calc l)
    else match matInverse env.inner o.ty o.rnd n a (e.calc l) with
      | (none, c) => (none, c)
      | (some p, c) => go p c)

/-! ### Block formats (R300 to R302) -/

/-- R301: the run of scales reaches a register that is not declared. -/
def Env.runOver (e : Env) (o : Ops) (m : Mat) : Bool :=
  match o.c with
  | .v n => decide (e.la.obj.vregs < n + scaleRun (blockLen o) m.rows m.cols)
  | _ => false

/-- R301: the elements of block `s` of row `i`. -/
def Mat.blockEls (m : Mat) (len i s : Nat) : List Nat :=
  (List.range len).filterMap (fun k => if s * len + k < m.cols then m.els[i * m.cols + s * len + k]? else none)

/-- R301: the scales of a matrix, row by row. -/
def Mat.scales (m : Mat) (env : FpEnv) (d : Ty) (len : Nat) : List Nat :=
  (List.range m.rows).flatMap (fun i => (List.range ((m.cols + len - 1) / len)).map (fun s =>
    blockScale env d len (blockMax ((m.blockEls len i s).map (fun x => fpVal m.ty (env.source m.ty x))))))

/-- The number of the scale of element `k`. -/
def scaleIndex (m : Mat) (len k : Nat) : Nat := k / m.cols * ((m.cols + len - 1) / len) + k % m.cols / len

/-- R301: `mpack`. -/
def execMpack (o : Ops) (s : State) : Host.Outcome State Fault Refusal :=
  issueMat s (.mpack o) o .none
    (fun e l =>
      let a := e.mat o.a l
      laneFault (decide (a.ty ≠ o.sty)) (e.overflows o.dst a.rows a.cols o.ty || e.runOver o a))
    (fun e l =>
      let a := e.mat o.a l
      let len := blockLen o
      if len = 0 then
        let (els, c) := (e.calc l).rounds o.rnd (fun x u => fpCvt e.fp o.ty o.sty o.rnd u o.sat x) a.els
        laneMat { a with ty := o.ty, els } o.dst l c
      else
        let scales := a.scales e.fp o.ty len
        let (els, c) := (e.calc l).rounds o.rnd (fun (p : Nat × Nat) u =>
          packEl e.fp.inner o.ty o.sty len o.rnd u (e.fp.source o.sty p.1) (scales.getD (scaleIndex a len p.2) 0))
          a.els.zipIdx
        let regs := wordsOf (scaleRun len a.rows a.cols) (packEls 8 scales)
        let r := laneMat { a with ty := o.ty, els } o.dst l c
        { r with vals := r.vals ++ (match o.c with
          | .v n => regs.zipIdx.map (fun p => RegVal.v (n + p.2) l p.1) | _ => []) })

/-- R302: `munpack`. -/
def execMunpack (o : Ops) (s : State) : Host.Outcome State Fault Refusal :=
  issueMat s (.munpack o) o .none
    (fun e l =>
      let a := e.mat o.a l
      laneFault (decide (a.ty ≠ o.sty)) (e.overflows o.dst a.rows a.cols o.ty || e.runOver o a))
    (fun e l =>
      let a := e.mat o.a l
      let len := blockLen o
      let run := match o.c with
        | .v n => e.th.regs.vecs n (scaleRun len a.rows a.cols) l | _ => 0
      let (els, c) := (e.calc l).rounds o.rnd (fun (p : Nat × Nat) u =>
        if len = 0 then fpCvt e.fp o.ty o.sty o.rnd u false p.1
        else unpackEl e.fp.inner o.ty o.sty len o.rnd u (e.fp.source o.sty p.1)
          (run / 256 ^ (scaleIndex a len p.2) % 256)) a.els.zipIdx
      laneMat { a with ty := o.ty, els } o.dst l c)

end Sys2Proof.Machine
end

