-- ==== Sys2Proof/Machine/Mma.lean ====
section
/-! DEFINITION. The collective product `mma` (R303 to R306): the format quad (R32, R134), block scales (R135) and the
summation of R137. -/

namespace Sys2Proof

/-- R32: a format quad. -/
structure Quad where
  a     : Ty
  b     : Ty
  acc   : Ty
  len   : Nat
  scale : Nat
  zero  : Bool
  offA  : Nat
  offB  : Nat
  bandA : Nat
  bandB : Nat
  deriving DecidableEq, Repr

/-- R32: the quad in four scalars. -/
def Quad.ofWords (w : List Word) : Quad :=
  let q := (w.getD 0 0).toNat
  { a := (Ty.ofCode (bitsOf q 5 0)).getD .none, b := (Ty.ofCode (bitsOf q 11 6)).getD .none,
    acc := (Ty.ofCode (bitsOf q 17 12)).getD .none, len := bitsOf q 24 18, scale := bitsOf q 26 25,
    zero := decide (bitsOf q 31 27 = 0), offA := (w.getD 1 0).toNat, offB := (w.getD 2 0).toNat,
    bandA := (w.getD 3 0).toNat % 2 ^ 16, bandB := (w.getD 3 0).toNat / 2 ^ 16 }

/-- R134: the legal combinations. -/
def Quad.ok (q : Quad) : Bool :=
  let plain := decide (q.len = 0) && decide (q.scale = 0)
  let e8 := decide (q.len = 32) && decide (q.scale = 2)
  let fp8 (t : Ty) : Bool := decide (t = .e4m3) || decide (t = .e5m2)
  q.zero && (
    if q.a = .i8 ∧ q.b = .i8 then decide (q.acc = .i32) && plain && decide (q.bandA = 0) && decide (q.bandB = 0)
    else decide (q.acc = .f32) && (
      if fp8 q.a && fp8 q.b then plain || e8
      else if q.a ≠ q.b then false
      else match q.a with
        | .f32 | .f16 | .bf16 => plain
        | .e2m1 => plain || e8 || (decide (q.len = 8) && decide (q.scale = 1))
        | _ => false))

/-- R137: the length of a group. -/
def Quad.group (q : Quad) : Nat := if q.len ≠ 0 then q.len else if q.a = .f32 then 4 else 8

/-! ### Exact sums (R137); a NaN is carried as `.f32` (R129) -/

/-- A source of `mma`: flushed under DAZ; a NaN takes the form of R129 in `.f32`. -/
def mmaSource (env : FpEnv) (t : Ty) (x : Nat) : FpVal :=
  let x := env.source t x
  match fpVal t x with
  | .nan .. => fpVal .f32 (env.nan .f32 [(t, x)])
  | v => v

/-- The NaN of an invalid operation. -/
def mmaNan : FpVal := fpVal .f32 Ty.f32.canonNan

/-- R129, R137: an exact product, or a NaN: the first in the order a, b and the scales, or b, a. -/
def mmaProd (env : FpEnv) (a b : FpVal) (scales : List FpVal) : FpVal :=
  let order := if env.nanOut = 2 then b :: a :: scales else a :: b :: scales
  match order.find? (·.isNan) with
  | some v => v
  | none => (a :: b :: scales).tail.foldl (fun x y => if x.isNan then x else (prodVal x y).getD mmaNan) a

/-- R121, R137: an exact sum, or a NaN: the first among the terms. (DEDUCED, log entry 14.) -/
def mmaSum (vs : List FpVal) : FpVal :=
  match vs.find? (·.isNan) with
  | some v => v
  | none =>
    let infs := vs.filter (fun v => match v with | .inf _ => true | _ => false)
    match infs with
    | v :: _ => if infs.all (· = v) then v else mmaNan
    | [] =>
      let x := vs.foldl (fun (x : Exact) v => x.add v.exact) ⟨0, 0⟩
      .fin (if x.n = 0 then vs.all (·.neg) else decide (x.n < 0)) x.n.natAbs x.e

/-- R137: a value rounded to `.f32` by rn, with FTZ. -/
def mmaRound (env : FpEnv) : FpVal → Nat
  | .nan n m _ => Ty.f32.signBit n + (Ty.f32.maxCode + 1) + m
  | .inf n => Ty.f32.infCode n
  | .fin n m e => (roundFp env .f32 0 0 false n ⟨m, e, false⟩).bits

/-- A list cut into groups of `g`; `fuel` is at least its length. -/
def groupsOf {α : Type} (g : Nat) : Nat → List α → List (List α)
  | 0, _ => []
  | _, [] => []
  | fuel + 1, l => l.take g :: groupsOf g fuel (l.drop g)

/-- R137: one element of the product: the groups' exact sums rounded into the accumulator, the band scales, c. -/
def mmaDot (env : FpEnv) (g : Nat) (prods : List FpVal) (bandA bandB c : FpVal) : Nat :=
  let acc := (groupsOf g prods.length prods).foldl
    (fun acc ps => fpVal .f32 (mmaRound env (mmaSum [acc, mmaSum ps]))) (.fin false 0 0)
  let acc := fpVal .f32 (mmaRound env (mmaProd env acc bandA [bandB]))
  mmaRound env (mmaSum [acc, c])

/-- R137: one element of an `.i8` product. -/
def mmaDotInt (sat : Bool) (prods : List Int) (c : Nat) : Nat :=
  let add (x : Nat) (y : Int) : Nat := Ty.i32.fit sat (Ty.i32.value x + y)
  add ((groupsOf 8 prods.length prods).foldl (fun acc ps => add acc ps.sum) 0) (Ty.i32.value c)

end Sys2Proof

namespace Sys2Proof.Machine

/-- R148: the current scratch size of a block. -/
def scratchSize (o : CodeObj) (b : Block) : Nat := min o.scratch (b.windows * 65536)

/-- The quad of an `mma`, as the leader holds it. -/
def SetCtx.quad (c : SetCtx) (o : Ops) : Quad :=
  .ofWords ((List.range 4).map (fun i => c.leader.th.regs.scal (o.quad + i)))

/-- R304: K, the columns of ma in the lowest active lane. -/
def SetCtx.rowLen (c : SetCtx) (o : Ops) : Nat :=
  match (c.actives o).head? with
  | none => 0
  | some l => match c.member l with
    | some (m, k) => (m.mat o.a k).cols
    | none => 0

/-- R135: scale bytes of a row. -/
def Quad.perRow (q : Quad) (k : Nat) : Nat := if q.len = 0 then 0 else (k + q.len - 1) / q.len

/-- R303: a scale array reaches beyond the block's scratch. -/
def SetCtx.scalesOver (c : SetCtx) (q : Quad) (k : Nat) : Bool :=
  let size := scratchSize c.leader.la.obj c.leader.blk
  decide (q.len ≠ 0) && (decide (size < q.offA + c.count * Quad.perRow q k) ||
    decide (size < q.offB + c.count * Quad.perRow q k))

/-- R466: a scale that the instruction reads lies in a poisoned row of scratch. -/
def SetCtx.scalesBad (c : SetCtx) (q : Quad) (k : Nat) : Bool :=
  let n := c.count * Quad.perRow q k
  decide (0 < n) && c.leader.blk.badRows.any (fun r =>
    [q.offA, q.offB].any (fun off => decide (off < 64 * r + 64) && decide (64 * r < off + n)))

/-- R179: a row of the scales that the instruction reads is owned by a bulk engine. -/
def SetCtx.scalesOwned (c : SetCtx) (s : State) (q : Quad) (k : Nat) : Bool :=
  (List.range (c.count * Quad.perRow q k)).any (fun i =>
    s.rowOwned c.leader.th.block (q.offA + i) || s.rowOwned c.leader.th.block (q.offB + i))

/-- R304: the check of a lane. -/
def SetCtx.mmaFault (c : SetCtx) (o : Ops) (q : Quad) (k : Nat) (l : Nat) : Option LaneFault :=
  match c.member l with
  | none => none
  | some (m, x) =>
    let md := matNo o.dst
    let a := m.mat o.a x
    let b := m.mat o.b x
    let isRow (r : Mat) (t : Ty) (n : Nat) : Bool := decide (r.rows = 1) && decide (r.cols = n) && decide (r.ty = t)
    let acc := (List.range c.size).all (fun t => isRow (m.th.regs.matrix (md + t) x) q.acc c.width)
    laneFault (!isRow a q.a k || !isRow b q.b k || (decide (o.xmod % 2 = 1) && !acc))
      ((List.range c.size).any (fun t => m.la.obj.caps.getD (md + t) 0 < c.width))

/-- R135: the scales of row `i` of an operand. -/
def SetCtx.rowScales (c : SetCtx) (env : FpEnv) (q : Quad) (k off i : Nat) : List FpVal :=
  let t : Ty := if q.scale = 1 then .e3m5 else .e8m0
  (List.range (Quad.perRow q k)).map (fun j =>
    mmaSource env t (NMap.get 0 c.leader.blk.scratch (off + i * Quad.perRow q k + j)).toNat)

/-- R305: element (i, j). DAZ reads the elements, the accumulator and no scale. (DEDUCED, log entry 82.) -/
def SetCtx.mmaEl (c : SetCtx) (o : Ops) (q : Quad) (k i j c0 : Nat) : Nat :=
  if !c.active o j then c0
  else match c.member i, c.member j with
    | some (m, x), some (n, y) =>
      let a := (m.mat o.a x).els
      let b := (n.mat o.b y).els
      if q.a = .i8 then
        mmaDotInt o.sat ((a.zip b).map (fun p => Ty.i8.value p.1 * Ty.i8.value p.2)) c0
      else
        let env := c.leader.fp
        let sa := c.rowScales env q k q.offA i
        let sb := c.rowScales env q k q.offB j
        let prods := (a.zip b).zipIdx.map (fun p =>
          let scales := if q.len = 0 then [] else
            [sa.getD (p.2 / q.len) mmaNan, sb.getD (p.2 / q.len) mmaNan]
          mmaProd env (mmaSource env q.a p.1.1) (mmaSource env q.b p.1.2) scales)
        mmaDot env q.group prods (mmaSource env.inner .bf16 q.bandA) (mmaSource env.inner .bf16 q.bandB)
          (mmaSource env .f32 c0)
    | _, _ => c0

/-- R305: the results of lane `i`, register by register. -/
def SetCtx.mmaLane (c : SetCtx) (o : Ops) (q : Quad) (k i : Nat) : List RegVal :=
  match c.member i with
  | none => []
  | some (m, x) =>
    (List.range c.size).map (fun t =>
      let md := matNo o.dst + t
      let old := (m.th.regs.matrix md x).els
      let els := (List.range c.width).map (fun y =>
        c.mmaEl o q k i (t * c.width + y) (if o.xmod % 2 = 1 then old.getD y 0 else 0))
      Mat.val ⟨1, c.width, q.acc, els⟩ md x)

/-- Lanes of the space as the masks of their members. -/
def SetCtx.split (c : SetCtx) (lanes : List Nat) : List (Nat × DWord) :=
  c.members.map (fun m =>
    (m.2.tid, maskOf ((lanes.filter (fun l => l / c.width = m.1)).map (· % c.width))))

/-- R303 to R306: `mma`. -/
def execMma (o : Ops) (s : State) : Host.Outcome State Fault Refusal :=
  issueCross s (.mma o) o (fun c s =>
    let q := c.quad o
    let k := c.rowLen o
    let lanes := c.actives o
    if !q.ok || (o.sat && decide (q.a ≠ .i8)) then .trap s 0x02 11 (c.masks o)
    else if lanes = [] then .done s []
    else if c.scalesOver q k then .trap s 0x02 11 (c.masks o)
    else if c.scalesOwned s q k then .wait s
    else if c.scalesBad q k then .trap s 0x18 3 (c.masks o)
    else
      let bad := lanes.map (fun l => (l, c.mmaFault o q k l))
      let m6 := faultLanes bad .mismatch
      let m7 := faultLanes bad .overflow
      if m6 ≠ [] then .trap s 0x06 0 (c.split m6)
      else if m7 ≠ [] then .trap s 0x07 0 (c.split m7)
      else .done s (c.members.map (fun m => (m.2.tid,
        (lanes.filter (fun l => l / c.width = m.1)).flatMap (fun l => c.mmaLane o q k l)))))

end Sys2Proof.Machine
end

