-- ==== Sys2Proof/Machine/LoadStore.lean ====
section
/-! DEFINITION. Accesses through buffer records and to scratch (R142 to R150, R167, R318 to R322, R414, R441 to R447). -/

namespace Sys2Proof.Machine

/-! ### Buffer records (R142 to R145) -/

/-- R142: a captured buffer record. -/
structure BufRec where
  base   : Nat
  layout : Nat
  rdonly : Bool
  bounds : Nat
  swz    : Nat
  esize  : Nat
  n0     : Nat
  n1     : Nat
  n2     : Nat
  s1     : Nat
  s2     : Nat
  word7  : Nat
  deriving DecidableEq, Repr

/-- R142: the record in eight scalars. `layout` joins LAYOUT and the zero bits above it. -/
def BufRec.ofWords (w : List Word) : BufRec :=
  let g (i : Nat) : Nat := (w.getD i 0).toNat
  { base := g 0 + bitsOf (g 1) 19 0 * 2 ^ 32, layout := bitsOf (g 1) 31 27, rdonly := bitOf (g 1) 26,
    bounds := bitsOf (g 1) 25 24, swz := bitsOf (g 1) 23 22, esize := bitsOf (g 1) 21 20, n0 := g 2, n1 := g 3,
    n2 := g 6, s1 := g 4, s2 := g 5, word7 := g 7 }

/-- R101: the record in `s n` to `s n + 7`. -/
def Env.recAt (e : Env) (n : Nat) : BufRec := .ofWords ((List.range 8).map (fun i => e.th.regs.scal (n + i)))

/-- R149: the swizzle of a byte offset. -/
def swizzle (a m : Nat) : Nat := if m = 0 then a else a ^^^ (a / 2 ^ (6 + m) % 8 * 2 ^ (3 + m))

/-- Bytes of an element. -/
def BufRec.esz (r : BufRec) : Nat := 2 ^ r.esize

/-- R444: a stride shorter than the span it steps over. -/
def BufRec.short (r : BufRec) : Bool :=
  (decide (1 < r.n1) && decide (r.s1 < r.n0 * r.esz)) || (decide (1 < r.n2) && decide (r.s2 < r.s1 * r.n1))

/-- R145, R288, R332, R443, R444: the checks at capture: cause and DETAIL. -/
def BufRec.check (r : BufRec) (write sizeOk : Bool) : Option (Nat × Nat) :=
  if r.layout ≠ 0 then some (0x11, 1)
  else if r.bounds = 3 then some (0x11, 2)
  else if write && r.rdonly then some (0x11, 3)
  else if write && r.short then some (0x11, 4)
  else if !sizeOk then some (0x11, 5)
  else if r.base % r.esz ≠ 0 then some (0x12, 1)
  else if r.s1 % r.esz ≠ 0 ∨ r.s2 % r.esz ≠ 0 then some (0x12, 2)
  else none

/-- R143: an extent is zero. -/
def BufRec.empty (r : BufRec) : Bool := decide (r.n0 * r.n1 * r.n2 = 0)

/-- R143: the index is in bounds; `y` in the coordinate form. -/
def BufRec.inb (r : BufRec) (x : Nat) (y : Option Nat) : Bool :=
  match y with
  | none => decide (x < r.n0 * r.n1 * r.n2)
  | some y => decide (x < r.n0) && decide (y < r.n1) && decide (0 < r.n2)

/-- R143: `off` of an element. -/
def BufRec.off (r : BufRec) (x : Nat) (y : Option Nat) : Nat :=
  let (i0, i1, i2) := match y with
    | none => (x % r.n0, x / r.n0 % r.n1, x / (r.n0 * r.n1))
    | some y => (x, y, 0)
  i0 * r.esz + i1 * r.s1 + i2 * r.s2

/-- R143: the virtual address of an element in bounds. -/
def BufRec.addr (r : BufRec) (x : Nat) (y : Option Nat) : Nat := r.base + swizzle (r.off x y) r.swz

/-- R146, R446: the virtual address of the upper 8 of 16 bytes: the swizzle moves them for themselves.
(DEDUCED, log entry 74.) -/
def BufRec.addrUp (r : BufRec) (x : Nat) (y : Option Nat) : Nat := r.base + swizzle (r.off x y + 8) r.swz

/-- R144: the clamped index. -/
def BufRec.clamp (r : BufRec) (x : Nat) (y : Option Nat) : Nat × Option Nat :=
  match y with
  | none => (r.n0 * r.n1 * r.n2 - 1, none)
  | some y => (min x (r.n0 - 1), some (min y (r.n1 - 1)))

/-- R442: DETAIL of a bounds fault. -/
def BufRec.oob (r : BufRec) (x : Nat) (y : Option Nat) : Nat :=
  if r.empty then 4
  else match y with
    | none => 1
    | some y => (if r.n0 ≤ x then 1 else 0) + (if r.n1 ≤ y then 2 else 0)

/-- R143, R144: the index that an access reaches: none when it reads zero or is dropped; an error is the DETAIL of a bounds
fault. -/
def BufRec.index (r : BufRec) (write : Bool) (x : Nat) (y : Option Nat) : Except Nat (Option (Nat × Option Nat)) :=
  if r.inb x y then .ok (some (x, y))
  else if r.bounds = 2 then .error (r.oob x y)
  else if r.bounds = 1 && !write && !r.empty then .ok (some (r.clamp x y))
  else .ok none

/-- R143, R144: where an element is. -/
def BufRec.locate (r : BufRec) (write : Bool) (x : Nat) (y : Option Nat) : Except Nat (Option Nat) :=
  match r.index write x y with
  | .error d => .error d
  | .ok i => .ok (i.map (fun p => r.addr p.1 p.2))

/-! ### Checks of lanes (R441) -/

/-- A check that failed in a lane. -/
structure LaneBad where
  lane   : Nat
  cause  : Nat
  detail : Nat
  addr   : Option Nat
  deriving DecidableEq, Repr

/-- R441, R442: the trap of the lanes that failed one step: the lower code decides, DETAIL is that of the lowest lane,
and of a bounds fault the union. `once`: an access made once for the warp fails for all of `all`. -/
def State.badTrap (s : State) (bad : List LaneBad) (once : Bool) (all : DWord) : Option Trap :=
  match bad with
  | [] => none
  | b :: _ =>
    let cause := bad.foldl (fun c x => Nat.min c x.cause) b.cause
    let mine := bad.filter (fun x => x.cause = cause)
    let lane := mine.foldl (fun l x => Nat.min l x.lane) (mine.headD b).lane
    let first := (mine.find? (fun x => x.lane = lane)).getD b
    let detail := if cause = 0x10 then mine.foldl (fun d x => d ||| x.detail) 0 else first.detail
    some { s.trapOf cause detail (if once then all else maskOf (mine.map (·.lane))) with addr := first.addr }

/-- R146: the alignment that an access of `w` bytes needs. -/
def alignOf (w : Nat) : Nat := if w = 16 then 8 else w

/-- An element that a lane names: lane, number within the lane, indices, bytes to store, and its bit in the byte. -/
structure Elem where
  lane : Nat
  elem : Nat
  x    : Nat
  y    : Option Nat
  data : List Byte := []
  bit  : Nat := 0
  deriving DecidableEq, Repr

/-- R441 step 2: elements out of bounds. -/
def boundsBad (r : BufRec) (write : Bool) (els : List Elem) : List LaneBad :=
  els.filterMap (fun e => match r.locate write e.x e.y with
    | .error d => some ⟨e.lane, 0x10, d, none⟩
    | .ok _ => none)

/-- The accesses of elements that passed step 2. -/
def accessesOf (r : BufRec) (write : Bool) (w : Nat) (els : List Elem) : List Access :=
  els.filterMap (fun e => match r.index write e.x e.y with
    | .error _ => none
    | .ok i => some { lane := e.lane, elem := e.elem, va := i.map (fun p => r.addr p.1 p.2), w := w, data := e.data, bit := e.bit,
                      half := if w = 16 then i.map (fun p => r.addrUp p.1 p.2) else none })

/-- R178: the single-copy parts of an access: address, bytes, offset. -/
def Access.parts (a : Access) : List (Nat × Nat × Nat) :=
  match a.va with
  | none => []
  | some va => if a.w = 16 then [(va, 8, 0), (a.half.getD (va + 8), 8, 8)] else [(va, a.w, 0)]

/-- R441 step 3: addresses that are misaligned, or with a part at or above 2^52. -/
def addressBad (accs : List Access) : List LaneBad :=
  accs.filterMap (fun a => match a.va with
    | none => none
    | some va =>
      if va % alignOf a.w ≠ 0 then some ⟨a.lane, 0x12, 3, some va⟩
      else (a.parts.find? (fun p => 2 ^ 52 ≤ p.1)).map (fun p => ⟨a.lane, 0x14, 1, some p.1⟩))

/-- R441 steps 1 to 3 of an access through a record: its lane accesses, or the trap. The record is checked whatever the
lanes (R145). -/
def State.locateAll (s : State) (r : BufRec) (write sizeOk : Bool) (w : Nat) (els : List Elem) (once : Bool)
    (all : DWord) : Except Trap (List Access) :=
  match r.check write sizeOk with
  | some (c, d) => .error (s.trapOf c d all)
  | none => match s.badTrap (boundsBad r write els) once all with
    | some t => .error t
    | none =>
      let accs := accessesOf r write w els
      match s.badTrap (addressBad accs) once all with
      | some t => .error t
      | none => .ok accs

/-! ### Lines (R147, R451) -/

/-- The virtual lines that accesses touch, ascending lanes first. -/
def linesOf (accs : List Access) : List Nat := (accs.flatMap (fun a => a.parts.map (fun p => lineOf p.1))).eraseDups

/-- R441 step 4: the lines that translate, virtual and physical, and those that fail; none when a walk waits. -/
def State.reachLines (s : State) (core : Nat) (need : Need) (since : Nat) :
    List Nat → Option (List (Nat × Nat) × List (Nat × TFault)) × State
  | [] => (some ([], []), s)
  | l :: r =>
    match s.translate core l need since with
    | (.wait, s) => (none, s)
    | (.ok pa, s) => match s.reachLines core need since r with
      | (some (ok, bad), s) => (some ((l, pa) :: ok, bad), s)
      | (none, s) => (none, s)
    | (.fault f, s) => match s.reachLines core need since r with
      | (some (ok, bad), s) => (some (ok, (l, f) :: bad), s)
      | (none, s) => (none, s)

/-- The physical line of a virtual line. -/
def lineAt (lines : List (Nat × Nat)) (va : Nat) : Option Nat := (lines.find? (fun p => p.1 = lineOf va)).map (·.2)

/-- R441, R451: the lanes whose accesses touch lines that failed; of two halves that fail the lower code counts. -/
def lineBad (accs : List Access) (bad : List (Nat × TFault)) : List LaneBad :=
  accs.filterMap (fun a =>
    let hits : List LaneBad := a.parts.filterMap (fun p =>
      (bad.find? (fun b => b.1 = lineOf p.1)).map (fun b => ⟨a.lane, b.2.cause, b.2.detail, some p.1⟩))
    hits.find? (fun h => hits.all (fun x => decide (h.cause ≤ x.cause))))

/-! ### Data (R154, R167, R451, R452, R491) -/

/-- A part of an access through the lines that translate. -/
def partsIn (lines : List (Nat × Nat)) (a : Access) : List (Nat × Nat × Nat × Nat) :=
  a.parts.filterMap (fun p => (lineAt lines p.1).map (fun l => (p.1, l + p.1 % 64, p.2.1, p.2.2)))

/-- R466: the DETAIL of the data error that a read meets in the bytes which the thread or its core holds. -/
def State.ownBad (s : State) (th : Thread) (core pa n : Nat) : Option Nat :=
  ((List.range n).findSome? (fun i => th.pendingBad (pa + i))).orElse
    (fun _ => (List.range n).findSome? (fun i =>
      if (th.pending (pa + i)).isNone then (s.core core).heldBad (pa + i) else (s.core core).partBad (pa + i)))

/-- R452, R491: the DETAIL of the error response to a read: none where every byte is held. -/
def State.refusedRead (s : State) (th : Thread) (core va pa n : Nat) : Option Nat :=
  if (List.range n).all (fun i => (th.pending (pa + i)).isSome || ((s.core core).holds (pa + i)).isSome) then none
  else s.homeBad th va pa

/-- R452, R466, R491: the DETAIL of the data error that a read of a part of a line meets. (DEDUCED, log entry 60.) -/
def State.readBad (s : State) (th : Thread) (core va pa n : Nat) : Option Nat :=
  (s.ownBad th core pa n).orElse (fun _ => s.refusedRead th core va pa n)

/-- R441 step 5: the lanes whose data cannot be read. -/
def State.dataBad (s : State) (th : Thread) (core : Nat) (lines : List (Nat × Nat)) (accs : List Access) :
    List LaneBad :=
  accs.filterMap (fun a => (partsIn lines a).findSome? (fun p =>
    (s.readBad th core p.1 p.2.1 p.2.2.1).map (fun d => ⟨a.lane, 0x18, d, some p.1⟩)))

/-- R397: the agents that refuse the data of accesses record it. -/
def State.refuse (s : State) (e : Env) (pc : Nat) (lines : List (Nat × Nat)) (accs : List Access) : State :=
  s.refusals e pc (((accs.flatMap (partsIn lines)).filter (fun p =>
    (s.refusedRead e.th e.blk.core p.1 p.2.1 p.2.2.1).isSome)).map (·.2.1))

/-- R469: bytes of one line as a thread loads them: a paired copy sees its own pending stores. -/
def State.threadLoad (s : State) (t core hint pa n : Nat) : List Byte × State :=
  let (bs, s) := s.loadBytes core hint pa n
  match s.thread t with
  | none => (bs, s)
  | some th => (bs.zipIdx.map (fun p => (th.pending (pa + p.2)).getD p.1), s)

/-- The loads of accesses through the lines that translate, gathered by virtual address.
(DESIGN CHOICE, log entry 7.) -/
def State.loadAll (s : State) (t core hint : Nat) (lines : List (Nat × Nat)) (accs : List Access) (got : NMap Byte) :
    NMap Byte × State :=
  (accs.flatMap (partsIn lines)).foldl (fun (r : NMap Byte × State) p =>
    let (bs, s) := r.2.threadLoad t core hint p.2.1 p.2.2.1
    (bs.zipIdx.foldl (fun g b => NMap.put g (p.1 + b.2) b.1) r.1, s)) (got, s)

/-- R146: the bytes that accesses store through the lines that translate: virtual line, physical address, byte. -/
def storeBytesOf (lines : List (Nat × Nat)) (accs : List Access) : List (Nat × Nat × Byte) :=
  accs.flatMap (fun a => (partsIn lines a).flatMap (fun p =>
    ((a.data.drop p.2.2.2).take p.2.2.1).zipIdx.map (fun b => (lineOf p.1, p.2.1 + b.2, b.1))))

/-- The stores of accesses of an instruction of a region through the lines that translate; `nums` numbers the lines' entries in a
paired launch. (DESIGN CHOICE, log entry 7.) -/
def State.storeAll (s : State) (t region core hint : Nat) (nums lines : List (Nat × Nat)) (accs : List Access) : State :=
  let bytes := storeBytesOf lines accs
  match s.thread t with
  | none => s
  | some th =>
    if th.pair.isNone then
      let s := (wholeLines (bytes.map (·.2.1))).foldl (fun s l => s.modCore core (·.cleanse l)) s
      bytes.foldl (fun s b => s.storeByte core hint b.1 b.2.1 b.2.2) s
    else
      let mine := nums.filter (fun n => bytes.any (fun b => b.1 = n.1))
      let lines := (mine.filterMap (fun n => lineAt lines n.1)).eraseDups
      let s := if s.ways core = 0 then s
        else lines.foldl (fun s pa => let (l, s) := s.allocate core pa hint; s.modCore core (·.putLine l)) s
      let s := s.pairStore t region (mine.map (fun n => (n.2, n.1, (bytes.filter (fun b => b.1 = n.1)).map (fun b => b.2))))
      (wholeLines (bytes.map (·.2.1))).foldl (fun s l => s.heal core l) s

/-- The value of an access from the bytes gathered. -/
def Access.value (a : Access) (got : NMap Byte) : Nat :=
  ofBytes (a.parts.flatMap (fun p => (List.range p.2.1).map (fun i => NMap.get 0 got (p.1 + i))))

/-- R319, R287: the results of a load. -/
def MemDest.vals (d : MemDest) (accs : List Access) (got : NMap Byte) : List RegVal :=
  match d with
  | .none => []
  | .reg ty d => accs.flatMap (fun a => destVals 0 ty d a.lane (a.value got))
  | .matrix n ty shapes => shapes.map (fun p =>
      let els := (accs.filter (fun a => a.lane = p.1)).map (fun a => a.value got / 2 ^ a.bit % 2 ^ ty.bits)
      Mat.val ⟨p.2.1, p.2.2, ty, els⟩ n p.1)

/-! ### The access of an instruction (R167, R414, R441 steps 4 and 5) -/

/-- A global access of an instruction. -/
structure MemOp where
  write : Bool
  hint  : Nat
  accs  : List Access
  dest  : MemDest
  /-- registers that a load will write -/
  regs  : List RegId
  /-- R219: the instruction is variable-latency -/
  async : Bool

def MemOp.need (m : MemOp) : Need := if m.write then .w else .r

/-- Entries that take a place in the operand log: those that wait on the host (R414). -/
def Thread.logged (th : Thread) : List LogEntry := th.log.filter (·.held.isNone)

/-- R167: an entry of the log holds one of these virtual lines. -/
def Thread.holdsLine (th : Thread) (lines : List Nat) : Bool :=
  th.log.any (fun q => lines.any (fun l => q.lines.any (fun w => w.line = l) ||
    (match q.held with | some h => h.any (fun p => p.1 = l) | none => false)))

/-- The first byte of the faulting accesses in a page. -/
def firstIn (accs : List Access) (bad : List (Nat × TFault)) (page : Nat) : Nat :=
  (accs.flatMap (fun a => a.parts.filterMap (fun p =>
    if p.1 / 65536 = page && bad.any (fun b => b.1 = lineOf p.1) then some p.1 else none))).foldl Nat.min (page * 65536 + 65535)

/-- R414: the lines that begin to wait on the host; `first` gives the first byte of the access in each. -/
def State.waiting (s : State) (write : Bool) (first : Nat → Nat) (bad : List (Nat × TFault)) : List Waiting :=
  bad.map (fun b => { line := b.1, va := first b.1, write := write, cause := b.2.cause, gen := s.xlat.sdGen, told := false })

/-- The first byte of accesses in a line. -/
def firstAt (accs : List Access) (line : Nat) : Nat :=
  (accs.flatMap (fun a => (a.parts.map (·.1)).filter (fun va => lineOf va = line))).foldl Nat.min (line + 63)

/-- R447: the records of page faults, one for each 64 KiB page, and their signal. -/
def State.pageFaults (s : State) (e : Env) (pc : Nat) (accs : List Access) (bad : List (Nat × TFault)) : State :=
  ((bad.map (fun b => b.1 / 65536)).eraseDups.foldl (fun s p =>
    s.threadRecord e { code := 0x0200, source := 0, addr := some (firstIn accs bad p), pc := pc }) s).signal 68

/-- R414: the entry of an instruction in its operand log; a load's results are still to come. -/
def State.logOp (s : State) (e : Env) (m : MemOp) (entry : LogEntry) : Res :=
  let s := s.modThread e.tid (fun th => { th with log := th.log ++ [entry] })
  if !m.async then .done s []
  else .async s { op := entry.op, vals := [], stale := none, known := false, regs := m.regs, region := 0 }

/-- The entry numbers of a paired store's lines (R470). -/
def State.numberLines (s : State) (e : Env) (m : MemOp) (lines : List Nat) : List (Nat × Nat) × State :=
  if m.write && e.th.pair.isSome then
    let (n, s) := s.reserve e.tid lines.length
    (lines.zipIdx.map (fun p => (p.1, n + p.2)), s)
  else ([], s)

/-- R167, R414: the access is performed, is logged for the lines that fault, or is held back behind a logged one.
(DESIGN CHOICE, log entry 7.) -/
def State.perform (s : State) (e : Env) (m : MemOp) (lines : List (Nat × Nat)) (bad : List (Nat × TFault)) : Res :=
  let core := e.blk.core
  let all := linesOf m.accs
  let (nums, s) := s.numberLines e m all
  let (hold, s) := s.draw (if bad = [] ∧ e.th.log ≠ [] ∧ all ≠ [] then 2 else 1)
  let (op, s) := s.fresh
  let entry : LogEntry :=
    { op := op, pc := s.cur.pc, write := m.write, atomic := false, acc := m.accs, got := [], dest := m.dest,
      lines := [], epoch := s.xlat.qepoch, region := e.th.region.num, held := none,
      hint := m.hint, nums := nums }
  if hold = 1 then s.logOp e m { entry with held := some lines }
  else
    let (got, s) := if m.write then ([], s.storeAll e.tid e.th.region.num core m.hint nums lines m.accs)
      else s.loadAll e.tid core m.hint lines m.accs []
    if bad = [] then .done s (m.dest.vals m.accs got)
    else (s.pageFaults e s.cur.pc m.accs bad).logOp e m { entry with got := got, lines := s.waiting m.write (firstAt m.accs) bad }

/-- R176: an atomic of the thread on this line is yet to be performed. -/
def State.atomAhead (s : State) (t line : Nat) : Bool :=
  s.reqs.any (fun r => decide (r.tid = t) && r.lanes.any (fun l => match l.pa with
    | some pa => decide (lineOf pa = line) | none => false))

/-- R469, R473: a paired copy's store waits while its entries are full, or the staging area when it may need lines there for
pending bytes. -/
def State.pairFull (s : State) (e : Env) (m : MemOp) (n : Nat) : Bool :=
  match e.th.pair with
  | none => false
  | some p => m.write && (p.full false n || s.stagingWaits e.blk.core (5 * n))

/-- R170, R179: lines of an access cannot enter the L1 or the staging area of a core now: one is owned, or a release that
would make room has to wait. -/
def State.linesWait (s : State) (core : Nat) (lines : List (Nat × Nat)) : Bool :=
  lines.any s.lineOwned || s.stagingWaits core (5 * lines.length)

/-- R441 steps 4 and 5 of a global access of a thread. -/
def State.access (s : State) (e : Env) (m : MemOp) (once : Bool) (all : DWord) : Res :=
  if 8 ≤ e.th.logged.length ∧ linesOf m.accs ≠ [] then .wait s .stalled
  else match s.reachLines e.blk.core m.need 0 (linesOf m.accs) with
    | (none, s) => .wait s .stalled
    | (some (lines, bad), s) =>
      match s.badTrap (lineBad m.accs (bad.filter (fun b => !s.routed b.2))) once all with
      | some t => .trap (s.walkerRecords e s.cur.pc bad) t
      | none =>
        if s.pairFull e m (lines.length + bad.length) then .wait s .full
        else if s.linesWait e.blk.core lines || lines.any (fun l => s.atomAhead e.tid l.2) || e.th.holdsLine (linesOf m.accs) then
          .wait s .stalled
        else match s.badTrap (if m.write then [] else s.dataBad e.th e.blk.core lines m.accs) once all with
          | some t =>
            .trap ((s.refuse e s.cur.pc lines m.accs).modThread e.tid (fun th => th.met (linesOf m.accs))) t
          | none => s.perform e m lines bad

/-! ### `ld` and `st` (R318 to R320) -/

/-- R318, R320: the elements that the lanes of an instruction name. -/
def Env.elems (e : Env) (o : Ops) (data : Nat → List Byte) : List Elem :=
  (e.actLanes o).map (fun l =>
    { lane := l, elem := 0, x := e.word o.a l, y := if o.xmod % 2 = 1 then some (e.word o.b l) else none, data := data l })

/-- Bytes of a type's access. -/
def widthOf (t : Ty) : Nat := t.bits / 8

/-- R235, R320: an access made once for the warp is not made when no lane passes `k0` and the guard. -/
def idle (o : Ops) (all : DWord) : Bool := allScalar o && decide (all = 0)

/-- R319: `ld`. -/
def execLd (o : Ops) (s : State) : Host.Outcome State Fault Refusal :=
  issue s (.ld o) o (fun e s =>
    let all := e.th.active o
    if idle o all then .done s []
    else match s.locateAll (e.recAt (8 * o.brec)) false true (widthOf o.ty) (e.elems o (fun _ => [])) (allScalar o) all with
      | .error t => .trap s t
      | .ok accs => s.access e
          { write := false, hint := o.hint, accs := accs, dest := .reg o.ty o.dst, regs := e.th.writes 0 (.ld o), async := true }
          (allScalar o) all)

/-- R319: `st`. -/
def execSt (o : Ops) (s : State) : Host.Outcome State Fault Refusal :=
  issue s (.st o) o (fun e s =>
    let all := e.th.active o
    let data (l : Nat) : List Byte := bytesOf (widthOf o.ty) (e.th.regs.raw 0 o.ty l o.dst)
    if idle o all then .done s []
    else match s.locateAll (e.recAt (8 * o.brec)) true true (widthOf o.ty) (e.elems o data) (allScalar o) all with
      | .error t => .trap s t
      | .ok accs => s.access e { write := true, hint := o.hint, accs := accs, dest := .none, regs := [], async := false } (allScalar o) all)

/-! ### `lds` and `sts` (R321, R322) -/

/-- R148, R442: the DETAIL of a scratch access that ends at `hi`; none when it is inside. -/
def scratchBad (o : CodeObj) (b : Block) (hi : Nat) : Option Nat :=
  if hi ≤ scratchSize o b then none
  else if hi ≤ min o.scratch (b.maxWindows * 65536) then some 2
  else some 1

/-- A piece of a scratch access: its offset in the access, its place and its bytes. -/
structure Piece where
  off   : Nat
  place : Nat
  len   : Nat
  deriving DecidableEq, Repr

/-- R149, R446: the pieces of a scratch access at an address: a chunk can end within 16 bytes, so each half has its own place.
(DEDUCED, log entry 74.) -/
def piecesOf (a w mode : Nat) : List Piece :=
  if w = 16 then [⟨0, swizzle a mode, 8⟩, ⟨8, swizzle (a + 8) mode, 8⟩] else [⟨0, swizzle a mode, w⟩]

/-- A lane of a scratch access: its address before the swizzle and its pieces. -/
structure ScratchLane where
  lane   : Nat
  addr   : Nat
  pieces : List Piece
  deriving DecidableEq, Repr

/-- The bytes that a lane reaches, by their place. -/
def ScratchLane.places (l : ScratchLane) : List Nat := l.pieces.flatMap (fun p => (List.range p.len).map (p.place + ·))

/-- R148, R322: the lanes of a scratch access. -/
def Env.scratchLanes (e : Env) (o : Ops) : List ScratchLane :=
  (e.actLanes o).map (fun l =>
    let a := e.word o.a l + e.word o.b l
    ⟨l, a, piecesOf a (widthOf o.ty) (o.xmod % 4)⟩)

/-- R148, R441: the checks of a scratch access. -/
def State.scratchTrap (s : State) (e : Env) (o : Ops) (lanes : List ScratchLane) : Option Trap :=
  let top (l : ScratchLane) : Nat := (l.pieces.map (fun p => p.place + p.len)).foldl Nat.max 0
  match s.badTrap (lanes.filterMap (fun l => (scratchBad e.la.obj e.blk (top l)).map (fun d => ⟨l.lane, 0x13, d, none⟩)))
    (allScalar o) (e.th.active o) with
  | some t => some t
  | none => s.badTrap (lanes.filterMap (fun l =>
      if l.addr % alignOf (widthOf o.ty) ≠ 0 then some ⟨l.lane, 0x12, 3, none⟩ else none)) (allScalar o) (e.th.active o)

/-- R179: a row that a bulk engine owns holds a scratch access back. -/
def State.scratchOwned (s : State) (blk : Nat) (lanes : List ScratchLane) : Bool :=
  lanes.any (fun l => l.places.any (s.rowOwned blk))

/-- Bytes of a block's scratch. -/
def Block.scratchBytes (b : Block) (a w : Nat) : List Byte := (List.range w).map (fun i => NMap.get 0 b.scratch (a + i))
/-- Bytes written into a block's scratch. -/
def Block.putScratch (b : Block) (a : Nat) (bs : List Byte) : Block :=
  { b with scratch := bs.zipIdx.foldl (fun m p => NMap.put m (a + p.2) p.1) b.scratch }
/-- R467: one write of these bytes clears the poison of the rows that it covers whole. -/
def Block.cleanse (b : Block) (offs : List Nat) : Block :=
  { b with badRows := b.badRows.filter (fun r => !(wholeLines offs).contains (64 * r)) }
/-- R441, R466: the lanes of a read of scratch that meets poison. -/
def State.rowTrap (s : State) (e : Env) (o : Ops) (lanes : List ScratchLane) : Option Trap :=
  s.badTrap (lanes.filterMap (fun l =>
    if l.places.any (fun a => e.blk.badRows.contains (a / 64)) then some ⟨l.lane, 0x18, 3, none⟩ else none)) (allScalar o)
    (e.th.active o)

/-- R322: what a lane reads. -/
def Block.scratchLoad (b : Block) (l : ScratchLane) : List Byte := l.pieces.flatMap (fun p => b.scratchBytes p.place p.len)
/-- R322: what a lane writes. -/
def Block.scratchStore (b : Block) (l : ScratchLane) (bs : List Byte) : Block :=
  l.pieces.foldl (fun b p => b.putScratch p.place ((bs.drop p.off).take p.len)) b

/-- R322: `lds`. -/
def execLds (o : Ops) (s : State) : Host.Outcome State Fault Refusal :=
  issue s (.lds o) o (fun e s =>
    let lanes := e.scratchLanes o
    match s.scratchTrap e o lanes with
    | some t => .trap s t
    | none =>
      if s.scratchOwned e.th.block lanes then .wait s .stalled
      else match s.rowTrap e o lanes with
        | some t => .trap s t
        | none => .done s (lanes.flatMap (fun l => destVals 0 o.ty o.dst l.lane (ofBytes (e.blk.scratchLoad l)))))

/-- R322: `sts`. -/
def execSts (o : Ops) (s : State) : Host.Outcome State Fault Refusal :=
  issue s (.sts o) o (fun e s =>
    let lanes := e.scratchLanes o
    match s.scratchTrap e o lanes with
    | some t => .trap s t
    | none =>
      if s.scratchOwned e.th.block lanes then .wait s .stalled
      else .done (s.modBlock e.th.block (fun b =>
        (lanes.foldl (fun b l => b.scratchStore l (bytesOf (widthOf o.ty) (e.th.regs.raw 0 o.ty l.lane o.dst))) b).cleanse
          (lanes.flatMap ScratchLane.places))) [])

end Sys2Proof.Machine
end

