-- ==== Sys2Proof/Machine/MatMem.lean ====
section
/-! DEFINITION. Loading and storing matrices (R287 to R289, R433). -/

namespace Sys2Proof.Machine

/-- R288: bytes of an element's access. -/
def elemBytes (t : Ty) : Nat := if t.bits ≤ 8 then 1 else t.bits / 8

/-- R288: ESIZE is the element's. -/
def esizeOk (r : BufRec) (t : Ty) : Bool := decide (r.esz = elemBytes t)

/-- R287: the shape that a lane loads. -/
def Env.loadShape (e : Env) (o : Ops) (l : Nat) : Nat × Nat :=
  let w := o.imm.toNat
  let m := e.mat o.dst l
  if w = 0 then (m.rows, m.cols) else (bitsOf w 11 6 + 1, bitsOf w 5 0 + 1)

/-- R288: the record position of element (i, j) of a matrix of `cols` columns. -/
def matPos (t : Ty) (x : Nat) (y : Option Nat) (cols i j : Nat) : Nat × Option Nat :=
  match y with
  | none => (x + (i * cols + j) / (if t = .e2m1 then 2 else 1), none)
  | some y => (x + (if t = .e2m1 then j / 2 else j), some (y + i))

/-- R288: the element accesses of a lane's load. -/
def matElems (t : Ty) (l x : Nat) (y : Option Nat) (rows cols : Nat) : List Elem :=
  (List.range rows).flatMap (fun i => (List.range cols).map (fun j =>
    let (px, py) := matPos t x y cols i j
    { lane := l, elem := i * cols + j, x := px, y := py, bit := if t = .e2m1 then 4 * (j % 2) else 0 }))

/-- R288: the accesses of a lane's store, two `.e2m1` elements to the byte. -/
def matStores (t : Ty) (l x : Nat) (y : Option Nat) (m : Mat) : List Elem :=
  (List.range m.rows).flatMap (fun i => (List.range m.cols).filterMap (fun j =>
    let (px, py) := matPos t x y m.cols i j
    let el (k : Nat) : Nat := m.els.getD (i * m.cols + k) 0
    if t = .e2m1 ∧ j % 2 = 1 then none
    else some { lane := l, elem := i * m.cols + j, x := px, y := py,
                data := bytesOf (elemBytes t) (if t = .e2m1 then el j + 16 * el (j + 1) else el j) }))

/-- The indices of a lane. -/
def Env.indices (e : Env) (o : Ops) (l : Nat) : Nat × Option Nat :=
  (e.word o.a l, if o.xmod % 2 = 1 then some (e.word o.b l) else none)

/-- R282, R433: the trap of the lanes that fail a shape check. -/
def State.shapeTrap (s : State) (bad : List (Nat × Option LaneFault)) : Option Trap :=
  let m6 := faultLanes bad .mismatch
  let m7 := faultLanes bad .overflow
  if m6 ≠ [] then some (s.trapOf 0x06 0 (maskOf m6))
  else if m7 ≠ [] then some (s.trapOf 0x07 0 (maskOf m7))
  else none

/-- R433: the checks of `mld` and `mst` in their order, then the access. The record is checked whatever the lanes (R145). -/
def State.matAccess (s : State) (e : Env) (o : Ops) (write : Bool) (check : Nat → Option LaneFault)
    (elems : Nat → List Elem) (dest : MemDest) (regs : List RegId) : Res :=
  let all := e.th.active o
  let lanes := e.th.activeLanes o
  let r := e.recAt (8 * o.brec)
  match r.check write (esizeOk r o.ty) with
    | some (c, d) => .trap s (s.trapOf c d all)
    | none => match s.shapeTrap (lanes.map (fun l => (l, check l))) with
      | some t => .trap s t
      | none => match s.locateAll r write true (elemBytes o.ty) (lanes.flatMap elems) false all with
        | .error t => .trap s t
        | .ok accs => s.access e { write := write, hint := o.hint, accs := accs, dest := dest, regs := regs, async := true } false all

/-- R287: `mld`. -/
def execMld (o : Ops) (s : State) : Host.Outcome State Fault Refusal :=
  issue s (.mld o) o (fun e s =>
    let shape (l : Nat) : Nat × Nat := e.loadShape o l
    s.matAccess e o false
      (fun l => laneFault (decide (o.ty = .e2m1) && decide ((shape l).2 % 2 = 1))
        (e.overflows o.dst (shape l).1 (shape l).2 o.ty))
      (fun l => matElems o.ty l (e.indices o l).1 (e.indices o l).2 (shape l).1 (shape l).2)
      (.matrix (matNo o.dst) o.ty ((e.th.activeLanes o).map (fun l => (l, (shape l).1, (shape l).2))))
      (e.th.writes 0 (.mld o)))

/-- R287: `mst`. -/
def execMst (o : Ops) (s : State) : Host.Outcome State Fault Refusal :=
  issue s (.mst o) o (fun e s =>
    s.matAccess e o true
      (fun l =>
        let m := e.mat o.dst l
        laneFault (decide (m.ty ≠ o.ty) || (decide (o.ty = .e2m1) && decide (m.cols % 2 = 1))) false)
      (fun l => matStores o.ty l (e.indices o l).1 (e.indices o l).2 (e.mat o.dst l))
      .none [])

end Sys2Proof.Machine
end

