-- ==== Sys2Proof/Machine/Atomics.lean ====
section
/-! DEFINITION. Atomics: their issue (R176, R177, R323 to R325, R474), how a lane is performed at its home slice, and how
an atomic completes. -/

namespace Sys2Proof.Machine

/-! ### The operations (R323) -/

/-- R323, R324: the new value; `a` is the operand, for `.cas` the compared value, and `a2` the value that replaces it. -/
def atomNew (k : AtomOp) (t : Ty) (sat : Bool) (env : FpEnv) (old a a2 : Nat) : Nat :=
  match k with
  | .add => t.fit sat (t.value old + t.value a)
  | .fadd => (fpAdd env t env.foldMode 0 false false old a).bits
  | .min => if t.isFloat then env.flush t (fpMinMax env t false false old a).bits else if t.value a < t.value old then a else old
  | .max => if t.isFloat then env.flush t (fpMinMax env t true false old a).bits else if t.value old < t.value a then a else old
  | .and => old &&& a
  | .or => old ||| a
  | .xor => old ^^^ a
  | .xchg => a
  | .cas => if old = a then a2 else old

/-- R214: OPC2 of an atomic. -/
def atomCode : AtomOp → Nat
  | .add => 0 | .fadd => 1 | .min => 2 | .max => 3 | .and => 4 | .or => 5 | .xor => 6 | .xchg => 7 | .cas => 8

/-- R223, R224: the scope that a code names. -/
def PhaseScope.ofCode (n : Nat) : PhaseScope :=
  match n with | 0 => .core | 1 => .die | 2 => .package | _ => .system

/-- R165: a scope of `die` or wider. -/
def PhaseScope.wide : PhaseScope → Bool | .core => false | _ => true

/-- R224: whether an atomic releases before and acquires after, and at which scope. -/
def atomOrder (extra : Nat) : Bool × Bool × PhaseScope :=
  (bitOf extra 5, bitOf extra 6, .ofCode (bitsOf extra 4 3))

/-! ### Releases and acquires of a thread (R169, R171) -/

/-- R169 step 1: every earlier access of the thread has been performed. -/
def State.performed (s : State) (e : Env) : Bool :=
  decide (e.th.log = []) && !(s.reqs.any (fun r => decide (r.tid = e.tid) && !r.gated))

/-- R169, R179: a release of this scope can be performed now. -/
def State.canRelease (s : State) (e : Env) (scope : PhaseScope) : Bool :=
  s.performed e && !(scope.wide && s.dirtyOwned e.blk.core)

/-- R169: `phase.rel.S`, once it can be performed. -/
def State.release (s : State) (e : Env) (scope : PhaseScope) : State :=
  if scope.wide then s.releaseCore e.blk.core (decide (scope = .system)) else s

/-- R175: in a paired launch a release completes once the stores before it have been committed; until then the later accesses of
the warp wait. A sprout, whose entries commit in their order only after it has retired (R475), does not wait: every sprout runs and
retires (R76). (DEDUCED, log entry 27.) -/
def Env.uncommitted (e : Env) : Bool :=
  match e.th.pair with
  | some p => e.th.isWarp && decide (p.entries ≠ [])
  | none => false

/-- R175: a release, an acquire or both, at a scope, that wait for the commit of earlier stores. -/
def State.phaseWaits (s : State) (e : Env) (rel acq : Bool) (scope : PhaseScope) : State :=
  s.modThread e.tid (fun th => { th with phase := some (rel, acq, scope, th.region.num) })

/-- R171: `phase.acq.S`, once it can be performed. -/
def State.acquire (s : State) (e : Env) (scope : PhaseScope) : State :=
  if scope.wide then s.acquireCore e.blk.core (decide (scope = .system)) else s

/-! ### Issue -/

/-- The operand of a lane: a, and for `.cas` the pair. -/
def Env.atomArgs (e : Env) (k : AtomOp) (o : Ops) (l : Nat) : Nat × Nat :=
  if k = .cas then
    let x := e.th.regs.raw 0 (if o.ty.bits = 32 then .b64 else .b128) l o.b
    (x % 2 ^ o.ty.bits, x / 2 ^ o.ty.bits)
  else (e.th.regs.raw 0 o.ty l o.b, 0)

/-- R470: the signature of the entry of one line of an atomic. -/
def atomSig (k : AtomOp) (ty : Ty) (extra line : Nat) (lanes : List AtomLane) : DWord :=
  let w := widthOf ty
  let arg (l : AtomLane) : List Byte :=
    bytesOf w l.arg.toNat ++ (if k = .cas then bytesOf w l.arg2.toNat else [])
  sha3Sig (bytesOf 8 line ++ bytesOf 2 (atomCode k) ++ bytesOf 1 ty.code ++ bytesOf 1 extra ++
    lanes.flatMap (fun l => bytesOf 1 l.lane ++ bytesOf 1 (l.va % 64) ++ arg l) ++
    bytesOf 8 (lanes.foldl (fun m l => m ||| 2 ^ l.lane) 0))

/-- R470: the entries of the lines of an atomic of a region that translate. -/
def State.atomEntries (s : State) (region : Nat) (r : AtomReq) (nums lines : List (Nat × Nat)) : State :=
  s.addEntries r.tid region ((nums.filterMap (fun n => (lineAt lines n.1).map (fun pa => (n.2, pa,
    atomSig r.kind r.ty r.extra pa (r.lanes.filter (fun l => lineOf l.va = n.1)), EntryWork.atomic r.op)))))

/-- The results of lanes that are out of bounds (R324). -/
def zeroLanes (accs : List Access) : List (Nat × DWord) :=
  accs.filterMap (fun a => if a.va.isNone then some (a.lane, 0) else none)

/-- R324: the values that an atomic returns. -/
def atomVals (ty : Ty) (d : Opd) (got : List (Nat × DWord)) : List RegVal :=
  got.flatMap (fun p => destVals 0 ty d p.1 p.2.toNat)

/-- R325: an atomic whose lanes are located is committed: its request, the log entry of the lines that wait on the
host, and, in a paired launch, its entries. -/
def State.atomCommit (s : State) (e : Env) (k : AtomOp) (i : Instr) (o : Ops) (accs : List Access)
    (lines : List (Nat × Nat)) (bad : List (Nat × TFault)) : Res :=
  let (_, acq, scope) := atomOrder o.extra
  let returns := bitOf o.xmod 0
  let (op, s) := s.fresh
  let (nums, s) :=
    if e.th.pair.isNone then ([], s)
    else
      let all := linesOf accs
      let (n, s) := s.reserve e.tid all.length
      (all.zipIdx.map (fun p => (p.1, n + p.2)), s)
  let lanes : List AtomLane := accs.filterMap (fun a => a.va.map (fun va =>
    let x := e.atomArgs k o a.lane
    { lane := a.lane, va := va, pa := (lineAt lines va).map (· + va % 64), arg := BitVec.ofNat 64 x.1,
      arg2 := BitVec.ofNat 64 x.2 }))
  let req : AtomReq :=
    { op := op, tid := e.tid, block := e.th.block, core := e.blk.core, pc := s.cur.pc, words := s.cur.words, kind := k, ty := o.ty, extra := o.extra, sat := o.sat,
      fpmode := e.th.regs.fpmode, lanes := lanes, got := zeroLanes accs, bad := [],
      dest := if returns then some o.dst else none, once := if allScalar o then some (e.th.active o) else none, acq := if acq then some scope else none,
      bread := match e.th.role with | .sprout b _ => some b | .warp _ => Option.none,
      burst := match e.th.role with | .sprout _ i => i | .warp _ => 0,
      epoch := s.xlat.qepoch, gated := e.th.pair.isSome, twin := none, hint := o.hint }
  let s := { s with reqs := s.reqs ++ [req] }
  let s := s.atomEntries e.th.region.num req nums lines
  let entry : LogEntry :=
    { op := op, pc := s.cur.pc, write := true, atomic := true, acc := accs, got := [], dest := .none,
      lines := s.waiting true (firstAt accs) bad, epoch := s.xlat.qepoch, region := e.th.region.num, held := none,
      hint := o.hint, nums := nums }
  let s := if bad = [] then s
    else (s.pageFaults e s.cur.pc accs bad).modThread e.tid (fun th => { th with log := th.log ++ [entry] })
  if returns then
    .async s { op := op, vals := [], stale := none, known := false, regs := e.th.writes 0 i, region := 0 }
  else .done s []

/-- R441 steps 4 and 5 of an atomic, and the release of its qualifier. The release of a paired copy, whose earlier stores commit
before the atomic does, writes what other warps of the core have stored, and holds later accesses back until that commit (R175).
(DEDUCED, log entry 27.) -/
def State.atomAccess (s : State) (e : Env) (k : AtomOp) (i : Instr) (o : Ops) (accs : List Access) (all : DWord) : Res :=
  let (rel, acq, scope) := atomOrder o.extra
  if !(if rel then s.canRelease e scope else decide (e.th.log = [])) then .wait s .stalled
  else match s.reachLines e.blk.core .rw 0 (linesOf accs) with
    | (none, s) => .wait s .stalled
    | (some (lines, bad), s) =>
      match s.badTrap (lineBad accs (bad.filter (fun b => !s.routed b.2))) (allScalar o) all with
      | some t => .trap (s.walkerRecords e s.cur.pc bad) t
      | none =>
        if (match e.th.pair with | some p => p.full false (lines.length + bad.length) | none => false) then
          .wait s .full
        else
          let held := rel && e.uncommitted
          let t := if rel then s.release e scope else s
          let t := if held then t.phaseWaits e false (acq && decide (linesOf accs = [])) scope else t
          if linesOf accs = [] ∧ acq = true ∧ s.performed e = false then .wait s .stalled
          else if linesOf accs = [] then
            .done (if acq && !held then t.acquire e scope else t)
              (if bitOf o.xmod 0 then atomVals o.ty o.dst (zeroLanes accs) else [])
          else t.atomCommit e k i o accs lines bad

/-- R323, R324: an atomic. Made once for the warp it is not made when no lane passes `k0` and the guard (R320); the record is
checked whatever the lanes (R145). -/
def issueAtom (s : State) (k : AtomOp) (i : Instr) (o : Ops) : Host.Outcome State Fault Refusal :=
  issue s i o (fun e s =>
    let all := e.th.active o
    let els : List Elem := (e.actLanes o).map (fun l => { lane := l, elem := 0, x := e.word o.a l, y := none })
    if idle o all then s.atomAccess e k i o [] all
    else match s.locateAll (e.recAt (8 * o.brec)) true true (widthOf o.ty) els (allScalar o) all with
    | .error t => .trap s t
    | .ok accs => s.atomAccess e k i o accs all)

/-- R323: `atom.add`. -/
def execAtomAdd (o : Ops) (s : State) : Host.Outcome State Fault Refusal := issueAtom s .add (.atomAdd o) o
/-- R323: `atom.fadd`. -/
def execAtomFadd (o : Ops) (s : State) : Host.Outcome State Fault Refusal := issueAtom s .fadd (.atomFadd o) o
/-- R323: `atom.min`. -/
def execAtomMin (o : Ops) (s : State) : Host.Outcome State Fault Refusal := issueAtom s .min (.atomMin o) o
/-- R323: `atom.max`. -/
def execAtomMax (o : Ops) (s : State) : Host.Outcome State Fault Refusal := issueAtom s .max (.atomMax o) o
/-- R323: `atom.and`. -/
def execAtomAnd (o : Ops) (s : State) : Host.Outcome State Fault Refusal := issueAtom s .and (.atomAnd o) o
/-- R323: `atom.or`. -/
def execAtomOr (o : Ops) (s : State) : Host.Outcome State Fault Refusal := issueAtom s .or (.atomOr o) o
/-- R323: `atom.xor`. -/
def execAtomXor (o : Ops) (s : State) : Host.Outcome State Fault Refusal := issueAtom s .xor (.atomXor o) o
/-- R323: `atom.xchg`. -/
def execAtomXchg (o : Ops) (s : State) : Host.Outcome State Fault Refusal := issueAtom s .xchg (.atomXchg o) o
/-- R323: `atom.cas`. -/
def execAtomCas (o : Ops) (s : State) : Host.Outcome State Fault Refusal := issueAtom s .cas (.atomCas o) o

/-! ### Performance at the home slice (R176, R324, R452) -/

/-- R176: an earlier request of the thread on this line is not yet performed. -/
def State.earlierOn (s : State) (r : AtomReq) (line : Nat) : Bool :=
  (s.reqs.takeWhile (fun q => q.op ≠ r.op)).any (fun q => decide (q.tid = r.tid) &&
    q.lanes.any (fun l => match l.pa with | some pa => decide (lineOf pa = line) | none => false))

/-- R176, R324: the lanes of a request that may be performed next: the lowest of each line. -/
def State.atomReady (s : State) (r : AtomReq) : List (AtomLane × Nat) :=
  if r.gated then []
  else
    let known := r.lanes.filterMap (fun l => l.pa.map (fun pa => (l, pa)))
    known.filter (fun p =>
      !(known.any (fun q => decide (lineOf q.2 = lineOf p.2) && decide (q.1.lane < p.1.lane))) &&
      !s.lineOwned (lineOf p.1.va, p.2) && !s.earlierOn r (lineOf p.2))

/-- R452, R491: the DETAIL of the data error that an atomic meets at its home. -/
def State.atomBad (s : State) (t va pa : Nat) : Option Nat :=
  match s.thread t with
  | some th => s.homeBad th va pa
  | none => if s.poisoned pa then some (s.poisonDetail pa) else if s.linkDown pa then some 5 else none

/-- R176, R474: the cores that issue an atomic: its own, and that of the other copy of a paired warp. -/
def State.atomCores (s : State) (r : AtomReq) : List Nat :=
  r.core :: (s.reqs.filter (fun q => r.twin = some q.op)).map (·.core)

/-- R456, R468: the units of a home slice disagree `n` times before they agree, which MISMATCH counts. -/
def State.countRepeats (s : State) (pa n : Nat) : State :=
  s.modDie (homeDie pa) (fun d => { d with mismatch := (List.range n).foldl (fun w _ => bump w) d.mismatch })

/-- R176, R324: one lane performed at its home slice: the old value, or the DETAIL of a data error. R456: its two units
disagree `repeats` times before they agree, and MISMATCH counts that. -/
def State.atomHome (s : State) (r : AtomReq) (l : AtomLane) (pa repeats : Nat) : Except Nat Nat × State :=
  let s := ((s.atomCores r).foldl (fun (s : State) c => s.flushLine c pa) (s.touchL2 pa r.hint)).peerTurn pa
  match s.atomBad r.tid l.va pa with
  | some d => (.error d, s.modThread r.tid (fun th => th.met [lineOf l.va]))
  | none =>
    let w := widthOf r.ty
    let old := ofBytes (s.homeBytes pa w)
    let new := atomNew r.kind r.ty r.sat (.ofWord r.fpmode.toNat) old l.arg.toNat l.arg2.toNat
    let s := s.countRepeats pa repeats
    (.ok old, s.writeLine (lineOf pa) ((bytesOf w new).zipIdx.map (fun p => (pa % 64 + p.2, p.1))))

/-- R220, R474: the results of an operation of a thread have arrived. -/
def State.deliver (s : State) (t op : Nat) (vals : List RegVal) : State :=
  s.modThread t (fun th => { th with
    pend := th.pend.map (fun p => if p.op = op then { p with vals := vals, known := true } else p) })

/-- R177, R452: one thread sees an atomic complete: its acquire, its results, and the trap of its data errors.
(DEDUCED, log entry 26.) -/
def State.atomSeen (s : State) (t op : Nat) (r : AtomReq) : State :=
  match s.envOf t with
  | none => s
  | some e =>
    let s := s.modThread t (fun th => { th with log := th.log.filter (fun q => q.op ≠ op) })
    let s := match r.acq with | some scope => s.acquire e scope | none => s
    let s := match r.dest with
      | some d => s.deliver t op (atomVals r.ty d r.got)
      | none => s
    match r.bad with
    | [] => s
    | b :: _ =>
      let first := r.bad.foldl (fun x y => if y.1 < x.1 then y else x) b
      let mask := r.once.getD (maskOf (r.bad.map (·.1)))
      s.raise t { (State.trapOf { s with cur := { tid := t, pc := r.pc, words := r.words } } 0x18 first.2.1 mask) with
        addr := some first.2.2 }

/-- R394: whom the records about an atomic name: its thread, or, once a sprout has retired, a sprout of its bread. -/
def State.atomEnv (s : State) (r : AtomReq) : Option Env :=
  (s.envOf r.tid).orElse (fun _ => ((r.bread.bind s.bread).bind (fun b => s.envOf b.tid)).map (fun e =>
    { e with th := { e.th with role := .sprout (r.bread.getD 0) r.burst } }))

/-- R397: the record of an error response to a lane of an atomic. -/
def State.atomRefused (s : State) (r : AtomReq) (pa : Nat) : State :=
  match s.atomEnv r with | some e => s.refusalRecord e r.pc pa | none => s

/-- R417, R418, R452: an atomic of a sprout that has retired met data errors: the sprout's record, and its burst is a faulted one of
the bread, in both copies of a paired warp. -/
def State.lateFault (s : State) (e : Env) (r : AtomReq) (copies : List AtomReq) : State :=
  match r.bad with
  | [] => s
  | b :: _ =>
    let first := r.bad.foldl (fun x y => if y.1 < x.1 then y else x) b
    let s := s.threadRecord e { code := 0x18, source := 1, addr := some first.2.2, lane := first.1, pc := r.pc }
    copies.foldl (fun (s : State) q => match q.bread with
      | some id => s.modBread id (fun br => { br with failed := br.failed.orElse (fun _ => some (q.burst, 0x18)) })
      | none => s) s

/-- An atomic whose last lane has been performed is complete, for both copies of a paired warp (R474). -/
def State.atomComplete (s : State) (r : AtomReq) : State :=
  let twin := match s.thread r.tid with
    | some th => (match th.pair, r.twin with | some p, some op => some (p.peer, op) | _, _ => none)
    | none => none
  let copies := s.reqs.filter (fun q => q.op = r.op ∨ r.twin = some q.op)
  let breads := copies.filterMap (·.bread)
  let s := match s.thread r.tid, s.atomEnv r with
    | none, some e => s.lateFault e r copies
    | _, _ => s
  let s := { s with reqs := s.reqs.filter (fun q => q.op ≠ r.op ∧ r.twin ≠ some q.op) }
  let s := s.atomSeen r.tid r.op r
  let s := match twin with
    | some (t, op) => s.atomSeen t op r
    | none => s
  breads.foldl (fun (s : State) b => s.finishBread b) s

/-- R171, R177: the acquire of a request waits for the thread's earlier atomics. -/
def State.acqWaits (s : State) (r : AtomReq) : Bool :=
  r.acq.isSome && (s.reqs.takeWhile (fun q => q.op ≠ r.op)).any (fun q => q.tid = r.tid)

/-- R177: every lane of a request has been performed, and its acquire, which waited, can be. The request of a trailing copy
completes with that of the leading one (R474). -/
def State.acqReady (s : State) (r : AtomReq) : Bool :=
  decide (r.lanes = []) && !r.gated && !(s.reqs.any (fun q => q.twin = some r.op)) && !s.acqWaits r

end Sys2Proof.Machine
end

