-- ==== Sys2Proof/Machine/Phase.lean ====
section
/-! DEFINITION. Phases (R166, R169, R171, R175, R326). -/

namespace Sys2Proof.Machine

/-- R169, R171: what a phase does once every earlier access of its thread has been performed. -/
def State.phaseAct (s : State) (e : Env) (rel acq : Bool) (scope : PhaseScope) : State :=
  let s := if rel then s.release e scope else s
  if acq then s.acquire e scope else s

/-- R175: the phase of a paired warp completes once its region has committed. (DEDUCED, log entry 27.) -/
def State.settlePhase (s : State) (t : Nat) : State :=
  match s.envOf t with
  | none => s
  | some e => match e.th.phase, e.th.pair with
    | some (rel, acq, scope, region), some p =>
      if p.checks.all (fun c => decide (region < c.region.num)) && !(rel && scope.wide && s.dirtyOwned e.blk.core) then
        (s.phaseAct e rel acq scope).modThread t (fun th => { th with phase := none })
      else s
    | _, _ => s

/-- R326: a phase. (DEDUCED, log entry 27.) -/
def issuePhase (s : State) (i : Instr) (o : Ops) (rel acq : Bool) : Host.Outcome State Fault Refusal :=
  issue s i o (fun e s =>
    let scope := PhaseScope.ofCode o.hint
    if !(if rel then s.canRelease e scope else s.performed e) then .wait s .stalled
    else if e.uncommitted then .done (s.phaseWaits e rel acq scope) []
    else .done (s.phaseAct e rel acq scope) [])

/-- R169: `phase.rel`. -/
def execPhaseRel (o : Ops) (s : State) : Host.Outcome State Fault Refusal := issuePhase s (.phaseRel o) o true false
/-- R171: `phase.acq`. -/
def execPhaseAcq (o : Ops) (s : State) : Host.Outcome State Fault Refusal := issuePhase s (.phaseAcq o) o false true
/-- R171: `phase.ar`. -/
def execPhaseAr (o : Ops) (s : State) : Host.Outcome State Fault Refusal := issuePhase s (.phaseAr o) o true true

end Sys2Proof.Machine
end

