-- ==== Sys2Proof/Machine/Control.lean ====
section
/-! DEFINITION. Control flow: branches, calls and the return-address stack with its spill area (R108, R269 to R273,
R409), the end of a thread, regions, `sync` and `wait` (R274 to R277). -/

namespace Sys2Proof.Machine

/-! ### Code addresses (R269) -/

/-- R269: a code address that is valid. -/
def codeOk (a : Int) : Bool := decide (0 ≤ a) && decide (a < 2 ^ 52) && decide (a % 4 = 0)

/-- The target of a relative transfer. -/
def State.target (s : State) (o : Ops) : Int := (s.cur.pc : Int) + o.imm.toInt

/-- R408: the trap of a check that is made at execution. -/
def State.execTrap (s : State) (e : Env) (o : Ops) : Res := .trap s (s.trapOf 0x02 11 (e.th.active o))

/-- R270: the condition of a branch. -/
def Env.branches (e : Env) (c : BraCond) (o : Ops) : Bool :=
  let g := e.th.active o
  let k := match o.a with | .k n => e.th.scalarMask n | _ => 0
  let x := e.th.scalarSideRaw .n32 0 o.a
  match c with
  | .always => true
  | .any => decide (k &&& g ≠ 0)
  | .all => decide (g &&& ~~~k = 0)
  | .none => decide (k &&& g = 0)
  | .nz => decide (x ≠ 0)
  | .z => decide (x = 0)

/-- R270: `bra`. -/
def execBra (c : BraCond) (o : Ops) (s : State) : Host.Outcome State Fault Refusal :=
  issue s (.bra c o) o (fun e s =>
    if !codeOk (s.target o) then s.execTrap e o
    else if e.branches c o then .jump s [] (s.target o).toNat
    else .done s [])

/-- R271: `loop`. -/
def execLoop (o : Ops) (s : State) : Host.Outcome State Fault Refusal :=
  issue s (.loop o) o (fun e s =>
    if !codeOk (s.target o) then s.execTrap e o
    else
      let n := wrapTo 32 ((e.th.regs.raw 0 .n32 0 o.dst : Int) - 1)
      let vals := destVals 0 .n32 o.dst 0 n
      if n = 0 then .done s vals else .jump s vals (s.target o).toNat)

/-! ### The return-address stack (R108, R409) -/

/-- R108: the address of an entry of the warp's spill area. -/
def Env.spillAt (e : Env) (n : Nat) : Nat :=
  e.la.recd.spill + (e.blk.id * e.la.obj.warps + e.th.warpId) * e.la.recd.spillStride + 8 * n

/-- R409: the page fault of a spill access: one record, and the warp stalls until the host answers. -/
def State.spillStall (s : State) (e : Env) (va : Nat) (f : TFault) : Res :=
  let s := s.modThread e.tid (fun th => { th with
    spillWait := some (va, f.cause), spillAgain := false, spillEpoch := if th.spillAgain then th.spillEpoch else s.xlat.qepoch })
  .wait ((s.threadRecord e { code := 0x0200, source := 0, addr := some va, pc := s.cur.pc }).signal 68) .stalled

/-- R409, R415, R416: a spill access fails: it traps, or, where it replays after a page fault, the failure is final. -/
def State.spillFails (s : State) (e : Env) (t : Trap) : Res :=
  if e.th.spillAgain then .stop (s.halt e.tid { code := t.cause, source := 0, addr := t.addr, lane := laneOf t.mask.toNat, pc := s.cur.pc })
  else .trap s t

/-- R108, R409: an access of eight bytes of the spill area, the warp's own; `data` is empty in a read. The answer is the
value read, or what stops it. -/
def State.spill (s : State) (e : Env) (va : Nat) (data : List Byte) : Except Res Nat × State :=
  let mask := e.th.regs.mask 0 &&& laneMask e.th.width
  let write := decide (data ≠ [])
  let acc : Access := { lane := 0, elem := 0, va := some va, w := 8, data := data, bit := 0 }
  match s.badTrap (addressBad [acc]) true mask with
  | some t => (.error (.trap s t), s)
  | none => match s.reachLines e.blk.core (if write then .w else .r) 0 [lineOf va] with
    | (some (lines, []), s) =>
      let full := match e.th.pair with | some p => write && p.full false 1 | none => false
      if s.linesWait e.blk.core lines || lines.any (fun l => s.atomAhead e.tid l.2) || e.th.holdsLine [lineOf va] then
        (.error (.wait s .stalled), s)
      else if full then (.error (.wait s .full), s)
      else match s.badTrap (if write then [] else s.dataBad e.th e.blk.core lines [acc]) true mask with
        | some t =>
          let s := (s.refuse e s.cur.pc lines [acc]).modThread e.tid (fun th => th.met [lineOf va])
          (.error (s.spillFails e t), s)
        | none =>
          if write then
            let (n, s) := s.reserve e.tid 1
            (.ok 0, s.storeAll e.tid e.th.region.num e.blk.core 0 [(lineOf va, n)] lines [acc])
          else
            let (got, s) := s.loadAll e.tid e.blk.core 0 lines [acc] []
            (.ok (acc.value got), s)
    | (some (_, (_, f) :: _), s) =>
      if s.routed f then (.error (s.spillStall e va f), s)
      else
        let s := s.walkerRecords e s.cur.pc [(va, f)]
        (.error (s.spillFails e { s.trapOf f.cause f.detail mask with addr := some va }), s)
    | (none, s) => (.error (.wait s .stalled), s)

/-- R409: the trap of a stack fault. -/
def State.stackTrap (s : State) (e : Env) (cause : Nat) : Res :=
  .trap s (s.trapOf cause (min e.th.regs.depth 0x3FF) (e.th.regs.mask 0 &&& laneMask e.th.width))

/-- R108: the stack with an entry pushed on it. -/
def Regs.pushed (r : Regs) (a : Nat) : Regs :=
  { r with ras := (BitVec.ofNat 64 (a % 2 ^ 52) :: r.ras).take 16, depth := r.depth + 1 }

/-- R108, R272, R409: a push of a return address, and the transfer. -/
def State.push (s : State) (e : Env) (a : Nat) (vals : List RegVal) (pc : Nat) : Res :=
  let d := e.th.regs.depth
  let go (s : State) : Res := .jump (s.modThread e.tid (fun th => { th with regs := th.regs.pushed a, spillWait := none, spillAgain := false })) vals pc
  if 16 + e.la.recd.spillStride / 8 ≤ d then s.stackTrap e 0x0B
  else if d < 16 then go s
  else match s.spill e (e.spillAt (d - 16)) (bytesOf 8 (e.th.regs.ras.getD 15 0).toNat) with
    | (.error r, _) => r
    | (.ok _, s) => go s

/-- R272: `call`. -/
def execCall (o : Ops) (s : State) : Host.Outcome State Fault Refusal :=
  issue s (.call o) o (fun e s =>
    if !codeOk (s.target o) then s.execTrap e o
    else s.push e (s.cur.pc + 12) [] (s.target o).toNat)

/-- R273: `call.ind`. -/
def execCallInd (o : Ops) (s : State) : Host.Outcome State Fault Refusal :=
  issue s (.callInd o) o (fun e s =>
    match o.dst, o.b with
    | .k ks, .k kp =>
      let old := e.th.regs.mask kp
      let lanes := e.th.lanes.filter (fun l => (old &&& e.th.active o).getLsbD l)
      let tgt (l : Nat) : Nat := e.th.regs.raw 0 .n64 l o.a
      match lanes with
      | [] => .done s [.k ks 0]
      | l :: rest =>
        let t := rest.foldl (fun t l => Nat.min t (tgt l)) (tgt l)
        if !codeOk t then s.execTrap e o
        else
          let group := maskOf (lanes.filter (fun l => tgt l = t))
          s.push e s.cur.pc [.k ks group, .k kp (old &&& ~~~group)] t
    | _, _ => .done s [])

/-- R108: the stack without its newest entry; `back` is the entry read back from the spill area. -/
def Regs.popped (r : Regs) (back : List DWord) : Regs :=
  { r with ras := r.ras.drop 1 ++ back, depth := r.depth - 1 }

/-- R272: `ret`. -/
def execRet (o : Ops) (s : State) : Host.Outcome State Fault Refusal :=
  issue s (.ret o) o (fun e s =>
    let d := e.th.regs.depth
    let top := (e.th.regs.ras.getD 0 0).toNat
    let go (s : State) (back : List DWord) : Res :=
      .jump (s.modThread e.tid (fun th => { th with regs := th.regs.popped back, spillWait := none, spillAgain := false })) [] top
    if d = 0 then s.stackTrap e 0x0C
    else if !codeOk top then s.execTrap e o
    else if d ≤ 16 then go s []
    else match s.spill e (e.spillAt (d - 17)) [] with
      | (.error r, _) => r
      | (.ok x, s) => go s [BitVec.ofNat 64 x])

/-! ### The end of a thread (R39, R72, R274, R475) -/

/-- R39, R53, R481: a warp has ended. -/
def State.endWarp (s : State) (t : Nat) : State :=
  match s.thread t with
  | none => s
  | some th => (s.setThread t { th with ended := true, wait := .ready, clause := none }).settle th.block

/-- R181, R274: a sprout may end: its accesses have been performed. (DEDUCED, log entry 18.) -/
def State.sproutDone (s : State) (e : Env) : Bool := s.performed e

/-- R471, R473, R481: the end of a thread has to wait: of a sprout for its accesses, of a paired copy, which closes a region
there, as a boundary does. -/
def State.endWaits (s : State) (e : Env) : Bool :=
  if e.th.isWarp then (match e.th.pair with | some p => decide (e.th.pend ≠ []) || p.full true 0 | none => false)
  else !s.sproutDone e

/-- R481: a paired copy reaches `exit`: the signature of that boundary, after which nothing is live-in.
(DESIGN CHOICE, log entry 23.) -/
def State.reachExit (s : State) (e : Env) (p : PairState) : State :=
  let none_ : Region := { e.th.region with liveV := 0, liveS := 0, liveK := 0, liveM := 0 }
  let count := p.nextEntry - ((p.checks.getLast?).map (·.first)).getD 0
  let sig := boundarySig s.cur.pc count e.th.regs none_ e.storageBase
  s.setThread e.tid { e.th with pair := some { p with exit := some sig }, wait := .ready, clause := none }

/-- The end of the issuing thread, at `exit` or when its `k0` is empty. -/
def State.endThread (s : State) (e : Env) : State :=
  if !e.th.isWarp then s.retireSprout e.tid none
  else match e.th.pair with
    | none => s.endWarp e.tid
    | some p => s.reachExit e p

/-- R274: `exit`. -/
def execExit (o : Ops) (s : State) : Host.Outcome State Fault Refusal :=
  issue s (.exit o) o (fun e s => if s.endWaits e then .wait s .stalled else .stop (s.endThread e))

/-- R274: `retire`. -/
def execRetire (o : Ops) (s : State) : Host.Outcome State Fault Refusal :=
  issue s (.retire o) o (fun e s =>
    let left := e.th.regs.mask 0 &&& ~~~(e.th.active o) &&& laneMask e.th.width
    if left ≠ 0 then .done s [.k 0 left]
    else if s.endWaits e then .wait s .stalled
    else
      let e := { e with th := { e.th with regs := e.th.regs.setMask 0 0 } }
      .stop ((s.setThread e.tid e.th).endThread e))

/-! ### Regions, `sync` and `wait` -/

/-- R275: `region`. -/
def execRegion (o : Ops) (s : State) : Host.Outcome State Fault Refusal :=
  issue s (.region o) o (fun e s =>
    match e.la.obj.regions[o.imm.toNat]? with
    | none => s.execTrap e o
    | some m => .done (s.boundary e.tid s.cur.pc s.cur.pc (some m)) [])

/-- The status that a `sync` writes. -/
def statusVals (d : Opd) (x : Nat) : List RegVal := destVals 0 .n32 d 0 x

/-- R276, R421: `sync`. -/
def execSync (o : Ops) (s : State) : Host.Outcome State Fault Refusal :=
  if o.scope.code < 2 then
    issue s (.sync o) o (fun e s =>
      if e.th.pend ≠ [] ∨ e.th.flags ≠ [] then .wait s .stalled else .done s (statusVals o.dst 0))
  else
    issueSet s (.sync o) o (fun c s =>
      let blk := c.leader.th.block
      let status := if c.leader.blk.abandoned.contains c.set then 1 else 0
      .done (s.modBlock blk (fun b => { b with abandoned := b.abandoned.filter (· ≠ c.set) }))
        (c.members.map (fun m => (m.2.tid, statusVals o.dst status))))

/-- R277, R418, R436: `wait`. -/
def execWait (o : Ops) (s : State) : Host.Outcome State Fault Refusal :=
  issue s (.wait o) o (fun e s =>
    if e.th.flags.any (fun p => decide (p.1 < 12) && bitOf o.imm.toNat p.1) then .wait s .stalled
    else .done (s.modThread e.tid (·.consume o.imm.toNat)) [])

end Sys2Proof.Machine
end

