-- ==== Sys2Proof/Machine/Bulk.lean ====
section
/-! DEFINITION. Bulk commands: `bcopy`, `bput`, `bseal`, `bwait`, `bread` and `bjoin` at issue, and the completion of a
command (R67 to R72, R179, R180, R330 to R337, R435 to R437, R445, R475). -/

namespace Sys2Proof.Machine

/-! ### The bytes of a command (R332 to R334) -/

/-- A copy whose operands are captured. -/
structure CopyOp where
  /-- the record whose elements are copied, and its first index; none: from scratch -/
  src    : Option (BufRec × Nat)
  /-- the record written, and its first index; none: into scratch -/
  dst    : Option (BufRec × Nat)
  /-- the scratch offset and the swizzle mode -/
  off    : Nat
  mode   : Nat
  esz    : Nat
  n      : Nat
  /-- receivers and the bytes between them (R333) -/
  count  : Nat
  stride : Nat

/-- Where an element is read, from its first byte: none reads zero; an error is the DETAIL of a bounds fault. -/
def CopyOp.from (c : CopyOp) (e : Nat) : Except Nat (Option Place) :=
  match c.src with
  | none => .ok (some (.scratch (swizzle (c.off + e * c.esz) c.mode)))
  | some (r, y) => match r.locate false (y + e) none with
    | .error d => .error d
    | .ok va => .ok (va.map .global)

/-- Where an element is written for a receiver: none drops it. -/
def CopyOp.into (c : CopyOp) (e r : Nat) : Except Nat (Option Place) :=
  match c.dst with
  | none => .ok (some (.scratch (swizzle (c.off + e * c.esz + r * c.stride) c.mode)))
  | some (d, x) => match d.locate true (x + e) none with
    | .error d => .error d
    | .ok va => .ok (va.map (fun va => .global (va + r * c.stride)))

/-- The place `k` bytes on. -/
def Place.plus (p : Place) (k : Nat) : Place :=
  match p with | .global va => .global (va + k) | .scratch o => .scratch (o + k) | .zero => .zero

/-- The elements of a copy, a receiver after the other. -/
def CopyOp.pairs (c : CopyOp) : List (Nat × Nat) :=
  (List.range c.count).flatMap (fun r => (List.range c.n).map (fun e => (e, r)))

/-- R332, R333: the bytes of a copy in the order in which the last write of a place stands. -/
def CopyOp.moves (c : CopyOp) : List ByteMove :=
  c.pairs.flatMap (fun p => match c.into p.1 p.2, c.from p.1 with
    | .ok (some d), .ok src => (List.range c.esz).map (fun k =>
        { dst := d.plus k, src := (src.getD .zero).plus k, old := none : ByteMove })
    | _, _ => [])

/-- R332: of the writes of one place the last one stands. -/
def lastMoves : List ByteMove → List ByteMove
  | [] => []
  | m :: r => if r.any (fun x => x.dst = m.dst) then lastMoves r else m :: lastMoves r

/-- The virtual line of a place. -/
def Place.line : Place → Option Nat | .global va => some (lineOf va) | _ => none
/-- The scratch row of a place. -/
def Place.row : Place → Option Nat | .scratch o => some (o / 64) | _ => none

/-- R435: the cause and DETAIL of a copy that fails at issue, after its records have been checked.
(DEDUCED, log entry 29.) -/
def CopyOp.fault (c : CopyOp) (o : CodeObj) (b : Block) : Option (Nat × Nat) :=
  let bits (x : Except Nat (Option Place)) : Nat := match x with | .error d => d | .ok _ => 0
  let oob := c.pairs.foldl (fun d p => d ||| bits (c.from p.1) ||| bits (c.into p.1 p.2)) 0
  let beyond (x : Except Nat (Option Place)) : Option Nat :=
    match x with | .ok (some (.scratch a)) => scratchBad o b (a + c.esz) | _ => none
  if oob ≠ 0 then some (0x10, oob)
  else match c.pairs.findSome? (fun p => (beyond (c.from p.1)).orElse (fun _ => beyond (c.into p.1 p.2))) with
    | some d => some (0x13, d)
    | none => if (c.src.isNone || c.dst.isNone) && decide (c.off % c.esz ≠ 0) then some (0x12, 4) else none

/-! ### Translation of a command's lines (R179, R436, R447) -/

/-- The first byte that a command reads, or writes, in a virtual line. -/
def firstByte (moves : List ByteMove) (write : Bool) (line : Nat) : Nat :=
  (moves.map (fun m => if write then m.dst else m.src)).foldl (fun a p => match p with
    | .global va => if lineOf va = line then min va a else a | _ => a) (line + 63)

/-- R447: the page faults of an engine: one record for each 64 KiB page, and the signal. -/
def State.engineFaults (s : State) (e : Env) (pc : Nat) (vas : List Nat) : State :=
  let pages := (vas.map (· / 65536)).eraseDups
  let one (s : State) (p : Nat) : State :=
    let va := (vas.filter (fun a => a / 65536 = p)).foldl Nat.min (p * 65536 + 65535)
    s.recordOf (dieOf e.blk.core) e.blk.launch
      { e.ident { code := 0x0200, source := 2, addr := some va, pc := pc } with source := 2 }
  if pages = [] then s else (pages.foldl one s).signal 68

/-- The value of a byte that the engine reads now (R180, R469). -/
def State.placeByte (s : State) (t core blk : Nat) (map : List (Nat × Nat)) (p : Place) : Byte :=
  match p with
  | .zero => 0
  | .scratch off => match s.block blk with | some b => NMap.get 0 b.scratch off | none => 0
  | .global va => match lineAt map va with
    | none => 0
    | some l =>
      let pa := l + va % 64
      ((s.thread t).bind (fun th => th.pending pa)).getD (s.seenByte core pa)

/-- R179: a command writes this place, for another of the block `blk` that has these lines translated. A line that waits on the
host is told by its virtual address. -/
def BulkCmd.writes (q : BulkCmd) (blk : Nat) (map : List (Nat × Nat)) (p : Place) : Bool :=
  match p with
  | .zero => false
  | .scratch off => decide (q.block = blk) && q.rows.contains (off / 64)
  | .global va => q.moves.any (fun m => m.dst.line = some (lineOf va)) ||
      (match lineAt map va with | some l => q.lines.contains (l / 64) | none => false)

/-- The commands that issued before one. -/
def State.before (s : State) (op : Nat) : List BulkCmd := s.cmds.takeWhile (fun q => q.op ≠ op)

/-- R475: a command of a copy of the warp that issued another, which writes only when its region commits. -/
def State.ownGated (s : State) (c q : BulkCmd) : Bool :=
  q.gated && (decide (q.tid = c.tid) || decide (((s.thread c.tid).bind (·.pair)).map (·.peer) = some q.tid))

/-- R180: the value of a source byte of a command at its issue; none while its line has not been translated or an earlier
command has yet to write it (R179). A copy of a paired warp, whose commands write only when their region commits, takes what
its own earlier command will write. (DEDUCED, log entry 27.) -/
def State.captured (s : State) (c : BulkCmd) (p : Place) : Option Byte :=
  let known := match p with | .global va => (lineAt c.map va).isSome | _ => true
  if (s.before c.op).any (fun q => !q.dry && !s.ownGated c q && q.writes c.block c.map p) then none
  else match ((s.before c.op).filter (fun q => q.gated && decide (q.tid = c.tid))).reverse.findSome?
      (fun q => (q.moves.find? (fun m => m.dst = p)).map (·.old)) with
    | some v => v
    | none => if known then some (s.placeByte c.tid c.core c.block c.map p) else none

/-- The source bytes of a command whose values at issue can be taken now. -/
def State.capture (s : State) (c : BulkCmd) : BulkCmd :=
  { c with moves := c.moves.map (fun m => if m.old.isSome then m else { m with old := s.captured c m.src }) }

/-- R436: the lines of a command that its engine can reach: they are owned, or read, from now on. Lines that fail wait on the
host, or, when a failure is final, stop the command, which then waits on no page. None: a walk waits.
(DEDUCED, log entry 28.) -/
def State.bulkReach (s : State) (e : Env) (c : BulkCmd) (since : Nat) (rd wr : List Nat) : Option BulkCmd × State :=
  match s.reachLines c.core .r since rd with
  | (none, s) => (none, s)
  | (some (ok1, bad1), s) => match s.reachLines c.core .w since wr with
    | (none, s) => (none, s)
    | (some (ok2, bad2), s) =>
      let bad := bad1.map (fun b => (b.1, false, b.2)) ++ bad2.map (fun b => (b.1, true, b.2))
      let waits := bad.filter (fun b => s.routed b.2.2)
      let final := c.fail.orElse (fun _ => (bad.filter (fun b => !s.routed b.2.2)).head?.map
        (fun b => (b.2.2.cause, b.2.2.detail, firstByte c.moves b.2.1 b.1)))
      let waits := if final.isSome then [] else waits
      let map : List (Nat × Nat) := c.map ++ ok1 ++ ok2
      let own : List Nat := ok2.map (fun (p : Nat × Nat) => p.2 / 64)
      let s := ok1.foldl (fun (s : State) (p : Nat × Nat) => s.peerTurn p.2) s
      (some (s.capture { c with
          map := map, lines := (c.lines ++ own).eraseDups,
          waits := if final.isSome then [] else
            c.waits ++ waits.flatMap (fun b => s.waiting b.2.1 (firstByte c.moves b.2.1) [(b.1, b.2.2)]),
          fail := final }),
        (s.walkerRecords e c.pc (bad.map (fun b => (b.1, b.2.2)))).engineFaults e c.pc (waits.map (fun b => firstByte c.moves b.2.1 b.1)))

/-- R470, R475: the signature of a command: the hash of the data it writes. (DESIGN CHOICE, log entry 23.) -/
def BulkCmd.sig (c : BulkCmd) : Nat × DWord :=
  let line := (c.lines.headD 0) * 64
  (line, sha3Sig (bytesOf 8 line ++ sha3 (c.moves.map (fun m => m.old.getD 0)) ++ List.replicate 32 0 ++ bytesOf 8 (2 ^ 64 - 1)))

/-- R470: in a paired launch, the entry of a command whose lines have been translated and whose data are known. -/
def State.bulkEntry (s : State) (c : BulkCmd) : State :=
  if c.waits ≠ [] ∨ (c.fail.isNone ∧ c.moves.any (fun m => m.old.isNone)) then s
  else let (pa, sig) := c.sig; s.addEntries c.tid c.region [(c.num, pa, sig, .bulk c.op)]

/-! ### Issue of copies -/

/-- R330: commands of a core that hold an entry of its store queue. -/
def State.storeQueue (s : State) (core : Nat) : Nat := (s.cmds.filter (fun c => c.core = core)).length

/-- A word of a bulk operand. -/
def Env.bulkWord (e : Env) (d : Opd) : Nat := e.th.regs.raw 0 .n32 0 d

/-- R332 to R334: the records of a copy, and the copy. -/
def Env.copyOp (e : Env) (o : Ops) (put mc : Bool) : CopyOp :=
  let r := e.recAt (8 * o.brec)
  let toScratch := !put && bitOf o.xmod 1
  let d := match o.dst with | .s n => e.recAt n | _ => r
  { src := if put then none else some (r, e.bulkWord o.a),
    dst := if put then some (r, e.bulkWord o.a) else if toScratch then none else some (d, e.bulkWord o.b),
    off := if put || toScratch then e.bulkWord o.dst else 0, mode := o.extra % 4, esz := r.esz, n := o.imm.toNat,
    count := if mc then bitsOf r.word7 31 26 + 1 else 1, stride := if mc then bitsOf r.word7 25 0 * 64 else 0 }

/-- R145, R332, R441: the checks of the records at capture; the lower cause decides. -/
def CopyOp.capture (c : CopyOp) : Option (Nat × Nat) :=
  let s := c.src.bind (fun r => r.1.check false true)
  let d := c.dst.bind (fun r => r.1.check true (decide (r.1.esz = c.esz)))
  match s, d with
  | some x, some y => if y.1 < x.1 then some y else some x
  | some x, none => some x
  | none, y => y

/-- R445: nothing is to be copied. (DEDUCED, log entry 29.) -/
def CopyOp.empty (c : CopyOp) : Bool :=
  decide (c.n = 0) || (match c.src with | some r => r.1.empty | none => false) ||
    (match c.dst with | some r => r.1.empty | none => false)

/-- R106: a flag that is busy. -/
def Thread.busy (th : Thread) (f : Nat) : Bool := th.flags.any (fun p => decide (p.1 = f))

/-- R176: an atomic of the thread on one of these virtual lines is yet to be performed. -/
def State.atomsOn (s : State) (t : Nat) (lines : List Nat) : Bool :=
  s.reqs.any (fun r => decide (r.tid = t) && !r.gated && r.lanes.any (fun l => lines.contains (lineOf l.va)))

/-- R330 to R334, R435: a copy issues. (DEDUCED, log entry 25; DEDUCED, log entry 27.) -/
def issueCopy (s : State) (i : Instr) (o : Ops) (put mc : Bool) : Host.Outcome State Fault Refusal :=
  issue s i o (fun e s =>
    let c := e.copyOp o put mc
    let k0 := e.th.active o
    let full := match e.th.pair with | some p => p.full false 1 | none => false
    if decide (e.th.log ≠ []) || e.th.busy o.flag || decide (16 ≤ s.storeQueue e.blk.core) then .wait s .stalled
    else if full then .wait s .full
    else match c.capture with
      | some (cause, d) => .trap s (s.trapOf cause d k0)
      | none =>
        if c.empty then .done s []
        else match c.fault e.la.obj e.blk with
          | some (cause, d) => .trap s (s.trapOf cause d k0)
          | none =>
            let moves := lastMoves c.moves
            let far := moves.findSome? (fun m => [m.src, m.dst].findSome? (fun p => match p with
              | .global va => if 2 ^ 52 ≤ va then some va else none | _ => none))
            let near (l : List Nat) : List Nat := l.eraseDups.filter (· < 2 ^ 52)
            let rd := near (moves.filterMap (fun m => m.src.line))
            let wr := near (moves.filterMap (fun m => m.dst.line))
            let s0 := s
            let (op, s) := s.fresh
            let paired := e.th.pair.isSome && c.dst.isSome
            let leading := match e.th.pair with | some p => p.leading | none => true
            let (num, s) := s.reserve e.tid 1
            let cmd : BulkCmd :=
              { tid := e.tid, block := e.th.block, core := e.blk.core, op := op, pc := s.cur.pc,
                flag := if o.flag < 12 then some o.flag else none,
                moves := moves, map := [], lines := [],
                rows := (moves.filterMap (fun m => m.dst.row)).eraseDups, waits := [],
                fail := far.map (fun va => (0x14, 1, va)), epoch := s.xlat.qepoch
                region := e.th.region.num, sealing := none, num := num, gated := paired, dry := paired && !leading, once := mc, hint := o.hint }
            if s0.atomsOn e.tid (rd ++ wr) then .wait s0 .stalled
            else match s.bulkReach e cmd 0 rd wr with
            | (none, _) => .wait s0 .stalled
            | (some cmd, s) =>
              let s := { s with cmds := s.cmds ++ [cmd] }
              let s := s.modThread e.tid (fun th =>
                if o.flag < 12 then { th with flags := th.flags ++ [(o.flag, op)] } else { th with batch := th.batch ++ [op] })
              .done (s.bulkEntry cmd) [])

/-- R332: `bcopy`. -/
def execBcopy (o : Ops) (s : State) : Host.Outcome State Fault Refusal := issueCopy s (.bcopy o) o false false
/-- R333: `bcopy.mc`. -/
def execBcopyMc (o : Ops) (s : State) : Host.Outcome State Fault Refusal := issueCopy s (.bcopyMc o) o false true
/-- R334: `bput`. -/
def execBput (o : Ops) (s : State) : Host.Outcome State Fault Refusal := issueCopy s (.bput o) o true false

/-! ### Completion of a copy (R331, R436) -/

/-- R331, R335, R436: what a command leaves behind its flag, or for its open batch. -/
def Thread.bulkEnd (th : Thread) (c : BulkCmd) (fault : Option (Nat × Nat × Nat)) : Thread :=
  let flag := match c.flag with | some f => some f | none => if th.batch.contains c.op then some 15 else none
  match flag with
  | none => th
  | some f =>
    let faults := match fault with
      | some (cause, d, va) => [{ flag := f, cause := cause, detail := d, word2 := BitVec.ofNat 32 va,
                                  word3 := BitVec.ofNat 32 (va / 2 ^ 32 % 2 ^ 20), region := c.region, sealing := c.sealing : FlagFault }]
      | none => []
    { th with flags := th.flags.filter (·.2 ≠ c.op), batch := th.batch.filter (· ≠ c.op),
              faults := th.faults ++ faults, dests := th.dests ++ c.lines.map (fun l => ⟨f, l * 64, c.region, c.sealing⟩) }

/-- R179, R332: an earlier command has yet to write a line or row that this one reads or writes. -/
def State.bulkBehind (s : State) (c : BulkCmd) : Bool :=
  (s.before c.op).any (fun q => !q.dry && c.moves.any (fun m =>
    q.writes c.block c.map m.src || q.writes c.block c.map m.dst))

/-- A command whose engine can now finish. -/
def State.bulkReady (s : State) (c : BulkCmd) : Bool := decide (c.waits = []) && !c.gated && !s.bulkBehind c

/-- R452, R490, R491: the DETAIL of the error response to an engine's read of a byte at its home; none for a byte that the
thread or its core holds. -/
def State.bulkRefused (s : State) (c : BulkCmd) (va pa : Nat) : Option Nat :=
  match s.thread c.tid with
  | some th => s.refusedRead th c.core va pa 1
  | none => none

/-- R436, R452, R491: the data error that the engine's reads meet, and the lines that it keeps from being written. -/
def State.bulkBad (s : State) (c : BulkCmd) (m : ByteMove) : Option (Nat × Nat × Nat) :=
  match m.src with
  | .global va => match lineAt c.map va with
    | none => some (0x14, 1, va)
    | some l =>
      ((s.thread c.tid).bind (fun th => s.readBad th c.core va (l + va % 64) 1)).map (fun d => (0x18, d, va))
  | .scratch off => if (s.block c.block).any (fun b => b.badRows.contains (off / 64)) then some (0x18, 3, off) else none
  | .zero => none

/-- R332: the values that a command writes: each byte of its source as it was at issue or as it is now, where now may
include what the command has already written. A multicast reads each source byte once (R333). -/
def State.bulkValues (s : State) (c : BulkCmd) : List ByteMove → List (ByteMove × Byte) → List (ByteMove × Byte) × State
  | [], acc => (acc, s)
  | m :: r, acc =>
    match acc.find? (fun p => c.once && decide (p.1.src = m.src)) with
    | some p => s.bulkValues c r ((m, p.2) :: acc)
    | none =>
      let now := ((acc.find? (fun p => p.1.dst = m.src)).map (·.2)).getD (s.placeByte c.tid c.core c.block c.map m.src)
      let old := m.old.getD now
      let fixed := decide (now = old) || ((s.thread c.tid).bind (·.pair)).isSome
      let (k, s) := s.draw (if fixed then 1 else 2)
      s.bulkValues c r ((m, if k = 1 then now else old) :: acc)

/-- R179, R155: the engine writes bytes of a line at its home; the issuing core's older copies of them go (R180).
(DEDUCED, log entry 30.) -/
def State.engineLine (s : State) (c : BulkCmd) (vline pline : Nat) (vals : List (Place × Byte)) : State :=
  let bytes := vals.foldl (fun m p => match p.1 with
    | .global va => if lineOf va = vline then NMap.put m (va % 64) p.2 else m | _ => m) ([] : NMap Byte)
  ((s.touchL2 pline c.hint).dropBytes c.core pline (bytes.map (·.1))).writeBack c.core pline vline bytes false

/-- The engine writes scratch bytes. -/
def State.engineRows (s : State) (c : BulkCmd) (rows : List Nat) (vals : List (Place × Byte)) : State :=
  s.modBlock c.block (fun b => Block.cleanse { b with scratch := vals.foldl (fun m p => match p.1 with
    | .scratch o => if rows.contains (o / 64) then NMap.put m o p.2 else m | _ => m) b.scratch }
    (vals.filterMap (fun p => match p.1 with | .scratch o => if rows.contains (o / 64) then some o else none | _ => none)))

/-- R436: of a command that fails, each line or row has been written before or not. (DESIGN CHOICE, log entry 8.) -/
def State.drawSome (s : State) : List Nat → List Nat × State
  | [] => ([], s)
  | x :: r =>
    let (k, s) := s.draw 2
    let (l, s) := s.drawSome r
    (if k = 1 then x :: l else l, s)

/-- The bytes that a command writes: wholly, or, when it fails, in some of its lines and rows.
(DESIGN CHOICE, log entry 8.) -/
def State.bulkWrite (s : State) (c : BulkCmd) (failed : Bool) : State :=
  let bad := c.moves.filter (fun m => (s.bulkBad c m).isSome)
  let good (l : List Nat) (f : Place → Option Nat) : List Nat := l.filter (fun x => !(bad.any (fun m => f m.dst = some x)))
  let vlines := good (c.moves.filterMap (fun m => m.dst.line)).eraseDups Place.line
  let vlines := vlines.filter (fun l => (lineAt c.map l).isSome)
  let rows := good c.rows Place.row
  let (vlines, s) := if failed then s.drawSome vlines else (vlines, s)
  let (rows, s) := if failed then s.drawSome rows else (rows, s)
  let overlap := c.moves.any (fun m => c.moves.any (fun x => m.src = x.dst))
  let (dir, s) := s.draw (if overlap then 2 else 1)
  let (vals, s) := s.bulkValues c (if dir = 1 then c.moves.reverse else c.moves) []
  let vals := vals.map (fun p => (p.1.dst, p.2))
  let s := if c.dry then s
    else vlines.foldl (fun s l => s.engineLine c l ((lineAt c.map l).getD 0) vals) s
  s.engineRows c rows vals

/-- R436: the record of a command that failed. -/
def State.bulkRecord (s : State) (c : BulkCmd) (fault : Nat × Nat × Nat) : State :=
  match s.envOf c.tid with
  | none => s
  | some e => s.recordOf (dieOf e.blk.core) e.blk.launch
      { e.ident { code := fault.1, source := 2, addr := some fault.2.2, pc := c.pc } with source := 2 }

/-- R397: the agents that refuse the reads of a command that failed record it. -/
def State.bulkRefusals (s : State) (c : BulkCmd) : State :=
  match s.envOf c.tid with
  | none => s
  | some e => s.refusals e c.pc (c.moves.filterMap (fun m => match m.src with
    | .global va => (lineAt c.map va).bind (fun l =>
      if (s.bulkRefused c va (l + va % 64)).isSome then some (l + va % 64) else none)
    | _ => none))

/-- R179, R180: a command has ended: the later commands that waited for its bytes take them. -/
def State.recapture (s : State) : State :=
  (s.cmds.map (·.op)).foldl (fun (s : State) op => match s.cmds.find? (fun c => c.op = op) with
    | some c =>
      let d := s.capture c
      if d = c then s
      else ({ s with cmds := s.cmds.map (fun (x : BulkCmd) => if x.op = op then d else x) } : State).bulkEntry d
    | none => s) s

/-- R331, R436: a command ends: it has written every byte, or it has failed. -/
def State.bulkFinish (s : State) (c : BulkCmd) : State :=
  let reads := (c.moves.filterMap (fun m => match m.src with | .global va => lineAt c.map va | _ => none)).eraseDups
  let s := reads.foldl (fun (s : State) l => (s.touchL2 l 0).peerTurn l) s
  let fault := c.fail.orElse (fun _ => c.moves.findSome? (s.bulkBad c))
  let s := s.bulkRefusals c
  let s := s.bulkWrite c fault.isSome
  let s := ({ s with cmds := s.cmds.filter (fun q => q.op ≠ c.op) } : State).recapture
  let s := (s.modThread c.tid (fun th => (th.bulkEnd c fault).met (c.map.map (·.1)))).flushRecs
  match fault with
  | some f => s.bulkRecord c f
  | none => s

/-- The step BULK_COMMAND_COMPLETION. -/
def execBulkCommandCompletion (cmd : Nat) (s : State) : Host.Outcome State Fault Refusal :=
  match s.cmds.find? (fun c => c.op = cmd) with
  | some c => .next (if s.bulkReady c then s.bulkFinish c else s)
  | none => .next s

/-! ### `bseal`, `bwait`, `bjoin` (R335, R337) -/

/-- The number of a flag operand. -/
def flagNo (d : Opd) : Nat := match d with | .f n => n | _ => 15

/-- R335: the open batch closes onto a flag. -/
def Thread.sealBatch (th : Thread) (f : Nat) : Thread :=
  let now := some th.region.num
  { th with flags := th.flags ++ th.batch.map (fun op => (f, op)), batch := [],
            dests := th.dests.map (fun x => if x.flag = 15 then { x with flag := f, sealing := now } else x),
            faults := th.faults.map (fun x => if x.flag = 15 then { x with flag := f, sealing := now } else x) }

/-- R335: `bseal`. -/
def execBseal (o : Ops) (s : State) : Host.Outcome State Fault Refusal :=
  issue s (.bseal o) o (fun e s =>
    let f := flagNo o.dst
    if e.th.busy f then .wait s .stalled
    else
      let close (c : BulkCmd) : BulkCmd :=
        if c.tid = e.tid ∧ e.th.batch.contains c.op then { c with flag := some f, sealing := some e.th.region.num } else c
      .done (({ s with cmds := s.cmds.map close }).modThread e.tid (fun th => th.sealBatch f)) [])

/-- R418, R436: the failure that the next `bwait` or `bjoin` on a flag raises: it stays behind the flag until the trap is taken
(R428). (DEDUCED, log entry 16.) -/
def State.flagTrap (s : State) (e : Env) (f : Nat) : Option Trap :=
  (e.th.faults.find? (fun x => x.flag = f)).map (fun x =>
    { s.trapOf x.cause x.detail 0 with word2 := x.word2, word3 := x.word3, flag := some f })

/-- R335, R180: `bwait`. -/
def execBwait (o : Ops) (s : State) : Host.Outcome State Fault Refusal :=
  issue s (.bwait o) o (fun e s =>
    let f := flagNo o.a
    if e.th.busy f then .wait s .stalled
    else match s.flagTrap e f with
      | some t => .trap s t
      | none =>
        let mine := (e.th.dests.filter (fun p => p.flag = f)).map (·.line)
        let s := mine.foldl (fun s l => s.discardLine e.blk.core l) s
        .done (s.modThread e.tid (fun th => { th with dests := th.dests.filter (fun p => p.flag ≠ f) })) [])

/-- R337: `bjoin`. -/
def execBjoin (o : Ops) (s : State) : Host.Outcome State Fault Refusal :=
  issue s (.bjoin o) o (fun e s =>
    let f := flagNo o.a
    if e.th.busy f then .wait s .stalled
    else match s.flagTrap e f with
      | some t => .trap s t
      | none => .done s [])

/-! ### `bread` (R67 to R72, R336) -/

/-- R330: breads of a core that hold an entry of its load queue. -/
def State.loadQueue (s : State) (core : Nat) : Nat :=
  (s.breads.filter (fun p => p.2.core = core && p.2.bursts.any (fun b => b.state = .unread))).length

/-- R336: the stream of a bread: the virtual address of each byte, none where it reads zero. -/
def breadStream (r : BufRec) (y n : Nat) : List (Option Nat) :=
  (List.range n).flatMap (fun e =>
    let at_ := match r.locate false (y + e) none with | .ok va => va | .error _ => none
    (List.range r.esz).map (fun k => at_.map (· + k)))

/-- R336: the bursts of a bread. -/
def breadBursts (r : BufRec) (y n : Nat) : List Burst :=
  let bytes := breadStream r y n
  let count := (bytes.length + 255) / 256
  (List.range count).map (fun b =>
    let first := y + 256 * b / r.esz
    { row := first / r.n0 % r.n1, col := first % r.n0, last := decide (b + 1 = count),
      bytes := (bytes.drop (256 * b)).take 256, state := .unread, waits := [] })

/-- R336: `bread`. -/
def execBread (o : Ops) (s : State) : Host.Outcome State Fault Refusal :=
  issue s (.bread o) o (fun e s =>
    let r := e.recAt (8 * o.brec)
    let y := e.bulkWord o.a
    let n := o.imm.toNat
    let oob := (List.range n).foldl (fun d k => match r.locate false (y + k) none with | .error x => d ||| x | .ok _ => d) 0
    if decide (e.th.log ≠ []) || e.th.busy o.flag || decide (16 ≤ s.loadQueue e.blk.core) then .wait s .stalled
    else match r.check false true with
      | some (cause, d) => .trap s (s.trapOf cause d (e.th.active o))
      | none =>
        if n = 0 ∨ r.empty then .done (s.acquireCore e.blk.core false) []
        else if oob ≠ 0 then .trap s (s.trapOf 0x10 oob (e.th.active o))
        else
          let (op, s) := s.fresh
          let (id, s) := s.fresh
          let br : Bread :=
            { tid := e.tid, block := e.th.block, core := e.blk.core, op := op, pc := s.cur.pc, flag := o.flag,
              handler := o.extra, bursts := breadBursts r y n,
              params := (List.range 16).map (fun i => e.th.regs.scal (e.la.obj.params + i)),
              fpmode := e.th.regs.fpmode, seed := e.th.regs.seed, quad := e.th.quad, slot := e.th.slot, hint := o.hint, failed := none,
              epoch := s.xlat.qepoch, region := e.th.region.num, done := [], left := [] }
          let s := { s with breads := NMap.put s.breads id br }
          .done (s.modThread e.tid (fun th => { th with flags := th.flags ++ [(o.flag, op)] })) [])

end Sys2Proof.Machine
end

