-- ==== Sys2Proof/Machine/Rings.lean ====
section
/-! DEFINITION. Rings, the page pool and the residency table (R338 to R342, R354, R356 to R366, R438, R485, R487). -/

namespace Sys2Proof.Machine

/-! ### Rings (R356) -/

/-- R356: slots pushed and not yet popped. -/
def Ring.used (r : Ring) : Nat := (r.tail - r.head).toNat
/-- R339: the values that `rpush` and `rpop` leave in the special registers. -/
def Ring.regs (r : Ring) : RingRegs := ⟨r.head, r.tail, BitVec.ofNat 32 (r.slots - r.used)⟩
/-- R356: key of word 0 of a slot; `c` is the 32-bit register, which wraps. (DEDUCED, log entry 85.) -/
def Ring.place (r : Ring) (c : Word) : Nat := 64 * (c.toNat % r.slots)
/-- R356: one slot pushed. -/
def Ring.push (r : Ring) (words : List Word) : Ring :=
  { r with tail := r.tail + 1, bad := r.bad.filter (fun k => k / 4 ≠ r.place r.tail / 64),
           data := words.zipIdx.foldl (fun m p => NMap.put m (r.place r.tail + p.2) p.1) r.data }
/-- R356: the oldest slot. -/
def Ring.front (r : Ring) : List Word := (List.range 64).map (fun i => NMap.get 0 r.data (r.place r.head + i))
/-- R466: the oldest slot has a poisoned part. -/
def Ring.frontBad (r : Ring) : Bool := r.bad.any (fun k => k / 4 = r.place r.head / 64)
/-- R356: the oldest slot popped. -/
def Ring.pop (r : Ring) : Ring := { r with head := r.head + 1 }

/-- A ring of a context. -/
def PipeCtx.ring (x : PipeCtx) (n : Nat) : Option Ring := x.rings[n]?
/-- A context with a ring replaced. -/
def PipeCtx.setRing (x : PipeCtx) (n : Nat) (r : Ring) : PipeCtx := { x with rings := x.rings.set n r }
/-- R360: the address of a pool page. -/
def PipeCtx.pageAt (x : PipeCtx) (i : Nat) : Nat := x.poolBase + 65536 * i

/-! ### Completion (R342, R474) -/

/-- R217, R220, R471: the results of an operation are written now, and the flag that waits for them clears. -/
def State.writeNow (s : State) (t op : Nat) (vals : List RegVal) : State :=
  s.modThread t (fun th =>
    let region := ((th.pend.find? (fun p => p.op = op)).map (·.region)).getD th.region.num
    { ({ th with regs := Regs.putAll th.width th.regs vals }).patchChecks region vals with
      pend := th.pend.filter (fun p => p.op ≠ op), flags := th.flags.filter (fun f => f.2 ≠ op) })

/-! ### Residency (R365, R366) -/

/-- The first near-memory slot of an expert slot. -/
def PipeCtx.nearSlot (x : PipeCtx) (k i : Nat) : Nat := x.xfirst + k * x.xframes + i
/-- R365: the frequency counter of an expert. -/
def PipeCtx.count (x : PipeCtx) (e : Nat) : Nat := NMap.get 0 x.counters e
/-- R366: expert slots that are not being moved. -/
def PipeCtx.still (x : PipeCtx) : List Nat := (List.range x.xcount).filter (fun k => !(x.moving.any (fun m => m.1 = k)))

/-- R366: the slot that a move takes: the lowest empty one, else the one whose expert is least used. -/
def PipeCtx.victim (x : PipeCtx) : Option Nat :=
  match x.still.find? (fun k => (NMap.find x.holds k).isNone) with
  | some k => some k
  | none => match x.still with
    | [] => none
    | k :: r =>
      let uses (k : Nat) : Nat := x.count ((NMap.find x.holds k).getD 0)
      some (r.foldl (fun b k => if uses k < uses b then k else b) k)

/-- R366: the migrations of a move: what stands in the slot goes back, then the expert's frames come in.
(DEDUCED, log entry 34.) -/
def State.moveMigs (s : State) (c : Nat) (x : PipeCtx) (k e : Nat) : List Migration :=
  let near := (s.die x.xdie).slots
  let (first, n) := x.experts.getD e (0, 0)
  let there := (List.range x.xframes).filterMap (fun i => NMap.find near (x.nearSlot k i))
  let strays := (List.range n).filterMap (fun i =>
    if near.any (fun p => p.2 = first + i) && !there.contains (first + i) then some (first + i) else none)
  (there ++ strays).map (fun f => { frame := f, slot := none, moved := 0, ctx := some c }) ++
    (List.range n).map (fun i => { frame := first + i, slot := some (x.nearSlot k i), moved := 0, ctx := some c })

/-- R487: a move is counted, and one record of each ageing period says that there are too many. -/
def State.countMove (s : State) (c tid : Nat) : State :=
  match s.ctx c with
  | none => s
  | some x =>
    let excess := decide (4 * x.xcount < x.moves + 1) && !x.thrashed
    let s := s.modCtx c (fun x => { x with moves := x.moves + 1, thrashed := x.thrashed || excess })
    match excess, s.envOf tid with
    | true, some e => s.recordOf 0 e.blk.launch { e.ident { code := 0x0302, source := 9 } with source := 9 }
    | _, _ => s

/-- R342: an `xres` completes with a value, for both copies of a paired warp. -/
def State.xresDone (s : State) (c : Nat) (w : XresWait) (val : Nat) : State :=
  let s := s.modCtx c (fun x => { x with xres := x.xres.filter (fun q => q.op ≠ w.op) })
  let vals := destVals 0 .n32 w.dst 0 val
  let s := s.writeNow w.tid w.op vals
  match w.twin with
  | some (t, op) => s.writeNow t op vals
  | none => s

/-- R366: the expert's counter rises, once, before the `xres` can wait. -/
def PipeCtx.countXres (x : PipeCtx) (w : XresWait) : PipeCtx :=
  if w.counted then x
  else { x with counters := NMap.put x.counters w.expert (min (x.count w.expert + 1) 0xFFFF),
                xres := x.xres.map (fun q => if q.op = w.op then { q with counted := true } else q) }

/-- R366: an `xres` is served: it completes, waits for a move, starts one, or must wait its turn. -/
def State.xresServe (s : State) (c : Nat) (w : XresWait) : Bool × State :=
  match s.ctx c with
  | none => (false, s)
  | some x =>
    let e := w.expert
    let x := x.countXres w
    let wait (x : PipeCtx) (slot : Nat × Bool) : PipeCtx :=
      { x with xres := x.xres.map (fun q => if q.op = w.op then { q with slot := some slot } else q) }
    let put (x : PipeCtx) : State := { s with ctxs := NMap.put s.ctxs c x }
    if x.xcount = 0 then (true, (put x).xresDone c w 0xFFFFFFFE)
    else match x.holds.find? (fun p => p.2 = e) with
      | some (k, _) => (true, (put x).xresDone c w k)
      | none => match x.moving.find? (fun m => m.2.1 = e) with
        | some (k, _, _) => (true, put (wait x (k, false)))
        | none => match x.victim with
          | none => (false, put x)
          | some k =>
            let migs := s.moveMigs c x k e
            let x := { wait x (k, true) with holds := NMap.del x.holds k, moving := x.moving ++ [(k, e, migs.length)] }
            (true, ((put x).modDie x.xdie (fun d => { d with migs := d.migs ++ migs })).countMove c w.tid)

/-- R366: the waiting `xres` of a context are served in order; `fuel` bounds them. -/
def State.xresRun (s : State) (c : Nat) : Nat → State
  | 0 => s
  | fuel + 1 => match s.ctx c with
    | none => s
    | some x => match x.xres.find? (fun w => w.slot.isNone) with
      | none => s
      | some w => match s.xresServe c w with
        | (true, s) => s.xresRun c fuel
        | (false, s) => s

/-- The waiting `xres` of a context are served. -/
def State.serve (s : State) (c : Nat) : State :=
  match s.ctx c with | some x => s.xresRun c x.xres.length | none => s

/-- R366: a move of a context is over: the slot holds its expert, and the `xres` that waited for it complete. -/
def State.moveDone (s : State) (c k e : Nat) : State :=
  match s.ctx c with
  | none => s
  | some x =>
    let mine := x.xres.filter (fun w => match w.slot with | some (j, _) => decide (j = k) | none => false)
    let s := { s with ctxs := NMap.put s.ctxs c { x with holds := NMap.put x.holds k e,
                                                         moving := x.moving.filter (fun m => m.1 ≠ k) } }
    let fin (s : State) (w : XresWait) : State :=
      s.xresDone c w (match w.slot with | some (_, true) => k + 2 ^ 31 | _ => k)
    (mine.foldl fin s).serve c

/-- R366, R438: a move ended in a data error: the `xres` that started it traps, and so do the others that waited for it; the slot
stays empty. (DESIGN CHOICE, log entry 78.) -/
def State.moveFailed (s : State) (c k detail : Nat) : State :=
  match s.ctx c with
  | none => s
  | some x =>
    let mine := x.xres.filter (fun w => match w.slot with | some (j, _) => decide (j = k) | none => false)
    let s := { s with ctxs := NMap.put s.ctxs c { x with moving := x.moving.filter (fun m => m.1 ≠ k) } }
    let one (s : State) (t op : Nat) (w : XresWait) : State :=
      match (s.writeNow t op []).thread t with
      | none => s
      | some th =>
        let s := s.writeNow t op []
        s.raise t (State.trapOf { s with cur := { tid := t, pc := w.pc, words := w.words } } 0x18 detail
          (th.regs.mask 0 &&& laneMask th.width))
    let fin (s : State) (w : XresWait) : State :=
      let s := s.modCtx c (fun x => { x with xres := x.xres.filter (fun q => q.op ≠ w.op) })
      let s := one s w.tid w.op w
      match w.twin with | some (t, op) => one s t op w | none => s
    (mine.foldl fin s).serve c

/-! ### Performing (R339, R341, R354) -/

/-- R338: the condition of an instruction on its context. (DEDUCED, log entry 33.) -/
def PipeCtx.ready (x : PipeCtx) : PipeWork → Bool
  | .push n _ => match x.ring n with | some r => decide (r.used < r.slots) | none => false
  | .pop n _ _ => match x.ring n with | some r => decide (r.tail ≠ r.head) | none => false
  | .alloc _ => decide (x.free ≠ [])
  | .free _ | .xres _ _ => true

/-- R339, R341: the instruction releases before it acts. -/
def PipeWork.releases : PipeWork → Bool | .push _ _ | .free _ => true | _ => false
/-- R339, R341: the instruction acquires after it has acted. -/
def PipeWork.acquires : PipeWork → Bool | .pop _ _ _ | .alloc _ => true | _ => false

/-- The effect of an instruction on its context: its results, and the ring registers it leaves. -/
def PipeCtx.act (x : PipeCtx) : PipeWork → List RegVal × Option RingRegs × PipeCtx
  | .push n words => match x.ring n with
    | some r => let r := r.push words; ([], some r.regs, x.setRing n r)
    | none => ([], none, x)
  | .pop n d lanes => match x.ring n with
    | some r =>
      let vals := ((List.range 64).filter (fun l => lanes.getLsbD l)).flatMap (fun l =>
        destVals 0 .b32 d l ((r.front.getD l 0).toNat))
      (vals, some r.pop.regs, x.setRing n r.pop)
    | none => ([], none, x)
  | .alloc d => match x.free with
    | [] => ([], none, x)
    | p :: rest =>
      (destVals 0 .n64 d 0 (x.pageAt p), none, { x with free := rest, opened := x.opened.filter (· ≠ p) ++ [p] })
  | .free p => ([], none, { x with free := x.free ++ [p] })
  | .xres _ _ => ([], none, x)

/-- The special registers of a thread after it has named a ring. (DEDUCED, log entry 32.) -/
def State.setRingRegs (s : State) (t : Nat) (r : Option RingRegs) : State :=
  match r with | some r => s.modThread t (fun th => { th with ring := r }) | none => s

/-- R339, R341: the instruction acts once for a thread: its results. -/
def State.pipeAct (s : State) (e : Env) (c : Nat) (w : PipeWork) : List RegVal × Option RingRegs × State :=
  match s.ctx c with
  | none => ([], none, s)
  | some x =>
    let s := if w.releases then s.release e .package else s
    let (vals, regs, x) := x.act w
    let s := { s with ctxs := NMap.put s.ctxs c x }
    let s := if w.acquires then s.acquire e .package else s
    (vals, regs, s.setRingRegs e.tid regs)

/-- R354, R470: the signature of a paired copy's instruction. (DESIGN CHOICE, log entry 23.) -/
def PipeWork.sig : PipeWork → DWord
  | .push n words => sha3Sig (bytesOf 8 n ++ words.flatMap (fun w => bytesOf 4 w.toNat))
  | .pop n _ l => sha3Sig (bytesOf 8 (2 ^ 32 + n) ++ bytesOf 8 l.toNat)
  | .alloc _ => sha3Sig (bytesOf 8 (2 ^ 33))
  | .free p => sha3Sig (bytesOf 8 (2 ^ 34 + p))
  | .xres e _ => sha3Sig (bytesOf 8 (2 ^ 35 + e))

/-! ### Issue -/

/-- R338: a ring, pool or residency instruction whose checks have passed: it waits for its condition, and then acts, or in a
paired launch becomes an entry: what it releases or acquires is done when that commits, and holds later accesses back until then
(R169, R171, R175). -/
def State.pipeIssue (s : State) (e : Env) (i : Instr) (w : PipeWork) : Res :=
  match e.la.ctx with
  | none => .wait s .pipe
  | some c => match s.ctx c with
    | none => .wait s .pipe
    | some x =>
      let broken := match w with | .pop n _ _ => (x.ring n).any (·.frontBad) | _ => false
      let clear := if w.releases then s.canRelease e .package else !w.acquires || s.performed e
      if e.th.pair.any (fun p => p.full true 1) then .wait s .full
      else if !clear then .wait s .stalled
      else if !x.ready w then .wait s (match w with | .alloc _ => .pool | _ => .pipe)
      else if broken && e.th.pair.isNone then .trap s (s.trapOf 0x18 3 (e.th.regs.mask 0 &&& laneMask e.th.width))
      else
        let (op, s) := s.fresh
        let pend : Pending := { op := op, vals := [], stale := none, known := false, regs := e.th.writes 0 i, region := e.th.region.num }
        match w, e.th.pair with
        | .xres n d, none =>
          let wait : XresWait := { tid := e.tid, op := op, pc := s.cur.pc, words := s.cur.words, expert := n, dst := d,
                                   slot := none, counted := false, twin := none }
          let s := s.modThread e.tid (fun th => { th with pend := th.pend ++ [pend] })
          .done ((s.modCtx c (fun x => { x with xres := x.xres ++ [wait] })).serve c) []
        | _, none =>
          let (vals, _, s) := s.pipeAct e c w
          .done s vals
        | _, some _ =>
          let s := { s with pipes := s.pipes ++ [({ op := op, tid := e.tid, pc := s.cur.pc, words := s.cur.words, work := w } : PipeOp)] }
          let s := s.addEntry e.tid e.th.region.num 0 w.sig (.pipe op)
          let s := if (w.releases && e.uncommitted) || w.acquires then s.phaseWaits e false false .package else s
          if isLong i then .async s pend
          else .done (if pend.regs = [] then s else s.modThread e.tid (fun th => { th with pend := th.pend ++ [pend] })) []

/-- R485: the trap of a ring or pool fault. -/
def State.pipeTrap (s : State) (e : Env) (cause detail w2 w3 : Nat) : Res :=
  .trap s { s.trapOf cause detail (e.th.regs.mask 0 &&& laneMask e.th.width) with
            word2 := BitVec.ofNat 32 w2, word3 := BitVec.ofNat 32 w3 }

/-- R485: a ring number that the launch does not define. -/
def State.ringBad (s : State) (e : Env) (n : Nat) : Bool :=
  match e.la.ctx.bind s.ctx with | some x => decide (x.rings.length ≤ n) | none => false

/-- R339: `rpush`. -/
def execRpush (o : Ops) (s : State) : Host.Outcome State Fault Refusal :=
  issue s (.rpush o) o (fun e s =>
    let n := e.bulkWord o.a
    let k := e.th.active o
    let words := (List.range 64).map (fun l =>
      if k.getLsbD l then BitVec.ofNat 32 (e.th.regs.raw 0 .b32 l o.b) else 0)
    if s.ringBad e n then s.pipeTrap e 0x16 1 n 0 else s.pipeIssue e (.rpush o) (.push n words))

/-- R339, R357: `rpop`. -/
def execRpop (o : Ops) (s : State) : Host.Outcome State Fault Refusal :=
  issue s (.rpop o) o (fun e s =>
    let n := e.bulkWord o.a
    let owner := ((e.la.ctx.bind s.ctx).bind (fun x => x.ring n)).map (·.consumer)
    if s.ringBad e n then s.pipeTrap e 0x16 1 n 0
    else if owner.isSome && owner ≠ some e.blk.id then s.pipeTrap e 0x16 2 n e.blk.id
    else s.pipeIssue e (.rpop o) (.pop n o.dst (e.th.active o)))

/-- R341: `palloc`. -/
def execPalloc (o : Ops) (s : State) : Host.Outcome State Fault Refusal :=
  issue s (.palloc o) o (fun e s => s.pipeIssue e (.palloc o) (.alloc o.dst))

/-- R341, R485: `pfree`. -/
def execPfree (o : Ops) (s : State) : Host.Outcome State Fault Refusal :=
  issue s (.pfree o) o (fun e s =>
    let a := e.th.regs.raw 0 .n64 0 o.a
    match e.la.ctx.bind s.ctx with
    | none => .wait s .pipe
    | some x =>
      let i := (a - x.poolBase) / 65536
      if a < x.poolBase ∨ (a - x.poolBase) % 65536 ≠ 0 ∨ x.poolPages ≤ i then s.pipeTrap e 0x17 1 a (a / 2 ^ 32 % 2 ^ 20)
      else if x.free.contains i then s.pipeTrap e 0x17 2 a (a / 2 ^ 32 % 2 ^ 20)
      else s.pipeIssue e (.pfree o) (.free i))

/-- R342: `xres`. One whose expert number is out of the table answers at issue, in a paired launch too, and is no entry there.
(DESIGN CHOICE, log entry 78.) -/
def execXres (o : Ops) (s : State) : Host.Outcome State Fault Refusal :=
  issue s (.xres o) o (fun e s =>
    let n := e.bulkWord o.a
    match e.la.ctx.bind s.ctx with
    | none => .wait s .pipe
    | some x =>
      if x.experts.length ≤ n then .done s (destVals 0 .n32 o.dst 0 0xFFFFFFFF)
      else s.pipeIssue e (.xres o) (.xres n o.dst))

end Sys2Proof.Machine
end

