-- ==== Sys2Proof/Machine/Banks.lean ====
section
/-! DEFINITION. Cache control (R328), and the conversion of a block's banks (R152, R153, R329, R455). -/

namespace Sys2Proof.Machine

/-! ### `cachectl` -/

/-- R328: the lines of the lanes that are neither out of bounds nor misaligned. -/
def Env.controlLines (e : Env) (o : Ops) : List Nat :=
  let r := match o.a with | .s n => e.recAt n | _ => e.recAt 0
  let els : List Elem := (e.actLanes o).map (fun l => { lane := l, elem := 0, x := e.word o.b l, y := none })
  let w := widthOf o.ty
  if (r.check false true).isSome then []
  else
    let accs := accessesOf r false w (els.filter (fun e => r.inb e.x e.y))
    let bad := (addressBad accs).map (·.lane)
    linesOf (accs.filter (fun a => !bad.contains a.lane))

/-- R328: an action on each line that can be reached; a line that cannot is dropped. (DEDUCED, log entry 31.) -/
def issueControl (s : State) (i : Instr) (o : Ops) (act : Env → State → Nat → State) : Host.Outcome State Fault Refusal :=
  issue s i o (fun e s =>
    match s.reachLines e.blk.core .r 0 (e.controlLines o) with
    | (none, _) => .wait s .stalled
    | (some (lines, _), t) =>
      if s.linesWait e.blk.core lines then .wait s .stalled
      else .done (lines.foldl (fun s l => act e s l.2) t) [])

/-- R328, R397, R490: a line fills into the L1; one whose data cannot be read is dropped, and the agent that refused it records
that. (DEDUCED, log entry 31.) -/
def State.prefetch (s : State) (e : Env) (hint pa : Nat) : State :=
  if s.loadHit e.blk.core pa 64 then s
  else if s.poisoned pa || s.linkDown pa then s.refusalRecord e s.cur.pc pa
  else s.fill e.blk.core pa hint

/-- R328, R397, R490: a line fills into the L2 of its home, unless the link to it is down. (DEDUCED, log entry 31.) -/
def State.prefetchHome (s : State) (e : Env) (hint pa : Nat) : State :=
  if s.linkDown pa then s.refusalRecord e s.cur.pc pa else s.touchL2 pa hint

/-- R328: `cachectl.pf1`. -/
def execCachectlPf1 (o : Ops) (s : State) : Host.Outcome State Fault Refusal :=
  issueControl s (.cachectlPf1 o) o (fun e s pa => s.prefetch e o.hint pa)
/-- R328: `cachectl.pf2`. -/
def execCachectlPf2 (o : Ops) (s : State) : Host.Outcome State Fault Refusal :=
  issueControl s (.cachectlPf2 o) o (fun e s pa => s.prefetchHome e o.hint pa)
/-- R328: the lines that `cachectl.inv` discards are those that are not dirty. -/
def execCachectlInv (o : Ops) (s : State) : Host.Outcome State Fault Refusal :=
  issueControl s (.cachectlInv o) o (fun e s pa =>
    match (s.core e.blk.core).line pa with
    | some l => if l.dirty = [] then s.discardLine e.blk.core pa else s
    | none => s)

/-! ### `bankcfg` -/

/-- R152: what a conversion takes a bank from, and what it makes. -/
inductive BankMode | cache | scratch | fifo
  deriving DecidableEq, Repr

/-- R329: the conversion that a code names. -/
def bankModes (code : Nat) : BankMode × BankMode :=
  match code with
  | 0 => (.cache, .scratch) | 1 => (.cache, .fifo) | 2 => (.scratch, .cache)
  | 3 => (.scratch, .fifo) | 4 => (.fifo, .cache) | _ => (.fifo, .scratch)

/-- R152: the block's bank counts after a conversion. -/
def Block.converted (b : Block) (code : Nat) : Block :=
  let (src, dst) := bankModes code
  let lost : Block := match src with
    | .cache => { b with cacheCount := b.cacheCount - 1 }
    | .scratch => { b with windows := b.windows - 1,
                           scratch := b.scratch.filter (fun p => decide (p.1 < (b.windows - 1) * 65536)),
                           badRows := b.badRows.filter (fun r => decide (r < (b.windows - 1) * 1024)) }
    | .fifo => { b with fifoBanks := b.fifoBanks - 1 }
  match dst with
  | .cache => { lost with cacheCount := lost.cacheCount + 1 }
  | .scratch => { lost with windows := lost.windows + 1, maxWindows := max lost.maxWindows (lost.windows + 1) }
  | .fifo => { lost with fifoBanks := lost.fifoBanks + 1 }

/-- R89: the sum of the banks on a core: the scratch and FIFO banks of its blocks and the largest cache count. -/
def bankSum (blocks : List Block) : Nat :=
  (blocks.map (fun b => b.windows + b.fifoBanks)).sum + (blocks.map (·.cacheCount)).foldl Nat.max 0

/-- R152, R357: the block's highest FIFO bank holds a ring. -/
def State.bankHoldsRing (s : State) (b : Block) : Bool :=
  match (s.launch b.launch).bind (fun l => l.ctx.bind s.ctx) with
  | none => false
  | some x => decide (b.copy ≠ .trailing) &&
      x.rings.any (fun r => decide (r.consumer = b.id) && decide (r.bank + 1 = b.fifoBanks))

/-- R329: the status of a conversion. (DEDUCED, log entry 66.) -/
def State.bankStatus (s : State) (id : Nat) (b : Block) (code : Nat) : Nat :=
  let blocks := (s.blocksOn b.core).map (fun p => if p.1 = id then b.converted code else p.2)
  let none_ := match (bankModes code).1 with
    | .cache => decide (s.ways b.core = 0)
    | .scratch => decide (b.windows = 0)
    | .fifo => decide (b.fifoBanks = 0)
  if none_ then 2
  else if 24 < bankSum blocks then 1
  else if (bankModes code).1 = .fifo && s.bankHoldsRing b then 3
  else 0

/-- R153, R329: `bankcfg`: once every member has arrived the conversion waits for BANK_SWITCH, and its status arrives
then. -/
def execBankcfg (o : Ops) (s : State) : Host.Outcome State Fault Refusal :=
  issueSet s (.bankcfg o) o (fun c s =>
    if c.leader.blk.switch.isSome then .wait s
    else
      let arrive (r : List (Nat × Nat) × State) (m : Nat × Env) : List (Nat × Nat) × State :=
        let (op, s) := r.2.fresh
        let flag := m.2.headerFlag o.len
        let pend : Pending := { op := op, vals := [], stale := none, known := false, regs := m.2.th.writes 0 (.bankcfg o),
                                region := m.2.th.region.num }
        (r.1 ++ [(m.2.tid, op)], s.modThread m.2.tid (fun th => { th.setFlag flag op with pend := th.pend ++ [pend] }))
      let (ops, s) := c.members.foldl arrive ([], s)
      .done (s.modBlock c.leader.th.block (fun b => { b with switch := some (o.xmod, o.dst, ops) })) [])

/-- R153, R455: the conversion of a block can take effect: no bulk command of the block is under way in scratch. -/
def State.switchReady (s : State) (id : Nat) (b : Block) : Bool :=
  b.switch.isSome && !s.dirtyOwned b.core &&
    !(s.cmds.any (fun c => decide (c.block = id) && (decide (c.rows ≠ []) || c.moves.any (fun m => m.src.row.isSome))))

/-- R152, R329: a conversion takes effect or is refused, and every member receives the status. -/
def State.bankSwitch (s : State) (id : Nat) : State :=
  match s.block id with
  | none => s
  | some b => match b.switch with
    | none => s
    | some (code, d, ops) =>
      if !s.switchReady id b then s
      else
        let status := s.bankStatus id b code
        let s := if status ≠ 0 then s
          else
            let s := if (bankModes code).1 = .cache then s.loseWay b.core (s.ways b.core - 1) else s
            s.modBlock id (fun b => b.converted code)
        let s := s.modBlock id (fun b => { b with switch := none })
        ops.foldl (fun s p => s.deliver p.1 p.2 (statusVals d status)) s

/-- The step BANK_SWITCH. -/
def execBankSwitch (blk : Nat) (s : State) : Host.Outcome State Fault Refusal := .next (s.bankSwitch blk)

end Sys2Proof.Machine
end

