-- ==== Sys2Proof/Machine/System.lean ====
section
/-! DEFINITION. System instructions: `nop`, `trap`, `brk`, `eret`, `sread`, `swrite`, `launch` and `fence.code` (R109 to
R112, R327, R343 to R347). -/

namespace Sys2Proof.Machine

/-- R343: `nop`. -/
def execNop (o : Ops) (s : State) : Host.Outcome State Fault Refusal := issue s (.nop o) o (fun _ s => .done s [])

/-- R344: `trap` and `brk`: the trap when some lane passes. -/
def State.softTrap (s : State) (e : Env) (o : Ops) (cause : Nat) : Res :=
  let g := e.th.active o
  if g = 0 then .done s []
  else .trap s { s.trapOf cause 0 g with word2 := BitVec.ofNat 32 (e.th.regs.raw 0 .i32 0 o.a), word3 := 0 }

/-- R344: `trap`. -/
def execTrap (o : Ops) (s : State) : Host.Outcome State Fault Refusal :=
  issue s (.trap o) o (fun e s => s.softTrap e o 0x03)
/-- R344: `brk`. -/
def execBrk (o : Ops) (s : State) : Host.Outcome State Fault Refusal :=
  issue s (.brk o) o (fun e s => s.softTrap e o 0x04)

/-- R345: the handler's return to an address. (DESIGN CHOICE, log entry 36.) -/
def State.handlerReturn (s : State) (e : Env) (o : Ops) (pc : Nat) : Res :=
  if !e.th.handler then .trap s (s.trapOf 0x02 12 (e.th.active o))
  else if pc % 4 ≠ 0 then s.execTrap e o
  else .stop (s.leaveHandler e.tid pc)

/-- R345: `eret`. -/
def execEret (o : Ops) (s : State) : Host.Outcome State Fault Refusal :=
  issue s (.eret o) o (fun e s =>
    s.handlerReturn e o (e.th.trap.pc.toNat + 4 * lengthOf e.th.trap.word0.toNat))
/-- R345: `eret.retry`. -/
def execEretRetry (o : Ops) (s : State) : Host.Outcome State Fault Refusal :=
  issue s (.eretRetry o) o (fun e s => s.handlerReturn e o e.th.trap.pc.toNat)

/-! ### Special registers (R109 to R112, R346) -/

/-- R45: `set_rankJ`. -/
def Env.setRank (e : Env) (j : Nat) : Nat :=
  if !e.th.isWarp then 0xFFFFFFFF
  else match (e.la.obj.sets e.th.warpId)[j]? with
    | none => 0xFFFFFFFF
    | some g => (g.members.filter (· < e.th.warpId)).length

/-- R109: a special register that is not per lane. (DESIGN CHOICE, log entry 35.) -/
def State.special (s : State) (e : Env) (n : Nat) : Nat :=
  match n with
  | 0x01 => e.th.warpId
  | 0x02 => e.blk.id
  | 0x03 => e.la.obj.warps
  | 0x04 => e.la.recd.blocks
  | 0x05 => e.la.recd.tag.toNat
  | 0x08 => e.setRank 0
  | 0x09 => e.setRank 1
  | 0x0A => e.setRank 2
  | 0x0B => e.setRank 3
  | 0x10 => e.th.regs.fpmode.toNat
  | 0x11 => e.th.regs.seed.toNat
  | 0x18 => s.clock.toNat
  | 0x19 => 0xC2
  | 0x20 => e.th.burst.index.toNat
  | 0x21 => e.th.burst.row.toNat
  | 0x22 => e.th.burst.col.toNat
  | 0x23 => e.th.burst.bytes.toNat
  | 0x24 => e.th.burst.last.toNat
  | 0x28 => e.th.ring.head.toNat
  | 0x29 => e.th.ring.tail.toNat
  | 0x2A => e.th.ring.free.toNat
  | 0x30 => e.th.trap.pc.toNat
  | 0x31 => e.th.trap.cause.toNat
  | 0x32 => e.th.trap.word0.toNat
  | 0x33 => e.th.trap.word1.toNat
  | 0x34 => e.th.trap.word2.toNat
  | 0x35 => e.th.trap.word3.toNat
  | 0x36 => e.th.trap.mask.toNat
  | 0x38 => if s.host.testMode then e.th.inject.toNat else 0
  | _ => 0

/-- R109: special registers of 64 bits. -/
def wideSpecial (n : Nat) : Bool := decide (n = 0x18) || decide (n = 0x30) || decide (n = 0x36)

/-- R346, R234: `sread`, when some lane passes (DEDUCED, log entry 11); a sprout has no `warp_id` that the spec states
(DESIGN CHOICE, log entry 35). -/
def execSread (o : Ops) (s : State) : Host.Outcome State Fault Refusal :=
  issue s (.sread o) o (fun e s =>
    if e.th.active o = 0 then .done s [] else
    match o.a with
    | .sp n =>
      if n = 0 then .done s ((e.th.activeLanes o).flatMap (fun l => destVals 0 .n32 o.dst l l))
      else
        let (x, s) := if n = 1 && !e.th.isWarp then s.draw (2 ^ 32) else (s.special e n, s)
        match o.dst with
        | .k k => .done s [.k k (BitVec.ofNat 64 x)]
        | d => .done s (destVals 0 (if wideSpecial n then .n64 else .n32) d 0 x)
    | _ => .done s [])

/-- R109 to R111, R400, R478: a write of a special register; one that is read-only keeps its value.
(DEDUCED, log entry 37.) -/
def State.setSpecial (s : State) (e : Env) (n x : Nat) : State :=
  let word := BitVec.ofNat 32 x
  let mod (f : Thread → Thread) : State := s.modThread e.tid f
  let trap (f : TrapRegs → TrapRegs) : State := mod (fun th => { th with trap := f th.trap })
  match n with
  | 0x10 => mod (fun th => { th with regs := { th.regs with fpmode := word } })
  | 0x11 => mod (fun th => { th with regs := th.regs.seedAll th.width word })
  | 0x30 => trap (fun t => { t with pc := BitVec.ofNat 64 x })
  | 0x31 => trap (fun t => { t with cause := word &&& 0x83FFFFFF })
  | 0x32 => trap (fun t => { t with word0 := word })
  | 0x33 => trap (fun t => { t with word1 := word })
  | 0x34 => trap (fun t => { t with word2 := word })
  | 0x35 => trap (fun t => { t with word3 := word })
  | 0x36 => trap (fun t => { t with mask := BitVec.ofNat 64 x &&& laneMask e.th.width })
  | 0x38 => if s.host.testMode then mod (fun th => { th with inject := word, injectAt := th.region.num }) else s
  | _ => s

/-- R346, R234: `swrite`, when some lane passes. (DEDUCED, log entry 11.) -/
def execSwrite (o : Ops) (s : State) : Host.Outcome State Fault Refusal :=
  issue s (.swrite o) o (fun e s =>
    if e.th.active o = 0 then .done s [] else
    match o.dst with
    | .sp n =>
      let x := match o.a with
        | .k k => (e.th.regs.mask k).toNat
        | d => e.th.regs.raw 0 (if wideSpecial n then .n64 else .n32) 0 d
      if n = 0x10 && !fpmodeOk x then s.execTrap e o else .done (s.setSpecial e n x) []
    | _ => .done s [])

/-! ### `launch` (R93, R347) -/

/-- R347, R85: a tag that a queue's places, a launch that has been taken or a remembered one already holds. -/
def State.tagKnown (s : State) (q : Nat) (tag : Word) : Bool :=
  (s.queue q).places.any (fun r => r.getD 4 0 = tag) || s.launches.any (fun p => p.2.recd.tag = tag) ||
    s.ended.any (fun p => p.1 = tag)

/-- R347, R440: a record is read from its home slices: its words, or the trap; none while a walk waits.
(DEDUCED, log entry 38.) -/
def State.readRecord (s : State) (e : Env) (va : Nat) (mask : DWord) : Option (Except Trap (List Word)) × State :=
  let bad (cause detail a : Nat) : Trap := { s.trapOf cause detail mask with addr := some a }
  if 2 ^ 52 ≤ va then (some (.error (bad 0x14 1 va)), s)
  else match s.reachLines e.blk.core .r 0 [va, va + 64] with
    | (none, s) => (none, s)
    | (some (_, (l, f) :: r), s) => (some (.error (bad f.cause f.detail l)), s.walkerRecords e s.cur.pc ((l, f) :: r))
    | (some (lines, []), s) =>
      let data (l : Nat) : Option Nat := lineAt lines l
      let pas := [va, va + 64].filterMap data
      let s := pas.foldl (fun (s : State) pa => s.peerTurn pa) s
      let faults := [va, va + 64].filterMap (fun l => (data l).bind (fun pa =>
        (s.homeBad e.th l pa).map (fun d => (bad 0x18 d l, pa))))
      if lines.any s.lineOwned then (none, s)
      else match faults with
        | (t, _) :: _ => (some (.error t),
            (s.refusals e s.cur.pc (faults.map (·.2))).modThread e.tid (fun th => th.met [va, va + 64]))
        | [] => (some (.ok (pas.flatMap (fun pa => wordsOf 16 (ofBytes (s.homeBytes pa 64))))), s)

/-- R93, R347: `launch`. (DEDUCED, log entry 27.) -/
def execLaunch (o : Ops) (s : State) : Host.Outcome State Fault Refusal :=
  issue s (.launch o) o (fun e s =>
    let va := e.th.regs.raw 0 .n64 0 o.a
    let q := e.la.queue
    let g := e.th.active o
    if va % 128 ≠ 0 then s.execTrap e o
    else if decide (16 ≤ (s.queue q).places.length) || e.uncommitted || !s.canRelease e .package then .wait s .stalled
    else
      let s := s.release e .package
      match s.readRecord e va g with
      | (none, s) => .wait s .stalled
      | (some (.error t), s) => .trap s t
      | (some (.ok words), s) =>
        if s.tagKnown q (words.getD 4 0) then .done s []
        else .done (s.setQueue q { s.queue q with places := (s.queue q).places ++ [words] }) [])

/-- R184, R327: `fence.code`: the warp's following instructions are fetched afresh. -/
def execFenceCode (o : Ops) (s : State) : Host.Outcome State Fault Refusal :=
  issue s (.fenceCode o) o (fun e s =>
    .done ((s.fenceCode e.blk.core).modThread e.tid (fun th => { th with fetched := none })) [])

end Sys2Proof.Machine
end

