-- ==== Sys2Proof/Machine/PageFaults.lean ====
section
/-! DEFINITION. Page faults that wait on the host: the replay of the operand logs and engines, the verdict that a
page cannot be resolved (R167, R414 to R418, R436, R437, R447 to R449), and the step of an atomic at its home slice, whose
replayed lanes fail as other replays do. -/

namespace Sys2Proof.Machine

/-- The 64 KiB page of a virtual address. -/
def pageOf (va : Nat) : Nat := va / 65536 * 65536
/-- R448: a line waits on the host for its page. -/
def Waiting.on (w : Waiting) (page : Nat) : Bool := !w.told && decide (pageOf w.line = page)
/-- R448: the host has answered `retry` for a page. -/
def Waiting.tell (page : Nat) (w : Waiting) : Waiting := if w.on page then { w with told := true } else w
/-- The 64 KiB pages that waiting lines wait on. -/
def pagesOf (l : List Waiting) : List Nat := ((l.filter (fun w => !w.told)).map (fun w => pageOf w.line)).eraseDups
/-- R449: the least SD_GEN of a TLB entry that may serve the replay of lines. -/
def sinceOf (l : List Waiting) : Nat := (l.map (·.gen)).foldl Nat.max 0

/-- R448: PF_PENDING. A stalled fetch uses no log and is not counted (R439). (DEDUCED, log entry 41.) -/
def State.pagesPending (s : State) : Nat :=
  let one (p : Option (Nat × Nat)) : Nat := if p.isSome then 1 else 0
  ((s.threads.map (fun p => ((p.2.log.map (fun q => (pagesOf q.lines).length)).sum + one p.2.spillWait))).sum) +
  (s.cmds.map (fun c => (pagesOf c.waits).length)).sum +
  (s.breads.map (fun p => (pagesOf (p.2.bursts.flatMap (·.waits))).length)).sum

/-! ### The operand log -/

/-- The rights that an entry needs. -/
def LogEntry.need (q : LogEntry) : Need := if q.atomic then .rw else if q.write then .w else .r

/-- An entry of a thread's log replaced, or removed. -/
def Thread.setEntry (th : Thread) (op : Nat) (q : Option LogEntry) : Thread :=
  { th with log := th.log.filterMap (fun x => if x.op = op then q else some x) }

/-- R415, R414: an entry all of whose lines have been performed: its results arrive, and what waited for them is free. An
atomic's entry stays until the atomic completes, but in a sprout of a paired launch, whose atomics are performed when the region
commits, after the sprout has retired (R475). -/
def State.closeEntry (s : State) (t : Nat) (q : LogEntry) : State :=
  let apart := match s.thread t with | some th => th.pair.isSome && !th.isWarp | none => false
  if q.lines ≠ [] ∨ (q.atomic ∧ apart = false) then s.modThread t (fun th => th.setEntry q.op (some q))
  else if q.atomic then s.modThread t (fun th => th.setEntry q.op none)
  else
    let s := s.modThread t (fun th => th.setEntry q.op none)
    s.deliver t q.op (q.dest.vals q.acc q.got)

/-- R176: the lanes of a logged atomic whose lines translate now go to their home slices; a failure that they meet there is final
(R415). In a paired launch they go there only when the atomic commits (R474), which is no part of the replay. -/
def State.placeLanes (s : State) (q : LogEntry) (lines : List (Nat × Nat)) : State :=
  let place (l : AtomLane) : AtomLane := match lineAt lines l.va with
    | some pa => { l with pa := some (pa + l.va % 64), late := true } | none => l
  let here (r : AtomReq) (l : AtomLane) : AtomLane := if r.gated then { place l with late := false } else place l
  let s := { s with reqs := s.reqs.map (fun (r : AtomReq) => if r.op = q.op then { r with lanes := r.lanes.map (here r) } else r) }
  match s.reqs.find? (fun r => r.op = q.op) with
  | some r => s.atomEntries q.region r (q.nums.filter (fun n => lines.any (fun l => l.1 = n.1))) lines
  | none => s

/-- R415: lines of an entry that translate are performed. -/
def State.performLines (s : State) (e : Env) (q : LogEntry) (lines : List (Nat × Nat)) : LogEntry × State :=
  if q.atomic then (q, s.placeLanes q lines)
  else if q.write then (q, s.storeAll e.tid q.region e.blk.core q.hint q.nums lines q.acc)
  else
    let (got, s) := s.loadAll e.tid e.blk.core q.hint lines q.acc q.got
    ({ q with got := got }, s)

/-- The lanes whose data a load through these lines cannot read. -/
def State.entryBad (s : State) (e : Env) (q : LogEntry) (lines : List (Nat × Nat)) : List LaneBad :=
  if q.write then [] else s.dataBad e.th e.blk.core lines q.acc

/-- R420: a request whose lanes on unresolved lines are dropped; what is left of it goes on. -/
def State.dropLanes (s : State) (op : Nat) : State :=
  match s.reqs.find? (fun r => r.op = op) with
  | none => s
  | some r =>
    let r := { r with lanes := r.lanes.filter (fun l => l.pa.isSome) }
    if r.lanes = [] then s.atomComplete r else { s with reqs := s.reqs.map (fun x => if x.op = op then r else x) }

/-- R167, R417: a sprout that faulted retires once the accesses that the failing one held back are performed.
(DEDUCED, log entry 42.) -/
def State.leave (s : State) (t : Nat) : State :=
  match s.thread t with
  | none => s
  | some th => match th.leaving with
    | some cause => if th.log.any (fun q => q.held.isSome) then s else s.retireSprout t (some cause)
    | none => s

/-- R417: a sprout faults: it issues nothing more, and of its atomics the lanes on unresolved lines are dropped. -/
def State.leaveFaulted (s : State) (t cause : Nat) : State :=
  let mine := (s.reqs.filter (fun q => q.tid = t)).map (·.op)
  let s := s.modThread t (fun th => { th.halt with leaving := some cause, log := th.log.filter (fun q => q.held.isSome) })
  mine.foldl (fun (s : State) op => s.dropLanes op) (s.leave t)

/-- R416, R417: the failure of an access that waited is final: the warp halts, and a sprout retires faulted. -/
def State.endWait (s : State) (e : Env) (pc : Nat) (b : LaneBad) : State :=
  let r : ErrRec := { code := b.cause, source := 0, addr := b.addr, lane := b.lane, pc := pc }
  if e.th.halted then s
  else if e.th.isWarp then s.halt e.tid r
  else (s.threadRecord e r).leaveFaulted e.tid b.cause

/-- R167: an access that was held back is performed; the lanes whose data cannot be read stop it, and an owned line holds
it. -/
def State.tryHeld (s : State) (e : Env) (q : LogEntry) (lines : List (Nat × Nat)) : List LaneBad × State :=
  if s.linesWait e.blk.core lines then ([], s)
  else match s.entryBad e q lines with
    | [] =>
      let (q, s) := s.performLines e q lines
      ([], s.closeEntry e.tid q)
    | bad => (bad, s.refuse e q.pc lines q.acc)

/-- R167: the accesses that a failing one held back are performed as if they had not been held.
(DEDUCED, log entry 42.) -/
def State.flushHeld (s : State) (e : Env) : State :=
  e.th.log.foldl (fun (s : State) q => match q.held with | some lines => (s.tryHeld e q lines).2 | none => s) s

/-- R416: the failure of a logged access: the lowest of its lanes is named. -/
def State.failEntry (s : State) (e : Env) (q : LogEntry) (bad : List LaneBad) : State :=
  match bad with
  | [] => s
  | b :: r =>
    let low := r.foldl (fun x y => if y.lane < x.lane then y else x) b
    let s := s.modThread e.tid (fun th => th.setEntry q.op none)
    let s := s.flushHeld e
    let s := if q.atomic then s.dropLanes q.op else s
    s.endWait e q.pc low

/-- R415, R448, R449: the lines of an entry that the host has answered walk afresh: they are performed, or wait again with a
new record, or fail. (DEDUCED, log entry 43.) -/
def State.replayEntry (s : State) (t op : Nat) : State :=
  match s.envOf t with
  | none => s
  | some e => match e.th.log.find? (fun q => q.op = op) with
    | none => s
    | some q =>
      let told := q.lines.filter (·.told)
      if told = [] then s
      else match s.reachLines e.blk.core q.need (sinceOf told) (told.map (·.line)) with
        | (none, s) => s
        | (some (ok, bad), s) =>
          let ready := if !q.atomic && s.stagingWaits e.blk.core (5 * ok.length) then [] else ok.filter (fun p => q.atomic || !s.lineOwned p)
          let final := lineBad q.acc (bad.filter (fun b => !s.routed b.2)) ++ s.entryBad e q ready
          if final ≠ [] then
            let (k, s) := s.draw (if q.write && decide (ready ≠ []) then 2 else 1)
            let s := if k = 1 then (s.performLines e q ready).2 else s
            let s := if q.write then s else s.refuse e q.pc ready q.acc
            let s := s.walkerRecords e q.pc bad
            s.failEntry e q final
          else
            let (q, s) := s.performLines e q ready
            let again := bad.filter (fun b => s.routed b.2)
            let s := if again = [] then s else s.pageFaults e q.pc q.acc again
            let left := q.lines.filter (fun w => !(w.told && ready.any (fun p => p.1 = w.line)) &&
              !(again.any (fun b => b.1 = w.line)))
            s.closeEntry t { q with lines := left ++ s.waiting q.write (firstAt q.acc) again }

/-- R167: the held accesses of a thread that no waiting one precedes are performed, and all of one that has halted; `fuel`
bounds them. -/
def State.runHeld (s : State) (t : Nat) : Nat → State
  | 0 => s
  | fuel + 1 => match s.envOf t with
    | none => s
    | some e =>
      let next := if e.th.live then e.th.log.head? else e.th.log.find? (fun q => q.held.isSome)
      match next with
      | none => s
      | some q => match q.held with
        | none => s
        | some lines => match s.tryHeld e q lines with
          | ([], s) => s.runHeld t fuel
          | (bad, s) => s.failEntry e q bad

/-- A thread's log goes on: answered lines replay and held accesses follow. -/
def State.replayThread (s : State) (t : Nat) : State :=
  match s.thread t with
  | none => s
  | some th =>
    let s := (th.log.map (·.op)).foldl (fun (s : State) op => s.replayEntry t op) s
    (s.runHeld t th.log.length).leave t

/-! ### Atomics at their home slices (R176, R324, R415, R452) -/

/-- R415, R416: a lane that waited on a page meets a data error at its home: the failure is final. -/
def State.failLane (s : State) (r : AtomReq) (l : AtomLane) (detail : Nat) : State :=
  match s.envOf r.tid with
  | none => s
  | some e => match e.th.log.find? (fun q => q.op = r.op) with
    | none => s
    | some q => s.failEntry e q [⟨l.lane, 0x18, detail, some l.va⟩]

/-- R176: the next lane of a request is performed; which line, the part chooses. (DEDUCED, log entry 26.) -/
def State.atomStep (s : State) (r : AtomReq) (repeats : Nat) : State :=
  match s.atomReady r with
  | first :: rest =>
    let ((l, pa), s) := s.drawFrom first (first :: rest)
    let (res, s) := s.atomHome r l pa repeats
    let s := match res with | .error _ => s.atomRefused r pa | .ok _ => s
    let lanes := r.lanes.filter (fun x => x.lane ≠ l.lane)
    let put (s : State) (r : AtomReq) : State := { s with reqs := s.reqs.map (fun q => if q.op = r.op then r else q) }
    let next (r : AtomReq) : State := if lanes = [] ∧ s.acqWaits r = false then s.atomComplete r else put s r
    match res with
    | .ok old => next { r with lanes := lanes, got := r.got ++ [(l.lane, BitVec.ofNat 64 old)] }
    | .error d =>
      if l.late then (put s { r with lanes := lanes }).failLane r l d
      else next { r with lanes := lanes, bad := r.bad ++ [(l.lane, d, l.va)] }
  | [] => if s.acqReady r then s.atomComplete r else s

/-- The step ATOMIC_AT_HOME_SLICE. -/
def execAtomicAtHomeSlice (req repeats : Nat) (s : State) : Host.Outcome State Fault Refusal :=
  match s.reqs.find? (fun r => r.op = req) with
  | some r => .next (s.atomStep r repeats)
  | none => .next s

/-! ### Engines -/

/-- R436, R448: the lines of a command that the host has answered walk afresh. -/
def State.replayBulk (s : State) (op : Nat) : State :=
  match s.cmds.find? (fun c => c.op = op) with
  | none => s
  | some c =>
    let told := c.waits.filter (·.told)
    match told, s.envOf c.tid with
    | [], _ | _, none => s
    | _, some e =>
      let lines (write : Bool) : List Nat := (told.filter (fun w => w.write = write)).map (·.line)
      match s.bulkReach e { c with waits := c.waits.filter (fun w => !w.told) } (sinceOf told) (lines false) (lines true) with
      | (none, s) => s
      | (some c, s) =>
        ({ s with cmds := s.cmds.map (fun (x : BulkCmd) => if x.op = op then c else x) }).bulkEntry c

/-- R415: everything that the host has answered goes on: first the commands, which own their lines from their issue on (R179). -/
def State.replayAll (s : State) : State :=
  let s := ((s.cmds.map (·.op)).foldl (fun (s : State) op => s.replayBulk op) s).recapture
  s.threads.foldl (fun (s : State) p => s.replayThread p.1) s

/-! ### The host's answers (R448) -/

/-- R448: PF_VA's page. -/
def State.pfPage (s : State) : Nat := pageOf s.xlat.pfVa

/-- A wait on a page. -/
def waitsOn (w : Option (Nat × Nat)) (page : Nat) : Bool :=
  match w with | some (va, _) => decide (pageOf va = page) | none => false

/-- R448: the lines of a thread that wait on a page are told to retry. -/
def Thread.tell (page : Nat) (th : Thread) : Thread :=
  { th with
    log := th.log.map (fun q => { q with lines := q.lines.map (Waiting.tell page) }),
    fetchWait := if waitsOn th.fetchWait page then none else th.fetchWait,
    spillWait := if waitsOn th.spillWait page then none else th.spillWait,
    spillAgain := th.spillAgain || waitsOn th.spillWait page }

/-- R448: PF_CMD.GO with `retry`. -/
def State.pageRetry (s : State) : State :=
  let page := s.pfPage
  let burst (b : Burst) : Burst := { b with waits := b.waits.map (Waiting.tell page) }
  let s := { s with
    threads := s.threads.map (fun (p : Nat × Thread) => (p.1, p.2.tell page)),
    cmds := s.cmds.map (fun (c : BulkCmd) => { c with waits := c.waits.map (Waiting.tell page) }),
    breads := s.breads.map (fun (p : Nat × Bread) => (p.1, { p.2 with bursts := p.2.bursts.map burst })) }
  s.replayAll

/-- The step PAGE_FAULT_RETRY. -/
def execPageFaultRetry (s : State) : Host.Outcome State Fault Refusal := .next s.pageRetry

/-- R442: the DETAIL of a page that the host cannot resolve. (DEDUCED, log entry 43.) -/
def Waiting.detail (w : Waiting) : Nat := if w.cause = 0x14 then 2 else if w.write then 2 else 1

/-- R416, R417: the accesses of a thread that wait on a page end. (DEDUCED, log entry 41.) -/
def State.endPage (s : State) (t page : Nat) : State :=
  match s.envOf t with
  | none => s
  | some e =>
    match e.th.log.find? (fun q => q.lines.any (fun w => w.on page)) with
    | some q =>
      let bad := (q.lines.filter (fun w => w.on page)).map (fun w => (w.line, (⟨w.cause, 0, false, none⟩ : TFault)))
      s.failEntry e q (lineBad q.acc bad)
    | none =>
      let stall := if waitsOn e.th.fetchWait page then e.th.fetchWait
        else if waitsOn e.th.spillWait page then e.th.spillWait else none
      match stall with
      | none => s
      | some (va, cause) => (s.modThread t (fun th => { th with fetchWait := none, spillWait := none })).endWait e e.th.pc
          { lane := 0xFF, cause := cause, detail := 0, addr := some (if waitsOn e.th.fetchWait page then e.th.pc else va) }

/-- R436: a command that waits on a page fails. -/
def State.endBulk (s : State) (op page : Nat) : State :=
  match s.cmds.find? (fun c => c.op = op) with
  | none => s
  | some c => match c.waits.find? (fun w => w.on page) with
    | none => s
    | some w =>
      let c := { c with waits := [], fail := c.fail.orElse (fun _ => some (w.cause, w.detail, w.va)) }
      ({ s with cmds := s.cmds.map (fun (x : BulkCmd) => if x.op = op then c else x) }).bulkEntry c

/-- R437: a burst that cannot be read retires as a sprout that faulted at birth, with one record. -/
def State.bornFaulted (s : State) (id i cause va : Nat) : State :=
  match s.bread id with
  | none => s
  | some br => match s.envOf br.tid with
    | none => s
    | some e =>
      let r : ErrRec := { e.ident { code := cause, source := 1, addr := some va } with source := 1, warp := 0xFF, nested := false }
      (s.recordOf (dieOf br.core) e.blk.launch r).retireBurst id i (some cause)

/-- R437: the bursts of a bread that wait on a page end. -/
def State.endBursts (s : State) (id page : Nat) : State :=
  match s.bread id with
  | none => s
  | some br => br.bursts.zipIdx.foldl (fun (s : State) p =>
      match p.1.waits.find? (fun w => w.on page) with
      | some w => s.bornFaulted id p.2 w.cause w.va
      | none => s) s

/-- R448: PF_CMD.GO with `unresolvable`. -/
def State.pageEnd (s : State) : State :=
  let page := s.pfPage
  let s := s.threads.foldl (fun (s : State) p => s.endPage p.1 page) s
  let s := (s.cmds.map (·.op)).foldl (fun (s : State) op => s.endBulk op page) s
  (s.breads.map (·.1)).foldl (fun (s : State) id => s.endBursts id page) s

/-- The step PAGE_FAULT_UNRESOLVABLE. -/
def execPageFaultUnresolvable (s : State) : Host.Outcome State Fault Refusal := .next s.pageEnd

end Sys2Proof.Machine
end

