-- ==== Sys2Proof/Machine/Issue.lean ====
section
/-! DEFINITION. The issue choice of a clock cycle (R74, R92, R112), results that arrive (R220), and the delivery of a
trap that was held back (R398). -/

namespace Sys2Proof.Machine

/-- A thread that was held back at issue and is tried again at each choice. -/
def WaitOn.tried : WaitOn → Bool | .stalled | .pipe | .pool | .full => true | _ => false

/-! ### The choice (R92) -/

/-- A thread that may issue, as its slot sees it. -/
structure Bidder where
  tid   : Nat
  /-- the keys of R92, in turn -/
  keys  : List Nat

/-- R40: the ports of a thread. -/
def Thread.ports (th : Thread) : List Nat := (List.range (th.width / 16)).map (· + th.port)

/-- A thread that could issue but for what it waits on; one that waits for the host to resolve a fetch or a spill does not
(R409, R439). -/
def Env.resident (e : Env) : Bool :=
  e.th.live && e.mayIssue && e.th.fetchWait.isNone && e.th.spillWait.isNone

/-- R92: a thread that its slot considers: whether its instruction is held back is found when it is tried. -/
def Env.bids (e : Env) : Bool :=
  e.resident && decide (e.th.idle = 0) && (match e.th.wait with | .rendezvous _ => false | _ => true)

/-- R40: the ports of a thread in its slot. -/
def Env.slotPorts (e : Env) : List (Nat × Nat) := e.th.ports.map (fun p => (e.blk.core * 8 + e.th.quad * 2 + e.th.slot, p))

/-- R92: the bid of a thread for its slot. -/
def Env.bid (e : Env) : Bidder :=
  { tid := e.tid,
    keys := [if 4096 ≤ e.th.skips then 0 else 1, 2 * e.la.recd.prio + (if e.th.isWarp then 1 else 0),
             if 64 ≤ e.th.skips then 0 else 1, if e.th.isWarp then e.th.region.since else e.th.born, e.th.entry] }

/-- The order of keys. -/
def keysBefore : List Nat → List Nat → Bool
  | x :: r, y :: t => decide (x < y) || (decide (x = y) && keysBefore r t)
  | _, _ => false

/-- A bidder put in its place. -/
def bidInsert (b : Bidder) : List Bidder → List Bidder
  | [] => [b]
  | c :: r => if keysBefore b.keys c.keys then b :: c :: r else c :: bidInsert b r

/-- R92: the threads that the slots consider, in the order in which they are tried. -/
def State.bidders (s : State) : List Nat :=
  ((((s.threads.filterMap (fun p => s.envOf p.1)).filter Env.bids).map Env.bid).foldl (fun l b => bidInsert b l) []).map (·.tid)

/-- R53: one member of each rendezvous that is complete and could not be performed: it is tried again. -/
def State.retried (s : State) : List Nat :=
  s.blocks.flatMap (fun p => (p.2.rends.filter (fun r => s.rendDone p.2 r)).filterMap (fun r => r.arrived.head?))

/-! ### What a clock value makes due -/

/-- R363: the conditions of a forced short batch hold; a paired copy's `palloc` waits at its commit (R354). -/
def State.starved (s : State) (x : PipeCtx) : Bool :=
  let mine := s.blocks.filter (fun p => p.2.launch = x.launch)
  let resident := match s.launch x.launch with
    | some l => decide (l.waiting = []) && decide (l.saved = []) && decide (mine ≠ [])
    | none => false
  resident && decide (x.free = []) && x.rings.all (fun r => r.expert.isNone || decide (r.used = 0)) &&
    (s.threads.any (fun p => decide (p.2.wait = .pool) && mine.any (fun b => b.1 = p.2.block)) ||
      s.pipes.any (fun w => (match w.work with | .alloc _ => true | _ => false) && (s.thread w.tid).any (fun th => mine.any (fun b => b.1 = th.block))))

/-- R486: every live warp of the context's gang waits on a ring, the pool, `xres` or in a rendezvous: at the instruction that waits,
or held back by one that it has issued, whose commit or whose slot is not there yet. One that has issued since it was last held back
does not wait, but at its `exit`. -/
def State.gangStalled (s : State) (x : PipeCtx) : Bool :=
  let mine := (s.blocks.filter (fun p => p.2.launch = x.launch)).map (·.1)
  let held (t : Nat) : Bool := s.pipes.any (fun w => decide (w.tid = t) && !x.ready w.work) ||
    x.xres.any (fun w => decide (w.tid = t) || decide (w.twin.map (·.1) = some t))
  let warps := s.threads.filter (fun p => p.2.isWarp && p.2.live && mine.contains p.2.block)
  decide (warps ≠ []) && warps.all (fun p => match p.2.wait with
    | .pipe | .pool | .rendezvous _ => true
    | .ready => held p.1 && p.2.pair.any (·.exit.isSome)
    | _ => held p.1)

/-- R363, R486: the cycles that a context has waited. -/
def State.countCtx (s : State) (x : PipeCtx) : PipeCtx :=
  let stalled := s.gangStalled x
  { x with waited := if s.starved x then x.waited + 1 else 0, stalled := if stalled then x.stalled + 1 else 0,
           reported := x.reported && stalled }

/-- R363: FORCE_WAIT. -/
def PipeCtx.forceAfter (x : PipeCtx) : Nat := if x.forceWait = 0 then 4096 else x.forceWait

/-- R182: a core holds dirty or staged bytes of an epoch or an earlier one. -/
def Core.holdsOld (c : Core) (tag : Nat) : Bool :=
  c.l1.any (fun l => decide (l.dirty ≠ []) && decide (l.epoch ≤ tag)) || c.staged.any (fun l => decide (l.epoch ≤ tag))

/-- R182: the tags of the quarantine entries that have waited 2^16 cycles. -/
def State.lateTags (s : State) : List Nat :=
  (s.xlat.qf.filter (fun q => q.2.2.2 + 2 ^ 16 ≤ s.clock.toNat)).map (fun q => q.2.2.1)

/-- R182: a core holds bytes that a late quarantine entry waits for. (DEDUCED, log entry 55.) -/
def State.staleFrames (s : State) : Bool := s.lateTags.any (fun t => s.cores.any (fun p => p.2.holdsOld t))

/-- The steps that a clock value makes due: R363, R365, R459, R486, R182. (DESIGN CHOICE, log entry 68.) -/
def State.dueNow (s : State) : List Instr :=
  let t := s.clock.toNat
  (if t % 2 ^ 20 = 0 then [.residencyCounterHalving] else []) ++
  (if t % 2 ^ 32 = 0 then [.mismatchCountDecay] else []) ++
  s.ctxs.flatMap (fun (p : Nat × PipeCtx) =>
    (if p.2.forceAfter ≤ p.2.waited then [.forcedShortBatch p.1] else []) ++
    (if 2 ^ 24 ≤ p.2.stalled ∧ !p.2.reported then [.pipelineStall p.1] else [])) ++
  (if s.staleFrames then [.quarantineTimeout] else [])

/-! ### The step ISSUE_CHOICE -/

/-- R92, R112: one arithmetic clock cycle: the threads are tried in the order of R92, and the first of them to be ready
takes its ports (`State.issueThread`). (DESIGN CHOICE, log entry 39, DESIGN CHOICE, log entry 68.) -/
def State.issueChoice (s : State) : State :=
  if !s.host.computeEn then s
  else
    let s := s.replayAll.flushRecs
    let s := s.threads.foldl (fun s p => (s.settlePhase p.1).settleRestart p.1) s
    let s := s.blocks.foldl (fun s p => s.checkDeadlock p.1) s
    let queue := s.bidders ++ s.retried
    let s := { s with threads := s.threads.map (fun (p : Nat × Thread) => (p.1, { p.2 with idle := p.2.idle - 1 })) }
    let s := { s with clock := s.clock + 1, ctxs := s.ctxs.map (fun (p : Nat × PipeCtx) => (p.1, s.countCtx p.2)) }
    { s with issueQ := s.issueQ ++ queue, taken := [], due := s.due ++ s.dueNow }

/-! ### Results (R106, R220) -/

/-- R220: a result may be written: it has arrived, and no earlier result of the thread is for the same register. -/
def Thread.resultReady (th : Thread) (idx : Nat) : Bool :=
  match th.pend[idx]? with
  | none => false
  | some p => p.known && !((th.pend.take idx).any (fun q => q.regs.any (fun r => p.regs.contains r)))

/-- R106, R220, R471: a result is written, and the flag that waits for it clears. -/
def Thread.writeResult (th : Thread) (idx : Nat) : Thread :=
  match th.pend[idx]? with
  | none => th
  | some p =>
    { ({ th with regs := Regs.putAll th.width th.regs p.vals }).patchChecks p.region p.vals with
      pend := th.pend.filter (fun q => q.op ≠ p.op), flags := th.flags.filter (fun f => f.2 ≠ p.op) }

/-- The step RESULT_WRITE. -/
def execResultWrite (tid idx : Nat) (s : State) : Host.Outcome State Fault Refusal :=
  match s.thread tid with
  | none => .next s
  | some th => .next (if th.resultReady idx then s.setThread tid (th.writeResult idx) else s)

/-- The results that may be written now. -/
def State.resultEvents (s : State) : List Instr :=
  s.threads.flatMap (fun p => ((List.range p.2.pend.length).filter (fun i => p.2.resultReady i)).map (fun i => .resultWrite p.1 i))

/-! ### Traps held back (R398) -/

/-- R398, R63: the trap held back for a thread that has drained is taken. -/
def State.deliverTrap (s : State) (tid : Nat) : State :=
  match s.envOf tid with
  | none => s
  | some e => match e.th.held with
    | none => s
    | some t =>
      if !e.th.clear || e.th.restarts then s
      else
        let (t, s) := s.resolveTrap e t
        s.takeTrap tid t

/-- The step TRAP_ENTRY. -/
def execTrapEntry (tid : Nat) (s : State) : Host.Outcome State Fault Refusal := .next (s.deliverTrap tid)

/-- The traps that may be taken now. -/
def State.trapEvents (s : State) : List Instr :=
  (s.threads.filter (fun p => p.2.held.isSome && p.2.clear && !p.2.restarts)).map (fun p => .trapEntry p.1)

end Sys2Proof.Machine
end

