-- ==== Sys2Proof/Machine/Loader.lean ====
section
/-! DEFINITION. Launch records (R81, R83), code objects (R229 to R233, R425, R496) and pipeline descriptors (R350 to R352)
as the scheduler reads them. -/

namespace Sys2Proof.Machine

/-- A number of 32-bit words, by offset in bytes. -/
def wordAt (l : List Word) (off : Nat) : Nat := (l.getD (off / 4) 0).toNat
/-- R81: an address pair. -/
def pairAt (l : List Word) (off : Nat) : Nat := wordAt l off + wordAt l (off + 4) % 2 ^ 20 * 2 ^ 32

/-! ### Launch records (R81, R83 phase 1) -/

/-- R81: the fields of a record of 32 words. -/
def LaunchRecord.ofWords (l : List Word) : LaunchRecord :=
  let f := wordAt l 0x0C
  { code := pairAt l 0, blocks := wordAt l 8, interlocked := bitOf f 16, pipeline := bitOf f 15, paired := bitOf f 14,
    restartable := bitOf f 13, dieHint := bitsOf f 12 10, prio := bitsOf f 9 8, width := bitsOf f 7 6,
    warps := bitsOf f 5 0, tag := l.getD 4 0, producer := l.getD 5 0, mapA := (l.getD 6 0).toInt,
    mapC := (l.getD 7 0).toInt, mapN := wordAt l 0x20 % 2 ^ 16, tileEpoch := l.getD 9 0, tileFlags := pairAt l 0x28,
    tileCount := wordAt l 0x30, tileBytes := wordAt l 0x34, tileData := pairAt l 0x38, save := pairAt l 0x40,
    saveStride := wordAt l 0x48, spill := pairAt l 0x4C, spillStride := wordAt l 0x54, errlog := pairAt l 0x58,
    completion := pairAt l 0x60 }

/-- R86: the tile range of a block stays in the producer's output. -/
def LaunchRecord.tilesOk (r : LaunchRecord) (b : Nat) : Bool :=
  decide (0 ≤ r.mapA * b + r.mapC) && decide (r.mapA * b + r.mapC + r.mapN ≤ r.tileCount)

/-- R83 phase 1: the offsets of the fields that are not as they must be; of the zero field at 0x68 to 0x7F, that of each word that
is not zero. (DEDUCED, log entry 44.) -/
def recordFaults (l : List Word) : List Nat :=
  let r := LaunchRecord.ofWords l
  let high (off : Nat) : Nat × Bool := (off, decide (2 ^ 20 ≤ wordAt l off))
  let range (x lo hi : Nat) : Bool := decide (x < lo) || decide (hi < x)
  let f := wordAt l 0x0C
  let always : List (Nat × Bool) :=
    [high 0x04, (0x08, range r.blocks 1 (2 ^ 24)), (0x0C, decide (2 ^ 17 ≤ f) || (decide (4 ≤ r.dieHint) && decide (r.dieHint ≤ 6))),
     (0x10, decide (r.tag = 0)), high 0x44, (0x48, decide (r.saveStride % 256 ≠ 0)), high 0x50,
     (0x54, decide (r.spillStride % 64 ≠ 0)), high 0x5C, (0x60, decide (r.completion % 8 ≠ 0)), high 0x64] ++
    (List.range 6).map (fun i => (0x68 + 4 * i, decide (wordAt l (0x68 + 4 * i) ≠ 0)))
  let dependent : List (Nat × Bool) :=
    [(0x18, !(r.tilesOk 0) || !(r.tilesOk (r.blocks - 1))), (0x20, decide (r.mapN = 0) || decide (2 ^ 16 ≤ wordAt l 0x20)),
     (0x28, decide (r.tileFlags % 4 ≠ 0)), high 0x2C, (0x30, range r.tileCount 1 (2 ^ 24)),
     (0x34, decide (r.tileBytes = 0)), high 0x3C]
  ((always ++ if r.producer = 0 then [] else dependent).filter (·.2)).map (·.1)

/-- The lowest of offsets. -/
def lowest : List Nat → Option Nat
  | [] => none
  | a :: r => some (r.foldl Nat.min a)

/-! ### Code objects -/

/-- Why a load fails (R233): status, and what ADDR of its record holds; none: it waits for a line (R179). -/
structure LoadFail where
  status : Nat
  addr   : Option Nat
  info   : Nat
  deriving DecidableEq, Repr

/-- A failure of the load with a status alone. -/
def LoadFail.of (status : Nat) : Option LoadFail := some { status := status, addr := none, info := 0 }

/-- R233, R497: words of the image. -/
def State.imageWords (s : State) (base off n : Nat) : Except (Option LoadFail) (List Word) :=
  match s.readVirt (base + off) (4 * n) with
  | .ok b => .ok (wordsOf n (ofBytes b))
  | .error none => .error none
  | .error (some va) => .error (some { status := 6, addr := some va, info := 0 })

/-- R496: the save size of a code object. -/
def CodeObj.sizeSaved (o : CodeObj) : Nat :=
  let up (x : Nat) : Nat := (x + 255) / 256 * 256
  let p := up (256 + 4 * o.sregs + 8 * o.kregs + o.width * (4 * o.vregs + 4 * o.caps.sum + 36))
  256 + up o.scratch + o.fifoBanks * 65792 + o.warps * p

/-- R231: what the header says. -/
def CodeObj.ofHeader (base : Nat) (h : List Word) : CodeObj :=
  let g := wordAt h
  let half (n : Nat) : Nat := g (0x20 + n / 2 * 4) / 2 ^ (16 * (n % 2)) % 2 ^ 16
  { base := base, width := g 0x14 % 2 ^ 16, warps := g 0x14 / 2 ^ 16, vregs := g 0x18 % 2 ^ 16, sregs := bitsOf (g 0x18) 23 16,
    kregs := g 0x18 / 2 ^ 24, caps := (List.range 16).map (fun n => half n % 128),
    fmts := (List.range 16).map (fun n => bitsOf (half n) 10 7), fpmode := h.getD 7 0, scratch := g 0x40,
    cacheBanks := bitsOf (g 0x44) 7 0, scratchBanks := bitsOf (g 0x44) 15 8, fifoBanks := bitsOf (g 0x44) 23 16,
    params := bitsOf (g 0x48) 15 8, reserve := bitsOf (g 0x48) 7 0, saveSize := g 0x4C, entry := base + g 0x50,
    groups := [], handlers := [], traps := [], regions := [], restartable := bitOf (g 0x10) 0, paired := bitOf (g 0x10) 1,
    interlocked := bitOf (g 0x10) 2, stepping := g 0x04 / 2 ^ 16, errata := BitVec.ofNat 64 (g 0x08 + g 0x0C * 2 ^ 32) }

/-- R231, R232: the tables: count, offset and bytes an entry. -/
def tablesOf (h : List Word) : List (Nat × Nat × Nat) :=
  [8, 4, 8, 64, 8].zipIdx.map (fun p => (wordAt h (0x54 + 8 * p.2), wordAt h (0x58 + 8 * p.2), p.1))

/-- R231: IMAGE_END. -/
def imageEnd (h : List Word) : Nat := max (wordAt h 0x7C + wordAt h 0x80) (wordAt h 0x84 + wordAt h 0x88)

/-- R231: the extents of the tables and sections that have bytes: first byte and end. -/
def extents (h : List Word) : List (Nat × Nat) :=
  (((wordAt h 0x7C, wordAt h 0x7C + wordAt h 0x80) :: (wordAt h 0x84, wordAt h 0x84 + wordAt h 0x88) ::
    (tablesOf h).map (fun t => (t.2.1, t.2.1 + t.1 * t.2.2))).filter (fun e => e.1 < e.2))

/-- Extents that share a byte. -/
def overlaps : List (Nat × Nat) → Bool
  | [] => false
  | e :: r => r.any (fun x => decide (e.1 < x.2) && decide (x.1 < e.2)) || overlaps r

/-- R231, R232: an image offset of an instruction in the code section. -/
def inCode (h : List Word) (off : Nat) : Bool :=
  decide (wordAt h 0x7C ≤ off) && decide (off < wordAt h 0x7C + wordAt h 0x80) && decide (off % 4 = 0)

/-- R233: HEADER_INVALID, as far as the header shows it. -/
def headerBad (h : List Word) (o : CodeObj) : Bool :=
  let g := wordAt h
  let half (n : Nat) : Nat := g (0x20 + n / 2 * 4) / 2 ^ (16 * (n % 2)) % 2 ^ 16
  decide (g 0 ≠ 0x4F435952) || decide (g 4 % 2 ^ 16 ≠ 1) || decide (8 ≤ g 0x10) || decide (2 ^ 24 ≤ g 0x44) ||
  decide (2 ^ 16 ≤ g 0x48) || (h.drop 35).any (fun w => w ≠ 0) ||
  !(o.width = 16 || o.width = 32 || o.width = 64) || decide (o.warps = 0) || decide (32 < o.warps) ||
  (List.range 16).any (fun n => decide (2 ^ 11 ≤ half n) || decide (8 < bitsOf (half n) 10 7) || decide (64 < half n % 128) ||
    (decide (half n % 128 = 0) && decide (half n ≠ 0))) ||
  decide (o.cacheBanks + o.scratchBanks + o.fifoBanks ≠ 24) || decide (o.scratchBanks * 65536 < o.scratch) ||
  decide (2 ^ 20 < o.scratch) || decide (112 < o.params) || decide (32 < o.reserve) ||
  (decide (o.reserve ≠ 0) && decide (o.sregs ≤ o.params + 15)) || !fpmodeOk o.fpmode.toNat ||
  decide (g 0x7C % 4096 ≠ 0) || decide (g 0x84 % 4096 ≠ 0) || decide (o.saveSize ≠ o.sizeSaved) || !inCode h (g 0x50) ||
  (extents h).any (fun e => decide (e.1 < 256) || decide (imageEnd h < e.2) || decide (2 ^ 32 < e.2)) || overlaps (extents h)

/-- Pairs of words. -/
def pairsOf : List Word → List (Word × Word)
  | a :: b :: r => (a, b) :: pairsOf r
  | _ => []

/-- Runs of sixteen words. -/
def sixteens : Nat → List Word → List (List Word)
  | 0, _ => []
  | n + 1, l => l.take 16 :: sixteens n (l.drop 16)

/-- R232: a row of the group table. -/
def Group.ofWords (p : Word × Word) : Group :=
  { num := p.1.toNat % 256, base := bitsOf p.1.toNat 15 8, mask := p.2 }

/-- R232: an entry of the region table. -/
def RegionMasks.ofEntry (l : List Word) : RegionMasks :=
  { v := BitVec.ofNat 256 (ofWords (l.take 8)), s := BitVec.ofNat 128 (ofWords ((l.drop 8).take 4)),
    k := BitVec.ofNat 16 (wordAt l 48) ||| 1, m := BitVec.ofNat 16 (wordAt l 48 / 2 ^ 16) }

/-- R233: HEADER_INVALID, as the tables show it. -/
def tablesBad (h gt ht tt rt : List Word) : Bool :=
  (pairsOf gt).any (fun p => decide (2 ^ 16 ≤ p.1.toNat)) || (pairsOf tt).any (fun p => decide (2 ^ 16 ≤ p.1.toNat) || !inCode h p.2.toNat) ||
  ht.any (fun (w : Word) => !inCode h w.toNat) || (sixteens (rt.length / 16) rt).any (fun l => (l.drop 13).any (fun w => w ≠ 0))

/-- R99: REGS_INVALID. -/
def CodeObj.regsBad (o : CodeObj) : Bool :=
  decide (256 < o.vregs) || decide (o.vregs % 8 ≠ 0) || decide (128 < o.sregs) || decide (16 < o.kregs) || decide (o.kregs = 0)

/-- Set numbers that do not rise. -/
def notRising : List Group → Bool
  | a :: b :: r => decide (b.num ≤ a.num) || notRising (b :: r)
  | _ => false

/-- R43, R73, R233: GROUP_TABLE_INVALID. -/
def CodeObj.groupsBad (o : CodeObj) : Bool :=
  notRising o.groups ||
  o.groups.any (fun g => decide (g.mask = 0) || decide (2 ^ o.warps ≤ g.mask.toNat) || decide (o.vregs ≤ g.base)) ||
  (List.range 32).any (fun w => decide (4 < (o.sets w).length)) || (decide (o.handlers ≠ []) && decide (o.reserve = 0))

/-- R424: the errata that stepping C2 retains. -/
def retainedErrata : DWord := BitVec.ofNat 64 (2 ^ 2 + 2 ^ 5 + 2 ^ 9)

/-- R229: the native list. -/
def nativeTag (t : Nat) : Bool := decide (t = 0xC1) || decide (t = 0xC2)

/-- R233: RELOC_INVALID. -/
def relocBad (h : List Word) (p : Word × Word) : Bool :=
  decide (p.1.toNat % 4 ≠ 0) || decide (imageEnd h < p.1.toNat + 4) || decide (imageEnd h ≤ p.2.toNat % 2 ^ 31)

/-- R233: the load of a code object. (DEDUCED, log entry 44.) -/
def State.loadObj (s : State) (base : Nat) : Except (Option LoadFail) CodeObj :=
  match s.imageWords base 0 64 with
  | .error f => .error f
  | .ok h =>
    let o := CodeObj.ofHeader base h
    let table (n : Nat) : Except (Option LoadFail) (List Word) :=
      let t := (tablesOf h).getD n (0, 0, 0)
      s.imageWords base t.2.1 (t.1 * t.2.2 / 4)
    if headerBad h o then .error (LoadFail.of 1)
    else match table 0, table 1, table 2, table 3, table 4 with
      | .ok gt, .ok ht, .ok tt, .ok rt, .ok lt =>
        let o := { o with
          groups := (pairsOf gt).map Group.ofWords, handlers := ht.map (fun (w : Word) => base + w.toNat),
          traps := (pairsOf tt).map (fun (p : Word × Word) => (p.1.toNat % 2 ^ 16, base + p.2.toNat)),
          regions := (sixteens (rt.length / 16) rt).map RegionMasks.ofEntry }
        let retired := o.errata &&& ~~~retainedErrata
        if tablesBad h gt ht tt rt then .error (LoadFail.of 1)
        else if o.regsBad then .error (LoadFail.of 2)
        else if o.groupsBad then .error (LoadFail.of 3)
        else if retired ≠ 0 then .error (some { status := 4, addr := none, info := retired.toNat })
        else if (pairsOf lt).any (relocBad h) then .error (LoadFail.of 5)
        else .ok { o with interlocked := o.interlocked || !nativeTag o.stepping || decide (o.errata ≠ 0) }
      | .error f, _, _, _, _ => .error f
      | _, .error f, _, _, _ => .error f
      | _, _, .error f, _, _ => .error f
      | _, _, _, .error f, _ => .error f
      | _, _, _, _, .error f => .error f

/-- The code object of a launch that has none: nothing of it runs. -/
def CodeObj.none : CodeObj :=
  { base := 0, width := 16, warps := 1, vregs := 0, sregs := 0, kregs := 1, caps := [], fmts := [], fpmode := 0, scratch := 0,
    cacheBanks := 24, scratchBanks := 0, fifoBanks := 0, params := 0, reserve := 0, saveSize := 0, entry := 0,
    groups := [], handlers := [], traps := [], regions := [], restartable := false, paired := false, interlocked := false,
    stepping := 0xC2, errata := 0 }

/-! ### Pipeline descriptors (R350 to R352) -/

/-- R351: an entry of the ring table as a ring: its words. -/
def Ring.ofWords (p : Word × Word) : Ring :=
  { consumer := p.1.toNat / 2 ^ 16, bank := bitsOf p.1.toNat 15 8,
    expert := if p.2.toNat / 2 ^ 24 = 1 then some (bitsOf p.2.toNat 23 16) else Option.none, slots := p.2.toNat % 512,
    head := 0, tail := 0, data := [] }

/-- R351, R352: an entry of the ring table that is not as it must be. -/
def ringRowBad (r : LaunchRecord) (o : CodeObj) (experts : Nat) (p : Word × Word) : Bool :=
  let x := Ring.ofWords p
  let kind := p.2.toNat / 2 ^ 24
  decide (p.1.toNat % 256 ≠ 0) || decide (r.blocks ≤ x.consumer) || decide (o.fifoBanks ≤ x.bank) || decide (1 < kind) ||
  (decide (kind = 0) && decide (bitsOf p.2.toNat 23 16 ≠ 0)) || (decide (kind = 1) && decide (experts ≤ bitsOf p.2.toNat 23 16)) ||
  decide (bitsOf p.2.toNat 15 9 ≠ 0) || decide (x.slots = 0) || decide (256 < x.slots)

/-- R352: rings that share a bank, or buffer rings of one expert. -/
def ringsClash : List Ring → Bool
  | [] => false
  | r :: l => l.any (fun x => (decide (x.consumer = r.consumer) && decide (x.bank = r.bank)) ||
      (r.expert.isSome && decide (x.expert = r.expert))) || ringsClash l

/-- R351, R352: an entry of the expert table that is not as it must be. -/
def expertRowBad (xdie frames : Nat) (p : Word × Word) : Bool :=
  let first := p.1.toNat
  let n := p.2.toNat
  decide (2 ^ 30 ≤ first) || decide (n = 0) || decide (frames < n) || decide (first / 2 ^ 28 ≠ xdie) ||
  !isLocal (frameAddr first) || !isLocal (frameAddr (first + n - 1)) || decide ((first + n - 1) / 2 ^ 28 ≠ xdie)

/-- R157: near-memory slots of a die: those of the tier SRAM units that its L2 does not have. -/
def Die.nearSlots (d : Die) : Nat := (8 - d.l2Units) * 1024

/-- R350, R352: the offsets of the descriptor's fields that are not as they must be. (DEDUCED, log entry 44.) -/
def descriptorFaults (r : LaunchRecord) (near : Nat) (d : List Word) : List Nat :=
  let g := wordAt d
  let experts := g 0x0C / 2 ^ 16
  let rings := g 0x0C % 2 ^ 16
  let count := g 0x30 % 2 ^ 16
  let high (off : Nat) : Nat × Bool := (off, decide (2 ^ 20 ≤ g off))
  ([(0x00, decide (g 0 = 0)), (0x04, decide (g 4 ≤ g 0)), (0x08, decide (g 8 ≤ g 4) || decide (r.blocks ≤ g 8)),
    (0x0C, decide (experts = 0) || decide (256 < experts) || decide (rings = 0) || decide (256 < rings)), high 0x14,
    (0x18, decide (g 0x18 % 65536 ≠ 0)), high 0x1C, (0x20, decide (g 0x20 = 0) || decide (65536 < g 0x20)),
    (0x24, decide (2 ^ 16 ≤ g 0x24)), high 0x2C,
    (0x30, decide (2 ^ 18 ≤ g 0x30) || decide (8192 < count) ||
      (decide (count ≠ 0) && decide (near < g 0x34 % 2 ^ 13 + count * g 0x38))),
    (0x34, decide (2 ^ 13 ≤ g 0x34)), (0x38, decide (g 0x38 = 0) || decide (8192 < g 0x38)),
    (0x3C, decide (g 0x3C ≠ 0))].filter (fun (p : Nat × Bool) => p.2)).map (·.1)

/-- How the reading of a descriptor ends. -/
inductive PlanRes
  | ok (x : PipeCtx)
  /-- the detail of LAUNCH_INVALID, and the address that could not be read -/
  | bad (detail : Nat) (va : Option Nat)
  | wait

/-- R349 to R352, R360, R365: the pipeline context that a descriptor asks for. With a zero PDESC, where no field of it is at fault,
the detail is 0x100. (DEDUCED, log entry 44.) -/
def State.planOf (s : State) (q : Nat) (r : LaunchRecord) (o : CodeObj) : PlanRes :=
  let at_ := (s.queue q).pdesc
  let words (va n : Nat) : Except (Option Nat) (List Word) := match s.readVirt va (4 * n) with
    | .ok b => .ok (wordsOf n (ofBytes b)) | .error e => .error e
  if at_ = 0 then .bad 0x100 none
  else match words at_ 16 with
    | .error none => .wait
    | .error (some va) => .bad 0x100 (some va)
    | .ok d =>
      let g := wordAt d
      let xdie := bitsOf (g 0x30) 17 16
      match lowest (descriptorFaults r (s.die xdie).nearSlots d) with
      | some off => .bad (0x100 + off) none
      | none =>
        let experts := g 0x0C / 2 ^ 16
        match words (pairAt d 0x10) (2 * (g 0x0C % 2 ^ 16)), words (pairAt d 0x28) (2 * experts) with
        | .error none, _ | _, .error none => .wait
        | .error (some va), _ => .bad 0x200 (some va)
        | .ok _, .error (some va) => .bad 0x300 (some va)
        | .ok rt, .ok et =>
          let rings := (pairsOf rt).map Ring.ofWords
          if (pairsOf rt).any (ringRowBad r o experts) || ringsClash rings then .bad 0x200 none
          else if (pairsOf et).any (expertRowBad xdie (g 0x38)) then .bad 0x300 none
          else .ok
            { launch := 0, rings := rings, experts := (pairsOf et).map (fun p => (p.1.toNat, p.2.toNat)),
              poolBase := pairAt d 0x18, poolPages := g 0x20, free := List.range (g 0x20), opened := [],
              forceWait := g 0x24, waited := 0, stalled := 0, reported := false, xdie := xdie,
              xcount := g 0x30 % 2 ^ 16, xfirst := g 0x34, xframes := g 0x38, counters := [], holds := [], moving := [],
              xres := [], moves := 0, thrashed := false }

end Sys2Proof.Machine
end

