-- ==== Sys2Proof/Machine/Placement.lean ====
section
/-! DEFINITION. Placement of blocks on cores (R36, R40, R41, R85 to R91, R97, R103, R141, R184, R347, R353, R354, R461, R469). -/

namespace Sys2Proof.Machine

/-! ### Seats on a core (R40, R89, R90) -/

/-- The place of a warp on a core: quadrant, slot, first port, warp entry; its width and the words of its span. -/
structure Seat where
  quad  : Nat
  slot  : Nat
  port  : Nat
  ent   : Nat
  width : Nat
  words : Nat
  deriving DecidableEq, Repr

/-- The ports of a seat. -/
def Seat.ports (x : Seat) : List Nat := (List.range (x.width / 16)).map (· + x.port)

/-- R103: the words of a warp's span. -/
def CodeObj.span (o : CodeObj) : Nat := o.vregs + o.caps.sum

/-- The seats taken on a core. -/
def State.seats (s : State) (core : Nat) : List Seat :=
  s.threads.filterMap (fun p => match s.envOf p.1 with
    | none => none
    | some e =>
      if e.blk.core = core && e.th.isWarp then
        some { quad := e.th.quad, slot := e.th.slot, port := e.th.port, ent := e.th.entry, width := e.th.width,
               words := e.la.obj.span }
      else none)

/-- R40: the port ranges of a width, in the order in which ties go. -/
def portRanges (width : Nat) : List (Nat × Nat × Nat) :=
  (List.range 4).flatMap (fun q => (List.range 2).flatMap (fun sl =>
    (List.range (64 / width)).map (fun k => (q, sl, width / 16 * k))))

/-- R89, R461: a warp fits into a port range. -/
def rangeFits (taken : List Seat) (closed : List Nat) (width words : Nat) (c : Nat × Nat × Nat) : Bool :=
  let mine := taken.filter (fun x => x.quad = c.1)
  let ports := (List.range (width / 16)).map (· + c.2.2)
  decide (mine.length < 32) && ports.all (fun p => !closed.contains ((c.1 * 2 + c.2.1) * 4 + p) &&
    decide (((mine.filter (fun x => x.ports.contains p)).map (·.words)).sum + words ≤ 2048))

/-- R90: the resident warps of the most occupied port of a range. -/
def rangeLoad (taken : List Seat) (width : Nat) (c : Nat × Nat × Nat) : Nat :=
  ((List.range (width / 16)).map (fun k =>
    (taken.filter (fun x => x.quad = c.1 && x.slot = c.2.1 && x.ports.contains (c.2.2 + k))).length)).foldl Nat.max 0

/-- R90: the seat that a warp takes, with the lowest free warp entry of its quadrant. (DESIGN CHOICE, log entry 45.) -/
def freeSeat (taken : List Seat) (closed : List Nat) (width words : Nat) : Option Seat :=
  match (portRanges width).filter (rangeFits taken closed width words) with
  | [] => none
  | c :: r =>
    let best := r.foldl (fun b c => if rangeLoad taken width c < rangeLoad taken width b then c else b) c
    let used := (taken.filter (fun x => x.quad = best.1)).map (·.ent)
    some { quad := best.1, slot := best.2.1, port := best.2.2, ent := ((List.range 32).find? (fun n => !used.contains n)).getD 0,
           width := width, words := words }

/-- R90: the seats of the warps of a block, in ascending `warp_id`. -/
def seatsFor (closed : List Nat) (width words : Nat) : Nat → List Seat → Option (List Seat)
  | 0, _ => some []
  | n + 1, taken => match freeSeat taken closed width words with
    | none => none
    | some x => (seatsFor closed width words n (x :: taken)).map (x :: ·)

/-- The sprout reservation of a block. -/
def State.reserveOf (s : State) (b : Block) : Nat := ((s.launch b.launch).map (·.obj.reserve)).getD 0

/-- R89: a block of this code object, with these banks, fits on a core beside `others`, which hold the seats `taken`. -/
def State.fitsWith (s : State) (core : Nat) (o : CodeObj) (b : Block) (others : List Block) (taken : List Seat) :
    Option (List Seat) :=
  let c := s.core core
  if c.spared ∨ 24 < bankSum (b :: others) ∨ 32 < o.reserve + (others.map s.reserveOf).sum then none
  else seatsFor c.closed o.width o.span o.warps taken

/-- R89: a block fits on a core as it is. -/
def State.fits (s : State) (core : Nat) (o : CodeObj) (b : Block) : Option (List Seat) :=
  s.fitsWith core o b ((s.blocksOn core).map (·.2)) (s.seats core)

/-- R90: the core that a block takes, and its seats there. -/
def State.findCore (s : State) (hint : Nat) (o : CodeObj) (b : Block) (except : Option Nat) : Option (Nat × List Seat) :=
  let first := if hint = 7 then 0 else hint
  (first :: (List.range 4).filter (· ≠ first)).findSome? (fun d =>
    ((List.range 100).foldl (fun (best : Option (Nat × Nat × List Seat)) k =>
      let core := 100 * d + k
      let n := (s.blocksOn core).length
      let worse := match best with | some (m, _) => decide (m ≤ n) | none => false
      if worse || decide (except = some core) then best
      else match s.fits core o b with
        | some seats => some (n, core, seats)
        | none => best) none).map (·.2))

/-- A block before it is placed: its banks and, on its first placement, empty scratch (R141). -/
def Block.fresh (l id : Nat) (o : CodeObj) : Block :=
  { launch := l, id := id, copy := .only, other := none, core := 0, since := 0, warps := [], scratch := [],
    windows := o.scratchBanks, maxWindows := o.scratchBanks, cacheCount := o.cacheBanks, fifoBanks := o.fifoBanks, rends := [],
    abandoned := [], failed := false, switch := none, stopping := false }

/-- R83: how many blocks of a code object an idle core holds; `fuel` bounds the count. -/
def perCore (o : CodeObj) (l : Nat) : Nat → List Block → List Seat → Nat
  | 0, _, _ => 0
  | fuel + 1, others, taken =>
    let b := Block.fresh l 0 o
    if 24 < bankSum (b :: others) ∨ 32 < o.reserve * (others.length + 1) then 0
    else match seatsFor [] o.width o.span o.warps taken with
      | none => 0
      | some seats => 1 + perCore o l fuel (b :: others) (seats ++ taken)

/-! ### Producers and tiles (R85 to R88) -/

/-- R85, R88: what a consumer sees of its producer. -/
inductive Producer | none | running | ended | aborted
  deriving DecidableEq, Repr

/-- R85, R88: the producer of a launch: of several taken launches that carry its tag, the earliest taken one; one that has not ended
before any that has, and of those the one that ended last. (DEDUCED, log entry 46; DESIGN CHOICE, log entry 71.) -/
def State.producer (s : State) (la : Launch) : Producer :=
  if la.recd.producer = 0 then .none
  else match s.launches.find? (fun p => p.2.recd.tag = la.recd.producer) with
    | some (_, p) => if p.aborting.isSome then .aborted else .running
    | Option.none => match s.ended.find? (fun p => p.1 = la.recd.producer) with
      | some (_, status) => if status = 0 then .ended else .aborted
      | Option.none => .ended

/-- R86: the tiles that a block needs. -/
def LaunchRecord.tiles (r : LaunchRecord) (b : Nat) : List Nat :=
  (List.range r.mapN).map (fun (i : Nat) => (r.mapA * b + r.mapC + i).toNat)

/-- R86, R497: a tile's flag word: whether it holds TILE_EPOCH; none while its line waits; an error is the address that
cannot be read. -/
def State.tileReady (s : State) (r : LaunchRecord) (t : Nat) : Except Nat (Option Bool) :=
  match s.readVirt (r.tileFlags + 4 * t) 4 with
  | .ok b => .ok (some (decide (ofBytes b = r.tileEpoch.toNat)))
  | .error none => .ok none
  | .error (some va) => .error va

/-- R86: every tile of a block is ready. -/
def State.tilesReady (s : State) (r : LaunchRecord) (b : Nat) : Bool :=
  (r.tiles b).all (fun t => match s.tileReady r t with | .ok (some x) => x | _ => false)

/-- R88: a tile of an unplaced block that is not ready; none while a flag's line waits or all are. Of several it is the
first tile of the lowest block that is not ready. (DESIGN CHOICE, log entry 71.) -/
def State.unreadyTile (s : State) (la : Launch) : Option Nat :=
  la.waiting.findSome? (fun b => (la.recd.tiles b).find? (fun t => match s.tileReady la.recd t with
    | .ok (some x) => !x | .ok none => false | .error _ => true))

/-- R88: a launch that depends on one that was aborted, or that ended with a tile of an unplaced block unready, places no
further block, and ends so when its placed blocks have ended. (DEDUCED, log entry 46.) -/
def State.judgeOne (s : State) (l : Nat) : State :=
  match s.launch l with
  | none => s
  | some la =>
    if la.ending.isSome || la.aborting.isSome || decide (la.recd.blocks ≤ la.done) then s
    else
      let s := match la.waiting.findSome? (fun b => (la.recd.tiles b).findSome? (fun t =>
          match s.tileReady la.recd t with | .error va => some va | .ok _ => none)) with
        | some va => if la.recd.producer = 0 then s else s.unusable l 0x28 va
        | none => s
      match s.producer la with
      | .aborted => s.modLaunch l (fun la => { la with ending := some (3, 0), waiting := [] })
      | .ended => match s.unreadyTile la with
        | some t => s.modLaunch l (fun la => { la with ending := some (4, t % 2 ^ 16), waiting := [] })
        | none => s
      | _ => s

/-- R88: every consumer. -/
def State.judge (s : State) : State := s.launches.foldl (fun (s : State) p => s.judgeOne p.1) s

/-- The 64 KiB pages of a range of virtual addresses. -/
def pagesIn (lo hi : Nat) : List Nat := (List.range ((hi + 65535) / 65536 - lo / 65536)).map (fun i => (lo / 65536 + i) * 65536)

/-- R87: the core discards the filled bytes of a range of virtual addresses; of a page that maps nowhere the core may hold
bytes under an earlier mapping, and discards all. (DEDUCED, log entry 47.) -/
def State.acquireRange (s : State) (core lo hi : Nat) : State :=
  (pagesIn lo hi).foldl (fun (s : State) page =>
    match s.walk page with
    | .leaf e =>
      let frame := e.addr page
      let mine (l : Line) : Bool := decide (frame ≤ l.pa) && decide (l.pa < frame + 65536) &&
        decide (lo < page + (l.pa - frame) + 64) && decide (page + (l.pa - frame) < hi)
      ((s.core core).l1.filter mine).foldl (fun (s : State) l => s.discardLine core l.pa) s
    | _ => s.acquireCore core true) s

/-- R86: the data range of a tile. -/
def LaunchRecord.tileRange (r : LaunchRecord) (t : Nat) : Nat × Nat :=
  (r.tileData + t * r.tileBytes, r.tileData + (t + 1) * r.tileBytes)

/-- R87, R179: a page of the tiles of a block cannot be walked yet, since a bulk command owns a line of its tables. -/
def State.tilesWait (s : State) (la : Launch) (b : Nat) : Bool :=
  decide (la.recd.producer ≠ 0) && (la.recd.tiles b).any (fun t =>
    let (lo, hi) := la.recd.tileRange t
    (pagesIn lo hi).any (fun page => match s.walk page with | .wait => true | _ => false))

/-- R87, R97, R347: the acquire that placing a block has: for its tiles; the whole core for a launch submitted from the
device, and for a block that resumes, which reads its own earlier writes. -/
def State.acquirePlaced (s : State) (core : Nat) (la : Launch) (b : Nat) (resumed : Bool) : State :=
  let r := la.recd
  let s := if resumed then s.acquireCore core true else if la.device then s.acquireCore core false else s
  if r.producer = 0 then s
  else (r.tiles b).foldl (fun (s : State) t => let (lo, hi) := r.tileRange t; s.acquireRange core lo hi) s

/-! ### Placing -/

/-- R151: the ways that a placed block takes from the cache leave it, one by one. -/
def State.shrink (s : State) (core : Nat) : Nat → State
  | 0 => s
  | n + 1 => (s.loseWay core (s.ways core + n)).shrink core n

/-- A thread in its seat, on the datapaths as they are after `reached` retirements (R13). -/
def Thread.seated (th : Thread) (b : Nat) (x : Seat) (reached : Nat) : Thread :=
  { th with block := b, quad := x.quad, slot := x.slot, port := x.port, entry := x.ent, reached := reached }

/-- R36, R90, R184: a block with its threads is placed on a core: its number. -/
def State.putBlock (s : State) (b : Block) (ths : List Thread) (copy : Copy) (core : Nat) (seats : List Seat)
    (resumed : Bool) : Nat × State :=
  let before := s.ways core
  let (id, s) := s.fresh
  let (ids, s) := (ths.zip seats).foldl (fun (r : List Nat × State) p =>
    let (t, s) := r.2.fresh
    (r.1 ++ [t], s.setThread t (p.1.seated id p.2 (s.core core).retired.length))) ([], s)
  let s := s.setBlock id { b with core := core, copy := copy, since := s.clock.toNat, warps := ids, stopping := false }
  let s := (s.shrink core (before - s.ways core)).fenceCode core
  (id, match s.launch b.launch with | some la => s.acquirePlaced core la b.id resumed | none => s)

/-- R469, R471: what a copy of a warp keeps at its start: the checkpoint of its first region. -/
def State.pairStart (s : State) (t peer : Nat) (leading : Bool) : State :=
  match s.envOf t with
  | none => s
  | some e =>
    let g := e.th.region
    let p : PairState :=
      { peer := peer, leading := leading, entries := [], nextEntry := 0, settled := 0, after := 0, bytes := [], exit := none,
        checks := [⟨g, e.th.regs, boundarySig g.start 0 e.th.regs g e.storageBase, 0⟩], rollbacks := 0 }
    s.setThread t { e.th with pair := some p }

/-- R469: two blocks become the copies of one. -/
def State.linkCopies (s : State) (lead trail : Nat) : State :=
  match s.block lead, s.block trail with
  | some x, some y =>
    let s := (s.setBlock lead { x with other := some trail }).setBlock trail { y with other := some lead }
    (x.warps.zip y.warps).foldl (fun (s : State) p => (s.pairStart p.1 p.2 true).pairStart p.2 p.1 false) s
  | _, _ => s

/-- R151, R170, R179: the ways that a block's banks take cannot leave a core's cache while a release that makes room for their
dirty lines would have to wait. -/
def State.banksWait (s : State) (b : Block) (core : Nat) : Bool :=
  decide (0 < b.windows + b.fifoBanks) && s.stagingWaits core (s.core core).l1.length

/-- R469: the compare buffers lack the space for 256 entries per copy of each warp of one more paired block.
(DESIGN CHOICE, log entry 45.) -/
def State.compareFull (s : State) (warps : Nat) : Bool :=
  let held := ((s.blocks.filter (fun p => p.2.copy ≠ .only)).map (fun p => p.2.warps.length)).sum
  decide (held ≠ 0) && decide (Config.compareEntries < 256 * (held + 2 * warps))

/-- R90, R91: a block is placed, both copies of a paired one in one step; none when it does not fit, or while its tiles
cannot be acquired (R87), a core's banks cannot be taken or the compare buffers lack space (R469). -/
def State.placeUnit (s : State) (la : Launch) (b : Block) (ths : List Thread) (resumed : Bool) : Option State :=
  if s.tilesWait la b.id || (la.paired && s.compareFull la.obj.warps) then none
  else match s.findCore la.recd.dieHint la.obj b none with
  | none => none
  | some (c1, seats1) =>
    if s.banksWait b c1 then none
    else if !la.paired then some (s.putBlock b ths .only c1 seats1 resumed).2
    else match s.findCore la.recd.dieHint la.obj b (some c1) with
      | none => none
      | some (c2, seats2) =>
        if s.banksWait b c2 then none
        else
        let (cp1, cp2) : Copy × Copy := if c1 < c2 then (.leading, .trailing) else (.trailing, .leading)
        let (b1, s) := s.putBlock b ths cp1 c1 seats1 resumed
        let (b2, s) := s.putBlock b ths cp2 c2 seats2 resumed
        some (if c1 < c2 then s.linkCopies b1 b2 else s.linkCopies b2 b1)

/-- R36: the warps of a block at their start. -/
def State.freshThreads (s : State) (o : CodeObj) : List Thread :=
  (List.range o.warps).map (fun w =>
    Thread.start 0 (.warp w) o.width o.entry s.clock.toNat 0 0 0 0 (Regs.start o.width o.fpmode o.fmts o.caps))

/-- R97: the threads of a saved block as they resume; regions begin now (R92). -/
def State.savedThreads (s : State) (v : SavedBlock) : List Thread :=
  v.warps.map (fun th => { th with region := { th.region with since := s.clock.toNat }, born := s.clock.toNat })

/-- R90, R97: block `id` of a launch is placed, for the first time or as it was saved. -/
def State.placeId (s : State) (l id : Nat) : Option State :=
  match s.launch l with
  | none => none
  | some la => match la.saved.find? (fun v => v.block.id = id) with
    | some v => (s.placeUnit la v.block (s.savedThreads v) true).map (fun s =>
        s.modLaunch l (fun la => { la with saved := la.saved.filter (fun v => v.block.id ≠ id) }))
    | none =>
      if !la.waiting.contains id then none
      else (s.placeUnit la (Block.fresh l id la.obj) (s.freshThreads la.obj) false).map (fun s =>
        s.modLaunch l (fun la => { la with waiting := la.waiting.filter (· ≠ id) }))

/-- Several blocks of a launch are placed, or none. -/
def State.placeAll (s : State) (l : Nat) : List Nat → Option State
  | [] => some s
  | id :: r => match s.placeId l id with | none => none | some s => s.placeAll l r

/-- R353: the context that a gang holds, or takes. -/
def State.takeCtx (s : State) (l : Nat) (la : Launch) : Option State :=
  match la.ctx, la.plan with
  | some _, _ => some s
  | none, none => none
  | none, some x => match (List.range Config.contexts).find? (fun c => (s.ctx c).isNone) with
    | none => none
    | some c =>
      let s := { s with ctxs := NMap.put s.ctxs c { x with launch := l } }
      some (s.modLaunch l (fun la => { la with ctx := some c }))

/-- R91, R353: the gang of a pipeline launch is placed, or none of it. -/
def State.placeGang (s : State) (l : Nat) : Option State :=
  match s.launch l with
  | none => none
  | some la => match s.takeCtx l la with
    | none => none
    | some s => s.placeAll l (if la.saved ≠ [] then la.saved.map (fun v => v.block.id) else la.waiting)

/-! ### The order of placement (R90, R91) -/

/-- A block, or the gang of a launch, that placement considers. -/
inductive Candidate
  | block (l id : Nat)
  | gang (l : Nat)
  deriving DecidableEq, Repr

/-- R88, R423: the blocks of a launch that placement considers: resumed ones, or new ones whose tiles are ready.
(DEDUCED, log entry 47.) -/
def State.unitsOf (s : State) (resumed : Bool) (l : Nat) (la : Launch) : List Candidate :=
  let dep := s.producer la
  let open_ := la.ending.isNone && decide (dep ≠ .aborted) && !(decide (dep = .ended) && (s.unreadyTile la).isSome)
  let ready (b : Nat) : Bool := decide (dep = .none) || s.tilesReady la.recd b
  if la.aborting.isSome then []
  else if la.recd.pipeline then
    if resumed then (if la.saved ≠ [] then [.gang l] else [])
    else if la.saved = [] && decide (la.waiting ≠ []) && open_ && la.waiting.all ready then [.gang l] else []
  else if resumed then la.saved.map (fun v => .block l v.block.id)
  else if open_ then (la.waiting.filter ready).map (.block l) else []

/-- R90: what placement considers, in order. -/
def State.candidates (s : State) : List (Nat × Candidate) :=
  (List.range 4).flatMap (fun prio =>
    let mine := s.launches.filter (fun p => p.2.recd.prio = prio)
    ((mine.flatMap (fun p => s.unitsOf true p.1 p.2)) ++ (mine.flatMap (fun p => s.unitsOf false p.1 p.2))).map (fun c => (prio, c)))

/-- A candidate placed, when it fits. -/
def State.place? (s : State) (c : Candidate) : Option State :=
  match c with | .block l id => s.placeId l id | .gang l => s.placeGang l

/-- R90: the first candidate that fits, and the state with it placed; one that does not fit, a gang (R91) or not, holds no
later one back. (DESIGN CHOICE, log entry 71.) -/
def State.nextPlaced (s : State) : Option (Candidate × State) :=
  s.candidates.findSome? (fun p => (s.place? p.2).map (fun t => (p.2, t)))

/-- R90: a candidate is placed when its turn has come. -/
def State.placeTurn (s : State) (c : Candidate) : State :=
  match s.nextPlaced with
  | some (d, t) => if c = d then t else s
  | none => s

/-- The step BLOCK_PLACEMENT. -/
def execBlockPlacement (l b : Nat) (s : State) : Host.Outcome State Fault Refusal := .next (s.placeTurn (.block l b))
/-- The step GANG_PLACEMENT. -/
def execGangPlacement (l : Nat) (s : State) : Host.Outcome State Fault Refusal := .next (s.placeTurn (.gang l))

/-- The placement that can happen now. -/
def State.placeEvents (s : State) : List Instr :=
  match s.nextPlaced with
  | some (.block l b, _) => [.blockPlacement l b]
  | some (.gang l, _) => [.gangPlacement l]
  | none => []

end Sys2Proof.Machine
end

