-- ==== Sys2Proof/Machine/Commit.lean ====
section
/-! DEFINITION. The commit of a region of a paired warp (R354, R471, R472, R474, R475), and the roll-back of copies that do
not match (R476). -/

namespace Sys2Proof.Machine

/-- The two copies of a paired warp. -/
structure Copies where
  lead  : Env
  trail : Env
  p     : PairState
  q     : PairState

/-- The copies of the paired warp that a thread belongs to. -/
def State.copiesOf (s : State) (t : Nat) : Option Copies :=
  match s.envOf t with
  | none => none
  | some e => match e.th.pair with
    | none => none
    | some p => match s.envOf p.peer with
      | none => none
      | some f => match f.th.pair with
        | none => none
        | some q => some (if p.leading then { lead := e, trail := f, p := p, q := q } else { lead := f, trail := e, p := q, q := p })

/-- The copies of warp `w` of a block. -/
def State.copiesIn (s : State) (blk w : Nat) : Option Copies :=
  match s.block blk with
  | none => none
  | some b => (b.warps[w]?).bind s.copiesOf

/-- R471: the oldest uncommitted region. -/
def PairState.oldest (p : PairState) : Option Nat := p.checks.head?.map (·.region.num)

/-- How a copy closes a region: with a boundary signature, or at `exit` (R481). -/
inductive Closing
  | boundary (sig : DWord)
  | exit (sig : DWord)
  deriving DecidableEq, Repr

/-- R471: how a copy has closed region `n`. -/
def closingOf (p : PairState) (n : Nat) : Option Closing :=
  match p.checks.find? (fun c => c.region.num = n + 1) with
  | some c => some (.boundary c.sig)
  | none => if p.checks.length = 1 then p.exit.map .exit else none

/-- The entries of a region: number and signature. -/
def PairState.marks (p : PairState) (n : Nat) : List (Nat × DWord) :=
  (p.entries.filter (fun x => x.region = n)).map (fun x => (x.num, x.sig))

/-- The bread of a thread that closes region `n`. -/
def State.breadOf (s : State) (t n : Nat) : Option (Nat × Bread) :=
  s.breads.find? (fun p => p.2.tid = t && p.2.region = n)

/-- Every burst of a bread has retired. -/
def Bread.over (b : Bread) : Bool := b.bursts.all (fun x => x.state = .retired)

/-- R475: the entries of the sprouts of two breads are the same, by burst and number. -/
def sproutsMatch (a b : List (Nat × Entry)) : Bool :=
  decide (a.length = b.length) &&
    a.all (fun x => b.any (fun y => decide (x.1 = y.1) && decide (x.2.num = y.2.num) && decide (x.2.sig = y.2.sig)))

/-- R475: the sprouts of the region have retired in both copies, and their entries match. -/
def State.breadsReady (s : State) (c : Copies) (n : Nat) : Bool × Bool :=
  match s.breadOf c.lead.tid n, s.breadOf c.trail.tid n with
  | none, none => (true, true)
  | some (_, a), some (_, b) => (a.over && b.over, sproutsMatch a.done b.done)
  | _, _ => (true, false)

/-- R354: the pipeline instructions of a region can be performed now. -/
def State.pipesReady (s : State) (c : Copies) (n : Nat) : Bool :=
  (c.p.entries.filter (fun x => x.region = n)).all (fun x => match x.work with
    | .pipe op => match s.pipes.find? (fun w => w.op = op), c.lead.la.ctx.bind s.ctx with
      | some w, some x => x.ready w.work && (!w.work.releases || !s.dirtyOwned c.lead.blk.core)
      | _, _ => true
    | _ => true)

/-- What is to happen to the oldest uncommitted region of a paired warp. -/
inductive Verdict | wait | commit | roll
  deriving DecidableEq, Repr

/-- R476: an entry or a boundary signature of one copy differs from that of the other. -/
def Copies.clash (c : Copies) : Bool := (entryClash c.p.entries c.q.entries).isSome || checkClash c.p.checks c.q.checks

/-- R470, R471: entries of region `n` of a thread are still to be formed: a store or an atomic waits on the host, or an engine
on its lines or data. -/
def State.entriesDue (s : State) (e : Env) (n : Nat) : Bool :=
  e.th.log.any (fun q => decide (q.region = n) && decide (q.nums ≠ []) && !(q.atomic && decide (q.lines = []))) ||
    s.cmds.any (fun c => decide (c.tid = e.tid) && decide (c.region = n) && c.fail.isNone &&
      (decide (c.waits ≠ []) || c.moves.any (fun m => m.old.isNone)))

/-- R475: an atomic of a sprout of a bread cannot be performed yet: a lane waits on the host, or an engine owns a line. -/
def State.sproutsWait (s : State) (t n : Nat) : Bool :=
  match s.breadOf t n with
  | none => false
  | some (id, _) => s.reqs.any (fun r => decide (r.bread = some id) &&
      r.lanes.any (fun l => match l.pa with | some pa => s.lineOwned (lineOf l.va, pa) | none => true))

/-- R179: the store of an entry cannot be performed yet: a bulk command owns its line, other than one that the warp issued
later. -/
def State.entryOwned (s : State) (c : Copies) (sprout : Bool) (x : Entry) : Bool :=
  match x.work with
  | .store va _ => s.cmds.any (fun k => k.owns va x.pa && !(decide (k.tid = c.lead.tid) && (sprout || decide (x.num < k.num))))
  | _ => false

/-- R179: stores of region `n`, or of the sprouts of the bread that closes it, cannot be performed yet. -/
def State.storesWait (s : State) (c : Copies) (n : Nat) : Bool :=
  (c.p.entries.filter (fun x => x.region = n)).any (s.entryOwned c false) ||
    (match s.breadOf c.lead.tid n with | some (_, b) => b.done.any (fun x => s.entryOwned c true x.2) | none => false)

/-- R471, R476: whether the oldest uncommitted region commits, rolls back, or is not decided yet. A region that is complete
commits whatever a later one holds. (DEDUCED, log entry 49.) -/
def State.verdict (s : State) (c : Copies) : Verdict :=
  let clash : Verdict := if c.clash then .roll else .wait
  match c.p.oldest, c.q.oldest with
  | some n, some m =>
    if n ≠ m ∨ s.entriesDue c.lead n ∨ s.entriesDue c.trail n then clash
    else match closingOf c.p n, closingOf c.q n with
      | some a, some b =>
        let (ended, same) := s.breadsReady c n
        if a ≠ b ∨ c.p.marks n ≠ c.q.marks n then .roll
        else if !ended then clash
        else if !same then .roll
        else if s.reqs.any (fun r => r.tid = c.lead.tid && !r.gated) || !s.pipesReady c n || s.sproutsWait c.lead.tid n ||
            s.storesWait c n then .wait
        else .commit
      | _, _ => clash
  | _, _ => clash

/-! ### Performing entries -/

/-- R467, R469: pending bytes of a line are in error: of a copy, or of the sprouts of its breads. -/
def State.pendingSpoilt (s : State) (t pa : Nat) : Bool :=
  let bad (b : PendByte) : Bool := decide (lineOf b.pa = lineOf pa) && b.bad.isSome
  (((s.thread t).bind (·.pair)).map (·.bytes)).any (fun l => l.any bad) ||
    s.breads.any (fun p => decide (p.2.tid = t) && p.2.left.any (fun b => bad b.2))

/-- R471: the bytes of a committed entry become filled bytes where the copy's L1 holds the line, with their poison (R467), and are
dropped where the staging area held them. -/
def State.keepFilled (s : State) (e : Env) (pa : Nat) (bytes : NMap Byte) : State :=
  match (s.core e.blk.core).line pa with
  | none => s
  | some l =>
    let clean := bytes.filter (fun b => (NMap.find l.dirty b.1).isNone)
    s.modCore e.blk.core (·.putLine { l with filled := clean.foldl (fun f b => NMap.put f b.1 b.2) l.filled,
                                             bad := l.bad || s.pendingSpoilt e.tid pa })

/-- R474: the atomic of an entry is performed at its home slice once, for both copies. -/
def State.ungate (s : State) (lead : Nat) (trail : Option Nat) : State :=
  { s with reqs := s.reqs.map (fun r =>
      if r.op = lead then { r with gated := false, twin := trail }
      else if some r.op = trail then { r with gated := false, lanes := [] } else r) }

/-- R442, R466: both copies of a warp trap with a data error at a pipeline instruction that has been performed, or that could
not be. -/
def State.trapCopies (s : State) (c : Copies) (w : PipeOp) (detail : Nat) : State :=
  [c.lead.tid, c.trail.tid].foldl (fun (s : State) t => match s.thread t with
    | some th => s.raise t (State.trapOf { s with cur := { tid := t, pc := w.pc, words := w.words } } 0x18 detail
        (th.regs.mask 0 &&& laneMask th.width))
    | none => s) s

/-- R466: a pipeline instruction whose entry is in error is not performed: it leaves no result, and both copies trap.
(DEDUCED, log entry 60.) -/
def State.spoilPipe (s : State) (c : Copies) (op : Nat) (twin : Option Nat) : State :=
  match s.pipes.find? (fun w => w.op = op) with
  | none => s
  | some w =>
    let s := ({ s with pipes := s.pipes.filter (fun v => v.op ≠ op ∧ some v.op ≠ twin) } : State).writeNow c.lead.tid op []
    let s := match twin with | some o => s.writeNow c.trail.tid o [] | none => s
    s.trapCopies c w 2

/-- R354, R474: a pipeline instruction is performed once, and its outcome goes to both copies.
(DEDUCED, log entry 49.) -/
def State.performPipe (s : State) (c : Copies) (op : Nat) (twin : Option Nat) : State :=
  match s.pipes.find? (fun w => w.op = op), c.lead.la.ctx with
  | some w, some x =>
    let s := { s with pipes := s.pipes.filter (fun v => v.op ≠ op ∧ some v.op ≠ twin) }
    match w.work with
    | .xres n d =>
      let wait : XresWait := { tid := w.tid, op := op, pc := w.pc, words := w.words, expert := n, dst := d, slot := none, counted := false,
                               twin := twin.map (fun o => (c.trail.tid, o)) }
      (s.modCtx x (fun y => { y with xres := y.xres ++ [wait] })).serve x
    | work =>
      let broken := match work with | .pop n _ _ => ((s.ctx x).bind (·.ring n)).any (·.frontBad) | _ => false
      let (vals, regs, s) := s.pipeAct c.lead x work
      let s := if work.acquires then s.acquire c.trail .package else s
      let s := s.setRingRegs c.trail.tid regs
      let s := s.writeNow c.lead.tid op vals
      let s := match twin with | some o => s.writeNow c.trail.tid o vals | none => s
      if broken = true then s.trapCopies c w 3 else s
  | _, _ => s

/-- The operation of the trailing copy's entry. -/
def EntryWork.opOf : EntryWork → Option Nat | .atomic n | .bulk n | .pipe n => some n | .store _ _ => none

/-- R466: the lanes of an atomic on a line whose entry is in error meet a data error. (DEDUCED, log entry 60.) -/
def State.spoilAtomic (s : State) (op pa : Nat) : State :=
  let hit (l : AtomLane) : Bool := match l.pa with | some a => decide (lineOf a = pa) | none => false
  let spoil (r : AtomReq) : AtomReq := { r with lanes := r.lanes.filter (fun l => !hit l),
                                                bad := r.bad ++ (r.lanes.filter hit).map (fun l => (l.lane, 2, l.va)) }
  { s with reqs := s.reqs.map (fun r => if r.op = op then spoil r else r) }

/-- R466: a bulk command whose entry is in error fails with a data error. (DEDUCED, log entry 60.) -/
def BulkCmd.spoil (k : BulkCmd) (pa : Nat) : BulkCmd :=
  { k with fail := k.fail.orElse (fun _ => some (0x18, 2, ((k.map.find? (fun p => p.2 = pa)).map (·.1)).getD 0)) }

/-- R475: an atomic of a sprout is performed when its entry is: its lanes in ascending order. How often the units of the slice
repeat it (R456) is open. -/
def State.atomAll (s : State) (op : Nat) : State :=
  match s.reqs.find? (fun r => r.op = op) with
  | none => s
  | some r =>
    let one (x : AtomReq × State) (l : AtomLane) : AtomReq × State :=
      match l.pa with
      | none => x
      | some pa =>
        let (repeats, s) := x.2.draw (2 ^ 32)
        let (res, s) := s.atomHome x.1 l pa repeats
        let s := match res with | .error _ => s.atomRefused x.1 pa | .ok _ => s
        (match res with
          | .ok old => { x.1 with got := x.1.got ++ [(l.lane, BitVec.ofNat 64 old)] }
          | .error d => { x.1 with bad := x.1.bad ++ [(l.lane, d, l.va)] }, s)
    let (r, s) := r.lanes.foldl one (r, s)
    s.atomComplete { r with lanes := [] }

/-- R471: an entry is performed at its home slice. `twin` is the trailing copy's entry, and `sprout` says that a sprout made it
(R475). An error in either entry goes with a store's bytes (R467), and makes anything else fail (R466).
(DEDUCED, log entry 60.) -/
def State.performEntry (s : State) (c : Copies) (x : Entry) (twin : Option Entry) (sprout : Bool) : State :=
  let other := twin.bind (fun y => y.work.opOf)
  let bad := x.bad || twin.any (·.bad)
  match x.work with
  | .store va bytes =>
    let s := s.writeBack c.lead.blk.core x.pa va bytes bad
    (s.keepFilled c.lead x.pa bytes).keepFilled c.trail x.pa bytes
  | .atomic op =>
    let s := (if bad then s.spoilAtomic op x.pa else s).ungate op other
    if sprout then s.atomAll op else s
  | .bulk op => { s with cmds := s.cmds.map (fun k => if k.op = op ∨ some k.op = other then
      { (if bad then k.spoil x.pa else k) with gated := false } else k) }
  | .pipe op => if bad then s.spoilPipe c op other else s.performPipe c op other

/-- R471: entries of the warp are performed in order. -/
def State.performEntries (s : State) (c : Copies) (l : List (Entry × Option Entry)) : State :=
  l.foldl (fun (s : State) p => s.performEntry c p.1 p.2 false) s

/-- R475: the entries of the sprouts of a region, as they commit: burst by burst, each in its own order.
(DEDUCED, log entry 49.) -/
def State.commitSprouts (s : State) (c : Copies) (n : Nat) : State :=
  match s.breadOf c.lead.tid n, s.breadOf c.trail.tid n with
  | some (_, a), some (_, b) =>
    let inOrder := (List.range a.bursts.length).flatMap (fun i => a.done.filter (fun x => x.1 = i))
    inOrder.foldl (fun (s : State) x => s.performEntry c x.2
      ((b.done.find? (fun y => y.1 = x.1 && y.2.num = x.2.num)).map (·.2)) true) s
  | _, _ => s

/-! ### REGION_COMMIT (R471) -/

/-- R471, R472, R481: a copy forgets entries that have committed. -/
def PairState.dropEntries (p : PairState) (nums : List Nat) : PairState :=
  { p with entries := p.entries.filter (fun x => !nums.contains x.num), bytes := p.bytes.filter (fun b => !nums.contains b.entry),
           settled := p.settled + nums.length, after := nums.foldl (fun a n => max a (n + 1)) p.after }

/-- R471: a copy forgets the region that has committed. -/
def PairState.dropRegion (p : PairState) (n : Nat) : PairState :=
  { p.dropEntries ((p.entries.filter (fun x => x.region = n)).map (·.num)) with checks := p.checks.drop 1, rollbacks := 0 }

/-- The pair state of a copy changed. -/
def State.modPair (s : State) (t : Nat) (f : PairState → PairState) : State :=
  s.modThread t (fun th => { th with pair := th.pair.map f })

/-- R481: both copies of a warp have reached `exit`, and its last region has committed: it ends. -/
def State.endPair (s : State) (c : Copies) : State :=
  if c.p.exit.isSome ∧ c.p.checks.length ≤ 1 then (s.endWarp c.lead.tid).endWarp c.trail.tid else s

/-- R471: the oldest uncommitted region of a warp commits. -/
def State.commitRegion (s : State) (c : Copies) (n : Nat) : State :=
  let mine := c.p.entries.filter (fun x => x.region = n)
  let s := s.performEntries c (mine.map (fun x => (x, c.q.entries.find? (fun y => y.num = x.num))))
  let s := s.commitSprouts c n
  let s := (s.modPair c.lead.tid (·.dropRegion n)).modPair c.trail.tid (·.dropRegion n)
  let done := [s.breadOf c.lead.tid n, s.breadOf c.trail.tid n].filterMap (fun b => b.map (·.1))
  (done.foldl (fun (s : State) id => s.finishBread id) s).endPair c

/-- An entry of region `n` of one copy that the other does not have. -/
def PairState.unmatched (p q : PairState) (n : Nat) : Option Nat :=
  (p.entries.find? (fun x => x.region = n && !(q.entries.any (fun y => y.num = x.num && y.sig = x.sig)))).map (·.pa)

/-- R475, R476: an entry of the sprouts of one bread that those of the other do not have: its line. -/
def sproutsUnmatched (a b : List (Nat × Entry)) : Option Nat :=
  (a.find? (fun x => !(b.any (fun y => decide (x.1 = y.1) && decide (x.2.num = y.2.num) && decide (x.2.sig = y.2.sig))))).map (·.2.pa)

/-- R475, R476: the line of the entry of the region's sprouts that does not match. -/
def State.sproutsStray (s : State) (c : Copies) (n : Nat) : Option Nat :=
  let done (t : Nat) : List (Nat × Entry) := ((s.breadOf t n).map (·.2.done)).getD []
  (sproutsUnmatched (done c.lead.tid) (done c.trail.tid)).orElse (fun _ => sproutsUnmatched (done c.trail.tid) (done c.lead.tid))

/-- R476: the line of the entry that does not match: of the warp, or, where the warp's own entries and boundaries match, of a
sprout. -/
def State.strayLine (s : State) (c : Copies) : Option Nat :=
  match entryClash c.p.entries c.q.entries, c.p.oldest with
  | some pa, _ => some pa
  | none, none => none
  | none, some n =>
    if checkClash c.p.checks c.q.checks then none
    else ((c.p.unmatched c.q n).orElse (fun _ => c.q.unmatched c.p n)).orElse (fun _ =>
      if closingOf c.p n = closingOf c.q n then s.sproutsStray c n else none)

/-- R471, R476: the copies' oldest uncommitted region is compared. -/
def State.regionStep (s : State) (c : Copies) : State :=
  match s.verdict c with
  | .wait => s
  | .roll => s.rollback c.lead.tid (s.strayLine c)
  | .commit => match c.p.oldest with
    | some n => s.commitRegion c n
    | none => s

/-- The step REGION_COMMIT. -/
def execRegionCommit (blk w : Nat) (s : State) : Host.Outcome State Fault Refusal :=
  match s.copiesIn blk w with
  | some c => .next (s.regionStep c)
  | none => .next s

/-! ### PARTIAL_COMMIT (R472) -/

/-- R472: the entries of the copies' oldest uncommitted region that match. -/
def Copies.matched (c : Copies) : List (Entry × Option Entry) :=
  match c.p.oldest with
  | none => []
  | some n => (c.p.entries.filter (fun x => x.region = n)).filterMap (fun x =>
      (c.q.entries.find? (fun y => y.num = x.num && y.sig = x.sig)).map (fun y => (x, some y)))

/-- R472: a copy has as many entries inside one region as it may have. (DEDUCED, log entry 49.) -/
def brimful (th : Thread) (p : PairState) : Bool :=
  match p.checks with
  | [c] => decide (256 ≤ (p.entries.filter (fun x => x.region = c.region.num)).length) || decide (th.wait = .full)
  | _ => false

/-- R472: a partial commit can happen. -/
def State.partialReady (s : State) (c : Copies) : Bool :=
  (brimful c.lead.th c.p || brimful c.trail.th c.q) && decide (c.matched ≠ []) && decide (c.p.oldest = c.q.oldest) &&
    !c.matched.any (fun p => s.entryOwned c false p.1)

/-- R472: the matched entries commit, and the region stays open. -/
def State.commitPart (s : State) (c : Copies) : State :=
  if !s.partialReady c then s
  else
    let nums := c.matched.map (fun p => p.1.num)
    ((s.performEntries c c.matched).modPair c.lead.tid (·.dropEntries nums)).modPair c.trail.tid (·.dropEntries nums)

/-- The step PARTIAL_COMMIT. -/
def execPartialCommit (blk w : Nat) (s : State) : Host.Outcome State Fault Refusal :=
  match s.copiesIn blk w with
  | some c => .next (s.commitPart c)
  | none => .next s

/-- R471: the first region that commits now. -/
def State.commitNow (s : State) : Option Instr :=
  (s.blocks.filter (fun p => p.2.copy = .leading)).findSome? (fun p => (List.range p.2.warps.length).findSome? (fun w =>
    (s.copiesIn p.1 w).bind (fun c => if s.verdict c = .commit then some (.regionCommit p.1 w) else none)))

/-- The commits that can happen now. -/
def State.commitEvents (s : State) : List Instr :=
  (s.blocks.filter (fun p => p.2.copy = .leading)).flatMap (fun p => (List.range p.2.warps.length).flatMap (fun w =>
    match s.copiesIn p.1 w with
    | none => []
    | some c => (if s.verdict c = .wait then [] else [.regionCommit p.1 w]) ++ (if s.partialReady c then [.partialCommit p.1 w] else [])))

end Sys2Proof.Machine
end

