-- ==== Sys2Proof/Machine/Launch.lean ====
section
/-! DEFINITION. Launches: the doorbell, the taking of a record, the end of a block and of a launch, an abort, and the cycle's choice (R35, R78 to
R85, R88, R92, R93, R170, R233, R331, R347, R349, R352, R422, R423, R425, R497). -/

namespace Sys2Proof.Machine

/-! ### The doorbell (R79) -/

/-- R79, R369: the host writes QTAIL. -/
def State.doorbell (s : State) (q : Nat) (tail : Word) : State :=
  let x := s.queue q
  if !s.host.computeEn ∨ Config.queues ≤ q then s
  else if 2 ^ x.size < (tail - x.head).toNat then
    (s.setQueue q { x with enable := false }).ringRecord 0 { code := 0x0308, source := 9, info := q + tail.toNat * 2 ^ 32 }
  else s.setQueue q { x with tail := tail }

/-- The step LAUNCH_QUEUE_DOORBELL. -/
def execLaunchQueueDoorbell (q : Nat) (tail : Word) (s : State) : Host.Outcome State Fault Refusal := .next (s.doorbell q tail)

/-! ### Taking a record (R80 to R83) -/

/-- R80, R93: a queue that has a record ready. -/
def State.queueReady (s : State) (q : Nat) : Bool :=
  let x := s.queue q
  x.enable && (decide (x.places ≠ []) || decide (x.head ≠ x.tail))

/-- R80: the queue from which the next record is taken. -/
def State.takeTurn (s : State) : Option Nat :=
  let ready := (List.range Config.queues).filter s.queueReady
  (ready.find? (fun q => decide (s.roundAt ≤ q))).orElse (fun _ => ready.head?)

/-- A launch that has just been taken. -/
def Launch.taken (q : Nat) (r : LaunchRecord) (device : Bool) : Launch :=
  { queue := q, recd := r, obj := .none, paired := false, restartable := false, interlocked := false, ctx := none,
    plan := none, device := device, waiting := [], saved := [], done := 0, failed := false, ending := none,
    aborting := none, unusable := [] }

/-- R83 phase 3: the checks that need the code object: the detail of the first that fails. -/
def objectFault (r : LaunchRecord) (o : CodeObj) : Option Nat :=
  let held := perCore o 0 129 [] []
  let copies := if r.paired || o.paired then 2 else 1
  if (r.width ≠ 0 ∧ o.width ≠ 8 * 2 ^ r.width) ∨ (r.warps ≠ 0 ∧ r.warps ≠ o.warps) then some 0x0C
  else if r.saveStride < o.saveSize then some 0x48
  else if held = 0 then some 0x00
  else if r.pipeline ∧ Config.cores * held < copies * r.blocks then some 0x08
  else none

/-- R425: the record of a load that fails. -/
def State.loadRecord (s : State) (l : Nat) (r : LaunchRecord) (f : LoadFail) : State :=
  let s := match f.addr with | some va => s.unusable l 0x00 va | none => s
  s.recordOf 0 l { code := 0x0400 + f.status, source := 9, tag := r.tag.toNat, pc := r.code, addr := f.addr, info := f.info }

/-- R82: a launch with its code object and effective flags. -/
def Launch.loaded (la : Launch) (o : CodeObj) (plan : Option PipeCtx) : Launch :=
  { la with obj := o, paired := la.recd.paired || o.paired, restartable := la.recd.restartable || o.restartable,
            interlocked := la.recd.interlocked || o.interlocked, plan := plan, waiting := List.range la.recd.blocks }

/-- R83: the record of a launch is validated and its code object loaded; none while a line that is read waits (R179). -/
def State.takeWords (s : State) (q : Nat) (words : List Word) (device : Bool) : Option State :=
  let r := LaunchRecord.ofWords words
  let la := Launch.taken q r device
  let (l, s) := s.fresh
  let invalid (s : State) (detail : Nat) : State := s.setLaunch l { la with ending := some (1, detail) }
  match lowest (recordFaults words) with
  | some off => some (invalid s off)
  | none => match s.loadObj r.code with
    | .error none => none
    | .error (some f) => some ((s.setLaunch l { la with ending := some (2, f.status) }).loadRecord l r f)
    | .ok o => match objectFault r o with
      | some off => some (invalid s off)
      | none =>
        if !r.pipeline then some (s.setLaunch l (la.loaded o none))
        else match s.planOf q r o with
          | .wait => none
          | .bad d va => some (invalid ((va.map s.refusedHere).getD s) d)
          | .ok x => some (s.setLaunch l (la.loaded o (some x)))

/-- R79, R80, R93, R497: the next record of a queue is taken; none while it cannot be read yet. -/
def State.takeFrom (s : State) (q : Nat) : Option State :=
  let x := s.queue q
  match x.places with
  | w :: rest => (s.setQueue q { x with places := rest }).takeWords q w true
  | [] =>
    let va := x.base + x.head.toNat % 2 ^ x.size * 128
    let next := s.setQueue q { x with head := x.head + 1 }
    match s.readVirt va 128 with
    | .error none => none
    | .error (some bad) => some ((next.refusedHere bad).ringRecord 0 { code := 0x0309, source := 9, addr := some bad })
    | .ok b => next.takeWords q (wordsOf 32 (ofBytes b)) false

/-- R80, R379: the record that the scheduler's round comes to is taken; none while a restart is under way. -/
def State.take (s : State) (q : Nat) : Option State :=
  if !s.host.computeEn ∨ s.mailbox.restart.isSome ∨ s.takeTurn ≠ some q then none
  else (s.takeFrom q).map (fun t => { t with roundAt := q + 1 })

/-- The step LAUNCH_RECORD_TAKE. -/
def execLaunchRecordTake (q : Nat) (s : State) : Host.Outcome State Fault Refusal := .next ((s.take q).getD s)

/-- The taking that can happen now. -/
def State.takeEvents (s : State) : List Instr :=
  match s.takeTurn with
  | some q => if (s.take q).isSome then [.launchRecordTake q] else []
  | none => []

/-! ### Blocks that stop or end (R35, R95, R331, R420) -/

/-- The warps and sprouts of a block. -/
def State.threadsOf (s : State) (blk : Nat) : List (Nat × Thread) := s.threads.filter (fun p => p.2.block = blk)

/-- R35, R95, R331: work that a block has issued and that is still under way: sprouts and breads, bulk commands, atomics.
What waits for the commit of a region does not count here. -/
def State.workLeft (s : State) (blk : Nat) : Bool :=
  (s.threadsOf blk).any (fun p => !p.2.isWarp) || s.breads.any (fun p => decide (p.2.block = blk) && !p.2.over) ||
    s.cmds.any (fun c => decide (c.block = blk) && !c.gated) || s.reqs.any (fun r => decide (r.block = blk) && !r.gated)

/-- The region that a restart of a thread goes back to: a paired copy's oldest uncommitted one (R476). -/
def Thread.backTo (th : Thread) : Nat :=
  match th.pair with
  | some p => ((p.checks.head?).map (fun c => c.region.num)).getD th.region.num
  | none => th.region.num

/-- R95 step 2, R416: a warp's committed boundaries have their results, and no committed atomic waits on the host. What a halted
one held back has been performed (R167). -/
def Thread.settled (th : Thread) : Bool :=
  th.pend.all (fun p => p.known || !decide (p.region < th.backTo)) &&
    !th.log.any (fun q => (q.atomic && th.pair.isNone) || decide (q.region < th.backTo)) && (!th.halted || decide (th.log = []))

/-- R331, R420: the accesses of a warp have been performed. -/
def Thread.over (th : Thread) : Bool := !th.live && decide (th.log = []) && th.phase.isNone

/-- R471: no region of an ended or halted paired warp is still to commit. -/
def State.committed (s : State) (t : Nat) (th : Thread) : Bool :=
  match th.pair with
  | none => true
  | some p =>
    if th.halted then (match s.copiesOf t with | some c => decide (s.verdict c = .wait) | none => true)
    else decide (p.checks = [])

/-- A thread that has halted. -/
def State.haltedThread (s : State) (t : Nat) : Bool := match s.thread t with | some th => th.halted | none => true

/-- R35, R331: one copy of a block has come to its end. -/
def State.blockOver (s : State) (id : Nat) (b : Block) : Bool :=
  b.warps.all (fun t => match s.thread t with | some th => th.over && s.committed t th | none => true) && !s.workLeft id &&
    !(s.breads.any (fun p => decide (p.2.block = id) && !(s.haltedThread p.2.tid))) && b.switch.isNone && !s.dirtyOwned b.core

/-- A block and everything of it leaves its core. (DEDUCED, log entry 50.) -/
def State.removeBlock (s : State) (id : Nat) : State :=
  let mine := (s.threadsOf id).map (·.1)
  { s with
    threads := s.threads.filter (fun p => p.2.block ≠ id), blocks := NMap.del s.blocks id,
    breads := s.breads.filter (fun p => p.2.block ≠ id), cmds := s.cmds.filter (fun c => c.block ≠ id),
    reqs := s.reqs.filter (fun r => r.block ≠ id), pipes := s.pipes.filter (fun w => !mine.contains w.tid),
    issueQ := s.issueQ.filter (fun t => !mine.contains t) }

/-- The blocks that end together: a block, or both copies of a paired one. (DEDUCED, log entry 48.) -/
def Block.unit (id : Nat) (b : Block) : List Nat := id :: b.other.toList

/-- R35, R469: a block can end. (DEDUCED, log entry 48.) -/
def State.endReady (s : State) (id : Nat) : Bool :=
  match s.block id with
  | none => false
  | some b => decide (b.copy ≠ .trailing) && !b.stopping &&
      (b.unit id).all (fun i => match s.block i with | some x => s.blockOver i x | none => true)

/-- R35, R170, R420: a block ends: its core performs a forced release, and its resources are freed. A launch that depends on
another is judged by then (R88). -/
def State.endBlock (s : State) (id : Nat) : State :=
  if !s.endReady id then s
  else match s.block id with
    | none => s
    | some b =>
      let s := (b.unit id).foldl (fun (s : State) i => match s.block i with
        | some x => (s.forcedRelease x.core).removeBlock i
        | none => s) s
      (s.judgeOne b.launch).modLaunch b.launch (fun la => { la with done := la.done + 1 })

/-- The step BLOCK_END. -/
def execBlockEnd (blk : Nat) (s : State) : Host.Outcome State Fault Refusal := .next (s.endBlock blk)

/-- The blocks that can end now. -/
def State.blockEvents (s : State) : List Instr := (s.blocks.filter (fun p => s.endReady p.1)).map (fun p => .blockEnd p.1)

/-! ### The end of a launch (R84, R422, R423) -/

/-- The resident blocks of a launch. -/
def State.residentOf (s : State) (l : Nat) : List (Nat × Block) := s.blocks.filter (fun p => p.2.launch = l)

/-- R95 steps 1 and 2: a block that stops is quiet. -/
def State.quiet (s : State) (id : Nat) (b : Block) : Bool :=
  !s.workLeft id && b.switch.isNone && b.warps.all (fun t => match s.thread t with | some th => th.settled | none => true) &&
    !s.dirtyOwned b.core

/-- R84, R423: a launch can end: every block has ended, or those that an abort stops are quiet. -/
def State.completeReady (s : State) (l : Nat) : Bool :=
  match s.launch l with
  | none => false
  | some la =>
    if la.aborting.isSome then (s.residentOf l).all (fun p => s.quiet p.1 p.2)
    else decide (s.residentOf l = []) && decide (la.saved = []) && decide (la.waiting = [])

/-- R84, R422, R423: the status and detail of a launch that ends. One that R88 ends keeps that status though blocks of it
have failed. (DESIGN CHOICE, log entry 71.) -/
def Launch.status (la : Launch) : Nat × Nat :=
  match la.aborting, la.ending with
  | some d, _ => (5, d)
  | none, some (st, d) => (st, d)
  | none, none => if la.failed then (5, 5) else (0, 0)

/-- R423 steps 3 and 4: the blocks of an aborted launch are freed. -/
def State.abandonBlocks (s : State) (l : Nat) : State :=
  (s.residentOf l).foldl (fun (s : State) p => (s.forcedRelease p.2.core).removeBlock p.1) s

/-- R423 step 5: the abort record. (DEDUCED, log entry 50.) -/
def State.abortRecord (s : State) (l : Nat) (la : Launch) : State :=
  if la.status.1 ≠ 5 then s
  else s.recordOf 0 l { code := 0x0410, step := 6, source := 9, tag := la.recd.tag.toNat, info := la.status.2 }

/-- R84, R497: the completion word; whether it is written. -/
def State.completionWord (s : State) (l : Nat) (la : Launch) : Bool × State :=
  let va := la.recd.completion
  let word := bytesOf 8 (la.recd.tag.toNat * 2 ^ 32 + la.status.2 % 2 ^ 16 * 2 ^ 16 + la.status.1)
  if va % 8 ≠ 0 then (false, s.unusable l 0x60 va)
  else match s.calm.writableVirt va 8 with
    | .ok pas => (true, s.writeLine (lineOf (pas.getD 0 0)) ((pas.zip word).map (fun p => (p.1 % 64, p.2))))
    | .error bad => (false, s.unusable l 0x60 (bad.getD va))

/-- R353: the context of a launch is free again. A move of it that is still queued goes on as a migration of its own.
(DESIGN CHOICE, log entry 78.) -/
def State.freeCtx (s : State) (la : Launch) : State :=
  match la.ctx with
  | none => s
  | some c =>
    let drop (m : Migration) : Migration := if m.ctx = some c then { m with ctx := none } else m
    { s with ctxs := NMap.del s.ctxs c,
             dies := s.dies.map (fun (p : Nat × Die) => (p.1, { p.2 with migs := p.2.migs.map drop })) }

/-- R85, R423: an ended launch is remembered, and ABORT_DONE takes its tag when ABORT_TAG named it and its completion word
is written. -/
def State.remember (s : State) (la : Launch) (written : Bool) : State :=
  let tag := la.recd.tag
  let s := { s with ended := ((tag, la.status.1) :: s.ended).take 1024 }
  if written = true ∧ s.host.aborting = some tag then { s with host := { s.host with aborting := none, abortDone := tag } } else s

/-- R84: the memory of the completion word is not held back by a bulk command (R179). -/
def State.completionFree (s : State) (la : Launch) : Bool :=
  s.mailbox.restart.isSome || match s.writableVirt la.recd.completion 8 with | .error none => false | _ => true

/-- R84, R379, R423: the completion word of a launch that ends, and its signal; a restart has none written. Whether it is. -/
def State.announce (s : State) (l : Nat) (la : Launch) : Bool × State :=
  if s.mailbox.restart.isSome then (false, s)
  else
    let (written, s) := s.completionWord l la
    (written, s.signal la.queue)

/-- R84, R423: a launch ends. -/
def State.completeLaunch (s : State) (l : Nat) : State :=
  match s.launch l with
  | none => s
  | some la =>
    if !s.completeReady l || !s.completionFree la then s
    else
      let s := if la.aborting.isSome then s.abandonBlocks l else s
      let (written, s) := (s.abortRecord l la).announce l la
      let s := (s.freeCtx la).remember la written
      ({ s with launches := NMap.del s.launches l }).judge

/-- The step LAUNCH_COMPLETION. -/
def execLaunchCompletion (l : Nat) (s : State) : Host.Outcome State Fault Refusal := .next (s.completeLaunch l)

/-- The launches that can end now. -/
def State.completeEvents (s : State) : List Instr :=
  (s.launches.filter (fun p => s.completeReady p.1 && s.completionFree p.2)).map (fun p => .launchCompletion p.1)

/-- The step ISSUE_CHOICE: consumers whose producer has ended are judged (R88), and a cycle's choice is made (R92). -/
def execIssueChoice (s : State) : Host.Outcome State Fault Refusal := .next (if s.host.computeEn then s.judge.issueChoice else s)

/-! ### The host's abort (R423) -/

/-- R423: ABORT_TAG is written. -/
def State.abortTag (s : State) (tag : Word) : State :=
  match s.launches.find? (fun p => p.2.recd.tag = tag) with
  | none => s
  | some (l, _) =>
    if tag = 0 ∨ s.host.aborting.isSome ∨ !s.host.computeEn then s
    else ({ s with host := { s.host with aborting := some tag } } : State).beginAbort l 6

/-- The step LAUNCH_ABORT. -/
def execLaunchAbort (tag : Word) (s : State) : Host.Outcome State Fault Refusal := .next (s.abortTag tag)

end Sys2Proof.Machine
end

