-- ==== Sys2Proof/Machine/Preempt.lean ====
section
/-! DEFINITION. Pre-emption: which blocks make room, and how a block stops and is saved (R66, R94 to R97, R107, R405, R477,
R496, R497). -/

namespace Sys2Proof.Machine

/-! ### The save area (R96, R496, R497) -/

/-- R95: where a block is saved. -/
def Launch.saveAt (la : Launch) (id : Nat) : Nat := la.recd.save + id * la.recd.saveStride

/-- The lines of a range of addresses, each from the first byte that the range has there, with how many it has. -/
def linesIn (va n : Nat) : List (Nat × Nat) :=
  (List.range ((va + n + 63) / 64 - va / 64)).map (fun i =>
    let first := max va (lineOf va + 64 * i)
    (first, min (va + n) (lineOf va + 64 * (i + 1)) - first))

/-- R497: the first address of a block's save range that cannot be written. -/
def State.saveBad (s : State) (la : Launch) (id : Nat) : Option Nat :=
  (linesIn (la.saveAt id) la.obj.saveSize).findSome? (fun l => match s.reach l.1 .w with | .fail => some l.1 | _ => none)

/-- R179: a line of the save range is owned by a bulk command. -/
def State.saveWaits (s : State) (la : Launch) (id : Nat) : Bool :=
  (linesIn (la.saveAt id) la.obj.saveSize).any (fun l => match s.reach l.1 .w with | .wait => true | _ => false)

/-- R95 step 5, R496: the save range is written; what its bytes say is the part's own. (DESIGN CHOICE, log entry 51.) -/
def State.writeSave (s : State) (la : Launch) (id : Nat) : State :=
  let base := la.saveAt id
  let one (t : State) (l : Nat × Nat) : State :=
    match s.reach l.1 .w with
    | .ok pa => t.writeLine (lineOf pa) ((List.range l.2).map (fun i => (pa % 64 + i, Config.saveByte s.tick (l.1 + i - base))))
    | _ => t
  let s := (linesIn base la.obj.saveSize).foldl one s
  { s with tick := s.tick + 1 }

/-! ### Which blocks make room (R94) -/

/-- R94: the blocks that are pre-empted together with a block. -/
def State.together (s : State) (id : Nat) (b : Block) : List Nat :=
  match s.launch b.launch with
  | some la => if la.recd.pipeline then (s.residentOf b.launch).map (·.1) else b.unit id
  | none => b.unit id

/-- R497: a block whose save range has been found unusable. -/
def State.unsavable (s : State) (id : Nat) : Bool :=
  match s.block id with
  | none => true
  | some b => match s.launch b.launch with
    | none => true
    | some la => la.aborting.isSome || (la.unusable.contains 0x40 && (s.saveBad la b.id).isSome)

/-- R94: blocks of a core that a block of priority `prio` may have pre-empted, the youngest first. -/
def State.lowerOn (s : State) (core prio : Nat) : List Nat :=
  let low (b : Block) : Bool := match s.launch b.launch with | some la => decide (prio < la.recd.prio) | none => false
  (((s.blocksOn core).filter (fun p => low p.2 && !p.2.stopping && !(s.together p.1 p.2).any s.unsavable)).map (·.1)).reverse

/-- Blocks of a core that are already stopping. -/
def State.stoppingOn (s : State) (core : Nat) : List Nat := ((s.blocksOn core).filter (fun p => p.2.stopping)).map (·.1)

/-- The state without a block and what is pre-empted with it. -/
def State.without (s : State) (id : Nat) : State :=
  match s.block id with
  | none => s
  | some b => (s.together id b).foldl (fun (s : State) i => s.removeBlock i) s

/-- R94: how many of the blocks of a list must go, in turn, before a block fits on a core. A block that takes others with
it, of its gang or its other copy, counts once. (DESIGN CHOICE, log entry 71.) -/
def State.roomAfter (s : State) (core : Nat) (o : CodeObj) (b : Block) : List Nat → Option Nat
  | [] => if (s.fits core o b).isSome then some 0 else none
  | id :: r => if (s.fits core o b).isSome then some 0 else ((s.without id).roomAfter core o b r).map (· + 1)

/-- A block that waits for room: its launch's code object and priority, and a core that its other copy takes. -/
structure Short where
  state  : State
  o      : CodeObj
  b      : Block
  prio   : Nat
  except : Option Nat

/-- R91, R94: what keeps blocks of a launch from being placed: the first that fits nowhere. -/
def State.shortage (s : State) (l : Nat) : List Nat → Option Short
  | [] => none
  | id :: r => match s.placeId l id with
    | some t => t.shortage l r
    | none => match s.launch l with
      | none => none
      | some la =>
        let b := ((la.saved.find? (fun v => v.block.id = id)).map (·.block)).getD (Block.fresh l id la.obj)
        let one := s.findCore la.recd.dieHint la.obj b none
        some { state := s, o := la.obj, b := b, prio := la.recd.prio, except := if la.paired then one.map (·.1) else none }

/-- R94: what a candidate is short of. -/
def State.shortOf (s : State) (c : Candidate) : Option Short :=
  match c with
  | .block l id => s.shortage l [id]
  | .gang l => match s.launch l with
    | none => none
    | some la => match s.takeCtx l la with
      | none => none
      | some t => t.shortage l (if la.saved ≠ [] then la.saved.map (fun v => v.block.id) else la.waiting)

/-- R94: the blocks of the core on which the fewest must go. (DESIGN CHOICE, log entry 51.) -/
def Short.victims (x : Short) : Option (List Nat) :=
  ((List.range Config.cores).foldl (fun (best : Option (Nat × List Nat)) core =>
    if x.except = some core then best
    else
      let l := x.state.stoppingOn core ++ x.state.lowerOn core x.prio
      match x.state.roomAfter core x.o x.b l with
      | none => best
      | some n => match best with
        | some (m, _) => if n < m then some (n, l.take n) else best
        | none => some (n, l.take n)) none).map (·.2)

/-- R90, R94: the candidates that fit nowhere and whose turn comes before that of any that fits. -/
def State.unplaced (s : State) : List (Nat × Candidate) := s.candidates.takeWhile (fun p => (s.place? p.2).isNone)

/-- R94: the block to pre-empt next. -/
def State.victim (s : State) : Option Nat :=
  s.unplaced.findSome? (fun p => match (s.shortOf p.2).bind (·.victims) with
    | none => none
    | some l => l.find? (fun id => match s.block id with | some b => !b.stopping | none => false))

/-! ### Stopping and saving (R95, R96, R477) -/

/-- R95 step 1, R497: the blocks stop issuing, unless a save range cannot be written. -/
def State.stopBlocks (s : State) (l : List Nat) : State :=
  let bad := l.findSome? (fun id => match s.block id with
    | none => none
    | some b => ((s.launch b.launch).bind (fun la => s.saveBad la b.id)).map (fun va => (b.launch, va)))
  match bad with
  | some (la, va) => s.unusable la 0x40 va
  | none => l.foldl (fun (s : State) id => s.modBlock id (fun b => { b with stopping := true })) s

/-- R95 step 3, R97, R416, R477: a warp that has not ended, or that has with accesses still logged, goes back to its region start; both copies of a paired one
roll back, which each copy's die counts (R476). -/
def State.discardWarp (s : State) (t : Nat) : State :=
  match s.thread t with
  | none => s
  | some th => match th.pair with
    | some p =>
      if th.halted || decide (p.checks = []) then s
      else
        let die := ((s.block th.block).map (fun b => dieOf b.core)).getD 0
        ((s.rollOne t).modPair t (fun q => { q with rollbacks := p.rollbacks })).modDie die
          (fun d => { d with rollbacks := bump d.rollbacks })
    | none => if th.live then s.restart t
      else if !th.halted && decide (th.log ≠ []) then (s.setThread t { th with ended := false }).restart t else s

/-- R96, R107, R113, R405: a warp as it is saved. (DESIGN CHOICE, log entry 51.) -/
def Thread.saved (th : Thread) : Thread :=
  { th with regs := { th.regs with flawed := [] }, trap := ⟨0, 0, 0, 0, 0, 0, 0⟩, ring := ⟨0, 0, 0⟩, inject := 0, injectAt := 0, checkErr := none, handler := false, held := none,
            later := none, wait := .ready, restarts := false, reached := 0, idle := 0, fetched := none, clause := none, pend := [], flags := [], faults := [], dests := [], batch := [],
            log := [], fetchWait := none, spillWait := none, spillAgain := false, spillEpoch := 0, refused := [], phase := none, skips := 0, pair := none }

/-- R96: a block as it is saved. (DESIGN CHOICE, log entry 51.) -/
def State.savedBlock (s : State) (b : Block) : SavedBlock :=
  { block := { b with copy := .only, other := none, core := 0, since := 0, warps := [], rends := [], switch := none, stopping := false },
    warps := (b.warps.filterMap s.thread).map Thread.saved }

/-- A saved block in the order of the numbers. -/
def putSaved (v : SavedBlock) : List SavedBlock → List SavedBlock
  | [] => [v]
  | w :: r => if v.block.id < w.block.id then v :: w :: r else w :: putSaved v r

/-- R95 steps 3 to 5: a block that is quiet is discarded to its region starts and saved; the trailing copy only leaves. -/
def State.saveBlock (s : State) (id : Nat) : State :=
  match s.block id with
  | none => s
  | some b =>
    let s := b.warps.foldl (fun (s : State) t => s.discardWarp t) s
    let s := s.forcedRelease b.core
    match s.block id, s.launch b.launch with
    | some b, some la =>
      let s := if b.copy = .trailing then s
        else (s.writeSave la b.id).modLaunch b.launch (fun la => { la with saved := putSaved (s.savedBlock b) la.saved })
      s.removeBlock id
    | _, _ => s

/-- R95 step 2: blocks that stop for pre-emption can be saved. -/
def State.saveReady (s : State) (l : List Nat) : Bool :=
  l.all (fun id => match s.block id with
    | none => true
    | some b => match s.launch b.launch with
      | none => false
      | some la => b.stopping && la.aborting.isNone && s.quiet id b && !s.saveWaits la b.id)

/-- R94, R95: a block is pre-empted: it stops, and once it is quiet it is saved. -/
def State.preEmpt (s : State) (id : Nat) : State :=
  match s.block id with
  | none => s
  | some b =>
    let l := s.together id b
    if b.stopping then (if s.saveReady l then l.foldl (fun (s : State) i => s.saveBlock i) s else s)
    else if s.victim = some id then s.stopBlocks l else s

/-- The step PRE_EMPTION. -/
def execPreEmption (blk : Nat) (s : State) : Host.Outcome State Fault Refusal := .next (s.preEmpt blk)

/-- The pre-emptions that can go on now. -/
def State.preEmptEvents (s : State) : List Instr :=
  s.victim.toList.map .preEmption ++
    (s.blocks.filter (fun p => p.2.stopping && s.saveReady (s.together p.1 p.2))).map (fun p => .preEmption p.1)

end Sys2Proof.Machine
end

