-- ==== Sys2Proof/Machine/Sprouts.lean ====
section
/-! DEFINITION. Bursts that arrive and the sprouts that they start (R67 to R73, R179, R180, R336, R437, R447, R475). -/

namespace Sys2Proof.Machine

/-! ### Bursts (R67, R437) -/

/-- The virtual lines of a burst. -/
def Burst.linesOf (b : Burst) : List Nat := ((b.bytes.filterMap id).map lineOf).eraseDups

/-- The first byte of a burst in a virtual line. -/
def Burst.firstIn (b : Burst) (line : Nat) : Nat := ((b.bytes.filterMap id).find? (fun va => lineOf va = line)).getD line

/-- R452, R491: the first byte of a burst that cannot be read, and the DETAIL. -/
def State.burstBad (s : State) (th : Thread) (core : Nat) (lines : List (Nat × Nat)) (b : Burst) : Option (Nat × Nat) :=
  (b.bytes.filterMap id).findSome? (fun va => (lineAt lines va).bind (fun l =>
    (s.readBad th core va (l + va % 64) 1).map (fun d => (va, d))))

/-- R179, R180: the bytes of a burst, through the L1 of its core. -/
def State.burstBytes (s : State) (br : Bread) (lines : List (Nat × Nat)) : List (Option Nat) → List Byte × State
  | [] => ([], s)
  | none :: r => let (bs, s) := s.burstBytes br lines r; (0 :: bs, s)
  | some va :: r =>
    let (b, s) := s.threadLoad br.tid br.core br.hint ((lineAt lines va).getD 0 + va % 64) 1
    let (bs, s) := s.burstBytes br lines r
    (b ++ bs, s)

/-- A burst of a bread changed. -/
def Bread.setBurst (br : Bread) (i : Nat) (f : Burst → Burst) : Bread :=
  { br with bursts := br.bursts.zipIdx.map (fun p => if p.2 = i then f p.1 else p.1) }

/-- R441: the first address of a burst at or above 2^52. -/
def Burst.far (b : Burst) : Option Nat := (b.bytes.filterMap id).find? (fun va => decide (2 ^ 52 ≤ va))

/-- R67, R437, R441, R447: a burst returns: its bytes wait for a sprout slot; or lines of it wait on the host; or it cannot be
read, and it retires as a sprout that faulted at birth. None while a line is owned. (DESIGN CHOICE, log entry 52.) -/
def State.readBurst (s : State) (id i : Nat) : Option State :=
  match s.bread id with
  | none => none
  | some br => match br.bursts[i]?, s.envOf br.tid with
    | some b, some e =>
      if b.state ≠ .unread ∨ b.waits.any (fun w => !w.told) then none
      else match b.far with
      | some va => some (s.bornFaulted id i 0x14 va)
      | none => match s.reachLines br.core .r (sinceOf b.waits) b.linesOf with
        | (none, _) => none
        | (some (ok, bad), t) =>
          if t.linesWait br.core ok then none
          else
            let final := bad.find? (fun f => !t.routed f.2)
            match final, t.burstBad e.th br.core ok b with
            | some (line, f), _ => some ((t.walkerRecords e br.pc bad).bornFaulted id i f.cause (b.firstIn line))
            | none, some (va, _) =>
              let refused := b.bytes.filterMap (fun x => x.bind (fun va => (lineAt ok va).bind (fun l =>
                if (t.refusedRead e.th br.core va (l + va % 64) 1).isSome then some (l + va % 64) else none)))
              some (((t.refusals e br.pc refused).bornFaulted id i 0x18 va).modThread br.tid (fun th => th.met b.linesOf))
            | none, none =>
              if bad ≠ [] then
                let told (va : Nat) : Bool := br.bursts.any (fun x => x.waits.any (fun w => !w.told && decide (pageOf w.line = pageOf va)))
                let t := t.engineFaults e br.pc ((bad.map (fun f => b.firstIn f.1)).filter (fun va => !told va))
                some (t.modBread id (fun br => br.setBurst i (fun b => { b with waits := t.waiting false b.firstIn bad })))
              else
                let (bytes, t) := t.burstBytes br ok b.bytes
                some (t.modBread id (fun br => br.setBurst i (fun b => { b with waits := [], state := .waiting bytes })))
    | _, _ => none

/-- The step BURST_ARRIVAL. -/
def execBurstArrival (bread burst : Nat) (s : State) : Host.Outcome State Fault Refusal := .next ((s.readBurst bread burst).getD s)

/-- The bursts that can return now. -/
def State.burstEvents (s : State) : List Instr :=
  s.breads.flatMap (fun (p : Nat × Bread) => ((List.range p.2.bursts.length).filter (fun i => (s.readBurst p.1 i).isSome)).map
    (fun i => .burstArrival p.1 i))

/-! ### Slots (R73) -/

/-- The sprouts of a block that are running. -/
def State.sproutsOf (s : State) (blk : Nat) : List (Nat × Thread) := (s.threadsOf blk).filter (fun p => !p.2.isWarp)

/-- R73: the sprout slots that a block has reserved. -/
def State.slotsOf (s : State) (blk : Nat) : Nat := match s.block blk with | some b => s.reserveOf b | none => 0

/-- R73: the unreserved slots of a core that are in use. -/
def State.borrowed (s : State) (core : Nat) : Nat :=
  ((s.blocksOn core).map (fun p => (s.sproutsOf p.1).length - s.slotsOf p.1)).sum

/-- R73: a burst of a block finds a sprout slot: the core has a free one, and the block has not used up what it has
reserved or the slot is one that no block has reserved. -/
def State.slotFree (s : State) (blk core : Nat) : Bool :=
  decide (((s.blocksOn core).map (fun p => (s.sproutsOf p.1).length)).sum < 32) &&
  (decide ((s.sproutsOf blk).length < s.slotsOf blk) ||
    decide (s.borrowed core + ((s.blocksOn core).map (fun p => s.slotsOf p.1)).sum < 32))

/-- The lowest sprout slot of a core that no sprout holds. (DESIGN CHOICE, log entry 45.) -/
def State.freeSprout (s : State) (core : Nat) : Nat :=
  let used := ((s.blocksOn core).flatMap (fun p => s.sproutsOf p.1)).map (fun p => p.2.entry)
  ((List.range 32).find? (fun n => !used.contains n)).getD 0

/-! ### The start of a sprout (R68, R69, R475) -/

/-- The bursts of a block that wait for a slot: bread, burst. -/
def State.burstsWaiting (s : State) (blk : Nat) : List (Nat × Nat) :=
  s.breads.flatMap (fun (p : Nat × Bread) => if p.2.block ≠ blk then [] else
    p.2.bursts.zipIdx.filterMap (fun b => match b.1.state with | .waiting _ => some (p.1, b.2) | _ => none))

/-- R68: the registers of a sprout. Its `rand_seed` is what its generators were seeded with. (DESIGN CHOICE, log entry 80.) -/
def Bread.regs (br : Bread) (i : Nat) (data : List Byte) : Regs :=
  let word (l : Nat) : Word := BitVec.ofNat 32 (ofBytes ((data.drop (4 * l)).take 4))
  let low := (List.range 64).foldl (fun m l => if 4 * l < data.length then m + 2 ^ l else m) 0
  let r : Regs := { v := [], s := [], k := [], m := [], tag := [], gen := [], seed := 0, fpmode := br.fpmode, ras := [], depth := 0 }
  let r := (List.range 64).foldl (fun (r : Regs) l => r.setVec 0 l (word l)) r
  let r := (r.setMask 0 (laneMask 64)).setMask 1 (BitVec.ofNat 64 low)
  let r := br.params.zipIdx.foldl (fun (r : Regs) p => r.setScal p.2 p.1) r
  r.seedAll 64 (br.seed ^^^ BitVec.ofNat 32 i)

/-- R475: what a sprout of a paired copy keeps. -/
def PairState.ofSprout (leading : Bool) : PairState :=
  { peer := 0, leading := leading, entries := [], nextEntry := 0, settled := 0, after := 0, bytes := [], checks := [], rollbacks := 0,
    exit := none }

/-- R68, R69: the sprout of a burst. -/
def State.sprout (s : State) (br : Bread) (id i : Nat) (b : Burst) (data : List Byte) (e : Env) : Thread :=
  let th := Thread.start br.block (.sprout id i) 64 (e.la.obj.handlers.getD br.handler 0) s.clock.toNat br.quad br.slot 0
    (s.freeSprout br.core) (br.regs i data)
  { th with
    reached := (s.core br.core).retired.length,
    burst := { index := BitVec.ofNat 32 i, row := BitVec.ofNat 32 b.row, col := BitVec.ofNat 32 b.col,
               bytes := BitVec.ofNat 32 data.length, last := BitVec.ofNat 32 b.last.toNat },
    pair := e.th.pair.map (fun p => .ofSprout p.leading) }

/-- R67, R68: a waiting burst of a block starts its sprout; of several, which one the spec leaves open.
(DESIGN CHOICE, log entry 52.) -/
def State.startSprout (s : State) (blk : Nat) : State :=
  match s.block blk with
  | none => s
  | some k =>
    let l := s.burstsWaiting blk
    if l = [] ∨ !s.slotFree blk k.core then s
    else
      let ((id, i), s) := s.drawFrom (0, 0) l
      match s.bread id with
      | none => s
      | some br => match br.bursts[i]?, s.envOf br.tid with
        | some b, some e => match b.state with
          | .waiting data =>
            let (t, s) := s.fresh
            (s.setThread t (s.sprout br id i b data e)).modBread id (fun br => br.setBurst i (fun b => { b with state := .running }))
          | _ => s
        | _, _ => s

/-- The step SPROUT_START. -/
def execSproutStart (blk : Nat) (s : State) : Host.Outcome State Fault Refusal := .next (s.startSprout blk)

/-- The blocks of which a sprout can start now. -/
def State.sproutEvents (s : State) : List Instr :=
  (s.blocks.filter (fun p => decide (s.burstsWaiting p.1 ≠ []) && s.slotFree p.1 p.2.core)).map (fun p => .sproutStart p.1)

end Sys2Proof.Machine
end

