-- ==== Sys2Proof/Machine/Tier.lean ====
section
/-! DEFINITION. Walks and shootdowns (R160 to R164), quarantine (R182, R453), migration and the tier split (R157 to R159, R366,
R452). -/

namespace Sys2Proof.Machine

/-! ### Walks and shootdowns -/

/-- R163: a walk that starts now; none when a line it reads is owned (R179). -/
def State.newWalk (s : State) (core va : Nat) : Option Walk :=
  let w : Walk := { core := core, va := va, stamp := s.xlat.sdGen, epoch := s.xlat.qepoch, result := none }
  match s.walk va with
  | .wait => none
  | .fault _ => some w
  | .leaf e => some { w with result := some e }

/-- R397: a walk that starts now meets a table entry that cannot be read: its controller records that. -/
def State.walkMeets (s : State) (core va : Nat) : State := match s.walk va with | .fault f => s.walkRefusal core f | _ => s

/-- R160: a walk starts for a core. -/
def State.startWalk (s : State) (core va : Nat) : State :=
  if Config.cores ≤ core ∨ 2 ^ 52 ≤ va then s
  else match s.newWalk core va with
    | none => s
    | some w => (s.walkMeets core va).modDie (dieOf core) (fun d => { d with walks := d.walks ++ [w] })

/-- The step PAGE_WALK. -/
def execPageWalk (core va : Nat) (s : State) : Host.Outcome State Fault Refusal := .next (s.startWalk core va)

/-- R162, R163: a walk ends: it fills the TLBs when it found a leaf, unless its stamp is stale: then it is redone. -/
def State.endWalk (s : State) (die idx : Nat) : State :=
  match (s.die die).walks[idx]? with
  | none => s
  | some w =>
    if w.stamp < s.xlat.sdGen then
      match s.newWalk w.core w.va with
      | none => s
      | some n => (s.walkMeets w.core w.va).modDie die (fun d => { d with walks := d.walks.set idx n })
    else
      let s := s.modDie die (fun d => { d with walks := d.walks.eraseIdx idx })
      match w.result with
      | some e => s.fillTlb w.core e
      | none => s

/-- The step WALK_END. -/
def execWalkEnd (die idx : Nat) (s : State) : Host.Outcome State Fault Refusal := .next (s.endWalk die idx)

/-- R163: a TLB entry overlaps the range of a shootdown; no pages stand for the whole address space. -/
def TlbEntry.overlaps (e : TlbEntry) (va pages : Nat) : Bool :=
  decide (pages = 0) || (decide (e.va < va + 65536 * pages) && decide (va < e.va + e.size))

/-- R163: SD_CTL.GO. (DESIGN CHOICE, log entry 53.) -/
def State.shootdown (s : State) : State :=
  let x := s.xlat
  let n := x.sdGen + 1
  let keep (l : List TlbEntry) : List TlbEntry := l.filter (fun e => !e.overlaps x.sdVa x.sdPages.toNat)
  { s with
    cores := s.cores.map (fun (p : Nat × Core) => (p.1, { p.2 with tlb := keep p.2.tlb })),
    dies := s.dies.map (fun (p : Nat × Die) => (p.1, { p.2 with tlb := keep p.2.tlb })),
    xlat := { x with sdGen := n, shoots := x.shoots ++ [n] } }

/-- The step SHOOTDOWN_START. -/
def execShootdownStart (s : State) : Host.Outcome State Fault Refusal := .next (if s.host.computeEn then s.shootdown else s)

/-- R163: the oldest shootdown can complete: every walk stamped below it has ended. -/
def State.shootReady (s : State) : Bool :=
  match s.xlat.shoots with
  | [] => false
  | n :: _ => s.dies.all (fun p => p.2.walks.all (fun w => decide (n ≤ w.stamp)))

/-- R163: the oldest shootdown completes. -/
def State.shootDone (s : State) : State :=
  if !s.shootReady then s
  else { s with xlat := { s.xlat with sdDone := s.xlat.shoots.headD 0, shoots := s.xlat.shoots.drop 1 } }

/-- The step SHOOTDOWN_COMPLETE. -/
def execShootdownComplete (s : State) : Host.Outcome State Fault Refusal := .next s.shootDone

/-- The walks and shootdowns that can end now. -/
def State.walkEnds (s : State) : List Instr :=
  (s.dies.flatMap (fun (p : Nat × Die) => (List.range p.2.walks.length).map (fun i => .walkEnd p.1 i))) ++
    (if s.shootReady then [.shootdownComplete] else [])

/-- The walks and shootdowns that can start or end now: a core may walk for the next fetch of a thread.
(DESIGN CHOICE, log entry 53.) -/
def State.walkEvents (s : State) : List Instr :=
  s.walkEnds ++
    (s.threads.filterMap (fun (p : Nat × Thread) => (s.envOf p.1).bind (fun e =>
      if e.th.live && (s.newWalk e.blk.core (pageOf e.th.pc)).isSome then some (.pageWalk e.blk.core (pageOf e.th.pc)) else none)))

/-! ### Quarantine -/

/-- R182: the epochs of the accesses in flight. (DEDUCED, log entry 55.) -/
def State.epochs (s : State) : List Nat :=
  s.cores.flatMap (fun (p : Nat × Core) =>
    (p.2.l1.filter (fun l => l.dirty ≠ [])).map (·.epoch) ++ p.2.staged.map (·.epoch)) ++
  s.threads.flatMap (fun (p : Nat × Thread) => p.2.log.map (·.epoch) ++
    (if p.2.spillWait.isSome || p.2.spillAgain then [p.2.spillEpoch] else []) ++
    (match p.2.pair with | some q => q.entries.map (·.epoch) | none => [])) ++
  s.reqs.map (·.epoch) ++ s.cmds.map (·.epoch) ++ s.breads.map (fun (p : Nat × Bread) => p.2.epoch) ++
  s.dies.flatMap (fun (p : Nat × Die) => p.2.walks.map (·.epoch))

/-- R182: QDONE. -/
def State.qdone (s : State) : Nat := s.epochs.foldl Nat.min s.xlat.qepoch

/-- R182, R453: a write to QF_COUNT. (DEDUCED, log entry 55.) -/
def State.quarantine (s : State) (n : Word) : State :=
  let x := s.xlat
  if !s.host.computeEn ∨ n = 0 then s
  else if 64 ≤ x.qf.length then
    ({ s with xlat := { x with overrun := true } } : State).ringRecord 0
      { code := 0x0202, source := 6, info := n.toNat * 2 ^ 32 + x.qfFrame }
  else { s with xlat := { x with qf := x.qf ++ [(x.qfFrame, n.toNat, x.qepoch, s.clock.toNat)], pushed := x.pushed + 1,
                                 qepoch := x.qepoch + 1 } }

/-- The step QUARANTINE_PUSH. -/
def execQuarantinePush (n : Word) (s : State) : Host.Outcome State Fault Refusal := .next (s.quarantine n)

/-- R182: the oldest entry can be released. -/
def State.frameReady (s : State) : Bool :=
  match s.xlat.qf with | [] => false | q :: _ => decide (q.2.2.1 < s.qdone)

/-- R182: the oldest entry is released. -/
def State.unquarantine (s : State) : State :=
  if !s.frameReady then s
  else { s with xlat := { s.xlat with qf := s.xlat.qf.drop 1, released := s.xlat.released + 1 } }

/-- The step QUARANTINE_RELEASE. -/
def execQuarantineRelease (s : State) : Host.Outcome State Fault Refusal := .next s.unquarantine

/-- R182: cores that hold bytes of a late entry's tag or an earlier one release. -/
def State.flushOld (s : State) : State :=
  s.lateTags.foldl (fun (s : State) t =>
    (s.cores.filter (fun p => p.2.holdsOld t)).foldl (fun (s : State) p => s.forcedRelease p.1) s) s

/-- The step QUARANTINE_TIMEOUT. -/
def execQuarantineTimeout (s : State) : Host.Outcome State Fault Refusal := .next s.flushOld

/-! ### Migration (R158, R159) -/

/-- R158: a frame number that names a frame of a die. -/
def frameOn (die f : Nat) : Bool :=
  decide (f < 2 ^ 30) && decide (f / 2 ^ 28 = die) && decide (f % 2 ^ 28 * 65536 < Config.dieBytes)

/-- R159: MIG_STATUS.BUSY. (DEDUCED, log entry 34.) -/
def Die.busy (d : Die) : Bool := decide (d.migs ≠ [])

/-- The near-memory slot that serves a frame. -/
def Die.slotOf (d : Die) (f : Nat) : Option Nat := (d.slots.find? (fun p => p.2 = f)).map (·.1)

/-- R159: the RESULT of a migration that cannot start. (DEDUCED, log entry 54.) -/
def Die.refusal (d : Die) (die : Nat) (slot : Option Nat) : Option Nat :=
  if !frameOn die d.migFrame then some 1
  else match slot with
    | none => if (d.slotOf d.migFrame).isNone then some 4 else none
    | some k =>
      if d.nearSlots ≤ k then some 3
      else if NMap.find d.slots k = some d.migFrame then some 4
      else if (NMap.find d.slots k).isSome then some 2
      else none

/-- R159: MIG_CMD.GO. -/
def State.migrate (s : State) (die : Nat) (slot : Option Nat) : State :=
  let d := s.die die
  if !s.host.computeEn ∨ Config.dies ≤ die ∨ d.busy then s
  else match d.refusal die slot with
    | some r => s.setDie die { d with result := r }
    | none => s.setDie die { d with migs := [{ frame := d.migFrame, slot := slot, moved := 0, ctx := none }] }

/-- The step MIGRATE_TO_SRAM. -/
def execMigrateToSram (die slot : Nat) (s : State) : Host.Outcome State Fault Refusal := .next (s.migrate die (some slot))
/-- The step MIGRATE_TO_GDDR7. -/
def execMigrateToGddr7 (die : Nat) (s : State) : Host.Outcome State Fault Refusal := .next (s.migrate die none)

/-- R158: the indirection entry of a migrated frame switches. -/
def Die.switch (d : Die) (m : Migration) : Die :=
  let rest := d.slots.filter (fun p => p.2 ≠ m.frame)
  { d with slots := match m.slot with | some k => NMap.put rest k m.frame | none => rest }

/-- R366: one of the frames that a context's oldest move waits for is in place. -/
def State.frameMoved (s : State) (c : Nat) : State :=
  match s.ctx c with
  | none => s
  | some x => match x.moving with
    | [] => s
    | (k, e, n) :: r =>
      if n ≤ 1 then s.moveDone c k e else s.modCtx c (fun x => { x with moving := (k, e, n - 1) :: r })

/-- R366, R452: the oldest move of a context ends in a data error, and its other migrations with it. -/
def State.moveBroken (s : State) (die c detail : Nat) : State :=
  match s.ctx c with
  | none => s
  | some x => match x.moving with
    | [] => s
    | (k, _, n) :: _ =>
      let own (l : List Migration) : List Migration :=
        let mine := l.filter (fun m => m.ctx = some c)
        l.filter (fun m => m.ctx ≠ some c) ++ mine.drop (n - 1)
      (s.modDie die (fun d => { d with migs := own d.migs })).moveFailed c k detail

/-- R452: an uncorrectable read of a 256-byte line: at least one of its 64-byte parts is poisoned.
(DEDUCED, log entry 54.) -/
def State.poisonSome (s : State) (pa : Nat) : State :=
  let (k, s) := s.draw 15
  (List.range 4).foldl (fun (s : State) i => if bitOf (k + 1) i then s.addPoison (pa / 256 * 4 + i) 4 else s) s

/-- R158, R452, R466: the next line of a die's migration moves. -/
def State.moveLine (s : State) (die : Nat) (check : ReadCheck) : State :=
  let d := s.die die
  match d.migs with
  | [] => s
  | m :: rest =>
    let pa := frameAddr m.frame + 256 * m.moved
    let (retries, found) := readOutcome check (d.slotOf m.frame).isNone
    let d := { d with ceMem := (List.range retries).foldl (fun w _ => bump w) d.ceMem }
    let s := s.setDie die d
    match found with
    | .uncorrectable =>
      let near := (d.slotOf m.frame).isSome
      let s := (s.setDie die { d with migs := rest, result := 5 }).poisonSome pa
      let s := s.ringRecord die { code := 0x0201, source := 4, physical := true, addr := some pa }
      match m.ctx with
      | some c => s.moveBroken die c (if near then 2 else 1)
      | none => s
    | _ =>
      let d := if found = .corrected then { d with ceMem := bump d.ceMem } else d
      if m.moved < 255 then s.setDie die { d with migs := { m with moved := m.moved + 1 } :: rest }
      else
        let s := s.setDie die { d.switch m with migs := rest, result := 0 }
        match m.ctx with
        | some c => s.frameMoved c
        | none => s

/-- The step MIGRATION_LINE_MOVE. -/
def execMigrationLineMove (die : Nat) (check : ReadCheck) (s : State) : Host.Outcome State Fault Refusal := .next (s.moveLine die check)

/-- The lines that can move now. -/
def State.migrationEvents (s : State) : List Instr :=
  (s.dies.filter (fun (p : Nat × Die) => p.2.busy)).map (fun (p : Nat × Die) => .migrationLineMove p.1 .clean)

/-! ### The tier split (R157, R159) -/

/-- R157, R156: an L2 that has become smaller: lines leave it, which the part chooses. (DESIGN CHOICE, log entry 73.) -/
def State.trimL2 (s : State) (die : Nat) : Nat → State
  | 0 => s
  | n + 1 =>
    let (v, s) := s.drawFrom 0 ((s.die die).l2.map (·.1))
    (s.l2Evict die v).trimL2 die n

/-- R159: a write of TIER_SPLIT. (DEDUCED, log entry 54.) -/
def State.tierSplit (s : State) (die : Nat) (val : Word) : State :=
  if !s.host.computeEn ∨ Config.dies ≤ die then s
  else
    let d := s.die die
    let d := if bitOf val.toNat 31 then { d with refused := false } else d
    let n := bitsOf val.toNat 3 0
    let held := d.slots.any (fun p => decide ((8 - n) * 1024 ≤ p.1)) ||
      d.migs.any (fun m => match m.slot with | some k => decide ((8 - n) * 1024 ≤ k) | none => false)
    if n = 0 ∨ 8 < n ∨ s.blocks ≠ [] ∨ held then s.setDie die { d with refused := true }
    else
      let d := { d with l2Units := n }
      (s.setDie die d).trimL2 die (d.l2.length - d.l2Lines)

/-- The step TIER_SPLIT_WRITE. -/
def execTierSplitWrite (die : Nat) (val : Word) (s : State) : Host.Outcome State Fault Refusal := .next (s.tierSplit die val)

end Sys2Proof.Machine
end

