-- ==== Sys2Proof/Machine/HostRegs.lean ====
section
/-! DEFINITION. The host's windows: the registers of BAR0 and BAR4 (R4, R78, R79, R159, R164, R182, R349, R368 to R374, R378, R423,
R448, R468), device memory through BAR2 (R185, R370, R454), MSI-X messages (R371), and the clock (R18). -/

namespace Sys2Proof.Machine

/-! ### Fields -/

/-- A register with the bits that a mask names taken from a written value. -/
def maskWrite (old : Nat) (val : Word) (mask : Nat) (shift : Nat) : Nat :=
  (old / 2 ^ shift % 2 ^ 32 &&& (2 ^ 32 - 1 - mask) ||| val.toNat &&& mask) * 2 ^ shift + old % 2 ^ shift +
    old / 2 ^ (shift + 32) * 2 ^ (shift + 32)

/-- The low half of an address register pair written. -/
def setLow (old : Nat) (val : Word) (mask : Nat) : Nat := maskWrite old val mask 0
/-- The high half of an address register pair written. -/
def setHigh (old : Nat) (val : Word) (mask : Nat) : Nat := maskWrite old val mask 32

/-- Where a register stands: which of the equal windows that start at `base`, and the offset in it. -/
def inWindow (base size count off : Nat) : Option (Nat × Nat) :=
  if base ≤ off ∧ off < base + size * count ∧ off % 4 = 0 then some ((off - base) / size, (off - base) % size) else none

/-- BAR4 registers are numbered after those of BAR0. -/
def bar4 : Nat := 2 ^ 20

/-! ### Writes (R4) -/

/-- R78, R79: a write in a queue's window. -/
def State.writeQueue (s : State) (q o : Nat) (val : Word) : State :=
  let x := s.queue q
  match o with
  | 0x00 => if x.enable then s else s.setQueue q { x with base := setLow x.base val 0xFFFFFF80 }
  | 0x04 => if x.enable then s else s.setQueue q { x with base := setHigh x.base val 0xFFFFF }
  | 0x08 =>
    let n := bitsOf val.toNat 4 0
    let size := if x.enable ∨ n < 4 ∨ 16 < n then x.size else n
    s.setQueue q { x with enable := bitOf val.toNat 31, size := size }
  | 0x10 => s.doorbell q val
  | _ => s

/-- R159: a write in a die's memory-control window. -/
def State.writeMem (s : State) (die o : Nat) (val : Word) : State :=
  match o with
  | 0x00 => s.tierSplit die val
  | 0x08 => s.modDie die (fun d => { d with migFrame := bitsOf val.toNat 29 0 })
  | 0x0C => if !bitOf val.toNat 31 then s else s.migrate die (if bitOf val.toNat 30 then some (bitsOf val.toNat 12 0) else none)
  | _ => s

/-- R164, R182, R448: a write to a translation, quarantine or page-fault register. -/
def State.writeXlat (s : State) (o : Nat) (val : Word) : State :=
  let x := s.xlat
  match o with
  | 0x00 => { s with xlat := { x with sdVa := setLow x.sdVa val 0xFFFF0000 } }
  | 0x04 => { s with xlat := { x with sdVa := setHigh x.sdVa val 0xFFFFF } }
  | 0x08 => { s with xlat := { x with sdPages := val } }
  | 0x0C => if bitOf val.toNat 31 then s.shootdown else s
  | 0x18 => { s with xlat := { x with ptRoot := setLow x.ptRoot val 0xFFFF8000 } }
  | 0x1C => { s with xlat := { x with ptRoot := setHigh x.ptRoot val 0xFFFF } }
  | 0x100 => { s with xlat := { x with qfFrame := bitsOf val.toNat 29 0 } }
  | 0x104 => s.quarantine val
  | 0x108 => if bitOf val.toNat 30 then { s with xlat := { x with overrun := false } } else s
  | 0x200 => { s with xlat := { x with route := bitOf val.toNat 0 } }
  | 0x204 => { s with xlat := { x with pfVa := setLow x.pfVa val 0xFFFF0000 } }
  | 0x208 => { s with xlat := { x with pfVa := setHigh x.pfVa val 0xFFFFF } }
  | 0x20C => if !bitOf val.toNat 31 then s else if bitOf val.toNat 0 then s.pageEnd else s.pageRetry
  | _ => s

/-- R349: a write of a queue's descriptor address. -/
def State.writePdesc (s : State) (q o : Nat) (val : Word) : State :=
  let x := s.queue q
  match o with
  | 0x00 => s.setQueue q { x with pdesc := setLow x.pdesc val 0xFFFFFFC0 }
  | 0x04 => s.setQueue q { x with pdesc := setHigh x.pdesc val 0xFFFFF }
  | _ => s

/-- R372: a write in a die's error-log window. -/
def State.writeElog (s : State) (die o : Nat) (val : Word) : State :=
  let d := s.die die
  let busy := decide (d.elogHead ≠ d.elogTail)
  let n := bitsOf val.toNat 4 0
  match o with
  | 0x00 => if busy then s else s.setDie die { d with elogLo := val &&& 0xFFFFFF00 }
  | 0x04 => if busy then s else s.setDie die { d with elogHi := val &&& 0xFFFF }
  | 0x08 => if busy ∨ (n ≠ 0 ∧ (n < 6 ∨ 16 < n)) then s else s.setDie die { d with elogSize := n }
  | 0x10 => s.setDie die { d with elogTail := val }
  | _ => s

/-- R374: a write in a link's window. -/
def State.writeLink (s : State) (n o : Nat) (val : Word) : State :=
  let l := s.link n
  match o with
  | 0x00 => s.setLink n { l with inFrame := bitsOf val.toNat 29 0 }
  | 0x04 => s.setLink n { l with inFrames := val }
  | _ => s

/-- R371: a write in the MSI-X table: word 3 of a vector holds its mask bit. -/
def State.writeMsix (s : State) (k : Nat) (val : Word) : State :=
  let v := if k % 4 = 3 then val &&& 1 else if k % 4 = 0 then val &&& 0xFFFFFFFC else val
  { s with host := { s.host with msix := NMap.put s.host.msix k v } }

/-- R468: a write of a silent-error counter of a die. -/
def State.writeSilent (s : State) (die o : Nat) (val : Word) : State :=
  match o with
  | 0x00 => s.modDie die (fun d => { d with ceReg := val })
  | 0x04 => s.modDie die (fun d => { d with ceMem := val })
  | 0x08 => s.modDie die (fun d => { d with mismatch := val })
  | 0x0C => s.modDie die (fun d => { d with retired := val })
  | 0x10 => s.modDie die (fun d => { d with rollbacks := val })
  | _ => s

/-- R378: a write to a mailbox register or to the data buffer, other than MB_CMD. -/
def State.writeMailbox (s : State) (o : Nat) (val : Word) : State :=
  let m := s.mailbox
  if o = 4 then { s with mailbox := { m with overrun := m.overrun && !bitOf val.toNat 30 } }
  else if o = 8 then { s with mailbox := { m with len := val } }
  else if 0x100 ≤ o ∧ o < 0x1000 ∧ o % 4 = 0 then
    { s with mailbox := { m with
      buf := (bytesOf 4 val.toNat).zipIdx.foldl (fun b p => NMap.put b (o - 0x100 + p.2) p.1) m.buf } }
  else s

/-- R369: W2_BASE written. -/
def State.writeW2 (s : State) (val : Word) : State := { s with host := { s.host with w2base := bitsOf val.toNat 11 0 } }

/-- R468: TEST_MODE written. -/
def State.writeTest (s : State) (val : Word) : State :=
  if s.launches ≠ [] then s else { s with host := { s.host with testMode := bitOf val.toNat 0 } }

/-- A write to a register of BAR0 while compute is enabled (R368, R369). -/
def State.writeBar0 (s : State) (off : Nat) (val : Word) : State :=
  match inWindow 0x10000 0x20 64 off with
  | some (q, o) => s.writeQueue q o val
  | none => match inWindow 0x20000 0x100 4 off with
    | some (d, o) => s.writeMem d o val
    | none => match inWindow 0x30000 0x300 1 off with
      | some (_, o) => s.writeXlat o val
      | none => match inWindow 0x40000 0x10 64 off with
        | some (q, o) => s.writePdesc q o val
        | none => match inWindow 0x50000 0x20 4 off with
          | some (d, o) => s.writeElog d o val
          | none => match inWindow 0x60000 0x20 8 off with
            | some (n, o) => s.writeLink n o val
            | none => match inWindow 0x70000 4 280 off with
              | some (k, _) => s.writeMsix k val
              | none => match inWindow 0x90100 0x20 4 off with
                | some (d, o) => s.writeSilent d o val
                | none => if off = 0x80000 then s.abortTag val else if off = 0x90000 then s.writeTest val else s

/-- R4, R369: a host write of a 32-bit register, other than MB_CMD. -/
def State.writeReg (s : State) (off : Nat) (val : Word) : State :=
  if bar4 ≤ off then s.writeMailbox (off - bar4) val
  else if off = 0x10 then s.writeW2 val
  else if !s.host.computeEn then s
  else s.writeBar0 off val

/-! ### Reads (R4) -/

/-- R369: STATUS. -/
def HostRegs.status (h : HostRegs) : Nat := h.computeEn.toNat * 2 ^ 31 + h.safe.toNat * 2 ^ 30 + h.spared * 256 + h.step

/-- R78: a queue's registers. -/
def Queue.read (x : Queue) (o : Nat) : Nat :=
  match o with
  | 0x00 => x.base % 2 ^ 32 | 0x04 => x.base / 2 ^ 32 | 0x08 => x.enable.toNat * 2 ^ 31 + x.size
  | 0x0C => x.head.toNat | 0x10 => x.tail.toNat | _ => 0

/-- R159: near-memory slots that no frame has, nor takes now. (DEDUCED, log entry 54.) -/
def Die.slotsFree (d : Die) : Nat :=
  let coming := match d.migs with | m :: _ => (match m.slot with | some k => (NMap.find d.slots k).isNone | none => false) | [] => false
  d.nearSlots - d.slots.length - coming.toNat

/-- R159: a die's memory-control registers. -/
def Die.read (d : Die) (o : Nat) : Nat :=
  match o with
  | 0x00 => d.refused.toNat * 2 ^ 31 + d.l2Units | 0x08 => d.migFrame | 0x10 => d.busy.toNat * 2 ^ 31 + d.result
  | 0x14 => d.slotsFree | _ => 0

/-- R164, R182, R448: the translation, quarantine and page-fault registers. -/
def State.readXlat (s : State) (o : Nat) : Nat :=
  let x := s.xlat
  match o with
  | 0x00 => x.sdVa % 2 ^ 32 | 0x04 => x.sdVa / 2 ^ 32 | 0x08 => x.sdPages.toNat | 0x10 => x.sdGen | 0x14 => x.sdDone
  | 0x18 => x.ptRoot % 2 ^ 32 | 0x1C => x.ptRoot / 2 ^ 32
  | 0x100 => x.qfFrame
  | 0x108 => (decide (64 ≤ x.qf.length)).toNat * 2 ^ 31 + x.overrun.toNat * 2 ^ 30 + x.qf.length
  | 0x10C => x.pushed.toNat | 0x110 => x.released.toNat | 0x114 => x.qepoch | 0x118 => s.qdone
  | 0x200 => x.route.toNat | 0x204 => x.pfVa % 2 ^ 32 | 0x208 => x.pfVa / 2 ^ 32 | 0x210 => s.pagesPending
  | _ => 0

/-- R372: a die's error-log registers. -/
def Die.readElog (d : Die) (o : Nat) : Nat :=
  match o with
  | 0x00 => d.elogLo.toNat | 0x04 => d.elogHi.toNat | 0x08 => d.elogSize | 0x0C => d.elogHead.toNat | 0x10 => d.elogTail.toNat
  | _ => 0

/-- R374: a link's registers. -/
def Link.read (l : Link) (o : Nat) : Nat :=
  match o with
  | 0x00 => l.inFrame | 0x04 => l.inFrames.toNat | 0x08 => l.up.toNat * 2 ^ 31 + (if l.up then l.rate else 0) | _ => 0

/-- R468: a die's silent-error counters. -/
def Die.readSilent (d : Die) (o : Nat) : Nat :=
  match o with
  | 0x00 => d.ceReg.toNat | 0x04 => d.ceMem.toNat | 0x08 => d.mismatch.toNat | 0x0C => d.retired.toNat
  | 0x10 => d.rollbacks.toNat | _ => 0

/-- A register of BAR0 while compute is enabled. -/
def State.readBar0 (s : State) (off : Nat) : Nat :=
  match inWindow 0x10000 0x20 64 off with
  | some (q, o) => (s.queue q).read o
  | none => match inWindow 0x20000 0x100 4 off with
    | some (d, o) => (s.die d).read o
    | none => match inWindow 0x30000 0x300 1 off with
      | some (_, o) => s.readXlat o
      | none => match inWindow 0x40000 0x10 64 off with
        | some (q, o) => if o = 0 then (s.queue q).pdesc % 2 ^ 32 else if o = 4 then (s.queue q).pdesc / 2 ^ 32 else 0
        | none => match inWindow 0x50000 0x20 4 off with
          | some (d, o) => (s.die d).readElog o
          | none => match inWindow 0x60000 0x20 8 off with
            | some (n, o) => (s.link n).read o
            | none => match inWindow 0x70000 4 280 off with
              | some (k, _) => (NMap.get 0 s.host.msix k).toNat
              | none => match inWindow 0x71000 4 3 off with
                | some (k, _) => ((List.range 32).filter (fun i => s.host.pending.contains (32 * k + i))).foldl (fun m i => m + 2 ^ i) 0
                | none => match inWindow 0x90100 0x20 4 off with
                  | some (d, o) => (s.die d).readSilent o
                  | none =>
                    if off = 0x80004 then s.host.abortDone.toNat else if off = 0x90000 then s.host.testMode.toNat else 0

/-- R378: a mailbox register. -/
def Mailbox.read (m : Mailbox) (o : Nat) : Nat :=
  if o = 0 then m.cmd.toNat
  else if o = 4 then m.busy.toNat * 2 ^ 31 + m.overrun.toNat * 2 ^ 30 + m.result
  else if o = 8 then m.len.toNat
  else if 0x100 ≤ o ∧ o < 0x1000 ∧ o % 4 = 0 then ofBytes ((List.range 4).map (fun i => NMap.get 0 m.buf (o - 0x100 + i)))
  else 0

/-- R4, R369: a 32-bit register as the host reads it. -/
def State.readReg (s : State) (off : Nat) : Word :=
  BitVec.ofNat 32 (
    if bar4 ≤ off then s.mailbox.read (off - bar4)
    else if off = 0 then s.host.status
    else if off = 4 then 0xC2
    else if off = 0x10 then s.host.w2base
    else if !s.host.computeEn then 0
    else s.readBar0 off)

/-! ### BAR2 (R185, R370, R454) -/

/-- R370: the physical address of a BAR2 offset. -/
def State.bar2Addr (s : State) (off : Nat) : Nat := s.host.w2base * 2 ^ 36 + off

/-- R370: an access of `n` bytes names local frames only, inside the window (R368). -/
def State.bar2Local (s : State) (off n : Nat) : Bool :=
  decide (off + n ≤ bar2Size) && (List.range n).all (fun i => isLocal (s.bar2Addr off + i))

/-- R179: the host waits for a line that a bulk command owns. -/
def State.bar2Waits (s : State) (off n : Nat) : Bool :=
  s.host.computeEn && s.bar2Local off n && (List.range n).any (fun i => s.owned (s.bar2Addr off + i))

/-- R454: the record of an access that names no frame. -/
def State.bar2Record (s : State) (off : Nat) : State :=
  s.ringRecord 0 { code := 0x0203, source := 6, physical := true, addr := some (s.bar2Addr off) }

/-- A byte as the host reads it: of a poisoned part the spec gives no value. (DEDUCED, log entry 56.) -/
def State.hostByte (s : State) (pa : Nat) : Byte :=
  if s.poisoned pa then BitVec.ofNat 8 (Config.choice (s.tick + pa)) else s.homeByte pa

/-- R370, R488: what a host read returns, with a successful completion. -/
def State.readDone (s : State) (bytes : List Byte) : State := { s with host := { s.host with readData := bytes, readUr := false } }

/-- R370: a host read of device memory. (DEDUCED, log entry 56.) -/
def State.bar2Read (s : State) (off n : Nat) : State :=
  let ones (s : State) : State := s.readDone (List.replicate n 0xFF)
  if !s.host.computeEn then ones s
  else if !s.bar2Local off n then ones (s.bar2Record off)
  else if s.bar2Waits off n then s
  else
    let pa := s.bar2Addr off
    let s := (linesIn pa n).foldl (fun (s : State) l => s.touchL2 l.1 0) s
    { s.readDone ((List.range n).map (fun i => s.hostByte (pa + i))) with tick := s.tick + 1 }

/-- The step HOST_BAR2_READ. -/
def execHostBar2Read (off n : Nat) (s : State) : Host.Outcome State Fault Refusal := .next (s.bar2Read off n)

/-- R185, R452: bytes that the host or a peer writes at their home slices, line by line. -/
def State.writeLines (s : State) (pa : Nat) (bytes : List Byte) : State :=
  (linesIn pa bytes.length).foldl (fun (s : State) l =>
    (s.touchL2 l.1 0).writeLine (lineOf l.1)
      (((bytes.drop (l.1 - pa)).take l.2).zipIdx.map (fun p => (l.1 % 64 + p.2, p.1)))) s

/-- R370: a host write of device memory. (DEDUCED, log entry 56.) -/
def State.bar2Write (s : State) (off : Nat) (bytes : List Byte) : State :=
  if !s.host.computeEn then s
  else if !s.bar2Local off bytes.length then s.bar2Record off
  else if s.bar2Waits off bytes.length then s
  else s.writeLines (s.bar2Addr off) bytes

/-- The step HOST_BAR2_WRITE. -/
def execHostBar2Write (off : Nat) (bytes : List Byte) (s : State) : Host.Outcome State Fault Refusal := .next (s.bar2Write off bytes)

/-! ### MSI-X (R371, R489) -/

/-- R371: a vector whose message can be sent. -/
def State.canSend (s : State) (vec : Nat) : Bool :=
  s.host.pending.contains vec && s.host.pcieUp && !bitOf (NMap.get 0 s.host.msix (4 * vec + 3)).toNat 0

/-- R371: the message of a vector is sent. (DESIGN CHOICE, log entry 57.) -/
def State.send (s : State) (vec : Nat) : State :=
  if s.canSend vec then { s with host := { s.host with pending := s.host.pending.filter (· ≠ vec) } } else s

/-- The step MSIX_SEND. -/
def execMsixSend (vec : Nat) (s : State) : Host.Outcome State Fault Refusal := .next (s.send vec)

/-- The messages that can be sent now. -/
def State.msixEvents (s : State) : List Instr := (s.host.pending.filter s.canSend).map .msixSend

/-! ### The clock (R18) -/

/-- R18: the arithmetic clock after Ocwick has measured the module's power. The spec gives 25 MHz for lowering: the step by
which the clock is raised, and the floor, are the model's. (DESIGN CHOICE, log entry 58.) -/
def throttled (mhz watts : Nat) : Nat := if 2400 < watts then max 25 (mhz - 25) else min 800 (mhz + 25)

/-- The step CLOCK_THROTTLE. -/
def execClockThrottle (watts : Nat) (s : State) : Host.Outcome State Fault Refusal :=
  .next { s with host := { s.host with mhz := throttled s.host.mhz watts } }

end Sys2Proof.Machine
end

