-- ==== Sys2Proof/Machine/SilentEvents.lean ====
section
/-! DEFINITION. Steps of the clock (R363, R365, R459, R486), the background scrub (R467), and silent errors that checked issue and the
register check bits find (R457 to R465). -/

namespace Sys2Proof.Machine

/-! ### The clock's steps -/

/-- R365, R487: the counters of a context are halved, and a new ageing period begins. -/
def PipeCtx.age (x : PipeCtx) : PipeCtx :=
  { x with counters := (x.counters.map (fun (p : Nat × Nat) => (p.1, p.2 / 2))).filter (fun (p : Nat × Nat) => p.2 ≠ 0), moves := 0, thrashed := false }

/-- The step RESIDENCY_COUNTER_HALVING: of every context, whether its gang is resident or not. (DESIGN CHOICE, log entry 78.) -/
def execResidencyCounterHalving (s : State) : Host.Outcome State Fault Refusal :=
  .next { s with ctxs := s.ctxs.map (fun (p : Nat × PipeCtx) => (p.1, p.2.age)) }

/-- R459: every count that is not zero falls by 1. -/
def Core.decay (c : Core) : Core :=
  { c with counts := (c.counts.map (fun (p : Nat × Nat) => (p.1, p.2 - 1))).filter (fun (p : Nat × Nat) => p.2 ≠ 0) }

/-- The step MISMATCH_COUNT_DECAY. -/
def execMismatchCountDecay (s : State) : Host.Outcome State Fault Refusal :=
  .next (s.cores.foldl (fun (s : State) p => s.modCore p.1 Core.decay) s)

/-! ### Forced short batches (R359, R362, R363) -/

/-- How the walk of the open list ends. -/
inductive Forced
  /-- a page to push: its address, row count and ring -/
  | push (page count ring : Nat)
  | nothing
  /-- a count word's line is owned by a bulk command (R179) -/
  | wait
  deriving DecidableEq, Repr

/-- R359: the ring of an expert's buffers. -/
def PipeCtx.bufferRing (x : PipeCtx) (e : Nat) : Option Nat := x.rings.findIdx? (fun r => r.expert = some e)

/-- R363: the walk of the open list from its oldest page. A page whose count word cannot be reached, or is poisoned, stays in the
list; the controller that refuses it records that (R397). (DESIGN CHOICE, log entry 59.) -/
def State.forceWalk (s : State) (x : PipeCtx) : List Nat → Forced × PipeCtx × State
  | [] => (.nothing, x, s)
  | p :: r =>
    match s.reach (x.pageAt p) .rw with
    | .wait => (.wait, x, s)
    | .fail => (s.refusedHere (x.pageAt p)).forceWalk x r
    | .ok pa => if s.poisoned pa then (s.refusedHere (x.pageAt p)).forceWalk x r else
      let old := ofBytes (s.homeBytes pa 4)
      let left := { x with opened := x.opened.filter (· ≠ p) }
      if bitOf old 31 then s.forceWalk left r
      else if bitsOf old 15 0 = 0 then s.forceWalk x r
      else
        let s := s.writeLine (lineOf pa) ((bytesOf 4 (old + 2 ^ 31)).zipIdx.map (fun b => (pa % 64 + b.2, b.1)))
        match left.bufferRing (bitsOf old 23 16) with
        | some n => (.push (x.pageAt p) (bitsOf old 15 0) n, left, s)
        | none => (.nothing, left, s)

/-- R362: a slot on a buffer ring for a forced batch. -/
def forcedSlot (page count : Nat) : List Word :=
  [BitVec.ofNat 32 page, BitVec.ofNat 32 (page / 2 ^ 32), BitVec.ofNat 32 count, 1] ++ List.replicate 60 0

/-- R363: a context forces a short batch, while the conditions still hold. (DESIGN CHOICE, log entry 59.) -/
def State.force (s : State) (c : Nat) : State :=
  match s.ctx c with
  | none => s
  | some x =>
    if x.waited < x.forceAfter ∨ !s.starved x then s
    else match s.forceWalk x x.opened with
      | (.wait, _, _) => s
      | (.nothing, x, s) => { s with ctxs := NMap.put s.ctxs c { x with waited := 0 } }
      | (.push page count n, x, s) =>
        let x := match x.ring n with | some r => x.setRing n (r.push (forcedSlot page count)) | none => x
        { s with ctxs := NMap.put s.ctxs c { x with waited := 0 } }

/-- The step FORCED_SHORT_BATCH. -/
def execForcedShortBatch (ctx : Nat) (s : State) : Host.Outcome State Fault Refusal := .next (s.force ctx)

/-- R486: the record of a pipeline that stalls. -/
def State.stallRecord (s : State) (c : Nat) : State :=
  match s.ctx c with
  | none => s
  | some x => match s.launch x.launch with
    | none => s
    | some la =>
      if x.stalled < 2 ^ 24 ∨ x.reported then s
      else (s.modCtx c (fun x => { x with reported := true })).recordOf 0 x.launch
        { code := 0x0301, source := 9, tag := la.recd.tag.toNat }

/-- The step PIPELINE_STALL. -/
def execPipelineStall (ctx : Nat) (s : State) : Host.Outcome State Fault Refusal := .next (s.stallRecord ctx)

/-! ### Errors in storage outside the registers (R466, R467) -/

/-- R468: the die that counts an error of a place. (DEDUCED, log entry 60.) -/
def State.storageDie (s : State) : Storage → Nat
  | .home pa | .l2 pa _ => homeDie pa
  | .l1 core _ | .staged core _ => dieOf core
  | .scratch blk _ => ((s.block blk).map (fun b => dieOf b.core)).getD 0
  | .fifo c ring _ _ => (((s.ctx c).bind (fun x => (x.ring ring).bind (fun r =>
      s.blocks.find? (fun p => p.2.launch = x.launch && p.2.id = r.consumer)))).map (fun p => dieOf p.2.core)).getD 0
  | .buffer _ pa => homeDie pa

/-- R466: a correction or a refetch is counted. -/
def State.countMem (s : State) (die : Nat) : State := s.modDie die (fun d => { d with ceMem := bump d.ceMem })

/-- R467: the record of a scrub that cannot correct a line. -/
def State.scrubRecord (s : State) (scrub : Bool) (die pa : Nat) : State :=
  if scrub then s.ringRecord die { code := 0x0106, source := 4, physical := true, addr := some (lineOf pa) } else s

/-- R466: pending bytes of a 64-byte part are in error, with the DETAIL that a read of them meets. -/
def PendByte.spoil (pa detail : Nat) (b : PendByte) : PendByte := if lineOf b.pa = lineOf pa then { b with bad := some detail } else b

/-- R466, R469: the pending bytes that a core holds in a 64-byte part are in error. -/
def State.spoilPending (s : State) (core pa detail : Nat) : State :=
  let on (blk : Nat) : Bool := (s.block blk).any (fun b => decide (b.core = core))
  { s with
    threads := s.threads.map (fun (p : Nat × Thread) => if on p.2.block then
      (p.1, { p.2 with pair := p.2.pair.map (fun q => { q with bytes := q.bytes.map (·.spoil pa detail) }) }) else p),
    breads := s.breads.map (fun (p : Nat × Bread) => if p.2.core = core then
      (p.1, { p.2 with left := p.2.left.map (fun x => (x.1, x.2.spoil pa detail)) }) else p) }

/-- R466, R469: a core holds pending bytes among these addresses. -/
def State.holdsPending (s : State) (core : Nat) (pas : List Nat) : Bool :=
  s.threads.any (fun p => (s.block p.2.block).any (fun b => decide (b.core = core)) &&
    (match p.2.pair with | some q => q.bytes.any (fun b => pas.contains b.pa) | none => false)) ||
  s.breads.any (fun p => decide (p.2.core = core) && p.2.left.any (fun b => pas.contains b.2.pa))

/-- R466: entries that the compare buffer of a line's home slice holds of a copy are in error. -/
def State.spoilEntries (s : State) (tid pa : Nat) : State :=
  let bad (x : Entry) : Entry := if x.pa = lineOf pa then { x with bad := true } else x
  let s := s.modThread tid (fun th => { th with pair := th.pair.map (fun q => { q with entries := q.entries.map bad }) })
  { s with breads := s.breads.map (fun (p : Nat × Bread) => if p.2.tid = tid then
      (p.1, { p.2 with done := p.2.done.map (fun x => (x.1, bad x.2)) }) else p) }

/-- R466: a slot of a ring has a poisoned part. -/
def Ring.spoil (r : Ring) (slot word : Nat) : Ring := { r with bad := (4 * slot + word / 16) :: r.bad }

/-- R466, R467: an error that cannot be corrected: a clean copy is fetched afresh, the only copy is poisoned.
(DESIGN CHOICE, log entry 9, DEDUCED, log entry 60.) -/
def State.spoil (s : State) (scrub : Bool) (p : Storage) : State :=
  match p with
  | .home pa =>
    if isLocal (lineOf pa) then (s.addPoison (pa / 64) (s.storageDetail pa)).scrubRecord scrub (homeDie pa) pa else s
  | .l2 pa dirty =>
    if !isLocal (lineOf pa) then s
    else if dirty then (s.addPoison (pa / 64) 2).scrubRecord scrub (homeDie pa) pa
    else s.countMem (homeDie pa)
  | .l1 core pa => match (s.core core).line pa with
    | none => s
    | some l =>
      let word := (List.range 8).map (pa / 8 * 8 + ·)
      let dirty := word.any (fun a => (NMap.find l.dirty (a % 64)).isSome)
      let pending := s.holdsPending core word
      let s := if dirty || pending then s.modCore core (·.putLine { l with bad := true }) else s
      let s := if dirty || pending then s.spoilPending core pa 3 else s
      if dirty || pending then s else (s.discardLine core pa).countMem (dieOf core)
  | .staged core pa =>
    let staged := ((s.core core).stagedLine pa).isSome
    let pending := ((s.core core).line pa).isNone && s.holdsPending core ((List.range 64).map (lineOf pa + ·))
    if !staged && !pending then s
    else
      let s := s.modCore core (fun c => { c with
        staged := c.staged.map (fun l => if l.pa = lineOf pa then { l with bad := true, mark := if l.bad then l.mark else 2 } else l) })
      (if pending then s.spoilPending core pa 2 else s).scrubRecord scrub (dieOf core) pa
  | .scratch blk off => s.modBlock blk (fun b => { b with badRows := (off / 64) :: b.badRows })
  | .fifo c ring slot word => s.modCtx c (fun x => match x.ring ring with
    | some r => x.setRing ring (r.spoil slot word) | none => x)
  | .buffer tid pa => (s.spoilEntries tid pa).scrubRecord scrub (s.storageDie p) pa

/-- R466: a place in GDDR-7. -/
def State.inGddr (s : State) : Storage → Bool | .home pa => !s.inSram pa | _ => false

/-- R466, R467: a read of storage finds what `check` says. (DESIGN CHOICE, log entry 9.) -/
def State.scrub (s : State) (scrub : Bool) (p : Storage) (check : ReadCheck) : State :=
  let (retries, found) := readOutcome check (s.inGddr p)
  let s := (List.range retries).foldl (fun (s : State) _ => s.countMem (s.storageDie p)) s
  match found with
  | .clean | .crc _ => s
  | .corrected => s.countMem (s.storageDie p)
  | .uncorrectable => s.spoil scrub p

/-- The step SCRUB_LINE. -/
def execScrubLine (scrub : Bool) (p : Storage) (check : ReadCheck) (s : State) : Host.Outcome State Fault Refusal :=
  .next (s.scrub scrub p check)

/-! ### Silent errors of an instruction (R457 to R465) -/

/-- The instruction that a thread would issue next becomes the one that issues now; none when there is no such
instruction. -/
def State.atNext (s : State) (tid : Nat) : Option (Env × Decoded × State) :=
  match s.envOf tid with
  | none => none
  | some e =>
    if !e.th.live || !e.mayIssue then none
    else match s.fetchNext e with
      | (.found pc words d cl, s) =>
        let s := (s.modThread tid (fun th => { th with pc := pc, clause := cl }))
        let s := { s with cur := { tid := tid, pc := pc, words := words } }
        (s.envOf tid).map (fun e => (e, d, s))
      | _ => none

/-- R456: the lanes that checked issue compares: the active ones, and lane 0 for what an instruction computes once. -/
def Env.comparedLanes (e : Env) (o : Ops) : List Nat :=
  e.th.lanes.filter (fun l => (e.th.active o).getLsbD l || (decide (l = 0) && (allScalar o || decide (o.scope.code ≠ 0))))

/-- R456: the threads of the lane space of an instruction. -/
def Env.space (e : Env) (o : Ops) : List Nat := if o.scope.code < 2 then [e.tid] else (e.setOf o).2.2

/-- R457 to R462: checked issue of a thread's next instruction finds lanes to mismatch. -/
def State.replay (s : State) (tid : Nat) (lanes : DWord) (mismatches : Nat) (agrees : Bool) (votes : List Vote) : State :=
  match s.atNext tid with
  | some (e, .instr i, t) => match i.ops with
    | none => s
    | some o =>
      let l := (e.comparedLanes o).filter (fun i => lanes.getLsbD i)
      if l = [] then s else (t.mismatch e (e.space o) l mismatches agrees votes).2
  | _ => s

/-- The step INSTRUCTION_REPLAY. -/
def execInstructionReplay (tid : Nat) (lanes : DWord) (mismatches : Nat) (agrees : Bool) (votes : List Vote) (s : State) :
    Host.Outcome State Fault Refusal := .next (s.replay tid lanes mismatches agrees votes)

/-- The lane of a checked word. -/
def wordLane : CheckedWord → Nat | .v _ l | .m _ l _ | .tag _ l => l | _ => 0xFF

/-- R464, R465: a thread's next instruction reads a word in error. (DESIGN CHOICE, log entry 9.) -/
def State.wordError (s : State) (tid : Nat) (w : CheckedWord) (check : ReadCheck) : State :=
  match s.atNext tid with
  | none => s
  | some (e, _, t) => match check with
    | .clean | .crc _ => s
    | .corrected => t.correctReg e.blk.core
    | .uncorrectable => t.uncorrectable e w (wordLane w)

/-- The step REGISTER_ERROR_CORRECTION. -/
def execRegisterErrorCorrection (tid : Nat) (w : CheckedWord) (check : ReadCheck) (s : State) :
    Host.Outcome State Fault Refusal := .next (s.wordError tid w check)

end Sys2Proof.Machine
end

