-- ==== Sys2Proof/Machine/Mailbox.lean ====
section
/-! DEFINITION. Ocwick: the start sequence and its log (R376, R377, R492 to R495), and the mailbox commands (R371, R378 to R380). -/

namespace Sys2Proof.Machine

/-! ### The start sequence (R376, R493) -/

/-- A start under way. -/
structure Boot where
  start     : Nat
  ow        : Ocwick
  /-- entries of this start, oldest first -/
  log       : List StartEntry
  /-- the step that enters the safe state -/
  bad       : Option Nat
  /-- spared cores, PCIe generation and Nertu rates of this start -/
  spared    : List Nat
  gen       : Nat
  rates     : List Nat

/-- R492: an entry of this start. -/
def Boot.say (b : Boot) (step outcome kind object value : Nat) : Boot :=
  { b with log := b.log ++ [{ start := b.start, step := step, outcome := outcome, kind := kind, object := BitVec.ofNat 32 object,
                              value := BitVec.ofNat 32 value, reason := 0 }] }

/-- R495: a step enters the safe state. -/
def Boot.fail (b : Boot) (step : Nat) : Boot := { b with bad := some step }

/-- R376: a step that has nothing else to say has passed; no step follows one that failed. (DEDUCED, log entry 61.) -/
def Boot.step (b : Boot) (n : Nat) (f : Boot → Boot) : Boot :=
  if b.bad.isSome then b
  else
    let c := f b
    if c.log.length = b.log.length then c.say n 0 0 0 0 else c

/-- R493: a position of a slot, as slot × 64 + position, of a core fails or failed. (DEDUCED, log entry 61.) -/
def Boot.lane (b : Boot) (outcome : Nat) (p : Nat × Nat) : Boot :=
  if b.ow.positions.contains p then b
  else
    let full := decide (2 ≤ (b.ow.positions.filter (fun q => q.1 = p.1 && q.2 / 64 = p.2 / 64)).length)
    { b.say 1 (if full then 3 else outcome) 2 p.1 p.2 with ow := { b.ow with positions := b.ow.positions ++ [p] } }

/-- R493: too many cores are spared. -/
def tooMany (spared : List Nat) : Bool :=
  decide (100 < spared.length) || (List.range Config.dies).any (fun d => (List.range 100).all (fun k => spared.contains (100 * d + k)))

/-- R376 step 1: `worn` are the positions retired while running. -/
def Boot.selfTest (r : StartReport) (worn : List (Nat × Nat)) (b : Boot) : Boot :=
  let old := b.ow.spared
  let new := (r.badCores.filter (fun c => decide (c < Config.cores) && !old.contains c)).eraseDups
  let b := old.foldl (fun (b : Boot) c => b.say 1 2 1 c 0) b
  let b := new.foldl (fun (b : Boot) c => b.say 1 3 1 c 0) b
  let b := b.ow.positions.foldl (fun (b : Boot) p => b.say 1 2 2 p.1 p.2) b
  let b := worn.foldl (fun (b : Boot) p => b.lane 1 p) b
  let lanes := r.badLanes.filter (fun l => decide (l.1 < Config.cores) && decide (l.2.1 < 8) && decide (l.2.2 < 64))
  let b := lanes.foldl (fun (b : Boot) l => b.lane 1 (l.1, l.2.1 * 64 + l.2.2)) b
  let units := r.badUnits.filter (· < 32)
  let b := units.foldl (fun (b : Boot) u => b.say 1 3 7 u 0) b
  let b := { b with spared := old ++ new }
  if tooMany b.spared then b.fail 1
  else
    let b := { b with ow := { b.ow with spared := b.spared } }
    if units = [] then b else b.fail 1

/-- R490, R493: the rate that a link or channel trains at: the one reported, from its last passing rate down; 0 when none. -/
def trained (allowed : List Nat) (last reported : Nat) : Nat := if allowed.contains reported then min last reported else 0

/-- R493: the fabric links. -/
def Boot.fabric (r : StartReport) (b : Boot) : Boot :=
  r.badFabric.foldl (fun (b : Boot) f =>
    if !f.2 then (b.say 2 3 3 f.1 0).fail 2
    else if b.ow.fabric.contains f.1 then b
    else { b.say 2 1 3 f.1 0 with ow := { b.ow with fabric := b.ow.fabric ++ [f.1] } }) b

/-- R493: the PCIe link. -/
def Boot.pcie (r : StartReport) (b : Boot) : Boot :=
  let gen := trained [4, 5, 6, 7] b.ow.pcie r.pcieGen
  if gen = 0 then { b.say 2 3 4 0 0 with gen := 0 }
  else if gen < b.ow.pcie then { b.say 2 1 4 0 gen with gen := gen, ow := { b.ow with pcie := gen } }
  else { b with gen := gen }

/-- R493: a Nertu link. -/
def Boot.nertu (r : StartReport) (b : Boot) (n : Nat) : Boot :=
  let last := b.ow.nertu.getD n 224
  let rate := trained [224, 112, 56] last (r.nertuRates.getD n last)
  let b := { b with rates := b.rates ++ [rate] }
  if rate = 0 then b.say 2 3 5 n 0
  else if rate < last then { b.say 2 1 5 n rate with ow := { b.ow with nertu := b.ow.nertu.set n rate } }
  else b

/-- R376 step 2. -/
def Boot.links (r : StartReport) (b : Boot) : Boot :=
  (List.range Config.links).foldl (fun (b : Boot) n => b.nertu r n) ((b.fabric r).pcie r)

/-- R493: a GDDR-7 channel. -/
def Boot.channel (r : StartReport) (b : Boot) (n : Nat) : Boot :=
  let last := b.ow.gddr.getD n 48
  let rate := trained [48, 40, 32] last (r.gddrRates.getD n last)
  if rate = 0 then (b.say 3 3 6 n 0).fail 3
  else if rate < last then { b.say 3 1 6 n rate with ow := { b.ow with gddr := b.ow.gddr.set n rate } }
  else b

/-- R376 step 3. -/
def Boot.memory (r : StartReport) (b : Boot) : Boot := (List.range 24).foldl (fun (b : Boot) n => b.channel r n) b

/-- The bytes of an image: as they were staged, or as the module flash holds them. -/
def imageBytes (i : Nat) (x : Option (List Byte)) : List Byte :=
  x.getD ((List.range (Config.flashSize i)).map (fun k => Config.flashByte i k))

/-- R377, R494: an image is verified and loaded: its staged copy first. (DEDUCED, log entry 61.) -/
def Boot.image (b : Boot) (i : Nat) : Boot :=
  if b.bad.isSome then b
  else
    let o := b.ow
    let load (b : Boot) (x : Option (List Byte)) : Boot := { b with ow := { b.ow with loaded := b.ow.loaded.set i (some x) } }
    let active (b : Boot) (say : Bool) : Boot :=
      let x := b.ow.active.getD i none
      if Config.imageVerifies (imageBytes i x) then load (if say then b.say 4 0 8 i 0 else b) x else (b.say 4 3 8 i 0).fail 4
    match o.staged.getD i none with
    | none => active b false
    | some new =>
      let b := { b with ow := { o with staged := o.staged.set i none } }
      if Config.imageVerifies new then
        load { b.say 4 0 8 i 1 with ow := { b.ow with active := b.ow.active.set i (some new) } } (some new)
      else active (b.say 4 3 8 i 1) true

/-- R376 step 4. -/
def Boot.firmware (b : Boot) : Boot := (List.range 3).foldl (fun (b : Boot) i => b.image i) b

/-- R376: the five steps. -/
def Boot.run (b : Boot) (r : StartReport) (worn : List (Nat × Nat)) : Boot :=
  let b := (b.step 1 (Boot.selfTest r worn)).step 2 (Boot.links r)
  let b := (b.step 3 (Boot.memory r)).step 4 Boot.firmware
  b.say 5 (if b.bad.isSome then 3 else 0) 0 0 0

/-- R492: what the log leaves to the part: the first failing test, and the rate of a fabric link at half rate.
(DEDUCED, log entry 61.) -/
def StartEntry.fill (tick : Nat) (p : StartEntry × Nat) : StartEntry :=
  let free := BitVec.ofNat 32 (Config.choice (tick + p.2))
  let e := if p.1.outcome = 3 ∧ p.1.kind ≠ 0 ∧ p.1.kind ≠ 8 then { p.1 with reason := free } else p.1
  if p.1.outcome = 1 ∧ p.1.kind = 3 then { e with value := free } else e

/-- R493: a core after a start: its positions in retirement order take the two spares of their slot, and then close their
ports. -/
def coreAfter (o : Ocwick) (n : Nat) : Core :=
  let mine := (o.positions.filter (fun p => p.1 = n)).map (·.2)
  let place (c : Core) (pos : Nat) : Core :=
    if (c.retired.filter (fun p => p.1 / 64 = pos / 64)).length < 2 then { c with retired := c.retired ++ [(pos, true)] }
    else { c with retired := c.retired ++ [(pos, false)], closed := ((pos / 64 * 4 + pos % 64 / 16) :: c.closed).eraseDups }
  mine.foldl place { Core.init with spared := o.spared.contains n }

/-- R376 step 5: the mailbox registers at their Reset values; a command that is running still is, and its buffer stands.
(DEDUCED, log entry 76.) -/
def Mailbox.restarted (m : Mailbox) : Mailbox := { m with cmd := 0, overrun := false, result := 0, len := 0 }

/-- A die whose walks and cached lines a start has ended, with its registers as they were. -/
def Die.idle (d : Die) : Die := { d with l2 := [], tlb := [], walks := [] }

/-- R376, R495: what a start that fails keeps: the registers, for step 5 alone gives them their Reset values.
(DEDUCED, log entry 76.) -/
def State.keepRegs (s t : State) : State :=
  { t with
    queues := s.queues, xlat := s.xlat, dies := s.dies.map (fun p => (p.1, p.2.idle)),
    links := t.links.map (fun p => (p.1, { p.2 with inFrame := (s.link p.1).inFrame, inFrames := (s.link p.1).inFrames })),
    host := { s.host with
      computeEn := t.host.computeEn, safe := t.host.safe, spared := t.host.spared, step := t.host.step, pcieUp := t.host.pcieUp,
      pcieGen := t.host.pcieGen, aborting := none },
    ended := s.ended, clock := s.clock }

/-- R376, R377, R495: a start. Memory is `mem` and `poison` after it; the clock's rate is kept (DESIGN CHOICE, log entry 58:
the spec gives it no value at a start), and the dies' lost-record counters, which have no Reset value (R372), are zero after one that
passes (DEDUCED, log entry 76). -/
def State.boot (s : State) (r : StartReport) (mem : List Host.Cell) (poison : List (Nat × Nat)) (m : Mailbox) : State :=
  let o := s.ocwick
  let worn := s.cores.flatMap (fun (p : Nat × Core) => p.2.retired.map (fun q => (p.1, q.1)))
  let b : Boot := { start := o.start + 1, ow := { o with loaded := [none, none, none] }, log := [], bad := none, spared := [],
                    gen := 0, rates := [] }
  let b := b.run r worn
  let ok := b.bad.isNone
  let log := b.log.zipIdx.map (StartEntry.fill s.tick)
  let ow := { b.ow with log := o.log ++ log, start := o.start + 1, mark := o.log.length }
  let cores := (List.range Config.cores).foldl (fun (l : NMap Core) n =>
    NMap.put l n { coreAfter ow n with spared := b.spared.contains n }) []
  let links := (List.range Config.links).foldl (fun (l : NMap Link) n =>
    let rate := b.rates.getD n 0
    NMap.put l n { Link.init with up := decide (rate ≠ 0), rate := rate / 4 }) []
  let host := { HostRegs.init with
    computeEn := ok, safe := !ok, spared := min 255 b.spared.length, step := match b.bad with | some k => k - 1 | none => 5,
    pcieUp := decide (b.gen ≠ 0), pcieGen := b.gen, mhz := s.host.mhz }
  let t : State := { State.reset with
    cores := cores, links := links, host := host, mem := mem, poison := poison, peer := s.peer, mailbox := m, ocwick := ow,
    inputs := s.inputs, nextId := s.nextId, tick := s.tick + b.log.length }
  if ok then { t with mailbox := m.restarted } else s.keepRegs t

/-- The step START_SEQUENCE: power-up. (DESIGN CHOICE, log entry 62.) -/
def execStartSequence (r : StartReport) (s : State) : Host.Outcome State Fault Refusal :=
  .next (({ State.reset with
    ocwick := s.ocwick, cores := s.cores, peer := s.peer, host := { HostRegs.init with mhz := s.host.mhz }, inputs := s.inputs,
    nextId := s.nextId, tick := s.tick } : State).boot r [] [] Mailbox.init)

/-! ### Mailbox commands (R378, R379) -/

/-- What a command leaves: its result, MB_LEN, and the bytes in the data buffer. -/
abbrev Answer := Nat × Word × List Byte

/-- An answer of bytes. -/
def Answer.ofBytes (b : List Byte) : Answer := (0, BitVec.ofNat 32 b.length, b)
/-- R378: an answer of nothing but a result. (DEDUCED, log entry 63.) -/
def Answer.code (n : Nat) : Answer := (n, 0, [])

/-- R378: a command starts, unless one is running. (DEDUCED, log entry 63.) -/
def State.command (s : State) (cmd : Byte) (f : State → Answer × State) : State :=
  if s.mailbox.busy then { s with mailbox := { s.mailbox with overrun := true } }
  else
    let (out, s) := f { s with mailbox := { s.mailbox with cmd := cmd, busy := true } }
    { s with mailbox := { s.mailbox with out := out } }

/-- The argument in the data buffer. -/
def Mailbox.arg (m : Mailbox) : List Byte := (List.range m.len.toNat).map (fun i => NMap.get 0 m.buf i)

/-- R492: the 16 bytes of an entry. -/
def StartEntry.bytes (e : StartEntry) : List Byte :=
  bytesOf 4 (e.start % 256 * 2 ^ 24 + e.step * 2 ^ 16 + e.outcome * 256 + e.kind) ++ bytesOf 4 e.object.toNat ++
    bytesOf 4 e.value.toNat ++ bytesOf 4 e.reason.toNat

/-- R379, command 0x01. -/
def State.readLog (s : State) : Answer :=
  if s.mailbox.len ≠ 4 then .code 2
  else .ofBytes (((s.ocwick.log.drop (Sys2Proof.ofBytes s.mailbox.arg)).take 240).flatMap StartEntry.bytes)

/-- R379: command 0x01 starts. -/
def State.beginReadLog (s : State) : State := s.command 0x01 (fun s => (s.readLog, s))
/-- The step READ_START_LOG. -/
def execReadStartLog (s : State) : Host.Outcome State Fault Refusal := .next s.beginReadLog

/-- R377, R495: the measurement of an image: zero when it was not verified. -/
def Ocwick.measure (o : Ocwick) (i : Nat) : List Byte :=
  match o.loaded.getD i none with
  | some x => sha3 (imageBytes i x)
  | none => List.replicate 32 0

/-- R380: the signed part of a report. -/
def State.report (s : State) : List Byte :=
  let o := s.ocwick
  let spare (k : Nat) : Byte := BitVec.ofNat 8 (((List.range 8).filter (fun i => (s.core (8 * k + i)).spared)).foldl (fun m i => m + 2 ^ i) 0)
  s.mailbox.arg ++ o.measure 0 ++ o.measure 1 ++ o.measure 2 ++ sha3 ((o.log.drop o.mark).flatMap StartEntry.bytes) ++
    bytesOf 4 0xC2 ++ (List.range 50).map spare ++ List.replicate 42 0

/-- R379, R380, command 0x02. -/
def State.attest (s : State) : Answer :=
  if s.mailbox.len ≠ 32 then .code 2
  else .ofBytes (s.report ++ (List.range 2420).map (fun i => Config.signature s.report i))

/-- R379: command 0x02 starts. -/
def State.beginAttest (s : State) : State := s.command 0x02 (fun s => (s.attest, s))
/-- The step ATTEST. -/
def execAttest (s : State) : Host.Outcome State Fault Refusal := .next s.beginAttest

/-- R379: command 0x03 starts. -/
def State.beginReadKey (s : State) : State := s.command 0x03 (fun s => (.ofBytes ((List.range 1312).map Config.identityKey), s))
/-- The step READ_IDENTITY_KEY. -/
def execReadIdentityKey (s : State) : Host.Outcome State Fault Refusal := .next s.beginReadKey

/-- R379, command 0x04: a chunk joins the image that is being staged; the spec does not say which chunk ends an image, nor
which image it is. At the end the image is verified and written. (DEDUCED, log entry 63.) -/
def State.stageChunk (s : State) : Answer × State :=
  if 3840 < s.mailbox.len.toNat then (.code 2, s)
  else
    let image := s.ocwick.chunk ++ s.mailbox.arg
    let (k, s) := s.draw 4
    if k = 3 then (.code 0, { s with ocwick := { s.ocwick with chunk := image } })
    else
      let s := { s with ocwick := { s.ocwick with chunk := [] } }
      if Config.imageVerifies image then (.code 0, { s with ocwick := { s.ocwick with staged := s.ocwick.staged.set k (some image) } })
      else (.code 3, s)

/-- R379: command 0x04 starts. -/
def State.beginStage (s : State) : State := s.command 0x04 State.stageChunk
/-- The step STAGE_FIRMWARE. -/
def execStageFirmware (s : State) : Host.Outcome State Fault Refusal := .next s.beginStage

/-- R379, R423, command 0x05: every launch is aborted; the start follows once they have ended. Which reason their abort records
give is open. (DESIGN CHOICE, log entry 62.) -/
def State.abortAll (s : State) (r : StartReport) : State :=
  let (reason, s) := s.drawFrom 6 [0, 1, 2, 3, 4, 6, 7]
  let s := (s.launches.map (·.1)).foldl (fun (s : State) l => s.beginAbort l reason) s
  { s with mailbox := { s.mailbox with restart := some r } }

/-- R379: command 0x05 starts, with what the tests of the new start will find. -/
def State.beginRestart (s : State) (r : StartReport) : State := s.command 0x05 (fun s => (.code 0, s.abortAll r))
/-- The step RESTART. -/
def execRestart (r : StartReport) (s : State) : Host.Outcome State Fault Refusal := .next (s.beginRestart r)

/-- R379: command 0x06 starts. -/
def State.beginReadLost (s : State) : State :=
  s.command 0x06 (fun s => (.ofBytes ((List.range 4).flatMap (fun d => bytesOf 4 (s.die d).lost.toNat)), s))
/-- The step READ_LOST_RECORD_COUNTERS. -/
def execReadLostRecordCounters (s : State) : Host.Outcome State Fault Refusal := .next s.beginReadLost

/-- R378: a code that R379 does not list starts. -/
def State.beginUnknown (s : State) (cmd : Byte) : State :=
  if 1 ≤ cmd.toNat ∧ cmd.toNat ≤ 6 then s else s.command cmd (fun s => (.code 1, s))
/-- The step UNKNOWN_COMMAND. -/
def execUnknownCommand (cmd : Byte) (s : State) : Host.Outcome State Fault Refusal := .next (s.beginUnknown cmd)

/-! ### Register writes (R4, R378) -/

/-- R378, R379: MB_CMD is written: the command that its low byte names starts; what a restart finds is free. -/
def State.startCommand (s : State) (cmd : Byte) : State :=
  match cmd.toNat with
  | 1 => s.beginReadLog
  | 2 => s.beginAttest
  | 3 => s.beginReadKey
  | 4 => s.beginStage
  | 5 => s.beginRestart (Config.startReport s.tick)
  | 6 => s.beginReadLost
  | _ => s.beginUnknown cmd

/-- The step REGISTER_WRITE. -/
def execRegisterWrite (off : Nat) (val : Word) (s : State) : Host.Outcome State Fault Refusal :=
  .next (if off = bar4 then s.startCommand (val.setWidth 8) else s.writeReg off val)

/-- R379: the running command can complete: a restart once every launch that it aborts has ended. -/
def State.commandReady (s : State) : Bool :=
  s.mailbox.busy && (s.mailbox.restart.isNone || decide (s.launches = []))

/-- R376, R379: the start of a restart. (DESIGN CHOICE, log entry 62.) -/
def State.restartPart (s : State) (r : StartReport) : State :=
  let s := s.flushRecs
  s.boot r s.mem s.poison { s.mailbox with restart := none }

/-- R371, R378: a command leaves what it answers. -/
def State.answer (s : State) : State :=
  let m := s.mailbox
  ({ s with mailbox := { m with
    busy := false, result := m.out.1, len := m.out.2.1, out := (0, 0, []),
    buf := m.out.2.2.zipIdx.foldl (fun b p => NMap.put b p.2 p.1) m.buf } } : State).signal 69

/-- R371, R378, R379: the running command completes; a restart has made its start by then. -/
def State.commandDone (s : State) : State :=
  if !s.commandReady then s
  else match s.mailbox.restart with
    | some r => (s.restartPart r).answer
    | none => s.answer

/-- The step MAILBOX_COMMAND_COMPLETE. -/
def execMailboxCommandComplete (s : State) : Host.Outcome State Fault Refusal := .next s.commandDone

end Sys2Proof.Machine
end

