-- ==== Sys2Proof/Machine/Links.lean ====
section
/-! DEFINITION. The PCIe link and the Nertu links: bad requests, lost links, retraining, and peers (R373 to R375, R397, R484, R488
to R491, R493). -/

namespace Sys2Proof.Machine

/-! ### PCIe (R488, R489, R493) -/

/-- R488: Advanced Error Reporting notes an uncorrectable error by its bit. The first one that is not masked is pointed at, and
the header of its TLP is logged; a read that is answered as unsupported is an advisory, non-fatal error as well.
(PRESUMED, log entry 75.) -/
def Aer.note (a : Aer) (write : Bool) (bit : Nat) (header : List Word) : Aer :=
  let open_ := decide (a.status &&& ~~~a.mask = 0) && !bitOf a.mask.toNat bit
  let advisory := !write && decide (bit = 20) && !bitOf a.severity.toNat bit
  { a with status := a.status ||| BitVec.ofNat 32 (2 ^ bit), first := if open_ then bit else a.first,
           header := if open_ then header else a.header, corStatus := if advisory then a.corStatus ||| 0x2000 else a.corStatus }

/-- R488: a TLP that arrives poisoned (bit 12), malformed (18) or unsupported (20), whose header is free.
(PRESUMED, log entry 75.) -/
def State.aerNote (s : State) (write : Bool) : State :=
  let (bit, s) := s.drawFrom 12 [12, 18, 20]
  let header := (List.range 4).map (fun i => BitVec.ofNat 32 (Config.choice (s.tick + i)))
  { s with tick := s.tick + 4, host := { s.host with aer := s.host.aer.note write bit header } }

/-- R488: a bad TLP: a write is dropped, a read completes with Unsupported Request status, and either is recorded. -/
def State.badTlp (s : State) (write : Bool) (addr : Option Nat) : State :=
  let s := s.aerNote write
  let s := if write then s else { s with host := { s.host with readData := [], readUr := true } }
  s.ringRecord 0 { code := 0x0303, source := 6, physical := addr.isSome, addr := addr }

/-- The step PCIE_BAD_TLP. -/
def execPcieBadTlp (write : Bool) (addr : Option Nat) (s : State) : Host.Outcome State Fault Refusal := .next (s.badTlp write addr)

/-- R489: the record of a loss or a retrain. -/
def State.pcieRecord (s : State) (gen : Nat) : State := s.ringRecord 0 { code := 0x0304, source := 6, info := gen }

/-- The step PCIE_LINK_DOWN. -/
def execPcieLinkDown (s : State) : Host.Outcome State Fault Refusal :=
  .next (if s.host.pcieUp then ({ s with host := { s.host with pcieUp := false } } : State).pcieRecord 0 else s)

/-- R489, R493: a generation that a lost or untrained link can come back at. -/
def State.genFits (s : State) (gen : Nat) : Bool := !s.host.pcieUp && decide (4 ≤ gen) && decide (gen ≤ s.ocwick.pcie)

/-- R489, R493: the link is up at a generation. (DEDUCED, log entry 64.) -/
def State.pcieTrain (s : State) (gen : Nat) : State :=
  { s with host := { s.host with pcieUp := true, pcieGen := gen }, ocwick := { s.ocwick with pcie := gen } }

/-- The step PCIE_LINK_RETRAIN. -/
def execPcieLinkRetrain (gen : Nat) (s : State) : Host.Outcome State Fault Refusal :=
  .next (if s.genFits gen && decide (s.host.pcieGen ≠ 0) then (s.pcieTrain gen).pcieRecord gen else s)

/-- The step PCIE_TRAINING_RETRY: a link that a start left untrained. -/
def execPcieTrainingRetry (gen : Nat) (s : State) : Host.Outcome State Fault Refusal :=
  .next (if s.genFits gen && decide (s.host.pcieGen = 0) then s.pcieTrain gen else s)

/-! ### Nertu links (R490, R491) -/

/-- R490: the record of a retrain or a loss. -/
def State.linkRecord (s : State) (n : Nat) : State := s.ringRecord (n / 2) { code := 0x0306, source := 7, lane := n }

/-- R490: a link that still fails retrains at its next lower rate, or goes down. A link whose new rate fails too retrains
again. (DEDUCED, log entry 64.) -/
def State.retrain (s : State) (n : Nat) (passes : Bool) : State :=
  let l := s.link n
  if Config.links ≤ n ∨ !l.up then s
  else if l.rate ≤ 14 then (s.setLink n { l with up := false, rate := 0 }).linkRecord n
  else
    let rate := l.rate / 2
    let s := (s.setLink n { l with rate := rate }).linkRecord n
    if passes then { s with ocwick := { s.ocwick with nertu := s.ocwick.nertu.set n (4 * rate) } }
    else
      let (k, s) := s.draw 2
      { s with due := s.due ++ [.nertuLinkRetrain n (decide (k = 1))] }

/-- The step NERTU_LINK_RETRAIN. -/
def execNertuLinkRetrain (n : Nat) (passes : Bool) (s : State) : Host.Outcome State Fault Refusal := .next (s.retrain n passes)

/-- R490: a flit that fails more than 16 retries makes its link retrain. (DEDUCED, log entry 64.) -/
def State.flitFails (s : State) (n fails : Nat) : State :=
  if fails ≤ 16 ∨ Config.links ≤ n ∨ !(s.link n).up then s
  else
    let (k, s) := s.draw 2
    { s with due := s.due ++ [.nertuLinkRetrain n (decide (k = 1))] }

/-- The step NERTU_FLIT_RETRY. -/
def execNertuFlitRetry (n fails : Nat) (s : State) : Host.Outcome State Fault Refusal := .next (s.flitFails n fails)

/-! ### Peers (R374, R375) -/

/-- R374: an access lies in the inbound window of a link, and in local frames. -/
def State.inbound (s : State) (n pa len : Nat) : Bool :=
  let l := s.link n
  (linesIn pa len).all (fun x => isLocal x.1 && decide (l.inFrame ≤ frameOf x.1) && decide (frameOf x.1 < l.inFrame + l.inFrames.toNat))

/-- R179: a peer's request waits for a line that a bulk command owns. -/
def State.inboundWaits (s : State) (n pa len : Nat) : Bool := s.inbound n pa len && (linesIn pa len).any (fun x => s.owned x.1)

/-- R397, R452: a memory controller refuses a peer's read or atomic of a poisoned line, and records it. -/
def State.peerRefused (s : State) (pa : Nat) : State :=
  s.ringRecord (homeDie pa) { code := 0x18, source := 4, physical := true, addr := some pa }

/-- R375, R452: a peer's read: of each line it touches the L2 answers, or the controller refuses. -/
def State.peerRead (s : State) (pa len : Nat) : State :=
  (linesIn pa len).foldl (fun (s : State) l =>
    let s := s.touchL2 l.1 0
    if s.poisoned l.1 then s.peerRefused l.1 else s) s

/-- R176, R323, R375, R456: one lane of a peer's atomic, performed at its home slice. How often the units of the slice repeat it is
open. -/
def State.peerAtomic (s : State) (pa : Nat) (kind : AtomOp) (ty : Ty) (sat : Bool) (fpmode : Word) (arg arg2 : DWord) : State :=
  let s := s.touchL2 pa 0
  if s.poisoned pa then s.peerRefused pa
  else
    let (repeats, s) := s.draw (2 ^ 32)
    let s := s.countRepeats pa repeats
    let new := atomNew kind ty sat (.ofWord fpmode.toNat) (ofBytes (s.homeBytes pa (widthOf ty))) arg.toNat arg2.toNat
    s.writeLine (lineOf pa) ((bytesOf (widthOf ty) new).zipIdx.map (fun p => (pa % 64 + p.2, p.1)))

/-- R374, R375: a peer's request of `len` bytes is served at the home slice, or refused with a record.
(DEDUCED, log entry 65.) -/
def State.peerRequest (s : State) (n pa len : Nat) (req : PeerReq) : State :=
  if Config.links ≤ n ∨ !(s.link n).up ∨ !req.fits len then s
  else if !s.inbound n pa len then
    s.ringRecord (n / 2) { code := 0x0307, source := 7, physical := true, addr := some pa }
  else if s.inboundWaits n pa len then s
  else match req with
    | .read => s.peerRead pa len
    | .write bytes => s.writeLines pa bytes
    | .atomic kind ty sat fpmode arg arg2 => s.peerAtomic pa kind ty sat fpmode arg arg2

/-- The step NERTU_INBOUND_REQUEST. -/
def execNertuInboundRequest (n pa len : Nat) (req : PeerReq) (s : State) : Host.Outcome State Fault Refusal :=
  .next (s.peerRequest n pa len req)

/-- R491: the physical line that a core's dirty bytes of a virtual line go to. -/
def Core.dirtyAt (c : Core) (va : Nat) : Option Nat :=
  ((c.l1.find? (fun l => l.va = lineOf va && decide (l.dirty ≠ []))).map (·.pa)).orElse
    (fun _ => (c.staged.find? (fun l => l.va = lineOf va)).map (·.pa))

/-- R491: a peer answers an access of a thread with an error: the next write-back of the line, or the next read of it,
meets it. (DEDUCED, log entry 65.) -/
def State.remoteError (s : State) (n tid va : Nat) (write : Bool) : State :=
  match s.envOf tid with
  | none => s
  | some e =>
    if !write then s.setThread tid { e.th with refused := (lineOf va :: e.th.refused).eraseDups }
    else match (s.core e.blk.core).dirtyAt va with
      | none => s
      | some pa =>
        if !isRemote pa ∨ remoteLink pa ≠ n then s
        else s.modCore e.blk.core (fun c => { c with refused := (pa :: c.refused).eraseDups })

/-- The step REMOTE_ERROR_RESPONSE. -/
def execRemoteErrorResponse (n tid va : Nat) (write : Bool) (s : State) : Host.Outcome State Fault Refusal :=
  .next (s.remoteError n tid va write)

end Sys2Proof.Machine
end

