-- ==== Sys2Proof/Machine/Dispatch.lean ====
section
/-! DEFINITION. The machine's dispatch: one arm for each constructor of `Instr`. -/

namespace Sys2Proof.Machine

def exec (i : Instr) (s : State) : Host.Outcome State Fault Refusal :=
  match i with
  | .add o => Sys2Proof.Machine.execAdd o s
  | .addc o => Sys2Proof.Machine.execAddc o s
  | .sub o => Sys2Proof.Machine.execSub o s
  | .subb o => Sys2Proof.Machine.execSubb o s
  | .mul o => Sys2Proof.Machine.execMul o s
  | .mulhi o => Sys2Proof.Machine.execMulhi o s
  | .mad o => Sys2Proof.Machine.execMad o s
  | .div o => Sys2Proof.Machine.execDiv o s
  | .rem o => Sys2Proof.Machine.execRem o s
  | .min o => Sys2Proof.Machine.execMin o s
  | .max o => Sys2Proof.Machine.execMax o s
  | .abs o => Sys2Proof.Machine.execAbs o s
  | .neg o => Sys2Proof.Machine.execNeg o s
  | .and o => Sys2Proof.Machine.execAnd o s
  | .or o => Sys2Proof.Machine.execOr o s
  | .xor o => Sys2Proof.Machine.execXor o s
  | .andn o => Sys2Proof.Machine.execAndn o s
  | .not o => Sys2Proof.Machine.execNot o s
  | .shl o => Sys2Proof.Machine.execShl o s
  | .shr o => Sys2Proof.Machine.execShr o s
  | .sar o => Sys2Proof.Machine.execSar o s
  | .rot o => Sys2Proof.Machine.execRot o s
  | .bfx o => Sys2Proof.Machine.execBfx o s
  | .bfi o => Sys2Proof.Machine.execBfi o s
  | .popc o => Sys2Proof.Machine.execPopc o s
  | .clz o => Sys2Proof.Machine.execClz o s
  | .brev o => Sys2Proof.Machine.execBrev o s
  | .sel o => Sys2Proof.Machine.execSel o s
  | .mov o => Sys2Proof.Machine.execMov o s
  | .movi o => Sys2Proof.Machine.execMovi o s
  | .cvt o => Sys2Proof.Machine.execCvt o s
  | .lea o => Sys2Proof.Machine.execLea o s
  | .fadd o => Sys2Proof.Machine.execFadd o s
  | .fsub o => Sys2Proof.Machine.execFsub o s
  | .fmul o => Sys2Proof.Machine.execFmul o s
  | .fma o => Sys2Proof.Machine.execFma o s
  | .fdiv o => Sys2Proof.Machine.execFdiv o s
  | .fmin o => Sys2Proof.Machine.execFmin o s
  | .fmax o => Sys2Proof.Machine.execFmax o s
  | .fabs o => Sys2Proof.Machine.execFabs o s
  | .fneg o => Sys2Proof.Machine.execFneg o s
  | .fsign o => Sys2Proof.Machine.execFsign o s
  | .frnd o => Sys2Proof.Machine.execFrnd o s
  | .fscale o => Sys2Proof.Machine.execFscale o s
  | .fcvt o => Sys2Proof.Machine.execFcvt o s
  | .f2i o => Sys2Proof.Machine.execF2i o s
  | .i2f o => Sys2Proof.Machine.execI2f o s
  | .fclass o => Sys2Proof.Machine.execFclass o s
  | .rcp o => Sys2Proof.Machine.execRcp o s
  | .rsq o => Sys2Proof.Machine.execRsq o s
  | .sqrt o => Sys2Proof.Machine.execSqrt o s
  | .exp2 o => Sys2Proof.Machine.execExp2 o s
  | .log2 o => Sys2Proof.Machine.execLog2 o s
  | .sinpi o => Sys2Proof.Machine.execSinpi o s
  | .cospi o => Sys2Proof.Machine.execCospi o s
  | .srand o => Sys2Proof.Machine.execSrand o s
  | .cmp p o => Sys2Proof.Machine.execCmp p o s
  | .fcmp p o => Sys2Proof.Machine.execFcmp p o s
  | .kand o => Sys2Proof.Machine.execKand o s
  | .kor o => Sys2Proof.Machine.execKor o s
  | .kxor o => Sys2Proof.Machine.execKxor o s
  | .kandn o => Sys2Proof.Machine.execKandn o s
  | .knot o => Sys2Proof.Machine.execKnot o s
  | .kmov o => Sys2Proof.Machine.execKmov o s
  | .kpop o => Sys2Proof.Machine.execKpop o s
  | .kfirst o => Sys2Proof.Machine.execKfirst o s
  | .kany o => Sys2Proof.Machine.execKany o s
  | .kall o => Sys2Proof.Machine.execKall o s
  | .ballot o => Sys2Proof.Machine.execBallot o s
  | .shfl p o => Sys2Proof.Machine.execShfl p o s
  | .bcast o => Sys2Proof.Machine.execBcast o s
  | .red p o => Sys2Proof.Machine.execRed p o s
  | .scan p o => Sys2Proof.Machine.execScan p o s
  | .sred p o => Sys2Proof.Machine.execSred p o s
  | .topk o => Sys2Proof.Machine.execTopk o s
  | .mld o => Sys2Proof.Machine.execMld o s
  | .mst o => Sys2Proof.Machine.execMst o s
  | .mshape o => Sys2Proof.Machine.execMshape o s
  | .mzero o => Sys2Proof.Machine.execMzero o s
  | .mid o => Sys2Proof.Machine.execMid o s
  | .mget o => Sys2Proof.Machine.execMget o s
  | .mput o => Sys2Proof.Machine.execMput o s
  | .madd o => Sys2Proof.Machine.execMadd o s
  | .msub o => Sys2Proof.Machine.execMsub o s
  | .mscal o => Sys2Proof.Machine.execMscal o s
  | .mmul p o => Sys2Proof.Machine.execMmul p o s
  | .mfma p o => Sys2Proof.Machine.execMfma p o s
  | .mtrn o => Sys2Proof.Machine.execMtrn o s
  | .minv o => Sys2Proof.Machine.execMinv o s
  | .mlu o => Sys2Proof.Machine.execMlu o s
  | .mchol o => Sys2Proof.Machine.execMchol o s
  | .msolve o => Sys2Proof.Machine.execMsolve o s
  | .mpow o => Sys2Proof.Machine.execMpow o s
  | .mma o => Sys2Proof.Machine.execMma o s
  | .mpack o => Sys2Proof.Machine.execMpack o s
  | .munpack o => Sys2Proof.Machine.execMunpack o s
  | .ld o => Sys2Proof.Machine.execLd o s
  | .st o => Sys2Proof.Machine.execSt o s
  | .lds o => Sys2Proof.Machine.execLds o s
  | .sts o => Sys2Proof.Machine.execSts o s
  | .atomAdd o => Sys2Proof.Machine.execAtomAdd o s
  | .atomFadd o => Sys2Proof.Machine.execAtomFadd o s
  | .atomMin o => Sys2Proof.Machine.execAtomMin o s
  | .atomMax o => Sys2Proof.Machine.execAtomMax o s
  | .atomAnd o => Sys2Proof.Machine.execAtomAnd o s
  | .atomOr o => Sys2Proof.Machine.execAtomOr o s
  | .atomXor o => Sys2Proof.Machine.execAtomXor o s
  | .atomXchg o => Sys2Proof.Machine.execAtomXchg o s
  | .atomCas o => Sys2Proof.Machine.execAtomCas o s
  | .phaseRel o => Sys2Proof.Machine.execPhaseRel o s
  | .phaseAcq o => Sys2Proof.Machine.execPhaseAcq o s
  | .phaseAr o => Sys2Proof.Machine.execPhaseAr o s
  | .cachectlPf1 o => Sys2Proof.Machine.execCachectlPf1 o s
  | .cachectlPf2 o => Sys2Proof.Machine.execCachectlPf2 o s
  | .cachectlInv o => Sys2Proof.Machine.execCachectlInv o s
  | .bankcfg o => Sys2Proof.Machine.execBankcfg o s
  | .bcopy o => Sys2Proof.Machine.execBcopy o s
  | .bcopyMc o => Sys2Proof.Machine.execBcopyMc o s
  | .bput o => Sys2Proof.Machine.execBput o s
  | .bseal o => Sys2Proof.Machine.execBseal o s
  | .bwait o => Sys2Proof.Machine.execBwait o s
  | .bread o => Sys2Proof.Machine.execBread o s
  | .bjoin o => Sys2Proof.Machine.execBjoin o s
  | .rpush o => Sys2Proof.Machine.execRpush o s
  | .rpop o => Sys2Proof.Machine.execRpop o s
  | .palloc o => Sys2Proof.Machine.execPalloc o s
  | .pfree o => Sys2Proof.Machine.execPfree o s
  | .xres o => Sys2Proof.Machine.execXres o s
  | .bra p o => Sys2Proof.Machine.execBra p o s
  | .loop o => Sys2Proof.Machine.execLoop o s
  | .call o => Sys2Proof.Machine.execCall o s
  | .callInd o => Sys2Proof.Machine.execCallInd o s
  | .ret o => Sys2Proof.Machine.execRet o s
  | .retire o => Sys2Proof.Machine.execRetire o s
  | .exit o => Sys2Proof.Machine.execExit o s
  | .region o => Sys2Proof.Machine.execRegion o s
  | .sync o => Sys2Proof.Machine.execSync o s
  | .wait o => Sys2Proof.Machine.execWait o s
  | .nop o => Sys2Proof.Machine.execNop o s
  | .trap o => Sys2Proof.Machine.execTrap o s
  | .brk o => Sys2Proof.Machine.execBrk o s
  | .eret o => Sys2Proof.Machine.execEret o s
  | .eretRetry o => Sys2Proof.Machine.execEretRetry o s
  | .sread o => Sys2Proof.Machine.execSread o s
  | .swrite o => Sys2Proof.Machine.execSwrite o s
  | .launch o => Sys2Proof.Machine.execLaunch o s
  | .fenceCode o => Sys2Proof.Machine.execFenceCode o s
  | .issueChoice => Sys2Proof.Machine.execIssueChoice s
  | .resultWrite x0 x1 => Sys2Proof.Machine.execResultWrite x0 x1 s
  | .trapEntry o => Sys2Proof.Machine.execTrapEntry o s
  | .launchQueueDoorbell x0 x1 => Sys2Proof.Machine.execLaunchQueueDoorbell x0 x1 s
  | .launchRecordTake o => Sys2Proof.Machine.execLaunchRecordTake o s
  | .blockPlacement x0 x1 => Sys2Proof.Machine.execBlockPlacement x0 x1 s
  | .gangPlacement o => Sys2Proof.Machine.execGangPlacement o s
  | .preEmption o => Sys2Proof.Machine.execPreEmption o s
  | .blockEnd o => Sys2Proof.Machine.execBlockEnd o s
  | .launchCompletion o => Sys2Proof.Machine.execLaunchCompletion o s
  | .launchAbort o => Sys2Proof.Machine.execLaunchAbort o s
  | .burstArrival x0 x1 => Sys2Proof.Machine.execBurstArrival x0 x1 s
  | .sproutStart o => Sys2Proof.Machine.execSproutStart o s
  | .atomicAtHomeSlice o n => Sys2Proof.Machine.execAtomicAtHomeSlice o n s
  | .bulkCommandCompletion o => Sys2Proof.Machine.execBulkCommandCompletion o s
  | .pageWalk x0 x1 => Sys2Proof.Machine.execPageWalk x0 x1 s
  | .walkEnd x0 x1 => Sys2Proof.Machine.execWalkEnd x0 x1 s
  | .pageFaultRetry => Sys2Proof.Machine.execPageFaultRetry s
  | .pageFaultUnresolvable => Sys2Proof.Machine.execPageFaultUnresolvable s
  | .shootdownStart => Sys2Proof.Machine.execShootdownStart s
  | .shootdownComplete => Sys2Proof.Machine.execShootdownComplete s
  | .quarantinePush o => Sys2Proof.Machine.execQuarantinePush o s
  | .quarantineRelease => Sys2Proof.Machine.execQuarantineRelease s
  | .quarantineTimeout => Sys2Proof.Machine.execQuarantineTimeout s
  | .migrateToSram x0 x1 => Sys2Proof.Machine.execMigrateToSram x0 x1 s
  | .migrateToGddr7 o => Sys2Proof.Machine.execMigrateToGddr7 o s
  | .migrationLineMove x0 x1 => Sys2Proof.Machine.execMigrationLineMove x0 x1 s
  | .tierSplitWrite x0 x1 => Sys2Proof.Machine.execTierSplitWrite x0 x1 s
  | .registerWrite x0 x1 => Sys2Proof.Machine.execRegisterWrite x0 x1 s
  | .hostBar2Read x0 x1 => Sys2Proof.Machine.execHostBar2Read x0 x1 s
  | .hostBar2Write x0 x1 => Sys2Proof.Machine.execHostBar2Write x0 x1 s
  | .msixSend o => Sys2Proof.Machine.execMsixSend o s
  | .clockThrottle o => Sys2Proof.Machine.execClockThrottle o s
  | .residencyCounterHalving => Sys2Proof.Machine.execResidencyCounterHalving s
  | .mismatchCountDecay => Sys2Proof.Machine.execMismatchCountDecay s
  | .scrubLine x0 x1 x2 => Sys2Proof.Machine.execScrubLine x0 x1 x2 s
  | .instructionReplay x0 x1 x2 x3 x4 => Sys2Proof.Machine.execInstructionReplay x0 x1 x2 x3 x4 s
  | .registerErrorCorrection x0 x1 x2 => Sys2Proof.Machine.execRegisterErrorCorrection x0 x1 x2 s
  | .regionCommit x0 x1 => Sys2Proof.Machine.execRegionCommit x0 x1 s
  | .partialCommit x0 x1 => Sys2Proof.Machine.execPartialCommit x0 x1 s
  | .bankSwitch o => Sys2Proof.Machine.execBankSwitch o s
  | .forcedShortBatch o => Sys2Proof.Machine.execForcedShortBatch o s
  | .pipelineStall o => Sys2Proof.Machine.execPipelineStall o s
  | .startSequence o => Sys2Proof.Machine.execStartSequence o s
  | .readStartLog => Sys2Proof.Machine.execReadStartLog s
  | .attest => Sys2Proof.Machine.execAttest s
  | .readIdentityKey => Sys2Proof.Machine.execReadIdentityKey s
  | .stageFirmware => Sys2Proof.Machine.execStageFirmware s
  | .restart o => Sys2Proof.Machine.execRestart o s
  | .readLostRecordCounters => Sys2Proof.Machine.execReadLostRecordCounters s
  | .unknownCommand o => Sys2Proof.Machine.execUnknownCommand o s
  | .mailboxCommandComplete => Sys2Proof.Machine.execMailboxCommandComplete s
  | .pcieBadTlp x0 x1 => Sys2Proof.Machine.execPcieBadTlp x0 x1 s
  | .pcieLinkDown => Sys2Proof.Machine.execPcieLinkDown s
  | .pcieLinkRetrain o => Sys2Proof.Machine.execPcieLinkRetrain o s
  | .pcieTrainingRetry o => Sys2Proof.Machine.execPcieTrainingRetry o s
  | .nertuFlitRetry x0 x1 => Sys2Proof.Machine.execNertuFlitRetry x0 x1 s
  | .nertuLinkRetrain x0 x1 => Sys2Proof.Machine.execNertuLinkRetrain x0 x1 s
  | .nertuInboundRequest x0 x1 x2 x3 => Sys2Proof.Machine.execNertuInboundRequest x0 x1 x2 x3 s
  | .remoteErrorResponse x0 x1 x2 x3 => Sys2Proof.Machine.execRemoteErrorResponse x0 x1 x2 x3 s

end Sys2Proof.Machine
end

