-- ==== Sys2Proof/Machine/Events.lean ====
section
/-! DEFINITION. Which steps of the part can happen in a state, other than those that come from outside it. -/

namespace Sys2Proof.Machine

/-- The atomics that can be performed at their home slices now, or whose acquire can be, the oldest first. -/
def State.atomEvents (s : State) : List Instr :=
  (s.reqs.filter (fun r => decide (s.atomReady r ≠ []) || s.acqReady r)).map (fun r => .atomicAtHomeSlice r.op 0)

/-- The bulk commands that can complete now. -/
def State.bulkEvents (s : State) : List Instr := (s.cmds.filter s.bulkReady).map (fun c => .bulkCommandCompletion c.op)

/-- The conversions that can take effect now. -/
def State.switchEvents (s : State) : List Instr := (s.blocks.filter (fun p => s.switchReady p.1 p.2)).map (fun p => .bankSwitch p.1)

/-- The registers' and Ocwick's steps that can happen now. -/
def State.deviceEvents (s : State) : List Instr :=
  (if s.frameReady then [.quarantineRelease] else []) ++ (if s.commandReady then [.mailboxCommandComplete] else []) ++ s.msixEvents

/-- The steps of the part that are enabled, besides the issue choice. (DESIGN CHOICE, log entry 5.) -/
def State.enabledEvents (s : State) : List Instr :=
  s.resultEvents ++ s.trapEvents ++ s.atomEvents ++ s.bulkEvents ++ s.burstEvents ++ s.sproutEvents ++ s.switchEvents ++
    s.commitEvents ++ s.blockEvents ++ s.completeEvents ++ s.takeEvents ++ s.placeEvents ++ s.preEmptEvents ++
    s.walkEvents ++ s.migrationEvents ++ s.deviceEvents

/-- The steps of the part that do not stay away for ever: every thread issues, and what is under way arrives: results (R75), traps,
atomics (R201), bulk commands, bursts and sprouts (R76), conversions, commits, walks and moves. (DESIGN CHOICE, log entry 5.) -/
def State.obliged (s : State) : List Instr :=
  s.resultEvents ++ s.trapEvents ++ s.atomEvents ++ s.bulkEvents ++ s.burstEvents ++ s.sproutEvents ++ s.switchEvents ++
    s.commitEvents ++ s.blockEvents ++ s.completeEvents ++ s.walkEnds ++ s.migrationEvents ++ s.deviceEvents ++ [.issueChoice]

/-- Whether a step that comes from outside can be taken now: an access to a line that a bulk command owns waits (R179). -/
def State.inputReady (s : State) (i : Instr) : Bool :=
  match i with
  | .hostBar2Read off n => !s.bar2Waits off n
  | .hostBar2Write off b => !s.bar2Waits off b.length
  | .nertuInboundRequest n pa len _ => !s.inboundWaits n pa len
  | _ => true

end Sys2Proof.Machine
end

