-- ==== Sys2Proof/Machine/Cycle.lean ====
section
/-! DEFINITION. What one step of the machine does: the issue of the next thread of the cycle (fetch, clause headers,
decode, execution), a step from outside, or a step of the part. -/

namespace Sys2Proof.Machine

/-- R401: the lanes that pass `k0` and the guard that a word's first 32 bits give. -/
def Thread.wordLanes (th : Thread) (w : Word) : DWord :=
  let k0 := th.regs.mask 0 &&& laneMask th.width
  let g := bitsOf w.toNat 17 14
  if g = 0 then k0 else if bitOf w.toNat 18 then k0 &&& ~~~(th.regs.mask g) else k0 &&& th.regs.mask g

/-- R439: a fetch that fails: a page fault stalls the thread until the host resolves it, anything else traps at the
target with zero words. -/
def State.fetchFault (s : State) (e : Env) (pc : Nat) (f : TFault) : State :=
  if s.routed f then
    let page := pc / 65536 * 65536
    let s := s.modThread e.tid (fun th => { th with pc := pc, wait := .stalled, fetchWait := some (page, f.cause) })
    (s.threadRecord e { code := 0x0200, source := 0, addr := some pc, pc := pc }).signal 68
  else
    let s := { s with cur := { tid := e.tid, pc := pc, words := [] } }
    let s := s.modThread e.tid (fun th => { th with pc := pc })
    s.raise e.tid { s.trapOf f.cause f.detail (e.th.regs.mask 0 &&& laneMask e.th.width) with addr := some pc }

/-- R216, R217: the clause's WAIT flags hold its first instruction, which its header must cover. -/
def Env.clauseWaits (e : Env) (len : Nat) : Bool :=
  e.native len && match e.th.clause with
    | some c => !c.passed && e.th.flags.any (fun p => bitOf c.wait p.1)
    | none => false

/-- R216, R418, R436: the WAIT flags have been found clear, and are consumed. -/
def State.passWait (s : State) (e : Env) (len : Nat) : State :=
  match e.th.clause with
  | some c => if !e.native len || c.passed then s
    else s.modThread e.tid (fun th => { th.consume c.wait with clause := some { c with passed := true } })
  | none => s

/-- R225: the fate of a word that a thread issues. -/
def State.execute (s : State) (e : Env) (words : List Word) (d : Decoded) : Host.Outcome State Fault Refusal :=
  let lanes := e.th.wordLanes (words.getD 0 0)
  match d with
  | .instr i => exec i s
  | .malformed n => .next (s.raise e.tid (s.trapOf 0x02 n lanes))
  | _ => .next (s.raise e.tid (s.trapOf 0x01 0 lanes))

/-- What holds a thread back now; `ready` when nothing does. -/
def State.waitOf (s : State) (tid : Nat) : WaitOn := match s.thread tid with | some th => th.wait | none => .ready

/-- R92: a thread has issued: its ports are taken for this cycle, and its skips start anew. -/
def State.issued (s : State) (e : Env) : State :=
  ({ s with taken := e.slotPorts ++ s.taken }).modThread e.tid (fun th => { th with skips := 0 })

/-- R92: a thread that is ready and whose ports are not free is skipped. -/
def State.skip (s : State) (tid : Nat) : State :=
  s.modThread tid (fun th => { th with wait := .ready, skips := th.skips + 1 })

/-- R92: the trial of a thread's instruction, which leads to `r`: one that is held back takes no port; one that is ready
issues when its ports are free, and is skipped otherwise. (DESIGN CHOICE, log entry 22.) -/
def State.tried (s : State) (e : Env) (r : Host.Outcome State Fault Refusal) : Host.Outcome State Fault Refusal :=
  match r with
  | .next t =>
    if (t.waitOf e.tid).tried then .next (if e.slotPorts.any (fun p => s.taken.contains p) then s.hold e.tid (t.waitOf e.tid) else t)
    else if e.slotPorts.any (fun p => s.taken.contains p) then .next (s.skip e.tid)
    else .next (t.issued e)
  | r => r

/-- A thread issues its next instruction. (DESIGN CHOICE, log entry 69.) -/
def State.issueThread (s : State) (tid : Nat) : Host.Outcome State Fault Refusal :=
  match s.envOf tid with
  | none => .next s
  | some e =>
    if !e.th.live || !e.mayIssue then .next s
    else match e.blk.rends.find? (fun r => r.arrived.contains tid) with
      | some r =>
        if s.rendDone e.blk r then exec r.instr { s with cur := { tid := tid, pc := r.addr, words := r.words } }
        else .next s
      | none => match s.fetchNext e with
        | (.wait, s) => .next (s.hold tid .stalled)
        | (.fault pc f, s) => .next (s.fetchFault e pc f)
        | (.passed pc cl, s) =>
          .next { s.modThread tid (fun th => { th with pc := pc, clause := cl }) with issueQ := tid :: s.issueQ }
        | (.found pc words d cl, s) =>
          let s := s.modThread tid (fun th => { th with pc := pc, clause := cl, fetchWait := none })
          let e := { e with th := { e.th with pc := pc, clause := cl, fetchWait := none } }
          if e.clauseWaits words.length then .next (s.hold tid .stalled)
          else
            let s := s.passWait e words.length
            s.tried e (State.execute { s with cur := { tid := tid, pc := pc, words := words } } e words d)

/-- A step in which no thread is left to issue: a region of a paired warp that is complete commits (R471); else a step from
outside, when one waits and can be taken, or one of the part's own; which, the spec leaves open (DESIGN CHOICE, log entry 5). After
`Config.patience` such steps each one that is obliged has its turn (R75, R76, R201). -/
def State.partStep (s : State) : Host.Outcome State Fault Refusal :=
  let own := .issueChoice :: s.enabledEvents
  match s.due with
  | i :: rest => exec i { s with due := rest }
  | [] =>
    match s.commitNow with
    | some i => exec i s
    | none =>
    if Config.patience < s.passed then
      exec (s.obliged.headD .issueChoice) { s with passed := 0, due := s.obliged.drop 1 }
    else
      let s := { s with passed := s.passed + 1 }
      match s.inputs with
      | [] => let (i, s) := s.drawFrom .issueChoice own; exec i s
      | i :: rest =>
        let (k, s) := s.draw (if s.inputReady i then own.length + 1 else own.length)
        match own[k]? with
        | some j => exec j s
        | none => exec i { s with inputs := rest }

/-- One step of the machine. -/
def State.cycle (s : State) : Host.Outcome State Fault Refusal :=
  match s.issueQ with
  | tid :: rest => State.issueThread { s with issueQ := rest } tid
  | [] => s.partStep

end Sys2Proof.Machine
end

