-- ==== Sys2Proof/Machine/Place.lean ====
section
/-! DEFINITION. Placing one instruction where the machine fetches next: a code object, a launch, a block and a warp as
the scheduler would have placed them (R36, R83, R90), and the page-table entries that map their code (R161). -/

namespace Sys2Proof.Machine

/-- Physical addresses of the tables, the code page and the first code byte: frames at the end of die 3's memory. -/
def placeRoot : Nat := 3 * 2 ^ 46 + Config.dieBytes - 0x30000
def placePage : Nat := placeRoot + 0x10000
def placeVa : Nat := 0x10000

/-- The table entries that map `placeVa` to `placePage` with every right. -/
def placeTables : List (Nat × Nat) :=
  [(placeRoot, placeRoot + 0x8000 + 1), (placeRoot + 0x8000, placeRoot + 0xC000 + 1),
   (placeRoot + 0xC000, placeRoot + 0xD000 + 1), (placeRoot + 0xD000 + 8, placePage + 0x1F)]

/-- A code object that declares every register. -/
def placeObj : CodeObj :=
  { base := placeVa, width := 64, warps := 1, vregs := 256, sregs := 128, kregs := 16, caps := List.replicate 16 64,
    fmts := List.replicate 16 0, fpmode := 0, scratch := 65536, cacheBanks := 12, scratchBanks := 8, fifoBanks := 4,
    params := 0, reserve := 0, saveSize := 0, entry := placeVa, groups := [⟨0, 0, 1⟩], handlers := [], traps := [],
    regions := [⟨0, 0, 1, 0⟩], restartable := true, paired := false, interlocked := false, stepping := 0xC2,
    errata := 0 }

/-- Its launch record. -/
def placeRecord : LaunchRecord :=
  { code := placeVa, blocks := 1, interlocked := false, pipeline := false, paired := false, restartable := true,
    dieHint := 7, prio := 0, width := 0, warps := 0, tag := 1, producer := 0, mapA := 0, mapC := 0, mapN := 1,
    tileEpoch := 0, tileFlags := 0, tileCount := 1, tileBytes := 1, tileData := 0, save := 0, saveStride := 0,
    spill := 0, spillStride := 0, errlog := 0, completion := 0 }

/-- Its launch. -/
def placeLaunch : Launch :=
  { queue := 0, recd := placeRecord, obj := placeObj, paired := false, restartable := true, interlocked := false,
    ctx := none, plan := none, device := false, waiting := [], saved := [], done := 0, failed := false, ending := none,
    aborting := none, unusable := [] }

/-- Its block, of one warp. -/
def placeBlock (l t : Nat) : Block :=
  { launch := l, id := 0, copy := .only, other := none, core := 0, since := 0, warps := [t], scratch := [],
    windows := 8, maxWindows := 8, cacheCount := 12, fifoBanks := 4, rends := [], abandoned := [], failed := false,
    switch := none, stopping := false }

/-- The state in which a warp of its own is the next to issue, and the instruction whose bits are `w` stands at its
program counter. (DESIGN CHOICE, log entry 6.) -/
def State.place (s : State) (w : Nat) : State :=
  let l := s.nextId
  let t := s.nextId + 2
  let cells := placeTables.flatMap (fun p => (bytesOf 8 p.2).zipIdx.map (fun b => (p.1 + b.2, b.1))) ++
    (bytesOf 16 w).zipIdx.map (fun b => (placePage + b.2, b.1))
  let s := s.setHomes cells
  let th := Thread.start (l + 1) (.warp 0) 64 placeVa s.clock.toNat 0 0 0 0 (Regs.start 64 0 (List.replicate 16 0) placeObj.caps)
  let s := (((s.setLaunch l placeLaunch).setBlock (l + 1) (placeBlock l t)).setThread t
    { th with handler := decide (bitsOf w 13 6 = 0xC2) })
  { s.setCore 0 { s.core 0 with icache := [], tlb := [] } with
    dies := NMap.put s.dies 0 { s.die 0 with tlb := [] },
    xlat := { s.xlat with ptRoot := placeRoot }, nextId := s.nextId + 3, issueQ := t :: s.issueQ, taken := [] }

end Sys2Proof.Machine
end

