-- ==== Sys2Proof/Safety.lean ====
section
/-! DEFINITION. What statements say of states and steps: the canonical form of memory, when an instruction issues
unhindered, what a completed instruction leaves, and what it leaves alone. -/

namespace Sys2Proof

/-- The fields of an unguarded 64-bit word at lane scope that names no operand. -/
def Ops.blank : Ops :=
  { len := 2, scope := .lane, mslot := 0, guard := 0, ginv := false, ty := .none, sty := .none, dst := .none,
    a := .none, b := .none, c := .none, rnd := 0, sat := false, hint := 0, xmod := 0, imm := 0, brec := 0, quad := 0,
    flag := 15, extra := 0 }

/-! ### Correct rounding (R117 to R122, R127, R128), in the rationals and the reals -/

/-- R117, R118, R121: the value of code `c` of a format whose exponents go on without bound. -/
def Ty.grid (t : Ty) (c : Nat) : ℚ :=
  let man := c % 2 ^ t.mbits
  let e := c / 2 ^ t.mbits
  if t = .e8m0 then 2 ^ ((c : Int) - 127)
  else if e = 0 then man * 2 ^ (1 - (t.bias : Int) - t.mbits)
  else (2 ^ t.mbits + man) * 2 ^ ((e : Int) - t.bias - t.mbits)

/-- R117, R127: the sign and the value of a finite number of a signed format; `daz` reads a subnormal one as zero. -/
def Ty.number (t : Ty) (daz : Bool) (x : Nat) : Option (Bool × ℚ) :=
  let m := x % 2 ^ (t.bits - 1)
  let neg := decide (x / 2 ^ (t.bits - 1) % 2 = 1)
  if t.maxCode < m then Option.none
  else some (neg, if daz ∧ t.flushes ∧ m < 2 ^ t.mbits then 0 else if neg then -t.grid m else t.grid m)

/-- R119, R121, R122: a magnitude `x` with the sign `neg` rounds by a mode to number `c` of the rising values `v`; `u` is
the generator's state. -/
def RoundsTo (v : Nat → ℚ) (mode u : Nat) (neg : Bool) (x : ℝ) (c : Nat) : Prop :=
  (v c : ℝ) = x ∨ ∃ lo, (v lo : ℝ) < x ∧ x < v (lo + 1) ∧
    let part := (x - v lo) / (v (lo + 1) - v lo)
    let up := match mode with
      | 0 => 1 / 2 < part ∨ (part = 1 / 2 ∧ lo % 2 = 1)
      | 1 => False
      | 2 => neg = false
      | 3 => neg = true
      | 4 => 1 / 2 ≤ part
      | _ => (2 : Int) ^ 32 ≤ ⌊part * 2 ^ 32⌋ + u
    (up → c = lo + 1) ∧ (¬ up → c = lo)

/-- R122: one step of a lane's generator. -/
def rsStep (x : Nat) : Nat :=
  let x := x ^^^ (x * 2 ^ 13 % 2 ^ 32)
  let x := x ^^^ (x / 2 ^ 17)
  x ^^^ (x * 2 ^ 5 % 2 ^ 32)

/-- R121, R124, R128, R131, R249: the result of rounding a magnitude `x`, not zero, with the sign `neg`, to a format. It is
tiny below the least normal number: the exact result with TININESS = 1, otherwise the result rounded to the format's
precision with no bound on its exponent, which in the binade below that number is a multiple of its 2^(`mbits` + 1)th part. A
tiny result is flushed under FTZ, and a flushed one counts as inexact. -/
def Rounded (env : FpEnv) (t : Ty) (mode u : Nat) (sat neg : Bool) (x : ℝ) (r : FpRes) : Prop :=
  let sign := if neg then 2 ^ (t.bits - 1) else 0
  let low := x < t.grid (2 ^ t.mbits)
  let tiny := if env.tininess = true then low else
    ∃ j, RoundsTo (fun j => t.grid (2 ^ t.mbits) * j / 2 ^ (t.mbits + 1)) mode u neg x j ∧ j < 2 ^ (t.mbits + 1)
  let flushed := env.ftz = true ∧ t.flushes = true ∧ tiny
  let limit := sat = true ∨ t ∈ [.e2m1, .e3m5, .e8m0] ∨
    (t ≠ .e4m3 ∧ (mode = 1 ∨ (mode = 2 ∧ neg = true) ∨ (mode = 3 ∧ neg = false)))
  ∃ c, RoundsTo t.grid mode u neg x c ∧
    (c ≤ t.maxCode → ¬ flushed → r.bits = sign + c) ∧
    (flushed → r.bits = sign) ∧
    (t.maxCode < c → (limit → r.bits = sign + t.maxCode) ∧ (¬ limit → r.bits = sign + t.maxCode + 1)) ∧
    (r.conds.testBit 2 = true ↔ t.maxCode < c) ∧
    (r.conds.testBit 4 = true ↔ t.maxCode < c ∨ (t.grid c : ℝ) ≠ x ∨ flushed) ∧
    (t ≠ .e8m0 → (r.conds.testBit 3 = true ↔ tiny ∧ (flushed ∨ (t.grid c : ℝ) ≠ x)))

/-- R121, R249: the result of an operation whose exact value is `x`; an exact zero takes the sign `zneg`. -/
def Result (env : FpEnv) (t : Ty) (mode u : Nat) (sat zneg : Bool) (x : ℝ) (r : FpRes) : Prop :=
  (0 < x → Rounded env t mode u sat false x r) ∧ (x < 0 → Rounded env t mode u sat true (-x) r) ∧
    (x = 0 → r = ⟨if zneg then 2 ^ (t.bits - 1) else 0, 0⟩)

end Sys2Proof

namespace Sys2Proof.Machine

/-- The memory's canonical form: addresses strictly rising, no entry equal to what an unlisted address reads as.
(DESIGN CHOICE, log entry 1.) -/
def Memory.wf (m : List Host.Cell) : Bool := NMap.wf emptyByte m

/-! ### Issue -/

/-- Thread `e` issues `i` unhindered: it is the current thread and resident, no `xres` of its own is under way
(R342), no earlier result, flag, boundary or access holds `i` back (R106, R171, R177, R217, R220, R221, R473), and no
injected error meets it (R479). -/
abbrev State.issues (s : State) (i : Instr) (o : Ops) (e : Env) : Prop :=
  s.env = some e ∧ s.resHold e = false ∧ e.hazard i o = false ∧ s.accessHold e i = false ∧ e.flawRead i 0 = none ∧
    e.th.checkErr = none

/-- A result in each lane in which the instruction acts (R234, R235), written to its destination as a type. -/
def Env.each (e : Env) (o : Ops) (ty : Ty) (f : Nat → Nat) : List RegVal :=
  (e.actLanes o).flatMap (fun l => destVals 0 ty o.dst l (f l))

/-! ### What a completed instruction leaves -/

/-- The machine is as before but for one thread and the counter of numbers. -/
structure OnlyThread (s t : State) (tid : Nat) : Prop where
  others : ∀ u, u ≠ tid → t.thread u = s.thread u
  rest   : t = { s with threads := t.threads, nextId := t.nextId }

/-- Thread `e` has completed `i` with the results `vals` and stands at `pc`: results of a fixed-latency instruction are
in the registers, over `regs`, those of a variable-latency one are pending (R219), and the rest of the thread but its
flags, clause, idle cycles, kept fetch block and region is as before. -/
structure Wrote (e : Env) (regs : Regs) (i : Instr) (vals : List RegVal) (pc : Nat) (th : Thread) : Prop where
  pc    : th.pc = pc
  ready : th.wait = .ready
  now   : isLong i = false → th.regs = Regs.putAll e.th.width regs vals ∧ th.pend = e.th.pend
  later : isLong i = true → isCompare i = false → th.regs = regs ∧
            (vals ≠ [] → ∃ p, th.pend = e.th.pend ++ [p] ∧ p.vals = vals ∧ p.known = true)
  frame : th = { e.th with regs := th.regs, pend := th.pend, flags := th.flags, clause := th.clause, pc := th.pc,
                           wait := th.wait, region := th.region, idle := th.idle, fetched := th.fetched }

/-- `i` completes: its thread passes it with the results `vals` over the registers `regs`, and nothing else of the
machine changes, memory included. -/
def CompletesOver (s : State) (i : Instr) (o : Ops) (e : Env) (regs : Regs) (vals : List RegVal) : Prop :=
  ∃ t th, exec i s = .next t ∧ OnlyThread s t e.tid ∧ t.thread e.tid = some th ∧
    Wrote e regs i vals (s.cur.pc + 4 * o.len) th

/-- `i` completes with the results `vals`. -/
def Completes (s : State) (i : Instr) (o : Ops) (e : Env) (vals : List RegVal) : Prop :=
  CompletesOver s i o e e.th.regs vals

/-- R401: thread `e` traps with this cause: `trap_mask` is the lanes of `lanes` that `bad` holds of. -/
def TrapsFor (s : State) (i : Instr) (e : Env) (lanes : List Nat) (bad : Nat → Prop) (cause detail : Nat) : Prop :=
  ∃ mask : DWord, exec i s = .next (s.raise e.tid (s.trapOf cause detail mask)) ∧
    ∀ l, l < 64 → (mask.getLsbD l = true ↔ l ∈ lanes ∧ bad l)

/-- R131, R132, R401: an enabled condition in a lane is all that an instruction does: it traps with cause 0x0005, and DETAIL
is the conditions raised in the lanes that raised an enabled one. -/
def ArithTraps (s : State) (i : Instr) (e : Env) (lanes : List Nat) (conds : Nat → Nat) : Prop :=
  (∃ l ∈ lanes, e.fp.traps (conds l) = true) → ∃ detail : Nat,
    TrapsFor s i e lanes (fun l => e.fp.traps (conds l) = true) 0x0005 detail ∧
    ∀ b, detail.testBit b = true ↔ ∃ l ∈ lanes, e.fp.traps (conds l) = true ∧ (conds l).testBit b = true

/-- R110, R122: the registers `t` are `r` with the generator of each lane seeded, and `rand_seed` set. -/
def Seeded (r : Regs) (width : Nat) (x : Word) (t : Regs) : Prop :=
  (∀ l, l < width → let z := x.toNat ^^^ ((l + 1) * 0x9E3779B9 % 2 ^ 32)
    t.genOf l = if z = 0 then 0x6D2B79F5 else z) ∧
  (∀ l, width ≤ l → t.genOf l = r.genOf l) ∧ t.seed = x ∧ { t with gen := r.gen, seed := r.seed } = r

/-- R131, R132, R249: with no enabled condition in a lane in which the instruction acts, the results of `f` are
written, and, when the form rounds by rs, the lanes' generators step once; otherwise it traps. -/
def FpRuns (s : State) (i : Instr) (o : Ops) (e : Env) (ty : Ty) (steps : Bool) (f : Nat → FpRes) : Prop :=
  s.issues i o e →
    ((∀ l ∈ e.actLanes o, e.fp.traps (f l).conds = false) →
      CompletesOver s i o e (if steps = true ∧ o.rnd = 5 then stepGens e.th.regs (e.actLanes o) else e.th.regs)
        (e.each o ty (fun l => (f l).bits))) ∧
    ArithTraps s i e (e.actLanes o) (fun l => (f l).conds)

/-- R281: a result of this shape and type has legal dimensions and fits its matrix register. -/
def Env.fits (e : Env) (d : Opd) (rows cols : Nat) (ty : Ty) : Prop :=
  1 ≤ rows ∧ rows ≤ 64 ∧ 1 ≤ cols ∧ cols ≤ 64 ∧ rows * cols * ty.bits ≤ 32 * e.la.obj.caps.getD (matNo d) 0

/-- R280 to R283: a per-lane matrix instruction of which every active lane meets `ok`. When no lane's roundings
(`rnds`: its conditions and its generator afterwards) raise an enabled condition it completes: the results are those of the
lanes, then `marks`, and under rs each active lane's generator has stepped once for every rounding. Otherwise it traps. -/
def MatRuns (s : State) (i : Instr) (o : Ops) (e : Env) (ok : Nat → Prop) (vals : Nat → List RegVal)
    (rnds : Nat → Calc) (marks : List RegVal) : Prop :=
  s.issues i o e → (∀ l ∈ e.th.activeLanes o, ok l) →
    ((∀ l ∈ e.th.activeLanes o, e.fp.traps (rnds l).conds = false) →
      CompletesOver s i o e
        (if o.rnd = 5 then (e.th.activeLanes o).foldl (fun r l => r.setGen l (rnds l).gen) e.th.regs else e.th.regs)
        ((e.th.activeLanes o).flatMap vals ++ marks)) ∧
    ArithTraps s i e (e.th.activeLanes o) (fun l => (rnds l).conds)

/-- R281, R282: a lane that `differ` holds of traps with cause 0x0006, and then one that `small` holds of with cause
0x0007. -/
def ShapeTraps (s : State) (i : Instr) (o : Ops) (e : Env) (differ small : Nat → Prop) : Prop :=
  let lanes := e.th.activeLanes o
  s.issues i o e → ((∃ l ∈ lanes, differ l) → TrapsFor s i e lanes differ 0x0006 0) ∧
    ((∀ l ∈ lanes, ¬ differ l) → (∃ l ∈ lanes, small l) → TrapsFor s i e lanes small 0x0007 0)

/-- R293: what a lane of a matrix-algebra instruction writes: its elements, or, when it is singular, its shape filled with
the canonical NaN. -/
def algebraMat (ty : Ty) (rows cols : Nat) (els : Option (List Nat)) : Mat :=
  ⟨rows, cols, ty, els.getD (List.replicate (rows * cols) ty.canonNan)⟩

/-- R293: the mask that marks singular lanes: those of G are set where the lane is singular and cleared elsewhere. -/
def Env.singularMark (e : Env) (o : Ops) (singular : Nat → Bool) : List RegVal :=
  match o.c with
  | .k n => if e.th.activeLanes o = [] then [] else
      [.kl n (e.th.active o) (maskOf ((e.th.activeLanes o).filter singular))]
  | _ => []

/-- R258, R219: `i` completes as a comparison that holds in the lanes of `holds`. -/
def ComparesTo (s : State) (i : Instr) (o : Ops) (e : Env) (holds : Nat → Bool) : Prop :=
  ∃ t th, exec i s = .next t ∧ OnlyThread s t e.tid ∧ t.thread e.tid = some th ∧
    th.pc = s.cur.pc + 4 * o.len ∧ th.wait = .ready ∧
    (∀ n, o.dst = .k n →
      (∀ l, (th.regs.mask n).getLsbD l = true ↔ l ∈ e.actLanes o ∧ holds l = true) ∧
      (∀ k, k ≠ n → th.regs.mask k = e.th.regs.mask k) ∧
      (∀ k, e.th.pend = [] → th.scalarMask k = e.th.regs.mask k)) ∧
    (∀ n, o.dst = .s n → e.th.active o ≠ 0 → allScalar o = true →
      th.regs = e.th.regs.setScal n (if holds 0 then 1 else 0) ∧
      (e.th.pend = [] → th.staleVal (.s n) = some ((e.th.regs.scal n).setWidth 64)))

/-- R61: thread `e` has passed a region boundary and stands at `dest`: a warp is in the region that starts there. -/
structure Bounded (t : State) (e : Env) (dest : Nat) (th : Thread) : Prop where
  thread : t.thread e.tid = some th
  pc     : th.pc = dest
  ready  : th.wait = .ready
  region : e.th.isWarp = true → th.region.num = e.th.region.num + 1 ∧ th.region.start = dest ∧ th.region.newV = 0 ∧
             th.region.newS = 0 ∧ th.region.newK = 0 ∧ th.region.newM = 0

/-- R61: thread `e` has passed a region boundary, and outside test mode nothing else of the machine has changed, memory
included. -/
structure PassedTo (s t : State) (e : Env) (dest : Nat) (th : Thread) : Prop extends Bounded t e dest th where
  only   : s.host.testMode = false → OnlyThread s t e.tid

/-- A warp has entered the trap handler at `dest` for a trap: the trap registers hold it, a failure that it raised stands
behind its flag no more (R418), and nothing else of the warp but its clause and its readiness has changed (R400 to R402). -/
structure Entered (e : Env) (r : Trap) (dest : Nat) (th : Thread) : Prop where
  entry   : th.pc = dest
  mode    : th.handler = true
  back    : th.trap.pc = BitVec.ofNat 64 r.pc ∧ th.trap.mask = r.mask
  words   : th.trap.word0 = r.word0 ∧ th.trap.word1 = r.word1 ∧ th.trap.word2 = r.word2 ∧ th.trap.word3 = r.word3
  cause   : th.trap.cause.toNat % 2 ^ 16 = r.cause ∧ th.trap.cause.toNat / 2 ^ 16 % 2 ^ 10 = r.detail % 2 ^ 10 ∧
              th.trap.cause.toNat / 2 ^ 26 % 2 ^ 5 = 0 ∧ th.trap.cause.getLsbD 31 = r.setwide
  frame   : th = { e.th with trap := th.trap, pc := dest, handler := true, held := none, clause := none,
                             fetched := none, wait := .ready, spillAgain := false,
                             faults := e.th.faults.filter fun y => r.flag ≠ some y.flag }

/-! ### Sets and blocks -/

/-- R52, R53: thread `e` is the last live member of set `set` (256 is the block), whose members, live or not, are `all`, to
arrive at `i`; no checked error meets it. -/
structure State.arrives (s : State) (i : Instr) (o : Ops) (e : Env) (set base : Nat) (all : List Nat) : Prop where
  env   : s.env = some e
  scope : 2 ≤ o.scope.code
  named : e.setOf o = (set, base, all)
  clear : e.th.pend = [] ∧ e.flagHazard i o.len = false ∧ e.pairHazard i = false ∧ s.accessHold e i = false
  test  : s.host.testMode = false
  live  : e.th.live = true ∧ e.tid ∈ all ∧ all.Nodup
  rest  : (∃ r, e.blk.rends.find? (fun r => r.set = set) = some r ∧ r.addr = s.cur.pc ∧ e.tid ∉ r.arrived ∧
              ∀ m ∈ s.liveMembers e.blk e.la.obj set, m ≠ e.tid → m ∈ r.arrived) ∨
            (e.blk.rends.find? (fun r => r.set = set) = none ∧ ∀ m ∈ s.liveMembers e.blk e.la.obj set, m = e.tid)
  only  : ∀ r ∈ e.blk.rends, r.set ≠ set → ∀ m ∈ all, m ∉ r.arrived
  one   : ∀ m ∈ all, ∃ f, s.envOf m = some f ∧ f.th.block = e.th.block ∧ f.th.isWarp = true ∧
            f.flawRead i base = none ∧ f.th.checkErr = none

/-- R47, R53, R61: the rendezvous at `i` completes and closes: every live member of `all` goes on, its results, given by rank,
are pending, and no other thread and no memory changes. -/
def SetCompletes (s : State) (i : Instr) (o : Ops) (e : Env) (set : Nat) (all : List Nat) (vals : Nat → List RegVal) :
    Prop :=
  ∃ t, exec i s = .next t ∧ t.mem = s.mem ∧ t.peer = s.peer ∧ (∀ u, u ∉ all → t.thread u = s.thread u) ∧
    (∀ (j m : Nat) (f : Env), all[j]? = some m → s.envOf m = some f → f.th.live = true → ∃ th, t.thread m = some th ∧
      th.pc = s.cur.pc + 4 * o.len ∧ th.wait = .ready ∧ th.regs = f.th.regs ∧
      (vals j = [] → th.pend = f.th.pend) ∧
      (vals j ≠ [] → ∃ p, th.pend = f.th.pend ++ [p] ∧ p.known = true ∧ p.vals = vals j)) ∧
    (∀ b, t.block e.th.block = some b → b.rends.find? (fun r => r.set = set) = none)

/-- R262: thread `e` issues the cross-lane instruction `i` over the lanes of `c`: those of its warp, or those of the live
members of its set, of which it is the last to arrive. -/
def State.crosses (s : State) (i : Instr) (o : Ops) (e : Env) (c : SetCtx) : Prop :=
  (o.scope = .warp ∧ s.issues i o e ∧ c = e.solo) ∨
    (∃ set base all, s.arrives i o e set base all ∧ s.setCtx e o = some c)

/-- R53, R262: a cross-lane instruction completes with the results of each member, by rank. -/
def CrossCompletes (s : State) (i : Instr) (o : Ops) (e : Env) (vals : Nat → List RegVal) : Prop :=
  (o.scope = .warp → Completes s i o e (vals 0)) ∧
    (2 ≤ o.scope.code → SetCompletes s i o e (e.setOf o).1 (e.setOf o).2.2 vals)

/-- R262, R410, R411: a cross-lane instruction traps: over a warp alone, or set-wide in every live member. -/
def CrossTraps (s : State) (i : Instr) (o : Ops) (e : Env) (cause detail : Nat) (mask : Env → DWord) : Prop :=
  (o.scope = .warp → exec i s = .next (s.raise e.tid (s.trapOf cause detail (mask e)))) ∧
    (2 ≤ o.scope.code → ∃ (s1 : State) (traps : List (Nat × Trap)), exec i s = .next (s1.setWide e.th.block traps) ∧
      s1.mem = s.mem ∧ (∀ u, (s1.thread u).map (·.regs) = (s.thread u).map (·.regs)) ∧
      traps.map (·.1) = s.liveMembers e.blk e.la.obj (e.setOf o).1 ∧
      ∀ p ∈ traps, p.2.cause = cause ∧ p.2.detail = detail ∧ p.2.setwide = true ∧
        ∀ f, s.envOf p.1 = some f → p.2.mask = mask f)

/-- R47, R57: the results of a type in the active lanes of a lane space, for the member of a rank. -/
def SetCtx.each (c : SetCtx) (o : Ops) (ty : Ty) (f : Nat → Nat) (j : Nat) : List RegVal :=
  ((c.actives o).filter (fun l => l / c.width = j)).flatMap fun l => destVals c.base ty o.dst (l % c.width) (f l)

/-! ### The part's own steps -/

/-- Nothing is held back: no access is logged, no phase, restart, rendezvous, bulk command or record is under way, no sprout is
about to leave, and no launch has a block to place. -/
def State.undisturbed (s : State) : Prop :=
  NMap.sorted s.threads = true ∧
    (∀ p ∈ s.threads, p.2.log = [] ∧ p.2.phase = none ∧ p.2.restarts = false ∧ p.2.leaving = none) ∧ s.cmds = [] ∧
    s.recs = [] ∧ (∀ p ∈ s.launches, p.2.waiting = []) ∧ ∀ p ∈ s.blocks, p.2.rends = []

/-- R80, R379: the round of the scheduler comes to queue `q` next, and no restart is under way. -/
def State.turnOf (s : State) (q : Nat) : Prop :=
  s.mailbox.restart = none ∧ q < 64 ∧ s.queueReady q = true ∧
    ((s.roundAt ≤ q ∧ ∀ p, s.roundAt ≤ p → p < q → s.queueReady p = false) ∨
      (q < s.roundAt ∧ (∀ p, s.roundAt ≤ p → p < 64 → s.queueReady p = false) ∧ ∀ p, p < q → s.queueReady p = false))

/-- R79, R80, R93: the next record of a queue: its words, the queue without it, and whether a `launch` submitted it. -/
def State.nextRecord (s : State) (q : Nat) (words : List Word) (x : Queue) (device : Bool) : Prop :=
  let old := s.queue q
  (old.places = words :: x.places ∧ x = { old with places := x.places } ∧ device = true) ∨
    (old.places = [] ∧ (∃ b, s.readVirt (old.base + old.head.toNat % 2 ^ old.size * 128) 128 = .ok b ∧
      words = wordsOf 32 (ofBytes b)) ∧ x = { old with head := old.head + 1 } ∧ device = false)

/-! ### Memory -/

/-- A byte stored by a core and not yet performed at its home: dirty in its L1 or staged, in a line that `which` admits. -/
def Core.unwrittenIn (c : Core) (which : Nat → Prop) (pa : Nat) (b : Byte) : Prop :=
  (∃ l ∈ c.l1, which l.pa ∧ ∃ k, (k, b) ∈ l.dirty ∧ lineOf l.pa + k = pa) ∨
    (∃ l ∈ c.staged, which l.pa ∧ ∃ k, (k, b) ∈ l.dirty ∧ lineOf l.pa + k = pa)

/-- A byte stored by a core and not yet performed at its home. -/
def Core.unwritten (c : Core) (pa : Nat) (b : Byte) : Prop := c.unwrittenIn (fun _ => True) pa b

/-- No byte of memory at its home has changed but to one that some core had stored there. -/
def OnlyStored (s t : State) : Prop := ∀ pa, t.homeByte pa = s.homeByte pa ∨ ∃ c, (s.core c).unwritten pa (t.homeByte pa)

/-- A local line of which no core holds an unwritten byte and core `core` no copy. -/
def State.onlyHome (s : State) (core line : Nat) : Prop :=
  isRemote line = false ∧ (∀ c b k, k < 64 → ¬ (s.core c).unwritten (line + k) b) ∧ (s.core core).line line = none ∧
    (s.core core).stagedLine line = none

/-- The memory is canonical, no peer refuses a write-back (R490, R491), and no core's line is poisoned (R466). -/
def State.settled (s : State) : Prop := Memory.wf s.mem = true ∧ (∀ c pa, s.refused c pa = false) ∧
  ∀ c, (s.core c).l1.all (!·.bad) = true ∧ (s.core c).staged.all (!·.bad) = true

/-- R160: the index of the table of a level: its lowest bit and the number of its bits. -/
def levelBits : Nat → Nat × Nat
  | 0 => (16, 5) | 1 => (21, 8) | 2 => (29, 11) | _ => (40, 12)

/-- R160, R161: the entry for an address in a table of a level. -/
def State.tableEntry (s : State) (va level table : Nat) : Nat :=
  ofBytes (s.homeBytes (table + 8 * (va / 2 ^ (levelBits level).1 % 2 ^ (levelBits level).2)) 8)

/-- R161: ADDR of a table entry. -/
def entryAddr (x : Nat) : Nat := x / 2 ^ 8 % 2 ^ 40 * 2 ^ 8

/-- R161: a valid entry of a level is malformed. -/
def Malformed (level x : Nat) : Prop :=
  x / 2 ^ 48 ≠ 0 ∨ x / 2 ^ 5 % 8 ≠ 0 ∨
    (x / 2 % 2 = 1 ∧ (level = 3 ∨ (x / 8 % 2 = 1 ∧ x / 4 % 2 = 0) ∨ entryAddr x % 2 ^ (levelBits level).1 ≠ 0)) ∨
    (x / 2 % 2 = 0 ∧ (level = 0 ∨ entryAddr x % (8 * 2 ^ (levelBits (level - 1)).2) ≠ 0))

/-- R161: the ADDR of an entry names a frame: of a leaf also one in a remote window. -/
def NamesFrame (x : Nat) : Prop := isLocal (entryAddr x) = true ∨ (x / 2 % 2 = 1 ∧ isPeer (entryAddr x) = true)

/-- R160, R161: the walk of an address that stands at table `t` of a level comes to the entry `x` of level `k`. -/
inductive WalkMeets (s : State) (va : Nat) : Nat → Nat → Nat → Nat → Prop
  | here (l t : Nat) : WalkMeets s va l t l (s.tableEntry va l t)
  | down (l t k x : Nat) : s.tableEntry va (l + 1) t % 2 = 1 → s.tableEntry va (l + 1) t / 2 % 2 = 0 →
      ¬ Malformed (l + 1) (s.tableEntry va (l + 1) t) → NamesFrame (s.tableEntry va (l + 1) t) →
      WalkMeets s va l (entryAddr (s.tableEntry va (l + 1) t)) k x → WalkMeets s va (l + 1) t k x

/-- The byte of a virtual address as a core reads it, through the lines that translate. -/
def State.byteAt (s : State) (core : Nat) (lines : List (Nat × Nat)) (va : Nat) : Byte :=
  match lineAt lines va with | some l => s.seenByte core (l + va % 64) | none => 0

/-- The value of an access: zero where the record gives one (R144). -/
def State.valueAt (s : State) (core : Nat) (lines : List (Nat × Nat)) (a : Access) : Nat :=
  ofBytes (a.parts.flatMap fun p => (List.range p.2.1).map fun i => s.byteAt core lines (p.1 + i))

/-- R441: the accesses `accs` of an unpaired thread reach memory: their lines translate to `lines`, no access of it is
logged, no line is owned by a bulk command (R179) or awaited by an atomic of the thread (R176), no release has to wait before
they enter the L1 or the staging area (R170), and no read meets a data error (R452, R491). `s1` is `s` with what translation
leaves in the TLBs. -/
structure State.reachesTo (s s1 : State) (e : Env) (write : Bool) (accs : List Access) (lines : List (Nat × Nat)) : Prop where
  walk : s.reachLines e.blk.core (if write then .w else .r) 0 (linesOf accs) = (some (lines, []), s1)
  log  : e.th.log = []
  solo : e.th.pair = none
  free : ∀ l ∈ lines, s1.atomAhead e.tid l.2 = false
  room : s1.linesWait e.blk.core lines = false
  good : write = false → s1.dataBad e.th e.blk.core lines accs = []

/-- Thread `e` has completed `i`, and what else of the thread has changed is its results, which are pending. -/
def LoadDone (s t : State) (i : Instr) (o : Ops) (e : Env) (vals : List RegVal) : Prop :=
  ∃ th, t.thread e.tid = some th ∧ Wrote e e.th.regs i vals (s.cur.pc + 4 * o.len) th

/-- A line stands in the L2 of its home already, or is remote, so that an access to it evicts no L2 line (R156). -/
def State.inL2 (s : State) (pa : Nat) : Prop := isRemote pa = true ∨ ∃ p ∈ (s.die (homeDie pa)).l2, p.1 = pa / 256

/-- A line (virtual, physical) of which every byte that these accesses load hits (R154). -/
def State.hits (s : State) (core : Nat) (accs : List Access) (l : Nat × Nat) : Prop :=
  ∀ a ∈ accs, ∀ p ∈ a.parts, ∀ i, i < p.2.1 → lineOf (p.1 + i) = l.1 → s.loadHit core (l.2 + (p.1 + i) % 64) 1 = true

/-- A line at home only, which can enter the L1 with `n - 1` others and evict nothing. -/
def State.freshLine (s : State) (core n line : Nat) : Prop :=
  s.onlyHome core line ∧ s.inL2 line ∧
    ((s.core core).l1.filter (fun x => setOf x.pa = setOf line)).length + n ≤ s.ways core

/-- A read of accesses by core `core`. `done` says that its results are the bytes that the core or memory holds: so it is
when every line hits; when each line hits, or is at home only with room for it; and when all lines are at home only. In every
case no byte of memory changes but to one that some core had stored there. -/
def Fetches (s s1 t : State) (core : Nat) (accs : List Access) (lines : List (Nat × Nat)) (done : Prop) : Prop :=
  ((∀ l ∈ lines, s1.hits core accs l) → done) ∧
  (s1.settled → (∀ l ∈ lines, l.2 % 64 = 0 ∧ (s1.hits core accs l ∨ s1.freshLine core lines.length l.2)) → done) ∧
  (s1.settled → (∀ l ∈ lines, s1.onlyHome core l.2 ∧ l.2 % 64 = 0) → done) ∧
  (s1.settled → ∀ pa, isRemote pa = false → t.homeByte pa = s.homeByte pa ∨ ∃ c, (s1.core c).unwritten pa (t.homeByte pa))

/-- A load of `e`: the values read are its results; where every line hits nothing else changes but the marks of a `.keep`. -/
def Loads (s s1 t : State) (i : Instr) (o : Ops) (e : Env) (accs : List Access) (lines : List (Nat × Nat))
    (vals : (Access → Nat) → List RegVal) : Prop :=
  Fetches s s1 t e.blk.core accs lines (LoadDone s t i o e (vals (s1.valueAt e.blk.core lines))) ∧
  ((∀ l ∈ lines, s1.hits e.blk.core accs l) → o.hint ≠ 3 → OnlyThread s1 t e.tid) ∧
  (∀ u, u ≠ e.tid → t.thread u = s.thread u)

/-- Core `core` has stored these bytes (virtual line, physical address, byte). In lines that its L1 holds the core
reads the last byte stored to each address and every other byte as before, and memory at its homes and every other core
are unchanged. So it does in lines that are at home only. In any local lines of which no other core has an unwritten byte it
reads back what it stored. Lines that stand in the L2 leave every other core unchanged. In every case no byte of memory changes
but to one that some core had stored there. -/
def StoredIn (s s1 t : State) (core : Nat) (bytes : List (Nat × Nat × Byte)) : Prop :=
  let last := fun pa => (bytes.reverse.find? (fun b => b.2.1 = pa)).map (·.2.2)
  (0 < s1.ways core → (∀ b ∈ bytes, ((s1.core core).line b.2.1).isSome = true) →
    t.mem = s.mem ∧ t.peer = s.peer ∧ (∀ c, c ≠ core → t.core c = s1.core c) ∧
      ∀ pa, t.seenByte core pa = (last pa).getD (s1.seenByte core pa)) ∧
  (s1.settled → (∀ b ∈ bytes, s1.onlyHome core (lineOf b.2.1)) →
    ∀ b ∈ bytes, ∀ k, k < 64 → t.seenByte core (lineOf b.2.1 + k) =
      (last (lineOf b.2.1 + k)).getD (s1.seenByte core (lineOf b.2.1 + k))) ∧
  (s1.settled → (∀ b ∈ bytes, isRemote b.2.1 = false ∧ ∀ c v, c ≠ core → ¬ (s1.core c).unwritten b.2.1 v) →
    ∀ b ∈ bytes, some (t.seenByte core b.2.1) = last b.2.1) ∧
  ((∀ b ∈ bytes, s1.inL2 b.2.1) → ∀ c, c ≠ core → t.core c = s1.core c) ∧
  (s1.settled → ∀ pa, t.homeByte pa = s.homeByte pa ∨ (∃ c, (s1.core c).unwritten pa (t.homeByte pa)) ∨
    ∃ b ∈ bytes, b.2.1 = pa ∧ b.2.2 = t.homeByte pa)

/-- A store of `e` of these bytes completes, and no other thread changes. -/
def Stores (s s1 t : State) (i : Instr) (o : Ops) (e : Env) (bytes : List (Nat × Nat × Byte)) : Prop :=
  (∃ th, t.thread e.tid = some th ∧ Wrote e e.th.regs i [] (s.cur.pc + 4 * o.len) th) ∧
  (∀ u, u ≠ e.tid → t.thread u = s.thread u) ∧ StoredIn s s1 t e.blk.core bytes

/-- Thread `e` has passed `i`, with nothing of its registers, flags or pending results changed. -/
def Passed (s t : State) (o : Ops) (e : Env) : Prop :=
  ∃ th, t.thread e.tid = some th ∧ th.pc = s.cur.pc + 4 * o.len ∧ th.wait = .ready ∧ th.regs = e.th.regs ∧
    th.pend = e.th.pend ∧ th.flags = e.th.flags

/-- R169: what a release of a scope does to memory: the bytes that the core had stored are at their homes, those of
peers too when it is a release at system scope, and no other byte changes. -/
def Released (s t : State) (core : Nat) (scope : PhaseScope) : Prop :=
  let which := fun pa => scope ≠ .core ∧ (scope = .system ∨ isRemote pa = false)
  ∀ pa, ((∃ b, (s.core core).unwrittenIn which pa b) → (s.core core).unwrittenIn which pa (t.homeByte pa)) ∧
    ((¬ ∃ b, (s.core core).unwrittenIn which pa b) → t.homeByte pa = s.homeByte pa)

/-- R171: what an acquire of a scope does: the core holds no filled byte of a local line, nor, at system scope, of any. -/
def Acquired (t : State) (core : Nat) (scope : PhaseScope) : Prop :=
  scope ≠ .core → ∀ l ∈ (t.core core).l1, (scope = .system ∨ isRemote l.pa = false) → l.filled = []

end Sys2Proof.Machine
end

