-- ==== Sys2Proof/Certificates/Slice0/Obligations.lean ====
section
/-! DEFINITION. The statements for the provers. -/

open Sys2Proof Sys2Proof.Machine

/-! ### Encoding and decoding -/

/-- The words that the spec writes out in its examples decode to the instructions and the header that it names. -/
def Obligations.ExampleWordsDecode : Prop :=
  decode 0x00000000013FC00B = .header { wait := 2, seta := 15, setb := 15, length := 4, stall := 0, reuse := 0 } ∧
  decodeTableWord 64 0x0042018060188800 =
    some (.fadd { Ops.blank with guard := 2, ty := .f32, dst := .v 3, a := .v 3, b := .v 3 }) ∧
  decodeTableWord 96 (0x3F803F80 * 2 ^ 64 + 0x2024006008B80301) =
    some (.movi { Ops.blank with len := 3, ty := .b32, dst := .s 23, a := .long 0x3F803F80 }) ∧
  decodeTableWord 64 0x4017840020101000 =
    some (.cmp .lt { Ops.blank with ty := .n32, dst := .k 2, a := .v 1, b := .imm 8 }) ∧
  decodeTableWord 96 (0x00000040 * 2 ^ 64 + 0x2000000040002C05) =
    some (.bra .any { Ops.blank with len := 3, scope := .warp, a := .k 2, imm := 0x40 }) ∧
  decodeTableWord 128 (0x001E000000000000 * 2 ^ 64 + 0x0842000040182002) =
    some (.ld { Ops.blank with len := 4, ty := .f32, dst := .v 3, a := .v 2, hint := 1 }) ∧
  decodeTableWord 64 0x0043816058181A40 =
    some (.mmul .nn { Ops.blank with ty := .f32, dst := .m 3, a := .m 2, b := .m 2 }) ∧
  decodeTableWord 128 (0x029E000000000000 * 2 ^ 64 + 0x00018360D8201C4A) =
    some (.mma { Ops.blank with len := 4, scope := .set, dst := .m 4, a := .m 6, b := .m 6, quad := 20 }) ∧
  decodeTableWord 128 (0x001E000000000000 * 2 ^ 64 + 0x00168C2320002106) =
    some (.atomAdd { Ops.blank with len := 4, scope := .warp, ty := .n32, a := .s 25, b := .s 24 }) ∧
  decodeTableWord 64 0x1000000000002144 = some (.phaseRel { Ops.blank with scope := .warp, hint := 2 }) ∧
  decodeTableWord 128 (0x0006000000000020 * 2 ^ 64 + 0x0000002100002906) =
    some (.bread { Ops.blank with len := 4, scope := .warp, a := .s 8, imm := 32, flag := 3 }) ∧
  decodeTableWord 96 (0x00000302 * 2 ^ 64 + 0x004201C010091509) =
    some (.sred .sum { Ops.blank with len := 3, scope := .set, guard := 4, ty := .f32, dst := .g 1, a := .g 0, b := .k 3,
                                      c := .imm 2 }) ∧
  decodeTableWord 64 0x00000000000830C0 = some (.sread { Ops.blank with dst := .v 1, a := .sp 0 }) ∧
  decodeTableWord 64 0x0000000000003000 = some (.nop Ops.blank)

/-- R202 to R225: decoding the encoding of a well-formed instruction gives it back, with every operand at every value
that the encoding admits. -/
def Obligations.DecodeOfEncode : Prop :=
  ∀ i : Instr, i.wf = true → i.ops.isSome = true → decodeTableWord (encodedBits i) (encode i) = some i

/-- R202 to R225: a word that decodes to an instruction is the encoding of that instruction, which is well formed: no
bit of it is ignored. -/
def Obligations.EncodeOfDecode : Prop :=
  ∀ (w : Nat) (i : Instr), decode w = .instr i → i.wf = true ∧ encode i = w % 2 ^ (32 * lengthOf w) ∧
    encodedBits i = 32 * lengthOf w

/-! ### The step -/

/-- R92, R184, R225: when the thread at the head of the issue queue may issue, and the word at its program counter, in the fetch
block that it keeps or fetches now, decodes to an instruction `i`, the step executes `i` for that thread, at that
address, with those words, and its ports are then taken. One that is held back takes none; one whose ports another has taken
in this cycle is skipped, in the state as it was. Model's choice: an instruction is tried to find whether it is held
back (log entry 22). -/
def Obligations.StepRunsDecoded : Prop :=
  ∀ (s s0 s1 s2 t : State) (tid : Nat) (rest : List Nat) (e : Env) (block words : List Word) (i : Instr),
    s.issueQ = tid :: rest → s0 = { s with issueQ := rest } → s0.envOf tid = some e → e.th.live = true →
    e.mayIssue = true → e.blk.rends.find? (fun r => r.arrived.contains tid) = none →
    s0.threadBlock e e.th.pc = (.ok block, s1) →
    let here := block.drop (e.th.pc % 32 / 4)
    decodeAt e.decodeCtx (e.th.pc % 32) (ofWords (here.take 4)) = .instr i →
    words = here.take (lengthOf (ofWords (here.take 4))) → e.clauseWaits words.length = false →
    s2 = (s1.modThread tid (fun th => { th with pc := e.th.pc, clause := e.th.clause, fetchWait := none })).passWait e
      words.length →
    exec i { s2 with cur := { tid := tid, pc := e.th.pc, words := words } } = .next t →
    let held := (t.waitOf tid).tried
    let free := ∀ p ∈ e.slotPorts, p ∉ s2.taken
    (free → held = false → step s = .next (t.issued e)) ∧ (free → held = true → step s = .next t) ∧
    (¬ free → held = true → step s = .next (s2.hold tid (t.waitOf tid))) ∧
    (¬ free → held = false → step s = .next (s2.skip tid))

/-- R203, R204, R215, R225: what the checks before the fields decide. A pad word is one at the end of its fetch block; a
word that crosses its block is malformed, and a clause header is malformed exactly when its bits [63:52] are not zero or its
SETA or SETB is 12 to 14: any other one is the header of its fields. R225, R401, R406: a word that is
malformed traps with cause 0x0002 and the first failed check as DETAIL, one whose operation is not assigned with
cause 0x0001; `trap_mask` is the lanes that pass `k0` and the guard. Model's reading: log entries 12 and 13. -/
def Obligations.UndecodableWords : Prop :=
  (∀ (c : Ctx) (off w : Nat), off < 32 → off % 4 = 0 →
      (off = 28 → w % 2 ^ 32 = 0x3000 → decodeAt c off w = .pad) ∧
      (¬ (off = 28 ∧ w % 2 ^ 32 = 0x3000) → 32 < off + 4 * lengthOf w → decodeAt c off w = .malformed 1) ∧
      (off ≤ 24 → w % 4 = 3 →
        let reserved := w / 2 ^ 52 % 2 ^ 12 ≠ 0 ∨ w / 2 ^ 14 % 16 ∈ [12, 13, 14] ∨ w / 2 ^ 18 % 16 ∈ [12, 13, 14]
        (reserved → decodeAt c off w = .malformed 2) ∧
        (¬ reserved → ∃ h, decodeAt c off w = .header h ∧ h.bits = w % 2 ^ 52 ∧ h.wait = w / 2 ^ 2 % 2 ^ 12 ∧
          h.seta = w / 2 ^ 14 % 2 ^ 4 ∧ h.setb = w / 2 ^ 18 % 2 ^ 4 ∧ h.length = w / 2 ^ 22 % 2 ^ 6 ∧
          h.stall = w / 2 ^ 28 % 2 ^ 16)) ∧
      (off + 4 * lengthOf w ≤ 32 → ¬ (off = 28 ∧ w % 2 ^ 32 = 0x3000) → w % 4 ≠ 3 →
        (instrOf (Raw.ofBits (lengthOf w) w).opc (Raw.ofBits (lengthOf w) w).sub (Raw.ofBits (lengthOf w) w).xmod = none ∨
          (w % 4 = 2 ∧ w / 2 ^ 96 % 2 ^ 10 ≠ 0 ∧ w / 64 % 256 ∉ [0x84, 0xA0])) →
        decodeAt c off w = .unimplemented)) ∧
  (∀ (s : State) (e : Env) (words : List Word) (n : Nat),
      State.execute s e words (.malformed n) =
        .next (s.raise e.tid (s.trapOf 0x0002 n (e.th.wordLanes (words.getD 0 0)))) ∧
      State.execute s e words .unimplemented =
        .next (s.raise e.tid (s.trapOf 0x0001 0 (e.th.wordLanes (words.getD 0 0)))))

/-! ### Reset -/

/-- R78, R164, R182, R371, R374, R378, R423, R448, R468: registers that the spec gives a reset value hold it at reset,
and nothing is resident. Model's choice: the masked MSI-X vectors (log entry 3), a first start with nothing failing
(2), and the canonical form of an empty memory (1). -/
def Obligations.ResetValues : Prop :=
  State.reset.threads = [] ∧ State.reset.blocks = [] ∧ State.reset.launches = [] ∧ State.reset.issueQ = [] ∧
  (∀ q, (State.reset.queue q).head = 0 ∧ (State.reset.queue q).tail = 0 ∧ (State.reset.queue q).enable = false ∧
    (State.reset.queue q).pdesc = 0) ∧
  (∀ d, (State.reset.die d).elogHead = 0 ∧ (State.reset.die d).elogTail = 0 ∧ (State.reset.die d).lost = 0 ∧
    (State.reset.die d).l2Units = 8 ∧ (State.reset.die d).migs = []) ∧
  State.reset.xlat.ptRoot = 0 ∧ State.reset.xlat.sdGen = 0 ∧ State.reset.xlat.qepoch = 0 ∧
  State.reset.xlat.route = false ∧ State.reset.mailbox.busy = false ∧ State.reset.mailbox.len = 0 ∧
  (∀ v, v < 70 → NMap.get 0 State.reset.host.msix (4 * v + 3) = 1) ∧ State.reset.host.pending = [] ∧
  State.reset.host.abortDone = 0 ∧ Memory.wf State.reset.mem = true

/-! ### Integer, bit and address instructions -/

/-- R239: integer arithmetic is exact and then fitted to the type: wrapped, or with `.sat` clamped; the bitwise
instructions act on the n bits. None of them raises a condition or a trap for any value. -/
def Obligations.IntegerArithmetic : Prop :=
  ∀ (s : State) (e : Env) (o : Ops),
    let n := o.ty.bits
    let a := fun l => o.ty.value (e.srcA o l)
    let b := fun l => o.ty.value (e.srcB o l)
    let c := fun l => o.ty.value (e.srcC o l)
    let fit := fun x : Int => wrapTo n (if o.sat then max o.ty.minInt (min o.ty.maxInt x) else x)
    let x := fun l => BitVec.ofNat n (e.srcA o l)
    let y := fun l => BitVec.ofNat n (e.srcB o l)
    (s.issues (.add o) o e → Completes s (.add o) o e (e.each o o.ty fun l => fit (a l + b l))) ∧
    (s.issues (.sub o) o e → Completes s (.sub o) o e (e.each o o.ty fun l => fit (a l - b l))) ∧
    (s.issues (.mul o) o e → Completes s (.mul o) o e (e.each o o.ty fun l => fit (a l * b l))) ∧
    (s.issues (.mad o) o e → Completes s (.mad o) o e (e.each o o.ty fun l => fit (a l * b l + c l))) ∧
    (s.issues (.mulhi o) o e →
      Completes s (.mulhi o) o e (e.each o o.ty fun l => fit (Int.fdiv (a l * b l) (2 ^ n : Nat)))) ∧
    (s.issues (.min o) o e → Completes s (.min o) o e (e.each o o.ty fun l => fit (if a l ≤ b l then a l else b l))) ∧
    (s.issues (.max o) o e → Completes s (.max o) o e (e.each o o.ty fun l => fit (if a l ≤ b l then b l else a l))) ∧
    (s.issues (.abs o) o e → Completes s (.abs o) o e (e.each o o.ty fun l => fit (if a l < 0 then -a l else a l))) ∧
    (s.issues (.neg o) o e → Completes s (.neg o) o e (e.each o o.ty fun l => fit (-a l))) ∧
    (o.ty.isInt = true ∨ o.ty.isBits = true → o.ty ≠ .b128 →
      (s.issues (.and o) o e → Completes s (.and o) o e (e.each o o.ty fun l => (x l &&& y l).toNat)) ∧
      (s.issues (.or o) o e → Completes s (.or o) o e (e.each o o.ty fun l => (x l ||| y l).toNat)) ∧
      (s.issues (.xor o) o e → Completes s (.xor o) o e (e.each o o.ty fun l => (x l ^^^ y l).toNat)) ∧
      (s.issues (.andn o) o e → Completes s (.andn o) o e (e.each o o.ty fun l => (x l &&& ~~~(y l)).toNat)) ∧
      (s.issues (.not o) o e → Completes s (.not o) o e (e.each o o.ty fun l => (~~~(x l)).toNat)))

/-- R240: `div` truncates toward zero and `rem` has the sign of a; a zero divisor gives a quotient with every bit set
and a remainder equal to a; the most negative value divided by −1 gives that same value, or the maximum with `.sat`.
`.sat` on `rem` is malformed. R241: `addc` and `subb` read a and b as unsigned 32-bit values and bit 0 of the high
register of the destination pair as the carry or borrow in; the low register takes the 32-bit result and the high
register the carry or borrow out, as 0 or 1. -/
def Obligations.DivisionAndCarryChains : Prop :=
  (∀ (s : State) (e : Env) (o : Ops),
    let n := o.ty.bits
    let a := fun l => o.ty.value (e.srcA o l)
    let b := fun l => o.ty.value (e.srcB o l)
    (s.issues (.div o) o e → Completes s (.div o) o e (e.each o o.ty fun l =>
      if b l = 0 then 2 ^ n - 1
      else wrapTo n (if o.sat then max o.ty.minInt (min o.ty.maxInt ((a l).tdiv (b l))) else (a l).tdiv (b l)))) ∧
    (s.issues (.rem o) o e → o.sat = false → Completes s (.rem o) o e (e.each o o.ty fun l =>
      if b l = 0 then e.srcA o l % 2 ^ n else wrapTo n ((a l).tmod (b l)))) ∧
    ((Instr.rem { o with sat := false }).wf = true → decode (encode (.rem { o with sat := true })) = .malformed 9)) ∧
  (∀ (s : State) (e : Env) (o : Ops),
    let a : Nat → Int := fun l => (e.th.regs.raw 0 .b32 l o.a : Nat)
    let b : Nat → Int := fun l => (e.th.regs.raw 0 .b32 l o.b : Nat)
    let cin : Nat → Int := fun l => (e.th.regs.raw 0 .b64 l o.dst / 2 ^ 32 % 2 : Nat)
    (s.issues (.addc o) o e → Completes s (.addc o) o e (e.each o .b64 fun l =>
      wrapTo 32 (a l + b l + cin l) + 2 ^ 32 * (if 2 ^ 32 ≤ a l + b l + cin l then 1 else 0))) ∧
    (s.issues (.subb o) o e → Completes s (.subb o) o e (e.each o .b64 fun l =>
      wrapTo 32 (a l - b l - cin l) + 2 ^ 32 * (if a l - b l - cin l < 0 then 1 else 0))))

/-- R242, R243: shifts and rotates by a 32-bit amount, and bit fields clipped at the top of the type. R244, R245, R246,
R247: counts of bits are written as a `.n32`; `sel` takes a where the bit of c is set; `mov` and `movi` copy; `cvt`
fits the value of the source type to the type; `lea` scales b. -/
def Obligations.ShiftsFieldsCountsAndMoves : Prop :=
  (∀ (s : State) (e : Env) (o : Ops), 0 < o.ty.bits →
      let n := o.ty.bits
      let x := fun l => BitVec.ofNat n (e.srcA o l)
      let k := fun l => e.wordB o l
      let p := fun l => k l % 256
      let q := fun l => if n ≤ p l then 0 else min (k l / 256 % 256) (n - p l)
      (s.issues (.shl o) o e → Completes s (.shl o) o e (e.each o o.ty fun l => (x l <<< k l).toNat)) ∧
      (s.issues (.shr o) o e → Completes s (.shr o) o e (e.each o o.ty fun l => (x l >>> k l).toNat)) ∧
      (s.issues (.sar o) o e → Completes s (.sar o) o e (e.each o o.ty fun l => ((x l).sshiftRight (k l)).toNat)) ∧
      (s.issues (.rot o) o e → Completes s (.rot o) o e (e.each o o.ty fun l => ((x l).rotateLeft (k l)).toNat)) ∧
      (s.issues (.bfx o) o e → Completes s (.bfx o) o e (e.each o o.ty fun l =>
        if q l = 0 then 0
        else if o.ty.isSigned then (((x l).extractLsb' (p l) (q l)).signExtend n).toNat
        else ((x l).extractLsb' (p l) (q l)).toNat)) ∧
      (s.issues (.bfi o) o e → Completes s (.bfi o) o e (e.each o o.ty fun l =>
        let c := BitVec.ofNat n (e.srcC o l)
        let field := BitVec.ofNat n ((2 ^ q l - 1) * 2 ^ p l)
        (if q l = 0 then c else (c &&& ~~~field) ||| ((x l <<< p l) &&& field)).toNat))) ∧
  (∀ (s : State) (e : Env) (o : Ops),
      let n := o.ty.bits
      let bit := fun l i => e.srcA o l / 2 ^ i % 2
      (s.issues (.popc o) o e →
        Completes s (.popc o) o e (e.each o .n32 fun l => ((List.range n).map (bit l)).sum)) ∧
      (s.issues (.clz o) o e → Completes s (.clz o) o e (e.each o .n32 fun l =>
        ((List.range n).reverse.takeWhile (fun i => bit l i = 0)).length)) ∧
      (s.issues (.brev o) o e → Completes s (.brev o) o e (e.each o o.ty fun l =>
        ((List.range n).map (fun i => bit l i * 2 ^ (n - 1 - i))).sum)) ∧
      (s.issues (.sel o) o e → ∀ k, o.c = .k k → Completes s (.sel o) o e (e.each o o.ty fun l =>
        if (e.th.regs.mask k).getLsbD l then e.srcA o l else e.srcB o l)) ∧
      (s.issues (.mov o) o e → Completes s (.mov o) o e (e.each o o.ty (e.srcA o))) ∧
      (s.issues (.movi o) o e → Completes s (.movi o) o e (e.each o o.ty (e.srcA o))) ∧
      (s.issues (.cvt o) o e → Completes s (.cvt o) o e (e.each o o.ty fun l =>
        let x := o.sty.value (e.th.regs.raw 0 o.sty l o.a)
        wrapTo n (if o.sat then max o.ty.minInt (min o.ty.maxInt x) else x))) ∧
      (s.issues (.lea o) o e → Completes s (.lea o) o e (e.each o o.ty fun l =>
        (e.srcA o l + e.srcB o l * 2 ^ o.xmod) % 2 ^ n)))

/-- R234, R235: results written into vector registers are read back in their lanes, fitted to the type's width, and
lanes that are not active keep their value; an all-scalar form writes its scalar once; every other register keeps
its value. R114, R115: a result narrower than 32 bits fills its register: sign-extended in a signed type and
zero-extended in any other; a wider one fills consecutive registers, the lowest word first. -/
def Obligations.LaneResultsReadBack : Prop :=
  ∀ (e : Env) (o : Ops) (f : Nat → Nat) (d : Nat), o.ty ≠ .none → e.th.width ≤ 64 →
    let r := Regs.putAll e.th.width e.th.regs (e.each o o.ty f)
    let n := o.ty.bits
    let word := fun (l i : Nat) (w : Word) =>
      (n < 32 → o.ty.isSigned = true → i = 0 → w = (BitVec.ofNat n (f l)).signExtend 32) ∧
      (n < 32 → o.ty.isSigned = false → i = 0 → w = BitVec.ofNat 32 (f l % 2 ^ n)) ∧
      (32 ≤ n → i < o.ty.regs → w = BitVec.ofNat 32 (f l % 2 ^ n / 2 ^ (32 * i)))
    (o.dst = .v d →
      (∀ l, l ∈ e.actLanes o → r.raw 0 o.ty l (.v d) = f l % 2 ^ n ∧ ∀ i, word l i (r.vec (d + i) l)) ∧
      (∀ l k, l < 64 → (l ∉ e.actLanes o ∨ k < d ∨ d + o.ty.regs ≤ k) → r.vec k l = e.th.regs.vec k l) ∧
      r.s = e.th.regs.s) ∧
    (o.dst = .s d → allScalar o = true →
      (e.th.active o ≠ 0 → r.raw 0 o.ty 0 (.s d) = f 0 % 2 ^ n ∧ ∀ i, word 0 i (r.scal (d + i))) ∧
      (e.th.active o = 0 → r = e.th.regs) ∧
      (∀ k, k < d ∨ d + o.ty.regs ≤ k → r.scal k = e.th.regs.scal k) ∧ r.v = e.th.regs.v) ∧
    r.k = e.th.regs.k ∧ r.m = e.th.regs.m ∧ r.tag = e.th.regs.tag ∧ r.gen = e.th.regs.gen ∧
    r.seed = e.th.regs.seed ∧ r.fpmode = e.th.regs.fpmode ∧ r.ras = e.th.regs.ras ∧ r.depth = e.th.regs.depth

/-! ### Floating point -/

/-- R119, R121, R122, R249 to R251, R253, R255, R133: on finite numbers a rounding operation gives its exact value rounded
once to its format by its mode, from the neighbours of that value in the format: the overflow of each mode, the
sign of an exact zero, DAZ and FTZ (R127, R128), and the overflow, inexact and underflow conditions. So are `rcp` and
`sqrt`, and `rsq` but in `.f64`, where it gives one of the two numbers that bracket the exact value; `exp2` of an
integer, but in `.f64` below −1074, where 0 and 2^−1074 bracket the exact value; `log2` of a power of two, and `sinpi` and `cospi` at integers and half-integers. `frnd` and `f2i` round to the
integers. `fmin` and `fmax` order −0 below +0 (R130). The numbers of a format and the neighbours are stated in the rationals, apart from the model's arithmetic.
Model's reading: overflow to `.e4m3` (log entry 14). -/
def Obligations.CorrectRounding : Prop :=
  (∀ (env : FpEnv) (t : Ty) (mode u : Nat) (sat : Bool) (a b c : Nat) (m n p : Bool) (x y z : ℚ), t ∈ tysArith →
    mode ≤ 5 → u < 2 ^ 32 → t.number env.daz a = some (m, x) → t.number env.daz b = some (n, y) →
    t.number env.daz c = some (p, z) →
    let sum := fun (m n : Bool) => if m = n then m else decide (mode = 3)
    let rnd := Result env t mode u
    rnd sat (sum m n) (x + y) (fpAdd env t mode u sat false a b) ∧
    rnd sat (sum m (!n)) (x - y) (fpAdd env t mode u sat true a b) ∧
    rnd sat (m != n) (x * y) (fpMul env t mode u sat a b) ∧
    rnd sat (sum (m != n) p) (x * y + z) (fpFma env t mode u sat a b c) ∧
    rnd sat m (x * (2 : ℝ) ^ (BitVec.ofNat 32 b).toInt) (fpScale env t mode u sat a b) ∧
    t.number false (fpMinMax env t false false a b).bits = some (if x < y ∨ (x = y ∧ m = true) then (m, x) else (n, y)) ∧
    t.number false (fpMinMax env t true false a b).bits = some (if y < x ∨ (x = y ∧ m = false) then (m, x) else (n, y)) ∧
    (∀ (s : Ty) (w : Nat), s.isInt = true → rnd false false (s.value w) (intToFp env t s mode u w)) ∧
    (mode ≤ 4 →
      (y ≠ 0 → rnd sat (m != n) (x / y) (fpDiv env t mode sat a b)) ∧
      (x ≠ 0 → rnd false m (1 / x) (fpRcp env t mode a)) ∧
      (0 ≤ x → rnd false m (Real.sqrt x) (fpSqrt env t mode a)) ∧
      (0 < x → t ≠ .f64 → rnd false m (1 / Real.sqrt x) (fpRsq env t mode a)) ∧
      (0 < x → t = .f64 → ∃ k, (fpRsq env t mode a).bits = k ∧ ((t.grid k : ℝ) = 1 / Real.sqrt x ∨
        ∃ lo, (t.grid lo : ℝ) < 1 / Real.sqrt x ∧ 1 / Real.sqrt x < t.grid (lo + 1) ∧ (k = lo ∨ k = lo + 1))) ∧
      (∀ k : Int, x = k → (t ≠ .f64 ∨ -1074 ≤ k) → rnd false false ((2 : ℝ) ^ k) (fpExp2 env t mode a)) ∧
      (∀ k : Int, x = k → t = .f64 → k < -1074 → (fpExp2 env t mode a).bits ≤ 1) ∧
      (∀ k : Int, x = 2 ^ k → rnd false false k (fpLog2 env t mode a)) ∧
      (∀ k : Int, 2 * x = k → rnd false m (Real.sin (Real.pi * x)) (fpTrig env t true mode a) ∧
        rnd false false (Real.cos (Real.pi * x)) (fpTrig env t false mode a)) ∧
      ∃ k : Nat, RoundsTo (fun j => (j : ℚ)) mode 0 m |(x : ℝ)| k ∧
        t.number false (fpRnd env t mode a).bits = some (m, if m then -(k : ℚ) else k) ∧
        ∀ d : Ty, d.isInt = true → (fpToInt env d t mode a).bits =
          wrapTo d.bits (max d.minInt (min d.maxInt (if m then -(k : Int) else k))))) ∧
  (∀ (env : FpEnv) (d s : Ty) (mode u : Nat) (sat : Bool) (a : Nat) (m : Bool) (x : ℚ),
    s ∈ [.f64, .f32, .f16, .bf16, .e4m3, .e5m2, .e2m1] → mode ≤ 5 → u < 2 ^ 32 → s.number env.daz a = some (m, x) →
    d ∈ [.f64, .f32, .f16, .bf16, .e4m3, .e5m2, .e2m1] ∨ (d = .e3m5 ∧ m = false) ∨ (d = .e8m0 ∧ 2 ^ (-127 : Int) ≤ x) →
    Result env d mode u sat m x (fpCvt env d s mode u sat a))

/-- R248 to R251, R253, R122, R132: with no enabled condition in any active lane, a rounding instruction writes the
result of each lane, and in rounding mode rs steps the generator of each active lane once; the results of `fdiv` and of
the special functions (R133, R255) are pending when the instruction completes. R131, R401: an enabled condition in any
active lane takes the arithmetic trap instead: `trap_mask` is the lanes that raised one, DETAIL the conditions raised in
those lanes, no register is written and no generator steps. CorrectRounding says what the functions are. Model's
reading: log entry 14. -/
def Obligations.RoundingInstructions : Prop :=
  ∀ (s : State) (e : Env) (o : Ops),
    let rs := fun l => rsStep (e.th.regs.genOf l)
    FpRuns s (.fadd o) o e o.ty true (fun l => fpAdd e.fp o.ty o.rnd (rs l) o.sat false (e.srcA o l) (e.srcB o l)) ∧
    FpRuns s (.fsub o) o e o.ty true (fun l => fpAdd e.fp o.ty o.rnd (rs l) o.sat true (e.srcA o l) (e.srcB o l)) ∧
    FpRuns s (.fmul o) o e o.ty true (fun l => fpMul e.fp o.ty o.rnd (rs l) o.sat (e.srcA o l) (e.srcB o l)) ∧
    FpRuns s (.fma o) o e o.ty true
      (fun l => fpFma e.fp o.ty o.rnd (rs l) o.sat (e.srcA o l) (e.srcB o l) (e.srcC o l)) ∧
    FpRuns s (.fscale o) o e o.ty true
      (fun l => fpScale e.fp o.ty o.rnd (rs l) o.sat (e.srcA o l) (e.wordB o l)) ∧
    FpRuns s (.fcvt o) o e o.ty true (fun l => fpCvt e.fp o.ty o.sty o.rnd (rs l) o.sat (e.srcS o l)) ∧
    FpRuns s (.i2f o) o e o.ty true (fun l => intToFp e.fp o.ty o.sty o.rnd (rs l) (e.srcS o l)) ∧
    FpRuns s (.fdiv o) o e o.ty false (fun l => fpDiv e.fp o.ty o.rnd o.sat (e.srcA o l) (e.srcB o l)) ∧
    FpRuns s (.frnd o) o e o.ty false (fun l => fpRnd e.fp o.ty o.rnd (e.srcA o l)) ∧
    FpRuns s (.f2i o) o e o.ty false (fun l => fpToInt e.fp o.ty o.sty o.rnd (e.srcS o l)) ∧
    FpRuns s (.fmin o) o e o.ty false
      (fun l => fpMinMax e.fp o.ty false (e.la.obj.errata.getLsbD 5) (e.srcA o l) (e.srcB o l)) ∧
    FpRuns s (.fmax o) o e o.ty false
      (fun l => fpMinMax e.fp o.ty true (e.la.obj.errata.getLsbD 5) (e.srcA o l) (e.srcB o l)) ∧
    FpRuns s (.rcp o) o e o.ty false (fun l => fpRcp e.fp o.ty o.rnd (e.srcA o l)) ∧
    FpRuns s (.rsq o) o e o.ty false (fun l => fpRsq e.fp o.ty o.rnd (e.srcA o l)) ∧
    FpRuns s (.sqrt o) o e o.ty false (fun l => fpSqrt e.fp o.ty o.rnd (e.srcA o l)) ∧
    FpRuns s (.exp2 o) o e o.ty false (fun l => fpExp2 e.fp o.ty o.rnd (e.srcA o l)) ∧
    FpRuns s (.log2 o) o e o.ty false (fun l => fpLog2 e.fp o.ty o.rnd (e.srcA o l)) ∧
    FpRuns s (.sinpi o) o e o.ty false (fun l => fpTrig e.fp o.ty true o.rnd (e.srcA o l)) ∧
    FpRuns s (.cospi o) o e o.ty false (fun l => fpTrig e.fp o.ty false o.rnd (e.srcA o l))

/-- R4, R109 to R111, R346, R478: `swrite` sets the register that it names in its own warp: the trap registers,
`fpmode`, `rand_seed` with every generator, and `inject_ctl` in test mode; a read-only register keeps its value. A
value that `fpmode` cannot take traps as malformed and leaves it unchanged. R110, R122, R256: `srand` seeds the
generator of every lane, whatever the guard, and sets `rand_seed`. Model's reading: no write with no lane that
passes (log entry 11), and the reserved bits of `trap_cause` (37). -/
def Obligations.SpecialWritesAndSeeds : Prop :=
  (∀ (s : State) (e : Env) (o : Ops) (n d : Nat), s.issues (.swrite o) o e → e.th.active o ≠ 0 → o.dst = .sp n →
      (o.a = .s d ∨ (n = 0x36 ∧ o.a = .k d)) →
      let x := e.th.regs.scal d
      let xx : DWord := if o.a = .k d then e.th.regs.mask d else e.th.regs.scal (d + 1) ++ e.th.regs.scal d
      let sets := fun f : Thread → Thread => ∃ t th, exec (.swrite o) s = .next t ∧ OnlyThread s t e.tid ∧
        t.thread e.tid = some th ∧ th.pc = s.cur.pc + 4 * o.len ∧
        th = f { e.th with pc := th.pc, wait := .ready, clause := th.clause, region := th.region, idle := th.idle,
                           fetched := th.fetched }
      (n = 0x10 → fpmodeOk x.toNat = true → sets fun th => { th with regs := { th.regs with fpmode := x } }) ∧
      (n = 0x10 → fpmodeOk x.toNat = false →
        exec (.swrite o) s = .next (s.raise e.tid (s.trapOf 0x0002 11 (e.th.active o)))) ∧
      (n = 0x11 → ∃ r, Seeded e.th.regs e.th.width x r ∧ sets fun th => { th with regs := r }) ∧
      (n = 0x30 → sets fun th => { th with trap := { th.trap with pc := xx } }) ∧
      (n = 0x31 → sets fun th => { th with trap := { th.trap with cause := x &&& 0x83FFFFFF } }) ∧
      (n = 0x32 → sets fun th => { th with trap := { th.trap with word0 := x } }) ∧
      (n = 0x33 → sets fun th => { th with trap := { th.trap with word1 := x } }) ∧
      (n = 0x34 → sets fun th => { th with trap := { th.trap with word2 := x } }) ∧
      (n = 0x35 → sets fun th => { th with trap := { th.trap with word3 := x } }) ∧
      (n = 0x36 → sets fun th => { th with trap := { th.trap with mask := xx &&& laneMask th.width } }) ∧
      (n = 0x38 → s.host.testMode = true → sets fun th => { th with inject := x, injectAt := e.th.region.num }) ∧
      (n ∉ [0x10, 0x11, 0x30, 0x31, 0x32, 0x33, 0x34, 0x35, 0x36, 0x38] ∨ (n = 0x38 ∧ s.host.testMode = false) →
        sets fun th => th)) ∧
  (∀ (s : State) (e : Env) (o : Ops), s.issues (.srand o) o e →
      ∃ t th, exec (.srand o) s = .next t ∧ OnlyThread s t e.tid ∧ t.thread e.tid = some th ∧
        th.pc = s.cur.pc + 4 * o.len ∧ th.pend = e.th.pend ∧
        Seeded e.th.regs e.th.width (BitVec.ofNat 32 (e.th.regs.raw 0 .b32 0 o.a)) th.regs) ∧
  (∀ (r : Regs) (lanes : List Nat), lanes.Nodup →
    (∀ l, (stepGens r lanes).genOf l = if l ∈ lanes then rsStep (r.genOf l) else r.genOf l) ∧
    { stepGens r lanes with gen := r.gen } = r)

/-! ### Comparisons and masks -/

/-- R252: `fabs` clears the sign bit and `fneg` inverts it; `fsign` gives ±1.0 by the sign of a source that is neither
zero nor NaN, and those themselves. No condition is raised. R254: `fclass` sets the bit of the class in the rule's table, from the
raw bits. R257, R258: a
comparison with a mask destination writes it whole: bit l is set when lane l is active and the predicate holds, and
cleared in every other lane, bits W to 63 included. It is seen at once by guards, and the scalar side goes on seeing
the mask's old value until the result is written (R219). With a scalar destination it writes 1 or 0. The predicates of
`fcmp` hold as R257's table has it, of the values as DAZ gives them (R127), and raise its invalid condition. Model's
reading: log entry 14. -/
def Obligations.SignsAndComparisons : Prop :=
  (∀ (s : State) (e : Env) (o : Ops), o.ty ∈ tysArith →
      let n := o.ty.bits
      let x := fun l => BitVec.ofNat n (e.srcA o l)
      let top := BitVec.ofNat n (2 ^ (n - 1))
      (s.issues (.fabs o) o e → Completes s (.fabs o) o e (e.each o o.ty fun l => (x l &&& ~~~top).toNat)) ∧
      (s.issues (.fneg o) o e → Completes s (.fneg o) o e (e.each o o.ty fun l => (x l ^^^ top).toNat)) ∧
      (s.issues (.fsign o) o e → Completes s (.fsign o) o e (e.each o o.ty fun l =>
        match fpVal o.ty (e.srcA o l) with
        | .nan .. => e.srcA o l % 2 ^ n
        | .inf neg => ((if neg then top else 0) ||| BitVec.ofNat n o.ty.one).toNat
        | .fin neg m _ => if m = 0 then e.srcA o l % 2 ^ n else ((if neg then top else 0) ||| BitVec.ofNat n o.ty.one).toNat))) ∧
  (∀ (s : State) (e : Env) (o : Ops), o.ty.isFloat = true → s.issues (.fclass o) o e →
      let n := o.ty.bits
      let cls := fun l =>
        let x := e.srcA o l % 2 ^ n
        let m := x % 2 ^ (n - 1)
        let side := fun neg pos => if x / 2 ^ (n - 1) % 2 = 1 then neg else pos
        if o.ty = .e8m0 then (if x = 0xFF then 1 else 8)
        else if o.ty = .e3m5 then (if x = 0 then 6 else if x < 0x20 then 7 else 8)
        else if o.ty = .e4m3 ∧ m = 0x7F then 1
        else if o.ty.ieee = true ∧ o.ty.maxCode + 1 < m then (if o.ty.maxCode + 1 + 2 ^ (o.ty.mbits - 1) ≤ m then 1 else 0)
        else if o.ty.ieee = true ∧ m = o.ty.maxCode + 1 then side 2 9
        else if m = 0 then side 5 6 else if m < 2 ^ o.ty.mbits then side 4 7 else side 3 8
      Completes s (.fclass o) o e (e.each o .n32 fun l => 2 ^ cls l)) ∧
  (∀ (s : State) (e : Env) (o : Ops) (p : CmpPred) (q : FcmpPred), e.th.width ≤ 64 →
      let holds := fun l => match p with
        | .eq => decide (o.ty.value (e.srcA o l) = o.ty.value (e.srcB o l))
        | .ne => decide (o.ty.value (e.srcA o l) ≠ o.ty.value (e.srcB o l))
        | .lt => decide (o.ty.value (e.srcA o l) < o.ty.value (e.srcB o l))
        | .le => decide (o.ty.value (e.srcA o l) ≤ o.ty.value (e.srcB o l))
        | .gt => decide (o.ty.value (e.srcB o l) < o.ty.value (e.srcA o l))
        | .ge => decide (o.ty.value (e.srcB o l) ≤ o.ty.value (e.srcA o l))
      let fholds := fun l => fpCompare e.fp o.ty q (e.srcA o l) (e.srcB o l)
      (s.issues (.cmp p o) o e → ComparesTo s (.cmp p o) o e holds) ∧
      (s.issues (.fcmp q o) o e → (∀ l ∈ e.actLanes o, e.fp.traps (fholds l).2 = false) →
        ComparesTo s (.fcmp q o) o e (fun l => (fholds l).1))) ∧
  (∀ (env : FpEnv) (t : Ty) (q : FcmpPred) (a b : Nat), t ∈ tysArith →
      let half := 2 ^ (t.bits - 1)
      let nan := fun x => t.maxCode + 1 < x % half
      let signalling := fun x => nan x ∧ x / 2 ^ (t.mbits - 1) % 2 = 0
      let value := fun x => match t.number env.daz x with
        | some p => ((p.2 : ℝ) : EReal)
        | none => if x / half % 2 = 1 then ⊥ else ⊤
      let x := value a
      let y := value b
      let none_ := ¬ nan a ∧ ¬ nan b
      let holds := match q with
        | .eq => none_ ∧ x = y | .ne => none_ ∧ x ≠ y | .lt => none_ ∧ x < y | .le => none_ ∧ x ≤ y
        | .gt => none_ ∧ y < x | .ge => none_ ∧ y ≤ x | .ord => none_
        | .ueq => ¬ none_ ∨ x = y | .une => ¬ none_ ∨ x ≠ y | .ult => ¬ none_ ∨ x < y | .ule => ¬ none_ ∨ x ≤ y
        | .ugt => ¬ none_ ∨ y < x | .uge => ¬ none_ ∨ y ≤ x | .uno => ¬ none_
      let invalid := (q ∈ [.lt, .le, .gt, .ge] ∧ ¬ none_) ∨ signalling a ∨ signalling b
      ((fpCompare env t q a b).1 = true ↔ holds) ∧ (invalid → (fpCompare env t q a b).2 = 1) ∧
        (¬ invalid → (fpCompare env t q a b).2 = 0))

/-- R259: mask logic merges under G, the lanes that pass `k0` and the guard, and clears the bits above W. R219, R259:
`kmov` from a scalar pair takes the pair's 64 bits; to a scalar pair it takes the mask as the scalar side sees it,
merged with the pair under G. R260, R261, R424: what is read of masks toward the scalar side; `kfirst` of no lane
gives 64 under erratum 2. R219: `ballot` reads a scalar as the scalar side sees it. -/
def Obligations.MaskInstructions : Prop :=
  (∀ (s : State) (e : Env) (o : Ops) (n x y : Nat), o.dst = .k n → o.a = .k x →
      let g := e.th.active o
      let merge := fun t : DWord => [RegVal.k n (((t &&& g) ||| (e.th.regs.mask n &&& ~~~g)) &&& laneMask e.th.width)]
      let a := e.th.regs.mask x
      let b := e.th.regs.mask y
      (s.issues (.kand o) o e → o.b = .k y → Completes s (.kand o) o e (merge (a &&& b))) ∧
      (s.issues (.kor o) o e → o.b = .k y → Completes s (.kor o) o e (merge (a ||| b))) ∧
      (s.issues (.kxor o) o e → o.b = .k y → Completes s (.kxor o) o e (merge (a ^^^ b))) ∧
      (s.issues (.kandn o) o e → o.b = .k y → Completes s (.kandn o) o e (merge (a &&& ~~~b))) ∧
      (s.issues (.knot o) o e → Completes s (.knot o) o e (merge (~~~a))) ∧
      (s.issues (.kmov o) o e → Completes s (.kmov o) o e (merge a))) ∧
  (∀ (s : State) (e : Env) (o : Ops) (n x : Nat), s.issues (.kmov o) o e →
      let g := e.th.active o
      let pair := fun r => BitVec.ofNat 64 (e.th.regs.scals r 2)
      (o.dst = .k n → o.a = .s x → Completes s (.kmov o) o e
        [.k n (((pair x &&& g) ||| (e.th.regs.mask n &&& ~~~g)) &&& laneMask e.th.width)]) ∧
      (o.dst = .s n → o.a = .k x → Completes s (.kmov o) o e (destVals 0 .b64 (.s n) 0
        ((((e.th.scalarMask x) &&& g) ||| (pair n &&& ~~~g)) &&& laneMask e.th.width).toNat))) ∧
  (∀ (s : State) (e : Env) (o : Ops) (x : Nat), e.th.width ≤ 64 →
      let g := e.th.active o
      let p := e.th.scalarMask x &&& g
      let out := fun v => destVals 0 .n32 o.dst 0 v
      (s.issues (.kpop o) o e → o.a = .k x → Completes s (.kpop o) o e
        (out ((List.range 64).filter (fun l => p.getLsbD l)).length)) ∧
      (s.issues (.kfirst o) o e → o.a = .k x → Completes s (.kfirst o) o e
        (out (((List.range 64).find? (fun l => p.getLsbD l)).getD (if e.la.obj.errata.getLsbD 2 then 64 else 0xFFFFFFFF)))) ∧
      (s.issues (.kany o) o e → o.a = .k x → Completes s (.kany o) o e (out (if p = 0 then 0 else 1))) ∧
      (s.issues (.kall o) o e → o.a = .k x → Completes s (.kall o) o e (out (if p = g then 1 else 0))) ∧
      (s.issues (.ballot o) o e → ∃ m : DWord,
        (∀ l, m.getLsbD l = true ↔ l ∈ e.th.activeLanes o ∧ (match o.a with
          | .s n => ((e.th.staleVal (.s n)).map (·.toNat)).getD (e.th.regs.scal n).toNat
          | a => e.th.regs.raw 0 .b32 l a) ≠ 0) ∧
        (∀ n, o.dst = .k n → Completes s (.ballot o) o e [.k n m]) ∧
        (∀ n, o.dst = .s n → Completes s (.ballot o) o e (destVals 0 .b64 (.s n) 0 m.toNat))))

/-! ### Cross-lane instructions -/

/-- R45 to R49, R57, R59, R262: the lanes of a cross-lane instruction: those of its warp, or, at set and block scope, those
of every member, live or not, by rank, of which the lanes of live members that pass their `k0` and guard are active; a
vector source is read in its lane, a set register above the set's base, and a scalar or immediate in the leader, the
lowest live member. R263, R264, R47, R53: at warp, set and block scope alike `shfl` reads the lane that its mode names,
and its own lane when that one is outside the space or not active; `bcast` gives the value of lane b, zero when that
lane is outside the space or not active: to each active lane of a vector, or once to a scalar, even when no lane is
active, but under erratum 9 (R424), which then writes nothing. Model's reading: log entry 18. -/
def Obligations.CrossLaneMoves : Prop :=
  ∀ (s : State) (e : Env) (o : Ops) (i : Instr) (c : SetCtx), s.crosses i o e c → 0 < e.th.width → e.th.width ≤ 64 →
    let n := c.count
    let a := c.raw o.ty o.a
    let b := c.raw .b32 o.b
    let act := fun j => j ∈ c.actives o
    (o.scope = .warp → n = e.th.width ∧ c.actives o = e.th.activeLanes o ∧ ∀ ty l, l < n →
      (∀ k, c.raw ty (.v k) l = e.th.regs.raw 0 ty l (.v k)) ∧ (∀ k, c.raw ty (.s k) l = e.th.regs.raw 0 ty 0 (.s k)) ∧
      ∀ x, c.raw ty (.imm x) l = immRaw ty x) ∧
    (∀ set base all, o.scope ≠ .warp → e.setOf o = (set, base, all) → c.width = e.th.width ∧ c.base = base ∧
      n = all.length * c.width ∧
      (∀ l, act l ↔ ∃ m f, all[l / c.width]? = some m ∧ s.envOf m = some f ∧ f.th.live = true ∧
        (f.th.active o).getLsbD (l % c.width) = true) ∧
      (∀ l m f, all[l / c.width]? = some m → s.envOf m = some f → f.th.live = true → ∀ ty k,
        c.raw ty (.v k) l = f.th.regs.raw 0 ty (l % c.width) (.v k) ∧
        c.raw ty (.g k) l = f.th.regs.raw 0 ty (l % c.width) (.v (base + k))) ∧
      (∀ m f, all.find? (fun m => (s.thread m).any (·.live)) = some m → s.envOf m = some f → ∀ ty l k,
        c.raw ty (.s k) l = f.th.regs.raw 0 ty 0 (.s k))) ∧
    (∀ m, i = .shfl m o → CrossCompletes s i o e (c.each o o.ty fun l =>
      let j : Int := match m with | .idx => b l | .up => l - b l | .down => l + b l | .xor => (l ^^^ b l : Nat)
      a (if 0 ≤ j ∧ j < n ∧ act j.toNat then j.toNat else l))) ∧
    (i = .bcast o →
      let x := if b 0 < n ∧ act (b 0) then a (b 0) else 0
      ((∀ k, o.dst ≠ .s k) → CrossCompletes s i o e (c.each o o.ty fun _ => x)) ∧
      (∀ k, o.dst = .s k → CrossCompletes s i o e (fun _ =>
        if c.leader.la.obj.errata.getLsbD 9 = true ∧ c.actives o = [] then [] else destVals c.base o.ty (.s k) 0 x)))

/-- R138, R265: `red` combines a over the active lanes: an integer sum is exact and then wrapped or clamped, the minimum
and maximum are of the values, the bitwise combinations of the bits, and an empty active set gives the identity. Float
values are combined by the tree: the full reduction is its root over the least power of two of lanes that holds the
space, and a range is the maximal nodes inside it from left to right; a NaN is never the minimum or the maximum beside
a number, and −0 lies below +0 (R130). R266: `scan` gives each active lane the combination over the lanes up to itself.
R267: `sred` reduces by segments: the head of a lane's segment is lane 0 or the greatest lane up to it whose bit in the
mask is set, and c selects which lanes receive what. A c above 2 traps as malformed with DETAIL 11. All at warp, set and
block scope (R47, R262). Model's reading: log entries 14, 15 and 18. -/
def Obligations.Reductions : Prop :=
  (∀ (s : State) (e : Env) (o : Ops) (i : Instr) (c : SetCtx) (r : RedOp), s.crosses i o e c → 0 < e.th.width →
      e.th.width ≤ 64 →
      let n := c.count
      let env := c.leader.fp
      let leaf := fun l => if l ∈ c.actives o then some (c.raw o.ty o.a l) else none
      let part := r.over env o.ty o.sat n leaf
      (i = .red r o → CrossCompletes s i o e (fun _ => destVals c.base o.ty o.dst 0 (r.root env o.ty o.sat n leaf))) ∧
      (i = .scan r o → CrossCompletes s i o e (c.each o o.ty fun l => part 0 l)) ∧
      (∀ kb, i = .sred r o → o.b = .k kb →
        let head := fun l => l = 0 ∨ ∃ m f, c.members.find? (fun p => p.1 = l / c.width) = some (m, f) ∧
          (f.th.regs.mask kb).getLsbD (l % c.width) = true
        let sel := c.raw .b32 o.c 0
        (2 < sel → CrossTraps s i o e 0x0002 11 (fun f => f.th.active o)) ∧
        (sel ≤ 2 → ∃ hd tl : Nat → Nat,
          (∀ l, l < n → head (hd l) ∧ hd l ≤ l ∧ (∀ h, head h → h ≤ l → h ≤ hd l)) ∧
          (∀ l, l < n → l ≤ tl l ∧ tl l < n ∧ (∀ h, head h → l < h → h < n → tl l < h) ∧
            (tl l + 1 = n ∨ head (tl l + 1))) ∧
          CrossCompletes s i o e (fun j => ((c.actives o).filter (fun l => l / c.width = j)).flatMap fun l =>
            let vals := destVals c.base o.ty o.dst (l % c.width)
            if sel = 0 then vals (part (hd l) (tl l)) else if sel = 1 then vals (part (hd l) l)
            else if hd l = l then vals (part l (tl l)) else [])))) ∧
  (∀ (env : FpEnv) (ty : Ty) (sat : Bool) (r : RedOp) (leaf : Nat → Option Nat) (n lo hi whole : Nat), 0 < n →
      (lo ≤ hi ∧ hi < n ∧ whole = r.over env ty sat n leaf lo hi) ∨
        (lo = 0 ∧ hi + 1 = n ∧ whole = r.root env ty sat n leaf) →
      let xs := (List.range n).filterMap (fun l => if lo ≤ l ∧ l ≤ hi then leaf l else none)
      let val := ty.value
      (ty.isFloat = false →
        (r = .sum → whole = wrapTo ty.bits
          (if sat ∧ xs ≠ [] then max ty.minInt (min ty.maxInt (xs.map val).sum) else (xs.map val).sum)) ∧
        (xs = [] → whole = match r with
          | .min => wrapTo ty.bits ty.maxInt | .max => wrapTo ty.bits ty.minInt | .and => 2 ^ ty.bits - 1
          | .sum | .or | .xor => 0) ∧
        (xs ≠ [] → r = .min → ∃ x ∈ xs, whole = wrapTo ty.bits (val x) ∧ ∀ y ∈ xs, val x ≤ val y) ∧
        (xs ≠ [] → r = .max → ∃ x ∈ xs, whole = wrapTo ty.bits (val x) ∧ ∀ y ∈ xs, val y ≤ val x) ∧
        (xs ≠ [] → r = .and → ∀ b, whole.testBit b = true ↔ ∀ x ∈ xs, x.testBit b = true) ∧
        (r = .or → ∀ b, whole.testBit b = true ↔ ∃ x ∈ xs, x.testBit b = true) ∧
        (r = .xor → ∀ b, whole.testBit b = decide ((xs.filter (·.testBit b)).length % 2 = 1))) ∧
      (ty ∈ tysArith →
        (xs = [] → r ∈ [.sum, .min, .max] → whole = match r with
          | .min => ty.maxCode + 1 | .max => 2 ^ (ty.bits - 1) + ty.maxCode + 1 | _ => 0) ∧
        (env.daz = false → env.minmaxNan = false → (r = .min ∨ r = .max) → (∀ x ∈ xs, x < 2 ^ ty.bits) →
          (∃ x ∈ xs, (fpVal ty x).isNan = false) → whole ∈ xs ∧ (fpVal ty whole).isNan = false ∧
            ∀ y ∈ xs, (fpVal ty y).isNan = false →
              let lower := if r = .min then whole else y
              let upper := if r = .min then y else whole
              fpVal ty lower = .inf true ∨ fpVal ty upper = .inf false ∨
                ∃ p q : Bool × ℚ, ty.number false lower = some p ∧ ty.number false upper = some q ∧
                  (p.2 < q.2 ∨ (p.2 = q.2 ∧ (p.2 = 0 → p.1 = true ∨ q.1 = false)))))) ∧
  (∀ (env : FpEnv) (ty : Ty) (sat : Bool) (r : RedOp) (leaf : Nat → Option Nat) (n lo hi : Nat), ty.isFloat = true →
      lo ≤ hi → hi < n →
      let f := r.fp env ty
      let h := treeHeight n
      let read := fun l => (leaf l).map (env.source ty)
      let join := fun (x y : Option Nat) => match x, y with
        | some x, some y => some (f x y) | some x, none => some x | none, y => y
      n ≤ 2 ^ h ∧ (∀ k, n ≤ 2 ^ k → h ≤ k) ∧
      (∀ lf m j, treeNode f lf 0 m = lf m ∧
        treeNode f lf (j + 1) m = join (treeNode f lf j (2 * m)) (treeNode f lf j (2 * m + 1))) ∧
      (r = .sum → ∀ x y, f x y = (fpAdd { env with daz := false } ty (if env.round = 5 then 0 else env.round) 0 false false
        x y).bits) ∧
      r.root env ty sat n leaf = (treeNode f (fun l => if l < n then read l else none) h 0).getD (r.identity ty) ∧
      ∃ nodes : List (Nat × Nat),
        (∀ p ∈ nodes, p.1 ≤ h ∧ lo ≤ p.2 * 2 ^ p.1 ∧ (p.2 + 1) * 2 ^ p.1 ≤ hi + 1 ∧
          (p.1 < h → ¬ (lo ≤ p.2 / 2 * 2 ^ (p.1 + 1) ∧ (p.2 / 2 + 1) * 2 ^ (p.1 + 1) ≤ hi + 1))) ∧
        nodes.Pairwise (fun p q => (p.2 + 1) * 2 ^ p.1 ≤ q.2 * 2 ^ q.1) ∧
        (∀ l, lo ≤ l → l ≤ hi → ∃ p ∈ nodes, p.2 * 2 ^ p.1 ≤ l ∧ l < (p.2 + 1) * 2 ^ p.1) ∧
        r.over env ty sat n leaf lo hi =
          ((nodes.map fun p => treeNode f read p.1 p.2).foldl join none).getD (r.identity ty))

/-- R268: `topk` ranks the active lanes by a, at warp and set scope: larger values first and ties to the lower
lane; a NaN ranks after every number, and −0 below +0. Lane j receives the lane index of rank j below min(k, number of
active lanes), and 0xFFFF_FFFF otherwise; k is b, which is no vector. Model's reading: log entries 15 and 18. -/
def Obligations.RankedLanes : Prop :=
  ∀ (s : State) (e : Env) (o : Ops) (c : SetCtx), s.crosses (.topk o) o e c → 0 < e.th.width → e.th.width ≤ 64 →
    let lanes := c.actives o
    let a := c.raw o.ty o.a
    let num := fun l => o.ty.number c.leader.fp.daz (a l)
    ∃ ranked : List Nat, ranked.Perm lanes ∧
      (o.ty.isFloat = false → ranked.Pairwise (fun x y =>
        o.ty.value (a y) < o.ty.value (a x) ∨ (o.ty.value (a x) = o.ty.value (a y) ∧ x < y))) ∧
      (o.ty ∈ tysArith → ranked.Pairwise (fun x y =>
        ((fpVal o.ty (a y)).isNan = true → (fpVal o.ty (a x)).isNan = false ∨ x < y) ∧
        ((fpVal o.ty (a x)).isNan = true → (fpVal o.ty (a y)).isNan = true) ∧
        ((fpVal o.ty (a x)).isNan = false → (fpVal o.ty (a y)).isNan = false →
          (fpVal o.ty (a x) = .inf false ∧ (fpVal o.ty (a y) = .inf false → x < y)) ∨
          (fpVal o.ty (a y) = .inf true ∧ (fpVal o.ty (a x) = .inf true → x < y)) ∨
          ∃ p q : Bool × ℚ, num x = some p ∧ num y = some q ∧ (q.2 < p.2 ∨ (p.2 = q.2 ∧
            ((p.2 = 0 ∧ p.1 = false ∧ q.1 = true) ∨ ((p.2 = 0 → p.1 = q.1) ∧ x < y))))))) ∧
      CrossCompletes s (.topk o) o e (c.each o .n32 fun j =>
        if j < min (c.raw .b32 o.b 0) lanes.length then ranked.getD j 0 else 0xFFFFFFFF)

/-! ### Control flow -/

/-- R343: `nop` is the word 0x3000, and changes nothing but that its thread goes on to the next word; a word of its
opcode with another field non-zero is malformed, but one of 128 bits with an OPC2, which R214 and R225 make
unimplemented first (log entry 12). R269, R270: a `bra` with a valid target continues there when its
condition holds, and at the next word otherwise; it changes no register, mask or flag. It reads a mask or a scalar that a comparison
has written as the scalar side sees it (R219). -/
def Obligations.NopAndBranches : Prop :=
  ((∀ (s : State) (e : Env) (o : Ops), s.issues (.nop o) o e → Completes s (.nop o) o e []) ∧
    decode 0x3000 = .instr (.nop Ops.blank) ∧
    (∀ w o, w / 64 % 256 = 0xC0 → decode w = .instr (.nop o) → w % 2 ^ 64 = 0x3000) ∧
    (∀ w, w % 4 ≠ 3 → w / 64 % 256 = 0xC0 → w % 2 ^ 64 ≠ 0x3000 →
      let second := w % 4 = 2 ∧ w / 2 ^ 96 % 2 ^ 10 ≠ 0
      (second → decode w = .unimplemented) ∧ (¬ second → ∃ n, decode w = .malformed n))) ∧
  (∀ (s : State) (e : Env) (o : Ops) (c : BraCond), s.issues (.bra c o) o e → codeOk (s.target o) = true →
      let g := e.th.active o
      let k := match o.a with | .k n => e.th.scalarMask n | _ => 0
      let x := match o.a with
        | .s n => ((e.th.staleVal (.s n)).map (·.toNat)).getD (e.th.regs.scal n).toNat
        | a => e.th.regs.raw 0 .n32 0 a
      let taken := match c with
        | .always => True
        | .any => ∃ l, k.getLsbD l = true ∧ g.getLsbD l = true
        | .all => ∀ l, g.getLsbD l = true → k.getLsbD l = true
        | .none => ∀ l, g.getLsbD l = true → k.getLsbD l = false
        | .nz => x ≠ 0
        | .z => x = 0
      ∃ t th, exec (.bra c o) s = .next t ∧ OnlyThread s t e.tid ∧ t.thread e.tid = some th ∧ th.wait = .ready ∧
        th.regs = e.th.regs ∧ th.flags = e.th.flags ∧ th.pend = e.th.pend ∧ th.region.num = e.th.region.num ∧
        (taken → th.pc = (s.target o).toNat ∧ th.clause = none) ∧ (¬ taken → th.pc = s.cur.pc + 4 * o.len))

/-- R271: `loop` takes 1 from its scalar modulo 2^32 and goes back while the new value is not zero; a scalar of 0 runs
the body 2^32 more times. Its word is one of 96 bits with opcode 0xB1, a scalar in DST, and no guard. -/
def Obligations.Loops : Prop :=
  (∀ (s : State) (e : Env) (o : Ops) (n : Nat), o.dst = .s n → s.issues (.loop o) o e → codeOk (s.target o) = true →
      ∃ t th, exec (.loop o) s = .next t ∧ OnlyThread s t e.tid ∧ t.thread e.tid = some th ∧ th.wait = .ready ∧
        th.regs.scal n = e.th.regs.scal n - 1 ∧ (∀ m, m ≠ n → th.regs.scal m = e.th.regs.scal m) ∧
        th.regs.v = e.th.regs.v ∧ th.regs.k = e.th.regs.k ∧ th.flags = e.th.flags ∧
        th.pc = if e.th.regs.scal n = 1 then s.cur.pc + 4 * o.len else (s.target o).toNat) ∧
  ∀ (w : Nat) (o : Ops), decode w = .instr (.loop o) → w / 64 % 256 = 0xB1 ∧ o.len = 3 ∧ (∃ n, o.dst = .s n) ∧
    o.guard = 0 ∧ o.ginv = false

/-- R61, R108, R272, R273: `call` pushes its own address + 12 and continues at its target; `call.ind` serves the lanes
of its pending mask with the least target, pushes its own address, and continues past itself when no lane is
pending; `ret` continues at the newest entry. Each closes the region. R108: a push at depth 16 or more stores the oldest
of the 16 entries in the warp's own part of the spill area, at `SPILL` + warp × stride + 8 × (depth − 16), as a store of
eight bytes, and a pop above depth 16 reads the newest spilled entry back from there. -/
def Obligations.CallsAndReturns : Prop :=
  ∀ (s : State) (e : Env) (o : Ops),
    let d := e.th.regs.depth
    let ras := e.th.regs.ras
    let top := (ras.getD 0 0).toNat
    let slot := fun n => e.la.recd.spill + (e.blk.id * e.la.obj.warps + e.th.warpId) * e.la.recd.spillStride + 8 * n
    let entry := fun n data => ({ lane := 0, elem := 0, va := some (slot n), w := 8, data := data, bit := 0 } : Access)
    let spilled := entry (d - 16) (bytesOf 8 (ras.getD 15 0).toNat)
    let kept := fun (th : Thread) => th.regs.s = e.th.regs.s ∧ th.clause = none ∧
      (s.host.testMode = false → th.regs.v = e.th.regs.v)
    let pushes := fun i (a : Nat) dest (more : Thread → Prop) =>
      (d < 16 → ras.length < 16 → ∃ t th, exec i s = .next t ∧ PassedTo s t e dest th ∧ th.regs.depth = d + 1 ∧
        th.regs.ras = BitVec.ofNat 64 (a % 2 ^ 52) :: ras ∧ kept th ∧ more th) ∧
      (∀ s1 lines, 16 ≤ d → d < 16 + e.la.recd.spillStride / 8 → slot (d - 16) % 8 = 0 → slot (d - 16) < 2 ^ 52 →
        s.host.testMode = false → s.reachesTo s1 e true [spilled] lines →
        ∃ t th, exec i s = .next t ∧ Bounded t e dest th ∧ th.regs.depth = d + 1 ∧
          th.regs.ras = BitVec.ofNat 64 (a % 2 ^ 52) :: ras.take 15 ∧ kept th ∧ more th ∧
          StoredIn s s1 t e.blk.core (storeBytesOf lines [spilled]) ∧ ∀ u, u ≠ e.tid → t.thread u = s.thread u)
    (s.issues (.call o) o e → codeOk (s.target o) = true →
      pushes (.call o) (s.cur.pc + 12) (s.target o).toNat (fun th => th.regs.k = e.th.regs.k)) ∧
    (s.issues (.ret o) o e → codeOk top = true →
      (0 < d → d ≤ 16 → ∃ t th, exec (.ret o) s = .next t ∧ PassedTo s t e top th ∧
        th.regs.depth = d - 1 ∧ th.regs.ras = ras.drop 1 ∧ kept th ∧ th.regs.k = e.th.regs.k) ∧
      (∀ s1 lines, 16 < d → slot (d - 17) % 8 = 0 → slot (d - 17) < 2 ^ 52 → s.host.testMode = false →
        s.reachesTo s1 e false [entry (d - 17) []] lines →
        ∃ t, exec (.ret o) s = .next t ∧ (∀ u, u ≠ e.tid → t.thread u = s.thread u) ∧
          Fetches s s1 t e.blk.core [entry (d - 17) []] lines (∃ th, Bounded t e top th ∧ th.regs.depth = d - 1 ∧
            th.regs.ras = ras.drop 1 ++ [BitVec.ofNat 64 (s1.valueAt e.blk.core lines (entry (d - 17) []))] ∧
            kept th ∧ th.regs.k = e.th.regs.k))) ∧
    (∀ ks kp va, o.dst = .k ks → o.b = .k kp → o.a = .v va → ks ≠ kp → e.th.width ≤ 64 → s.issues (.callInd o) o e →
      let p := e.th.regs.mask kp &&& e.th.active o
      let tgt := fun l => e.th.regs.raw 0 .n64 l o.a
      (p = 0 → ∃ t th, exec (.callInd o) s = .next t ∧ PassedTo s t e (s.cur.pc + 4 * o.len) th ∧
        th.regs.mask ks = 0 ∧ th.regs.mask kp = e.th.regs.mask kp ∧ th.regs.ras = ras) ∧
      (∀ l0, p.getLsbD l0 = true → (∀ l, p.getLsbD l = true → tgt l0 ≤ tgt l) → codeOk (tgt l0) = true →
        pushes (.callInd o) s.cur.pc (tgt l0) (fun th =>
          (∀ l, (th.regs.mask ks).getLsbD l = true ↔ p.getLsbD l = true ∧ tgt l = tgt l0) ∧
          (∀ l, l < e.th.width → ((th.regs.mask kp).getLsbD l = true ↔
            (e.th.regs.mask kp).getLsbD l = true ∧ ¬ (p.getLsbD l = true ∧ tgt l = tgt l0))))))

/-- R269, R408: a transfer with an invalid target traps as malformed with DETAIL 11, taken or not, and that is all: so do
`bra`, `loop` and `call`, `ret` to an invalid entry, and `call.ind` of which the least target is invalid. R108, R409: a
push at the depth limit and a pop at depth 0 trap with causes 0x000B and 0x000C; DETAIL is the depth, clipped, and
`trap_mask` the lanes that pass `k0`. -/
def Obligations.ControlTransfersTrap : Prop :=
  (∀ (s : State) (e : Env) (o : Ops) (c : BraCond), codeOk (s.target o) = false →
      let trap := Host.Outcome.next (s.raise e.tid (s.trapOf 0x0002 11 (e.th.active o)))
      (s.issues (.bra c o) o e → exec (.bra c o) s = trap) ∧ (s.issues (.loop o) o e → exec (.loop o) s = trap) ∧
      (s.issues (.call o) o e → exec (.call o) s = trap)) ∧
  (∀ (s : State) (e : Env) (o : Ops),
      let d := e.th.regs.depth
      let invalid := Host.Outcome.next (s.raise e.tid (s.trapOf 0x0002 11 (e.th.active o)))
      let deep := Host.Outcome.next (s.raise e.tid (s.trapOf 0x000B (min d 0x3FF) (e.th.regs.mask 0 &&& laneMask e.th.width)))
      let full := 16 + e.la.recd.spillStride / 8 ≤ d
      (s.issues (.call o) o e → codeOk (s.target o) = true → full → exec (.call o) s = deep) ∧
      (s.issues (.ret o) o e → d = 0 → exec (.ret o) s =
        .next (s.raise e.tid (s.trapOf 0x000C 0 (e.th.regs.mask 0 &&& laneMask e.th.width)))) ∧
      (s.issues (.ret o) o e → 0 < d → codeOk (e.th.regs.ras.getD 0 0).toNat = false → exec (.ret o) s = invalid) ∧
      (∀ ks kp l0, o.dst = .k ks → o.b = .k kp → s.issues (.callInd o) o e →
        let p := e.th.regs.mask kp &&& e.th.active o
        let tgt := fun l => e.th.regs.raw 0 .n64 l o.a
        p.getLsbD l0 = true → l0 < e.th.width → (∀ l, p.getLsbD l = true → tgt l0 ≤ tgt l) →
        (codeOk (tgt l0) = false → exec (.callInd o) s = invalid) ∧
        (codeOk (tgt l0) = true → full → exec (.callInd o) s = deep)))

/-- R39, R274: `retire` clears from `k0` the lanes that pass `k0` and the guard; a warp whose `k0` becomes zero, or that
executes `exit`, ends: it is no longer live. Neither is a region boundary. R72, R181: a sprout that ends so has retired: it
is gone, and its burst is marked. While another burst of its `bread` is left the `bread` stays. When it was the last, the
completion flag clears, a failure of the `bread` joins those behind the flag (R418), and the clear is an acquire: the core's
L1 holds no filled byte of a local line. A sprout whose accesses have not been performed waits. Model's reading: log
entry 18. -/
def Obligations.ThreadsEnd : Prop :=
  ∀ (s : State) (e : Env) (o : Ops), e.th.pair = none →
    let left := e.th.regs.mask 0 &&& ~~~(e.th.active o) &&& laneMask e.th.width
    (s.issues (.retire o) o e → left ≠ 0 → ∃ t th, exec (.retire o) s = .next t ∧ OnlyThread s t e.tid ∧
      t.thread e.tid = some th ∧ th.regs.mask 0 = left ∧ th.regs.v = e.th.regs.v ∧ th.regs.s = e.th.regs.s ∧
      th.live = e.th.live ∧ th.pc = s.cur.pc + 4 * o.len ∧ th.region.num = e.th.region.num) ∧
    (e.th.isWarp = true →
      (s.issues (.retire o) o e → left = 0 → ∃ t th, exec (.retire o) s = .next t ∧ t.thread e.tid = some th ∧
        th.live = false ∧ th.halted = e.th.halted ∧ th.regs.mask 0 = 0 ∧ t.mem = s.mem ∧
        (∀ u, u ≠ e.tid → t.thread u = s.thread u)) ∧
      (s.issues (.exit o) o e → ∃ t th, exec (.exit o) s = .next t ∧ t.thread e.tid = some th ∧
        th.live = false ∧ th.halted = e.th.halted ∧ th.regs = e.th.regs ∧ t.mem = s.mem ∧
        (∀ u, u ≠ e.tid → t.thread u = s.thread u))) ∧
    (∀ (i : Instr) (id k : Nat) (br : Bread) (th : Thread), i = .exit o ∨ (i = .retire o ∧ left = 0) → s.issues i o e →
      e.th.role = .sprout id k → NMap.sorted s.threads = true → NMap.sorted s.breads = true → s.bread id = some br →
      k < br.bursts.length → s.thread br.tid = some th → br.tid ≠ e.tid → th.pair = none →
      let last := ∀ (j : Nat) b, br.bursts[j]? = some b → j ≠ k → b.state = .retired
      let wanted := ∃ r ∈ s.reqs, r.bread = some id
      (s.performed e = false → exec i s = .next (s.setThread e.tid { e.th with wait := .stalled })) ∧
      (s.performed e = true → ∃ t, exec i s = .next t ∧ t.mem = s.mem ∧ t.thread e.tid = none ∧
        (∀ u, u ≠ e.tid → u ≠ br.tid → t.thread u = s.thread u) ∧
        (¬ last ∨ wanted → t.thread br.tid = some th ∧ t.cores = s.cores ∧ ∃ br', t.bread id = some br' ∧
          br' = { br with bursts := br'.bursts } ∧
          ∀ j : Nat, br'.bursts[j]? = (br.bursts[j]?).map fun b => if j = k then { b with state := .retired } else b) ∧
        (last → ¬ wanted → t.bread id = none ∧ Acquired t br.core .package ∧
          (∀ c, c ≠ br.core → t.core c = s.core c) ∧ ∃ th', t.thread br.tid = some th' ∧
          th' = { th with flags := th'.flags, faults := th'.faults } ∧ (∀ f ∈ th'.flags, f.2 ≠ br.op) ∧
          (∀ f ∈ th.flags, f.2 ≠ br.op → f ∈ th'.flags) ∧
          (br.failed = none → th'.faults = th.faults) ∧
          (∀ b c, br.failed = some (b, c) → ∃ f, th'.faults = th.faults ++ [f] ∧ f.flag = br.flag ∧ f.cause = 0x000D ∧
            f.detail = 0))))

/-- R60, R61, R64, R275: `region` opens a region that starts at its own address, with the live-in masks of the region
table's entry and `k0`, and keeps what a restart gives back: `k0`, the generators and the seed. It is the next region, but
the same one when a restart executes the `region` that opened it again (R480). An entry past the table traps as malformed
with DETAIL 11 (R408). -/
def Obligations.RegionsOpen : Prop :=
  ∀ (s : State) (e : Env) (o : Ops), s.issues (.region o) o e →
    (∀ m, e.la.obj.regions[o.imm.toNat]? = some m → s.host.testMode = false →
      ∃ t th, exec (.region o) s = .next t ∧ OnlyThread s t e.tid ∧ t.thread e.tid = some th ∧
        th.pc = s.cur.pc + 4 * o.len ∧ th.regs = e.th.regs ∧ th.region.start = s.cur.pc ∧
        th.region.num = (if e.th.region.again = true ∧ e.th.region.start = s.cur.pc then e.th.region.num
          else e.th.region.num + 1) ∧ th.region.liveV = m.v ∧ th.region.liveS = m.s ∧
        th.region.liveK = m.k ||| 1 ∧ th.region.liveM = m.m ∧ th.region.gen = e.th.regs.gen ∧
        th.region.seed = e.th.regs.seed ∧ th.region.k0 = e.th.regs.mask 0 ∧ th.region.again = false ∧
        th.region.newV = 0 ∧ th.region.newS = 0 ∧ th.region.newK = 0 ∧ th.region.newM = 0) ∧
    (e.la.obj.regions[o.imm.toNat]? = none →
      exec (.region o) s = .next (s.raise e.tid (s.trapOf 0x0002 11 (e.th.active o))))

/-- R276, R277: `sync` at warp scope waits until every earlier instruction of the warp has written its results and
cleared its flags, and then gives status 0; `wait` waits until every flag of its list is clear, and consumes those
flags: the failures behind them raise nothing (R418, R436). A thread that waits changes nothing but what it waits for. -/
def Obligations.SyncAndWait : Prop :=
  ∀ (s : State) (e : Env) (o : Ops),
    (o.scope = .warp → s.issues (.sync o) o e →
      (e.th.pend = [] → e.th.flags = [] → Completes s (.sync o) o e (destVals 0 .n32 o.dst 0 0)) ∧
      (e.th.pend ≠ [] ∨ e.th.flags ≠ [] →
        exec (.sync o) s = .next (s.setThread e.tid { e.th with wait := .stalled }))) ∧
    (s.issues (.wait o) o e →
      ((∀ p ∈ e.th.flags, p.1 < 12 → o.imm.getLsbD p.1 = false) → ∃ t th, exec (.wait o) s = .next t ∧
        OnlyThread s t e.tid ∧ t.thread e.tid = some th ∧ th.pc = s.cur.pc + 4 * o.len ∧ th.wait = .ready ∧
        th = { e.th with pc := th.pc, wait := th.wait, clause := th.clause, idle := th.idle, fetched := th.fetched,
                         region := th.region, faults := th.faults } ∧
        ∀ f, f ∈ th.faults ↔ f ∈ e.th.faults ∧ ¬ (f.flag < 12 ∧ o.imm.getLsbD f.flag = true)) ∧
      ((∃ p ∈ e.th.flags, p.1 < 12 ∧ o.imm.getLsbD p.1 = true) →
        exec (.wait o) s = .next (s.setThread e.tid { e.th with wait := .stalled })))

/-! ### Sets and blocks -/

/-- R47, R53, R61, R276, R421: the last member to arrive at a `sync` completes the rendezvous: every live member of the
set continues with its next instruction, its status pending, and the rendezvous closes. The status is 1 when a halt has
marked the set as abandoned, and that clears the mark. Model's reading: log entry 18. -/
def Obligations.RendezvousCompletes : Prop :=
  ∀ (s : State) (e : Env) (o : Ops) (set base : Nat) (all : List Nat), s.arrives (.sync o) o e set base all →
    SetCompletes s (.sync o) o e set all
      (fun _ => destVals 0 .n32 o.dst 0 (if set ∈ e.blk.abandoned then 1 else 0)) ∧
    ∀ t b, exec (.sync o) s = .next t → t.block e.th.block = some b → ∀ n, n ∈ b.abandoned ↔ n ∈ e.blk.abandoned ∧ n ≠ set

/-- R52: the first member to arrive, when another is awaited, opens the rendezvous, which fixes its address, and stalls
there. R54, R411: a member that arrives at an address other than the rendezvous' raises the set-wide mismatch fault,
cause 0x0009, for every live member of the set. -/
def Obligations.RendezvousOpensOrMismatches : Prop :=
  (∀ (s : State) (e : Env) (o : Ops) (set base : Nat) (all : List Nat), s.env = some e → 2 ≤ o.scope.code →
      e.setOf o = (set, base, all) → e.th.pend = [] → e.flagHazard (.sync o) o.len = false →
      e.pairHazard (.sync o) = false → (∃ m ∈ s.liveMembers e.blk e.la.obj set, m ≠ e.tid) →
      e.blk.rends.find? (fun r => r.set = set) = none →
      ∀ s1 r, r = { set := set, addr := s.cur.pc, instr := .sync o, words := s.cur.words, arrived := [e.tid] } →
        s1 = (s.setBlock e.th.block { e.blk with rends := e.blk.rends ++ [r] }).setThread e.tid
          { e.th with wait := .rendezvous set } →
        exec (.sync o) s = .next (s1.checkDeadlock e.th.block)) ∧
  (∀ (s : State) (e : Env) (o : Ops) (set base : Nat) (all : List Nat) (r : Rendezvous), s.env = some e →
      2 ≤ o.scope.code → e.setOf o = (set, base, all) → e.th.pend = [] → e.flagHazard (.sync o) o.len = false →
      e.pairHazard (.sync o) = false → e.blk.rends.find? (fun r => r.set = set) = some r → r.addr ≠ s.cur.pc →
      e.tid ∉ r.arrived →
      ∃ traps : List (Nat × Trap), traps.map (·.1) = s.liveMembers e.blk e.la.obj set ∧
        (∀ p ∈ traps, p.2.cause = 0x0009 ∧ p.2.detail = set ∧ p.2.setwide = true) ∧
        exec (.sync o) s = .next (s.setWide e.th.block traps))

/-! ### System instructions -/

/-- R344: `trap` and `brk` trap with causes 0x0003 and 0x0004 when some lane passes `k0` and the guard: `trap_word2` is
a, sign-extended when it is an immediate, `trap_word3` 0 and `trap_mask` those lanes. With no such lane they do
nothing. -/
def Obligations.SoftwareTraps : Prop :=
  ∀ (s : State) (e : Env) (o : Ops),
    let g := e.th.active o
    let trapped := fun cause x => Host.Outcome.next (s.raise e.tid
      { cause := cause, detail := 0, mask := g, pc := s.cur.pc, word0 := s.cur.words.getD 0 0,
        word1 := s.cur.words.getD 1 0, word2 := x, word3 := 0, setwide := false, addr := none, next := false })
    (s.issues (.trap o) o e → g ≠ 0 →
      (∀ n, o.a = .s n → exec (.trap o) s = trapped 0x0003 (e.th.regs.scal n)) ∧
      (∀ b, o.a = .imm b → exec (.trap o) s = trapped 0x0003 (b.signExtend 32))) ∧
    (s.issues (.brk o) o e → g ≠ 0 → ∀ b, o.a = .imm b → exec (.brk o) s = trapped 0x0004 (b.signExtend 32)) ∧
    (s.issues (.trap o) o e → g = 0 → Completes s (.trap o) o e []) ∧
    (s.issues (.brk o) o e → g = 0 → Completes s (.brk o) o e [])

/-- R398, R400 to R402: a live warp outside its handler whose earlier instructions have written their results and
cleared their flags, and whose launch's trap table names the cause, takes a trap: the trap registers are written,
the warp enters the handler in handler mode, as a branch target, and nothing else of it or of the machine changes.
R398, R63: while earlier results, logged accesses or flags of the thread are outstanding, or a restart of it waits, a
trap is held back, and nothing else changes. R403, R404, R420: a trap whose cause the trap table does not name, and any trap in handler mode, halts
the warp: it is no longer live, its launch is failed, and in handler mode the trap registers keep the values of the
first trap. -/
def Obligations.TrapsAreTaken : Prop :=
  (∀ (s : State) (tid pc : Nat) (e : Env) (r : Trap), s.envOf tid = some e → e.th.live = true → e.th.isWarp = true →
      e.th.handler = false → e.th.pend = [] → e.th.log = [] → e.th.flags = [] → e.th.restarts = false → r.next = false →
      (e.la.obj.traps.find? (fun p => p.1 = r.cause)).map (·.2) = some pc → r.cause < 2 ^ 16 →
      ∃ t th, s.raise tid r = t ∧ OnlyThread s t tid ∧ t.thread tid = some th ∧ Entered e r pc th) ∧
  (∀ (s : State) (tid : Nat) (e : Env) (r : Trap), s.envOf tid = some e → e.th.live = true →
      (e.th.pend ≠ [] ∨ e.th.log ≠ [] ∨ e.th.flags ≠ [] ∨ e.th.restarts = true) →
      s.raise tid r = s.setThread tid { e.th with held := some r, wait := .ready }) ∧
  (∀ (s : State) (tid : Nat) (e : Env) (r : Trap), s.envOf tid = some e → e.th.live = true → e.th.isWarp = true →
      e.th.pend = [] → e.th.log = [] → e.th.flags = [] → e.th.restarts = false → r.next = false → e.th.pair = none →
      (e.th.handler = true ∨ e.la.obj.traps.find? (fun p => p.1 = r.cause) = none) →
      ∃ th la, (s.raise tid r).thread tid = some th ∧ th.live = false ∧ th.halted = true ∧
        (e.th.handler = true → th.trap = e.th.trap) ∧
        (e.th.handler = false → th.trap.pc = BitVec.ofNat 64 r.pc ∧ th.trap.mask = r.mask) ∧
        th.regs = e.th.regs ∧
        (s.raise tid r).launch e.blk.launch = some la ∧ la.failed = true ∧
        (e.la.restartable = false → la.aborting.isSome = true))

/-- R345, R402, R404: in a handler `eret` continues past the trapped word, whose length is that of `trap_word0`, and
`eret.retry` at `trap_pc`; either leaves handler mode and is entered as a branch target. Outside a handler both trap
as malformed. Model's choice: an invalid place to return to (log entry 36). -/
def Obligations.HandlerReturns : Prop :=
  ∀ (s : State) (e : Env) (o : Ops),
    let past := e.th.trap.pc.toNat + 4 * lengthOf e.th.trap.word0.toNat
    let back := e.th.trap.pc.toNat
    (e.th.handler = true → e.th.later = none →
      (s.issues (.eret o) o e → past % 4 = 0 → exec (.eret o) s =
        .next (s.setThread e.tid { e.th with handler := false, pc := past, clause := none, fetched := none, wait := .ready })) ∧
      (s.issues (.eretRetry o) o e → back % 4 = 0 → exec (.eretRetry o) s =
        .next (s.setThread e.tid { e.th with handler := false, pc := back, clause := none, fetched := none, wait := .ready }))) ∧
    (e.th.handler = false →
      (s.issues (.eret o) o e → exec (.eret o) s = .next (s.raise e.tid (s.trapOf 0x0002 12 (e.th.active o)))) ∧
      (s.issues (.eretRetry o) o e →
        exec (.eretRetry o) s = .next (s.raise e.tid (s.trapOf 0x0002 12 (e.th.active o)))))

/-- R109, R112, R346: `sread` of `lane_id` writes each active lane its index; every other special register moves once,
as a word, a pair or a mask, with the value that the warp, block, launch, clock or trap registers hold. With no lane
that passes nothing is written. It is so of a warp and of a sprout, where the burst registers hold the burst (R69) and each
`set_rank` is 0xFFFFFFFF (R45). Model's reading: no move with no lane that passes (log entry 11), and some value for
`warp_id` in a sprout (35). -/
def Obligations.SpecialReads : Prop :=
  ∀ (s : State) (e : Env) (o : Ops) (d : Nat), s.issues (.sread o) o e →
    (e.th.active o = 0 → Completes s (.sread o) o e []) ∧
    (e.th.active o ≠ 0 →
    let word := fun n x => o.a = .sp n → o.dst = .s d → Completes s (.sread o) o e [.s d x]
    let pair := fun n (x : DWord) => o.a = .sp n → o.dst = .s d →
      Completes s (.sread o) o e [.s d (x.setWidth 32), .s (d + 1) ((x >>> 32).setWidth 32)]
    (o.a = .sp 0x00 → o.dst = .v d → Completes s (.sread o) o e
      ((e.th.activeLanes o).map fun l => .v d l (BitVec.ofNat 32 l))) ∧
    (e.th.isWarp = true → word 0x01 (BitVec.ofNat 32 e.th.warpId)) ∧
    (e.th.isWarp = false → o.a = .sp 0x01 → o.dst = .s d → ∃ t th x, exec (.sread o) s = .next t ∧
      t.thread e.tid = some th ∧ Wrote e e.th.regs (.sread o) [.s d x] (s.cur.pc + 4 * o.len) th ∧
      (∀ u, u ≠ e.tid → t.thread u = s.thread u) ∧
      t = { s with threads := t.threads, nextId := t.nextId, tick := t.tick }) ∧
    word 0x02 (BitVec.ofNat 32 e.blk.id) ∧
    word 0x03 (BitVec.ofNat 32 e.la.obj.warps) ∧ word 0x04 (BitVec.ofNat 32 e.la.recd.blocks) ∧
    word 0x05 e.la.recd.tag ∧ word 0x10 e.th.regs.fpmode ∧ word 0x11 e.th.regs.seed ∧ pair 0x18 s.clock ∧
    word 0x19 0xC2 ∧ word 0x20 e.th.burst.index ∧ word 0x21 e.th.burst.row ∧ word 0x22 e.th.burst.col ∧
    word 0x23 e.th.burst.bytes ∧ word 0x24 e.th.burst.last ∧ word 0x28 e.th.ring.head ∧ word 0x29 e.th.ring.tail ∧
    word 0x2A e.th.ring.free ∧ pair 0x30 e.th.trap.pc ∧ word 0x31 e.th.trap.cause ∧ word 0x32 e.th.trap.word0 ∧
    word 0x33 e.th.trap.word1 ∧ word 0x34 e.th.trap.word2 ∧ word 0x35 e.th.trap.word3 ∧ pair 0x36 e.th.trap.mask ∧
    (o.a = .sp 0x36 → o.dst = .k d → Completes s (.sread o) o e [.k d e.th.trap.mask]) ∧
    word 0x08 (BitVec.ofNat 32 (e.setRank 0)) ∧ word 0x09 (BitVec.ofNat 32 (e.setRank 1)) ∧
    word 0x0A (BitVec.ofNat 32 (e.setRank 2)) ∧ word 0x0B (BitVec.ofNat 32 (e.setRank 3)) ∧
    word 0x38 (if s.host.testMode then e.th.inject else 0)) ∧
    (∀ j g, e.th.isWarp = true → (e.la.obj.sets e.th.warpId)[j]? = some g →
      e.setRank j = (g.members.filter (· < e.th.warpId)).length) ∧
    (∀ j, e.th.isWarp = false ∨ (e.la.obj.sets e.th.warpId)[j]? = none → e.setRank j = 0xFFFFFFFF)

/-- R93, R347: `launch` of a record that can be read, at a multiple of 128, puts its 32 words into the device-side
places of the launch's queue when there is room, behind a release at package scope; a record whose tag is known is
dropped. A misaligned address traps as malformed with DETAIL 11. Model's reading: log entry 38. -/
def Obligations.DeviceLaunch : Prop :=
  ∀ (s : State) (e : Env) (o : Ops), s.issues (.launch o) o e →
    let va := e.th.regs.raw 0 .n64 0 o.a
    let q := e.la.queue
    (va % 128 ≠ 0 → exec (.launch o) s = .next (s.raise e.tid (s.trapOf 0x0002 11 (e.th.active o)))) ∧
    (∀ s1 words, va % 128 = 0 → (s.queue q).places.length < 16 → e.uncommitted = false →
      s.canRelease e .package = true →
      (s.release e .package).readRecord e va (e.th.active o) = (some (.ok words), s1) →
      ∃ t, exec (.launch o) s = .next t ∧ (∀ th1, s1.thread e.tid = some th1 → ∃ th, t.thread e.tid = some th ∧
        th.pc = s.cur.pc + 4 * o.len ∧ th.regs = th1.regs) ∧ t.mem = s1.mem ∧
      (t.queue q).places = (s1.queue q).places ++
        (if s1.tagKnown q (words.getD 4 0) then [] else [words]) ∧
      (∀ p, p ≠ q → t.queue p = s1.queue p)) ∧
    (16 ≤ (s.queue q).places.length → va % 128 = 0 →
      exec (.launch o) s = .next (s.setThread e.tid { e.th with wait := .stalled }))

/-! ### Matrix instructions -/

/-- R285, R286: in each active lane `mshape` sets rows and columns and leaves the elements, `mzero` writes zeros, `mid`
the identity, `mget` gives one element, `mput` replaces one, and `mtrn` transposes. -/
def Obligations.MatrixShapes : Prop :=
  ∀ (s : State) (e : Env) (o : Ops), o.rnd = 0 →
    let d := matNo o.dst
    let a := e.word o.a
    let b := e.word o.b
    let lanes := fun i ok (vals : Nat → List RegVal) =>
      s.issues i o e → (∀ l ∈ e.th.activeLanes o, ok l) → Completes s i o e ((e.th.activeLanes o).flatMap vals)
    lanes (.mshape o) (fun l => e.fits o.dst (a l / 256 % 256) (a l % 256) o.ty)
      (fun l => [.m d l (mkTag (a l / 256 % 256) (a l % 256) o.ty) 0 []]) ∧
    lanes (.mzero o) (fun l => e.fits o.dst (a l) (b l) o.ty)
      (fun l => [Mat.val ⟨a l, b l, o.ty, List.replicate (a l * b l) 0⟩ d l]) ∧
    lanes (.mid o) (fun l => e.fits o.dst (a l) (a l) o.ty)
      (fun l => [Mat.val ⟨a l, a l, o.ty, (List.range (a l)).flatMap fun i => (List.range (a l)).map fun j =>
        if i = j then o.ty.one else 0⟩ d l]) ∧
    lanes (.mget o) (fun l => (e.mat o.a l).ty = o.ty ∧ b l < (e.mat o.a l).rows * (e.mat o.a l).cols)
      (fun l => destVals 0 o.ty o.dst l ((e.mat o.a l).els.getD (b l) 0)) ∧
    lanes (.mput o) (fun l => (e.mat o.dst l).ty = o.ty ∧ a l < (e.mat o.dst l).rows * (e.mat o.dst l).cols)
      (fun l => [Mat.val ⟨(e.mat o.dst l).rows, (e.mat o.dst l).cols, o.ty,
        (e.mat o.dst l).els.set (a l) (e.th.regs.raw 0 o.ty l o.b)⟩ d l]) ∧
    lanes (.mtrn o) (fun l => (e.mat o.a l).ty = o.ty ∧ e.fits o.dst (e.mat o.a l).cols (e.mat o.a l).rows o.ty)
      (fun l => [Mat.val ⟨(e.mat o.a l).cols, (e.mat o.a l).rows, o.ty,
        (List.range (e.mat o.a l).cols).flatMap fun i => (List.range (e.mat o.a l).rows).map fun j =>
          (e.mat o.a l).els.getD (j * (e.mat o.a l).cols + i) 0⟩ d l])

/-- R131, R132, R401: an enabled condition in any active lane of `fcmp` takes the arithmetic trap, and that is all.
R281, R282, R433: a lane whose operands do not match traps with cause 0x0006, and then one whose result does not fit with
cause 0x0007; `trap_mask` is the lanes of that fault, and nothing is written in any lane: so for every per-lane matrix
instruction, `mld` and `mst` once their record has passed its checks. Model's reading: log entry 14. -/
def Obligations.LaneTraps : Prop :=
  ∀ (s : State) (e : Env) (o : Ops) (p : FcmpPred) (f : MulForm),
    let a := e.mat o.a
    let b := e.mat o.b
    let d := e.mat o.dst
    let word := e.word
    let shape := e.loadShape o
    let big := fun rows cols l => ¬ e.fits o.dst (rows l) (cols l) o.ty
    let none_ := fun _ : Nat => False
    let as_ := fun l => ¬ e.fits o.dst (a l).rows (a l).cols o.ty
    let two := fun l => (a l).ty ≠ o.ty ∨ (b l).ty ≠ o.ty ∨ (a l).rows ≠ (b l).rows ∨ (a l).cols ≠ (b l).cols
    let left := fun l => mulLeft f (a l)
    let right := fun l => mulRight f (b l)
    let pair := fun l => pairingOk o.ty (a l).ty (b l).ty = false ∨ (left l).cols ≠ (right l).rows
    let square := fun l => (a l).rows ≠ (a l).cols ∨ 8 < (a l).rows ∨ (a l).ty ≠ o.ty
    let block := fun l => as_ l ∨ ∃ n, o.c = .v n ∧ e.la.obj.vregs < n + scaleRun (blockLen o) (a l).rows (a l).cols
    let record := fun write => (e.recAt (8 * o.brec)).check write (decide ((e.recAt (8 * o.brec)).esz = elemBytes o.ty)) = none
    (s.issues (.fcmp p o) o e → ArithTraps s (.fcmp p o) e (e.actLanes o)
      (fun l => (fpCompare e.fp o.ty p (e.srcA o l) (e.srcB o l)).2)) ∧
    ShapeTraps s (.mshape o) o e none_ (big (fun l => word o.a l / 256 % 256) (fun l => word o.a l % 256)) ∧
    ShapeTraps s (.mzero o) o e none_ (big (word o.a) (word o.b)) ∧
    ShapeTraps s (.mid o) o e none_ (big (word o.a) (word o.a)) ∧
    ShapeTraps s (.mget o) o e (fun l => (a l).rows * (a l).cols ≤ word o.b l ∨ (a l).ty ≠ o.ty) none_ ∧
    ShapeTraps s (.mput o) o e (fun l => (d l).rows * (d l).cols ≤ word o.a l ∨ (d l).ty ≠ o.ty) none_ ∧
    ShapeTraps s (.mtrn o) o e (fun l => (a l).ty ≠ o.ty) (big (fun l => (a l).cols) (fun l => (a l).rows)) ∧
    ShapeTraps s (.madd o) o e two as_ ∧ ShapeTraps s (.msub o) o e two as_ ∧
    ShapeTraps s (.mscal o) o e (fun l => (a l).ty ≠ o.ty) as_ ∧
    ShapeTraps s (.mmul f o) o e pair (big (fun l => (left l).rows) (fun l => (right l).cols)) ∧
    ShapeTraps s (.mfma f o) o e (fun l => pair l ∨ (e.mat o.c l).rows ≠ (left l).rows ∨
        (e.mat o.c l).cols ≠ (right l).cols ∨ (e.mat o.c l).ty ≠ o.ty)
      (big (fun l => (left l).rows) (fun l => (right l).cols)) ∧
    (∀ i ∈ [Instr.minv o, .mlu o, .mchol o, .mpow o], ShapeTraps s i o e square as_) ∧
    ShapeTraps s (.msolve o) o e (fun l => square l ∨ (b l).ty ≠ o.ty ∨ (b l).rows ≠ (a l).rows)
      (big (fun l => (a l).rows) (fun l => (b l).cols)) ∧
    (∀ i ∈ [Instr.mpack o, .munpack o], ShapeTraps s i o e (fun l => (a l).ty ≠ o.sty) block) ∧
    (record false → ShapeTraps s (.mld o) o e (fun l => o.ty = .e2m1 ∧ (shape l).2 % 2 = 1)
      (big (fun l => (shape l).1) (fun l => (shape l).2))) ∧
    (record true → ShapeTraps s (.mst o) o e (fun l => (d l).ty ≠ o.ty ∨ (o.ty = .e2m1 ∧ (d l).cols % 2 = 1)) none_)

/-- R283, R290 to R292: `madd`, `msub` and `mscal` act element by element, each element rounded once or, in integer
types, wrapped or clamped; an element of `mmul` and `mfma` is the chain of R136 over ascending k, from zero or from
mc: where the chain's format holds every partial sum exactly, it is the exact sum. Model's reading: log entry 14. -/
def Obligations.MatrixArithmetic : Prop :=
  ∀ (s : State) (e : Env) (o : Ops) (f : MulForm),
    let a := e.mat o.a
    let b := e.mat o.b
    let flush := e.fp.source o.ty
    let same := fun l => (a l).ty = o.ty ∧ (b l).ty = o.ty ∧ (a l).rows = (b l).rows ∧ (a l).cols = (b l).cols ∧
      e.fits o.dst (a l).rows (a l).cols o.ty
    let scalar := fun l => e.th.regs.raw 0 o.ty l o.b
    let by2 := fun (x : Nat → List (Nat × Nat)) (fl : Nat × Nat → Nat → FpRes) (int : Int → Int → Int) l =>
      if o.ty.isFloat then (e.calc l).rounds o.rnd (fun p u => fl (flush p.1, flush p.2) u) (x l)
      else ((x l).map fun p => o.ty.fit o.sat (int (o.ty.value p.1) (o.ty.value p.2)), e.calc l)
    let elementwise := fun i ok x fl int => MatRuns s i o e ok
      (fun l => [Mat.val ⟨(a l).rows, (a l).cols, (a l).ty, (by2 x fl int l).1⟩ (matNo o.dst) l])
      (fun l => (by2 x fl int l).2) []
    let left := fun l => mulLeft f (a l)
    let right := fun l => mulRight f (b l)
    let prod := fun acc l => product e.fp o.ty o.rnd o.sat (left l) (right l) (if acc then some (e.mat o.c l).els else none)
      (e.calc l)
    let fitting := fun l => pairingOk o.ty (a l).ty (b l).ty = true ∧ (left l).cols = (right l).rows ∧
      e.fits o.dst (left l).rows (right l).cols o.ty
    elementwise (.madd o) same (fun l => (a l).els.zip (b l).els)
      (fun p u => fpAdd e.fp o.ty o.rnd u o.sat false p.1 p.2) (· + ·) ∧
    elementwise (.msub o) same (fun l => (a l).els.zip (b l).els)
      (fun p u => fpAdd e.fp o.ty o.rnd u o.sat true p.1 p.2) (· - ·) ∧
    elementwise (.mscal o) (fun l => (a l).ty = o.ty ∧ e.fits o.dst (a l).rows (a l).cols o.ty)
      (fun l => (a l).els.map fun x => (x, scalar l)) (fun p u => fpMul e.fp o.ty o.rnd u o.sat p.1 p.2) (· * ·) ∧
    MatRuns s (.mmul f o) o e fitting (fun l => [Mat.val (prod false l).1 (matNo o.dst) l])
      (fun l => (prod false l).2) [] ∧
    MatRuns s (.mfma f o) o e
      (fun l => fitting l ∧ (e.mat o.c l).rows = (left l).rows ∧ (e.mat o.c l).cols = (right l).cols ∧
        (e.mat o.c l).ty = o.ty)
      (fun l => [Mat.val (prod true l).1 (matNo o.dst) l]) (fun l => (prod true l).2) [] ∧
    (∀ l, (left l).ty = .i8 → (right l).ty = .i8 → o.ty = .i32 → o.sat = false → ∀ i j, i < (left l).rows → j < (right l).cols →
      (prod false l).1.els.getD (i * (right l).cols + j) 0 =
        wrapTo 32 ((factors (left l) (right l) i j).map fun p => Ty.i8.value p.1 * Ty.i8.value p.2).sum) ∧
    (∀ (acc : Bool) (l i j : Nat) (x y : Nat → ℚ) (z : ℚ), o.ty = .f32 ∨ o.ty = .f64 → o.rnd ≤ 5 → e.fp.ftz = false →
      pairingOk o.ty (left l).ty (right l).ty = true → (left l).cols = (right l).rows → i < (left l).rows →
      j < (right l).cols →
      let num := fun t daz c v => ∃ m, Ty.number t daz c = some (m, v)
      (∀ k, k < (left l).cols → num (left l).ty e.fp.daz ((left l).els.getD (i * (left l).cols + k) 0) (x k) ∧
        num (right l).ty e.fp.daz ((right l).els.getD (k * (right l).cols + j) 0) (y k)) →
      (if acc then num o.ty e.fp.daz ((e.mat o.c l).els.getD (i * (right l).cols + j) 0) z else z = 0) →
      let sum := fun k => z + ((List.range k).map fun n => x n * y n).sum
      (∀ k, k ≤ (left l).cols → ∃ c, num o.ty false c (sum k)) →
      num o.ty false ((prod acc l).1.els.getD (i * (right l).cols + j) 0) (sum (left l).cols))

/-- R293 to R299: on square matrices of at most 8 rows in the format of the destination, `minv` writes the inverse,
`mlu` the factors and the permutation, `mchol` the Cholesky factor, `msolve` the solution and `mpow` the power; a
singular lane writes its shape filled with the canonical NaN, and the mask c tells the singular lanes of G. R282: under
SINGULAR_TRAP a singular lane makes it trap with cause 0x0008 instead, and `trap_mask` is the singular lanes. A matrix of one
row is singular when its element is zero, infinite or NaN, and for `mchol` also when it is negative; else the results
are 1 / a, a itself with the permutation 0, √a, b / a and, for the exponents 0 and 1, 1 and a fused 1 × a + 0. On exact inputs
of two and three rows, R299's example among them, the results are what R295 to R299 compute. Model's reading: log entry 14. -/
def Obligations.MatrixAlgebra : Prop :=
  ∀ (s : State) (e : Env) (o : Ops),
    let a := e.mat o.a
    let n := fun l => (a l).rows
    let x := e.srcEls o.a
    let square := fun l => (a l).rows = (a l).cols ∧ (a l).rows ≤ 8 ∧ (a l).ty = o.ty
    let algebra := fun i ok (cols : Nat → Nat) (res : Nat → Option (List Nat) × Calc) (more : Nat → List RegVal) =>
      let good := fun l => square l ∧ ok l ∧ e.fits o.dst (n l) (cols l) o.ty
      MatRuns s i o e (fun l => good l ∧ (e.fp.singular = true → (res l).1.isSome = true))
        (fun l => Mat.val (algebraMat o.ty (n l) (cols l) (res l).1) (matNo o.dst) l :: more l)
        (fun l => (res l).2) (e.singularMark o fun l => (res l).1.isNone) ∧
      (s.issues i o e → (∀ l ∈ e.th.activeLanes o, good l) → e.fp.singular = true →
        (∃ l ∈ e.th.activeLanes o, (res l).1 = none) →
        TrapsFor s i e (e.th.activeLanes o) (fun l => (res l).1 = none) 0x0008 0)
    let lu := fun l => e.luOf o l (n l)
    let inverse := fun l => matInverse e.fp.inner o.ty o.rnd (n l) (x l) (e.calc l)
    let exponent := fun l => Ty.i32.value (e.th.regs.raw 0 .i32 l o.b)
    let power := fun l (p : List Nat) (c : Calc) =>
      let r := powLoop e.fp o.ty o.rnd (n l) 33 (exponent l).natAbs (identityEls o.ty (n l)) p c
      ((some r.1, r.2) : Option (List Nat) × Calc)
    algebra (.minv o) (fun _ => True) n inverse (fun _ => []) ∧
    algebra (.mlu o) (fun _ => True) n (fun l => (if (lu l).1 then none else some (lu l).2.2.1.els, (lu l).2.2.2))
      (fun l => destVals 0 .b64 o.b l (if (lu l).1 then 2 ^ 64 - 1 else packEls 8 (lu l).2.1)) ∧
    algebra (.mchol o) (fun _ => True) n
      (fun l =>
        let r := cholesky e.fp.inner o.ty o.rnd (n l) ⟨n l, x l⟩ (List.range (n l))
          (⟨n l, List.replicate (n l * n l) 0⟩, e.calc l)
        (if r.1 then none else some r.2.1.els, r.2.2)) (fun _ => []) ∧
    algebra (.msolve o) (fun l => (e.mat o.b l).ty = o.ty ∧ (e.mat o.b l).rows = n l) (fun l => (e.mat o.b l).cols)
      (fun l =>
        let p := (e.mat o.b l).cols
        let y : Grid := ⟨p, (List.range (n l)).flatMap fun i => (List.range p).map fun c =>
          (e.srcEls o.b l).getD ((lu l).2.1.getD i 0 * p + c) 0⟩
        let r := (List.range p).foldl (fun m c => solveColumn e.fp.inner o.ty o.rnd (n l) c (lu l).2.2.1 m) (y, (lu l).2.2.2)
        if (lu l).1 then (none, (lu l).2.2.2) else (some r.1.els, r.2)) (fun _ => []) ∧
    algebra (.mpow o) (fun _ => True) n
      (fun l => if 0 ≤ exponent l then power l (x l) (e.calc l) else
        match inverse l with | (none, c) => (none, c) | (some p, c) => power l p c) (fun _ => []) ∧
    (∀ (env : FpEnv) (t : Ty) (mode v w : Nat) (c : Calc), t = .f32 ∨ t = .f64 → mode ≤ 4 → v < 2 ^ t.bits → w < 2 ^ t.bits →
      let regular := ∃ m q, t.number false v = some (m, q) ∧ q ≠ 0
      let positive := ∃ m q, t.number false v = some (m, q) ∧ 0 < q
      let one := fun x => Grid.mk 1 [x]
      let inv := (matInverse env t mode 1 [v] c).1
      let lu := luFactor env t mode 1 [0] [0] (one v, c)
      let chol := cholesky env t mode 1 (one v) [0] (one 0, c)
      (¬ regular → inv = none ∧ lu.1 = true) ∧ (¬ positive → chol.1 = true) ∧
      (regular → inv = some [(fpDiv env t mode false t.one v).bits] ∧ lu = (false, [0], one v, c) ∧
        (solveColumn env t mode 1 0 (one v) (one w, c)).1 = one (fpDiv env t mode false w v).bits) ∧
      (positive → chol.1 = false ∧ chol.2.1 = one (fpSqrt env t mode v).bits) ∧
      (powLoop env t mode 1 33 0 [t.one] [v] c).1 = [t.one] ∧
      (powLoop env t mode 1 33 1 [t.one] [v] c).1 = [(fpFma env.inner t mode 0 false t.one v 0).bits]) ∧
    (∀ (env : FpEnv) (mode : Nat) (c : Calc), mode ∈ [0, 1, 2, 4] →
      let q := 0x3E800000; let h := 0x3F000000; let n1 := 0x3F800000; let n2 := 0x40000000; let n3 := 0x40400000
      let n4 := 0x40800000; let n5 := 0x40A00000; let n6 := 0x40C00000; let m1 := 0xBF800000
      let inv := fun n a => (matInverse env .f32 mode n a c).1
      let lu := fun a => luFactor env .f32 mode 2 [0, 1] [0, 1] (⟨2, a⟩, c)
      let chol := fun a => cholesky env .f32 mode 2 ⟨2, a⟩ [0, 1] (⟨2, [0, 0, 0, 0]⟩, c)
      let pow := fun k => (powLoop env .f32 mode 2 33 k [n1, 0, 0, n1] [n1, n1, 0, n1] c).1
      inv 3 [0, n2, 0, n1, 0, 0, 0, 0, n4] = some [0, n1, 0, h, 0, 0, 0, 0, q] ∧ inv 2 [n1, n2, n2, n4] = none ∧
      inv 2 [n1, n1, 0, n1] = some [n1, m1, 0, n1] ∧
      (lu [n1, n2, n4, n6]).1 = false ∧ (lu [n1, n2, n4, n6]).2.1 = [1, 0] ∧
      (lu [n1, n2, n4, n6]).2.2.1 = ⟨2, [n4, n6, q, h]⟩ ∧ (lu [n1, n2, n2, n4]).1 = true ∧
      (chol [n4, n3, n2, n5]).1 = false ∧ (chol [n4, n3, n2, n5]).2.1 = ⟨2, [n2, 0, n1, n2]⟩ ∧
      (chol [n1, 0, n2, n4]).1 = true ∧
      (solveColumn env .f32 mode 2 0 ⟨2, [n4, n6, q, h]⟩ (⟨1, [n6, n3]⟩, c)).1 = ⟨1, [0xC0400000, n3]⟩ ∧
      pow 0 = [n1, 0, 0, n1] ∧ pow 5 = [n1, n5, 0, n1] ∧ pow 6 = [n1, n6, 0, n1])

/-- R300 to R302: without a block length `mpack` and `munpack` convert each element, rounded once; with one, `mpack`
also writes the scales of the blocks, four to a register, and divides each element by its block's scale, and
`munpack` multiplies by it, rounded once. The scale of a block of finite numbers is the least that is not below amax / M, or
the largest; that of zeros is 1, and of a block with ±∞ and no NaN the largest. Model's reading: log entry 14, and 79 for a
NaN element. -/
def Obligations.BlockFormats : Prop :=
  ∀ (s : State) (e : Env) (o : Ops) (n : Nat),
    let a := e.mat o.a
    let len := blockLen o
    let run := fun l => scaleRun len (a l).rows (a l).cols
    let fitting := fun l => (a l).ty = o.sty ∧ e.fits o.dst (a l).rows (a l).cols o.ty
    let ok := fun l => fitting l ∧ n + run l ≤ e.la.obj.vregs
    let out := fun l (els : List Nat) => [Mat.val ⟨(a l).rows, (a l).cols, o.ty, els⟩ (matNo o.dst) l]
    let plain := fun sat l => (e.calc l).rounds o.rnd (fun x u => fpCvt e.fp o.ty o.sty o.rnd u sat x) (a l).els
    let scales := fun l => (a l).scales e.fp o.ty len
    let packed := fun l => (e.calc l).rounds o.rnd (fun (p : Nat × Nat) u =>
      packEl e.fp.inner o.ty o.sty len o.rnd u (e.fp.source o.sty p.1) ((scales l).getD (scaleIndex (a l) len p.2) 0))
      (a l).els.zipIdx
    let unpacked := fun l => (e.calc l).rounds o.rnd (fun (p : Nat × Nat) u =>
      unpackEl e.fp.inner o.ty o.sty len o.rnd u (e.fp.source o.sty p.1)
        (e.th.regs.vecs n (run l) l / 256 ^ (scaleIndex (a l) len p.2) % 256)) (a l).els.zipIdx
    (len = 0 → o.c = .none → MatRuns s (.mpack o) o e fitting
      (fun l => out l (plain o.sat l).1) (fun l => (plain o.sat l).2) []) ∧
    (len = 0 → o.c = .none → MatRuns s (.munpack o) o e fitting
      (fun l => out l (plain false l).1) (fun l => (plain false l).2) []) ∧
    (len ≠ 0 → o.c = .v n → MatRuns s (.mpack o) o e ok
      (fun l => out l (packed l).1 ++
        (List.range (run l)).map fun i => .v (n + i) l (BitVec.ofNat 32 (packEls 8 (scales l) / 2 ^ (32 * i))))
      (fun l => (packed l).2) []) ∧
    (len ≠ 0 → o.c = .v n → MatRuns s (.munpack o) o e ok (fun l => out l (unpacked l).1) (fun l => (unpacked l).2) []) ∧
    (∀ (env : FpEnv) (d w : Ty) (k mode u x q : Nat) (m : Bool) (v : ℚ), k = 8 ∨ k = 32 → mode ≤ 5 → u < 2 ^ 32 →
      d ∈ [.e2m1, .e4m3, .e5m2] → w ∈ [.f32, .f16, .bf16] → q ≤ (scaleTy k).maxCode → 0 < (scaleTy k).grid q →
      (w.number false x = some (m, v) →
        Result env d mode u true m (v / (scaleTy k).grid q) (packEl env d w k mode u x q)) ∧
      ((fpVal w x = .inf m) → packEl env d w k mode u x q = ⟨(if m then 2 ^ (d.bits - 1) else 0) + d.maxCode, 0⟩) ∧
      (d.number false x = some (m, v) →
        Result env w mode u false m (v * (scaleTy k).grid q) (unpackEl env w d k mode u x q))) ∧
    (∀ (l i t : Nat), len ≠ 0 → o.ty ∈ [.e2m1, .e4m3, .e5m2] → o.sty ∈ [.f32, .f16, .bf16] → (a l).ty = o.sty →
      let runs := ((a l).cols + len - 1) / len
      i < (a l).rows → t < runs →
      let xs := (List.range len).filterMap fun k =>
        if t * len + k < (a l).cols then (a l).els[i * (a l).cols + t * len + k]? else none
      let st := scaleTy len
      let scale := (scales l).getD (i * runs + t) 0
      ((∃ x ∈ xs, fpVal o.sty x = .inf true ∨ fpVal o.sty x = .inf false) → (∀ x ∈ xs, (fpVal o.sty x).isNan = false) →
        scale = st.maxCode) ∧
      (∀ amax : ℚ, (∀ x ∈ xs, ∃ m v, o.sty.number e.fp.daz x = some (m, v) ∧ |v| ≤ amax) →
        (∃ x ∈ xs, ∃ m v, o.sty.number e.fp.daz x = some (m, v) ∧ |v| = amax) →
        (amax = 0 → st.grid scale = 1) ∧
        (0 < amax → scale ≤ st.maxCode ∧ (amax / o.ty.grid o.ty.maxCode ≤ st.grid scale ∨ scale = st.maxCode) ∧
          ∀ c, c < scale → st.grid c < amax / o.ty.grid o.ty.maxCode)))

/-- R303 to R306, R137, R134, R47: over the lanes of a warp or a set, with a legal quad and rows of one length,
lane i of `mma` receives, in each active lane j, the product of row i of ma and row j of mb, added to c, which is md when it
accumulates and else zero, and c in the other columns; column j is element j mod W of register md + ⌊j / W⌋. An `.i8` product
without `.sat` is the exact sum, wrapped; a float one is the exact sum of its scaled products, times the band scales, plus c, where
`.f32` holds each of R137's sums exactly. With no active lane nothing is written. An illegal quad, `.sat` with a float quad, and
scales beyond the block's scratch trap as malformed with DETAIL 11 in every member; then a lane whose rows do not match traps
with cause 0x0006, and one whose result does not fit with cause 0x0007. R179: an `mma` of a warp whose scales lie in a row that a
bulk command owns waits. Model's reading: the NaN that an element carries (log entry 14), and rendezvous (18). -/
def Obligations.CollectiveProducts : Prop :=
  ∀ (s : State) (e : Env) (o : Ops) (c : SetCtx) (k : Nat), s.crosses (.mma o) o e c → 0 < e.th.width →
    e.th.width ≤ 64 →
    let w := e.th.width
    let lanes := c.actives o
    let env := c.leader.fp
    let q := Quad.ofWords ((List.range 4).map fun i => c.leader.th.regs.scal (o.quad + i))
    let reg := fun n l => (c.member l).elim (e.th.regs.matrix n 0) fun p => p.1.th.regs.matrix n p.2
    let ma := reg (matNo o.a)
    let mb := reg (matNo o.b)
    let row := fun (m : Mat) n t => m.rows = 1 ∧ m.cols = n ∧ m.ty = t
    let acc := o.xmod % 2 = 1
    let old := fun i j => if acc then (reg (matNo o.dst + j / w) i).els.getD (j % w) 0 else 0
    let pairs := fun i j => (ma i).els.zip (mb j).els
    let scale := fun off i p => mmaSource env (if q.scale = 1 then .e3m5 else .e8m0)
      (NMap.get 0 c.leader.blk.scratch (off + i * Quad.perRow q k + p / q.len)).toNat
    let terms := fun i j => (pairs i j).zipIdx.map fun p =>
      mmaProd env (mmaSource env q.a p.1.1) (mmaSource env q.b p.1.2)
        (if q.len = 0 then [] else [scale q.offA i p.2, scale q.offB j p.2])
    let legal := q.ok = true ∧ (o.sat = true → q.a = .i8)
    let inside := q.len ≠ 0 → ∀ off ∈ [q.offA, q.offB], off + c.count * Quad.perRow q k ≤ scratchSize c.leader.la.obj c.leader.blk
    let free := q.len ≠ 0 → ∀ off ∈ [q.offA, q.offB], ∀ i, i < c.count * Quad.perRow q k →
      s.rowOwned c.leader.th.block (off + i) = false
    let least := ∃ l, lanes.head? = some l ∧ (ma l).cols = k
    let differ := fun l => ¬ (row (ma l) k q.a ∧ row (mb l) k q.b ∧
      (acc → ∀ t, t < c.size → row (reg (matNo o.dst + t) l) w q.acc))
    let small := ∃ t, t < c.size ∧ c.leader.la.obj.caps.getD (matNo o.dst + t) 0 < w
    let lanesTrap := fun cause (bad : Nat → Prop) => ∃ mask : Env → DWord, CrossTraps s (.mma o) o e cause 0 mask ∧
      ∀ j m, (j, m) ∈ c.members → ∀ x, x < 64 → ((mask m).getLsbD x = true ↔ x < w ∧ j * w + x ∈ lanes ∧ bad (j * w + x))
    (¬ legal → CrossTraps s (.mma o) o e 0x0002 11 (fun f => f.th.active o)) ∧
    (legal → lanes = [] → CrossCompletes s (.mma o) o e (fun _ => [])) ∧
    (legal → least → ¬ inside → CrossTraps s (.mma o) o e 0x0002 11 (fun f => f.th.active o)) ∧
    (legal → least → inside → ¬ free → o.scope = .warp →
      exec (.mma o) s = .next (s.setThread e.tid { e.th with wait := .stalled })) ∧
    (legal → least → inside → free → c.leader.blk.badRows = [] →
      ((∃ l ∈ lanes, differ l) → lanesTrap 0x0006 differ) ∧
      ((∀ l ∈ lanes, ¬ differ l) → small → lanesTrap 0x0007 (fun _ => True)) ∧
      ((∀ l ∈ lanes, ¬ differ l) → ¬ small → ∃ el : Nat → Nat → Nat,
        (∀ i ∈ lanes, ∀ j, j ∉ lanes → el i j = old i j) ∧
        (q.a = .i8 → o.sat = false → ∀ i ∈ lanes, ∀ j ∈ lanes, el i j = wrapTo 32
          (((pairs i j).map fun p => Ty.i8.value p.1 * Ty.i8.value p.2).sum + Ty.i32.value (old i j))) ∧
        (q.a = .i8 → o.sat = true → ∀ i ∈ lanes, ∀ j ∈ lanes, el i j =
          mmaDotInt true ((pairs i j).map fun p => Ty.i8.value p.1 * Ty.i8.value p.2) (old i j)) ∧
        (q.a ≠ .i8 → ∀ i ∈ lanes, ∀ j ∈ lanes, el i j = mmaDot env q.group (terms i j)
          (mmaSource env.inner .bf16 q.bandA) (mmaSource env.inner .bf16 q.bandB) (mmaSource env .f32 (old i j))) ∧
        (q.a ≠ .i8 → env.ftz = false → ∀ i ∈ lanes, ∀ j ∈ lanes, ∀ (v : Nat → ℚ) (bandA bandB z : ℚ),
          let num := fun t daz x y => ∃ m, Ty.number t daz x = some (m, y)
          let st : Ty := if q.scale = 1 then .e3m5 else .e8m0
          let scaled := fun off i p (y : ℚ) => if q.len = 0 then y = 1 else
            let b := (NMap.get 0 c.leader.blk.scratch (off + i * Quad.perRow q k + p / q.len)).toNat
            b ≤ st.maxCode ∧ y = st.grid b
          (∀ p, p < k → ∃ x y u w, num q.a env.daz ((ma i).els.getD p 0) x ∧ num q.b env.daz ((mb j).els.getD p 0) y ∧
            scaled q.offA i p u ∧ scaled q.offB j p w ∧ v p = x * y * u * w) →
          num .bf16 false q.bandA bandA → num .bf16 false q.bandB bandB → num .f32 env.daz (old i j) z →
          let sum := fun n => ((List.range (min n k)).map v).sum
          let held := fun y => ∃ x, num .f32 false x y
          (∀ t, held (sum (t * q.group))) → held (sum k * bandA * bandB) → held (sum k * bandA * bandB + z) →
          num .f32 false (el i j) (sum k * bandA * bandB + z)) ∧
        CrossCompletes s (.mma o) o e (fun j => (lanes.filter (fun l => l / w = j)).flatMap fun l =>
          (List.range c.size).map fun t =>
            Mat.val ⟨1, w, q.acc, (List.range w).map fun y => el l (t * w + y)⟩ (matNo o.dst + t) (l % w))))

/-! ### Memory -/

/-- R143, R144, R146, R318 to R320, R287, R288, R441: when every lane is in bounds, aligned and its lines translate,
`ld` writes each active lane the value at its address, zero where the record says so, and `mld` each active lane its
matrix. No byte of memory changes but to one that some core had stored there. R235, R320: an access made once for the
warp is not made when no lane passes. Model's choice: the lines of one instruction in one step (log entry 7). -/
def Obligations.GlobalLoads : Prop :=
  ∀ (s s1 : State) (e : Env) (o : Ops) (accs : List Access) (lines : List (Nat × Nat)),
    s.reachesTo s1 e false accs lines →
    let made := allScalar o = false ∨ e.th.active o ≠ 0
    let r := e.recAt (8 * o.brec)
    let shape := e.loadShape o
    (s.issues (.ld o) o e → ¬ made → Completes s (.ld o) o e []) ∧
    (s.issues (.ld o) o e → made →
      s.locateAll r false true (widthOf o.ty) (e.elems o (fun _ => [])) (allScalar o) (e.th.active o) = .ok accs →
      ∃ t, exec (.ld o) s = .next t ∧ Loads s s1 t (.ld o) o e accs lines
        (fun value => accs.flatMap fun a => destVals 0 o.ty o.dst a.lane (value a))) ∧
    (s.issues (.mld o) o e → r.check false (decide (r.esz = elemBytes o.ty)) = none →
      (∀ l ∈ e.th.activeLanes o, e.fits o.dst (shape l).1 (shape l).2 o.ty ∧ (o.ty = .e2m1 → (shape l).2 % 2 = 0)) →
      s.locateAll r false true (elemBytes o.ty) ((e.th.activeLanes o).flatMap fun l =>
        matElems o.ty l (e.indices o l).1 (e.indices o l).2 (shape l).1 (shape l).2) false (e.th.active o) = .ok accs →
      ∃ t, exec (.mld o) s = .next t ∧ Loads s s1 t (.mld o) o e accs lines
        (fun value => (e.th.activeLanes o).map fun l => Mat.val ⟨(shape l).1, (shape l).2, o.ty,
          (accs.filter (fun a => a.lane = l)).map fun a => value a / 2 ^ a.bit % 2 ^ o.ty.bits⟩ (matNo o.dst) l))

/-- R143, R146, R154, R168, R287, R288, R319, R441: when every lane is in bounds, aligned and its lines translate, `st`
stores each active lane's value at its address and `mst` each active lane's matrix. Where two lanes write one byte
the later access stays. Every other byte of memory is as before. In lines that the L1 holds, and in lines that miss and
stand at home only, the core then reads what was stored and every other byte as before. R235, R320: an access made once
for the warp is not made when no lane passes. Model's choice: the lines of one instruction in one step (log entry 7). -/
def Obligations.GlobalStores : Prop :=
  ∀ (s s1 : State) (e : Env) (o : Ops) (accs : List Access) (lines : List (Nat × Nat)),
    s.reachesTo s1 e true accs lines →
    let made := allScalar o = false ∨ e.th.active o ≠ 0
    let r := e.recAt (8 * o.brec)
    let data := fun l => bytesOf (widthOf o.ty) (e.th.regs.raw 0 o.ty l o.dst)
    (s.issues (.st o) o e → ¬ made → Completes s (.st o) o e []) ∧
    (s.issues (.st o) o e → made →
      s.locateAll r true true (widthOf o.ty) (e.elems o data) (allScalar o) (e.th.active o) = .ok accs →
      ∃ t, exec (.st o) s = .next t ∧ Stores s s1 t (.st o) o e (storeBytesOf lines accs)) ∧
    (s.issues (.mst o) o e → r.check true (decide (r.esz = elemBytes o.ty)) = none →
      (∀ l ∈ e.th.activeLanes o, (e.mat o.dst l).ty = o.ty ∧ (o.ty = .e2m1 → (e.mat o.dst l).cols % 2 = 0)) →
      s.locateAll r true true (elemBytes o.ty) ((e.th.activeLanes o).flatMap fun l =>
        matStores o.ty l (e.indices o l).1 (e.indices o l).2 (e.mat o.dst l)) false (e.th.active o) = .ok accs →
      ∃ t, exec (.mst o) s = .next t ∧ Stores s s1 t (.mst o) o e (storeBytesOf lines accs))

/-- R143 to R146, R160 to R162, R400, R441 to R443, R447: the checks of a load or a store come in order: the record, then
the bounds of every lane (BOUNDS 2), then the address of every lane, of 16 bytes either half, then the translation of every
line. The first that fails traps; the lower cause decides; `trap_mask` is the lanes that fail by it, or every lane that passes
when the access is made once for the warp; DETAIL is that of the lowest lane, and of a bounds fault the union. The record is
checked even with no active lane, but for an access made once for the warp, which is then not made (R235, log entry 25). A
walk goes down from PT_ROOT as R160 and R161 have it: it ends in a leaf, or in cause 0x0014 with DETAIL 2 at an invalid entry, 3
at a malformed one, 4 at one that names no frame; a leaf without the rights gives cause 0x0015 with DETAIL 1 to 4; ROUTE sends
the invalid entry and the missing rights to the host. Model's reading: PT_ROOT outside local frames (log entry 77), an entry that
cannot be read and the walker's records (60). -/
def Obligations.AccessTraps : Prop :=
  ∀ (s : State) (e : Env) (o : Ops), allScalar o = false ∨ e.th.active o ≠ 0 →
    let r := e.recAt (8 * o.brec)
    let x := e.word o.a
    let y := fun l => if o.xmod % 2 = 1 then some (e.word o.b l) else none
    let w := widthOf o.ty
    let inside := fun l => match y l with
      | none => x l < r.n0 * r.n1 * r.n2
      | some y => x l < r.n0 ∧ y < r.n1 ∧ 0 < r.n2
    let off := fun l => match y l with
      | none => x l % r.n0 * 2 ^ r.esize + x l / r.n0 % r.n1 * r.s1 + x l / (r.n0 * r.n1) * r.s2
      | some y => x l * 2 ^ r.esize + y * r.s1
    let va := fun l => r.base + swizzle (off l) r.swz
    let high := fun l => 2 ^ 52 ≤ va l ∨ (w = 16 ∧ 2 ^ 52 ≤ r.base + swizzle (off l + 8) r.swz)
    let lanes := fun (bad : Nat → Prop) (mask : DWord) => ∀ b, b < 64 →
      (mask.getLsbD b = true ↔ if allScalar o then (e.th.active o).getLsbD b = true else b ∈ e.actLanes o ∧ bad b)
    let traps := fun i cause (bad : Nat → Prop) detail addr => ∃ mask : DWord, lanes bad mask ∧
      exec i s = .next (s.raise e.tid { s.trapOf cause detail mask with addr := addr })
    ∀ i, (i = .ld o ∨ i = .st o) → s.issues i o e →
    let write := i = .st o
    let record := fun cause detail => exec i s = .next (s.raise e.tid (s.trapOf cause detail (e.th.active o)))
    let short := (1 < r.n1 ∧ r.s1 < r.n0 * 2 ^ r.esize) ∨ (1 < r.n2 ∧ r.s2 < r.s1 * r.n1)
    let plain := r.layout = 0 ∧ r.bounds ≠ 3 ∧ (write → r.rdonly = false)
    (r.layout ≠ 0 → record 0x0011 1) ∧ (r.layout = 0 → r.bounds = 3 → record 0x0011 2) ∧
    (r.layout = 0 → r.bounds ≠ 3 → write → r.rdonly = true → record 0x0011 3) ∧
    (plain → write → short → record 0x0011 4) ∧
    (plain → ¬ (write ∧ short) → r.base % 2 ^ r.esize ≠ 0 → record 0x0012 1) ∧
    (plain → ¬ (write ∧ short) → r.base % 2 ^ r.esize = 0 → (r.s1 % 2 ^ r.esize ≠ 0 ∨ r.s2 % 2 ^ r.esize ≠ 0) →
      record 0x0012 2) ∧
    (r.check (decide write) true = none → r.bounds = 2 → (∃ l ∈ e.actLanes o, ¬ inside l) → ∃ detail : Nat,
      (∀ b, detail.testBit b = true ↔ ∃ l ∈ e.actLanes o, ¬ inside l ∧
        if r.n0 * r.n1 * r.n2 = 0 then b = 2
        else match y l with | none => b = 0 | some y => (b = 0 ∧ r.n0 ≤ x l) ∨ (b = 1 ∧ r.n1 ≤ y)) ∧
      traps i 0x0010 (fun l => ¬ inside l) detail none) ∧
    (r.check (decide write) true = none → (∀ l ∈ e.actLanes o, inside l) →
      (∃ l ∈ e.actLanes o, va l % (if w = 16 then 8 else w) ≠ 0) → ∃ addr,
      traps i 0x0012 (fun l => va l % (if w = 16 then 8 else w) ≠ 0) 3 addr) ∧
    (r.check (decide write) true = none → (∀ l ∈ e.actLanes o, inside l) →
      (∀ l ∈ e.actLanes o, va l % (if w = 16 then 8 else w) = 0) → (∃ l ∈ e.actLanes o, high l) → ∃ addr,
      traps i 0x0014 high 1 addr) ∧
    (∀ accs ok bad s1, s.locateAll r (decide write) true w (e.elems o fun l => if write then
        bytesOf w (e.th.regs.raw 0 o.ty l o.dst) else []) (allScalar o) (e.th.active o) = .ok accs →
      e.th.logged.length < 8 →
      s.reachLines e.blk.core (if write then .w else .r) 0 (linesOf accs) = (some (ok, bad), s1) →
      let trapped := fun f : TFault => f.route = false ∨ s.xlat.route = false
      let fails := fun l f => trapped f ∧ ∃ a ∈ accs, a.lane = l ∧ ∃ p ∈ a.parts, (lineOf p.1, f) ∈ bad
      (∃ l f, fails l f) → ∃ (mask : DWord) (t : TFault) (l0 : Nat) (addr : Option Nat),
        fails l0 t ∧ (∀ l f, fails l f → t.cause ≤ f.cause ∧ (f.cause = t.cause → l0 ≤ l)) ∧
        lanes (fun l => ∃ f, fails l f ∧ f.cause = t.cause) mask ∧
        let told := (bad.filter fun b => b.2.cause = 0x14 ∧ b.2.entry = none ∧ (b.2.route = false ∨ s.xlat.route = false)).foldl
          (fun (s1 : State) b => s1.recordOf (dieOf e.blk.core) e.blk.launch
            { e.ident { code := 0x14, source := 0, addr := some b.1, pc := s.cur.pc } with source := 3 }) s1
        exec i s = .next (told.raise e.tid { s.trapOf t.cause t.detail mask with addr := addr })) ∧
    (∀ core va need f s1, s.translate core va need 0 = (.fault f, s1) → s.walk va = .fault f ∨
      (f.cause = 0x15 ∧ f.route = true ∧ ∃ leaf, s.walk va = .leaf leaf ∧ match need with
        | .r => f.detail = 1 ∧ leaf.r = false
        | .w => f.detail = 2 ∧ leaf.w = false
        | .rw => f.detail = 3 ∧ (leaf.r = false ∨ leaf.w = false)
        | .x => f.detail = 4 ∧ leaf.x = false)) ∧
    (isLocal s.xlat.ptRoot = false → ∀ va, s.walk va = .fault ⟨0x14, 4, false, none⟩) ∧
    (isLocal s.xlat.ptRoot = true → ∀ va,
      (∀ f, s.walk va = .fault f → (∃ ea, f.entry = some ea ∧ f.cause = 0x18 ∧ f.route = false ∧ s.poisoned ea = true) ∨
        (f.entry = none ∧ f.cause = 0x14 ∧ ∃ k x, WalkMeets s va 3 s.xlat.ptRoot k x ∧
          ((x % 2 = 0 ∧ f.detail = 2 ∧ f.route = true) ∨
            (x % 2 = 1 ∧ Malformed k x ∧ f.detail = 3 ∧ f.route = false) ∨
            (x % 2 = 1 ∧ ¬ Malformed k x ∧ ¬ NamesFrame x ∧ f.detail = 4 ∧ f.route = false)))) ∧
      (∀ leaf, s.walk va = .leaf leaf → ∃ k x, WalkMeets s va 3 s.xlat.ptRoot k x ∧ x % 2 = 1 ∧ x / 2 % 2 = 1 ∧
        ¬ Malformed k x ∧ NamesFrame x ∧ leaf.pa = entryAddr x ∧ leaf.size = 2 ^ (levelBits k).1 ∧
        leaf.va = va / leaf.size * leaf.size ∧ leaf.r = decide (x / 4 % 2 = 1) ∧ leaf.w = decide (x / 8 % 2 = 1) ∧
        leaf.x = decide (x / 16 % 2 = 1)))

/-- R148, R149, R321, R322: `lds` reads and `sts` writes scratch at a + b, swizzled, in each active lane, when every
lane is inside the scratch and aligned and no bulk engine owns a row. `sts` writes no other byte of scratch, and
neither touches memory; a lane beyond the scratch traps. R466, R467: `lds` of a poisoned row traps with cause
0x0018, DETAIL 3, and rows that one `sts` writes whole are poisoned no more. Model's reading: the two halves of 16 bytes
are swizzled apart (log entry 74), and the data errors (60). -/
def Obligations.ScratchAccesses : Prop :=
  ∀ (s : State) (e : Env) (o : Ops),
    let w := widthOf o.ty
    let lanes := e.actLanes o
    let at_ := fun l => e.word o.a l + e.word o.b l
    let half := fun l k => swizzle (at_ l + k) (o.xmod % 4)
    let place := fun l i => if w = 16 ∧ 8 ≤ i then half l 8 + (i - 8) else half l 0 + i
    let size := scratchSize e.la.obj e.blk
    let inside := fun l => if w = 16 then half l 0 + 8 ≤ size ∧ half l 8 + 8 ≤ size else half l 0 + w ≤ size
    let ready := ∀ l ∈ lanes, inside l ∧ at_ l % (if w = 16 then 8 else w) = 0 ∧
      ∀ i, i < w → s.rowOwned e.th.block (place l i) = false
    let clean := fun l => ∀ i, i < w → place l i / 64 ∉ e.blk.badRows
    (s.issues (.lds o) o e → ready → (∀ l ∈ lanes, clean l) → Completes s (.lds o) o e (lanes.flatMap fun l =>
      destVals 0 o.ty o.dst l (ofBytes ((List.range w).map fun i => NMap.get 0 e.blk.scratch (place l i))))) ∧
    (s.issues (.sts o) o e → ready → ∃ t th b, exec (.sts o) s = .next t ∧ t.thread e.tid = some th ∧
      Wrote e e.th.regs (.sts o) [] (s.cur.pc + 4 * o.len) th ∧ t.block e.th.block = some b ∧
      b = { e.blk with scratch := b.scratch, badRows := b.badRows } ∧ (∀ r ∈ b.badRows, r ∈ e.blk.badRows) ∧
      (∀ r, (∀ k, k < 64 → ∃ l ∈ lanes, ∃ i, i < w ∧ place l i = 64 * r + k) → r ∉ b.badRows) ∧
      t = { s with threads := t.threads, blocks := t.blocks, nextId := t.nextId } ∧
      (∀ a, (∀ l ∈ lanes, ∀ i, i < w → place l i ≠ a) → NMap.get 0 b.scratch a = NMap.get 0 e.blk.scratch a) ∧
      (∀ l ∈ lanes, (∀ m ∈ lanes, m ≤ l ∨ ∀ i j, i < w → j < w → place m i ≠ place l j) → ∀ i, i < w →
        NMap.get 0 b.scratch (place l i) = (bytesOf w (e.th.regs.raw 0 o.ty l o.dst)).getD i 0)) ∧
    (∀ i l, (i = .lds o ∨ i = .sts o) → s.issues i o e → allScalar o = false → l ∈ lanes → ¬ inside l →
      (∀ m ∈ lanes, m < l → inside m) →
      let top := if w = 16 then max (half l 0 + 8) (half l 8 + 8) else half l 0 + w
      TrapsFor s i e lanes (fun l => ¬ inside l) 0x0013
        (if top ≤ min e.la.obj.scratch (e.blk.maxWindows * 65536) then 2 else 1)) ∧
    (∀ i, (i = .lds o ∨ i = .sts o) → s.issues i o e → allScalar o = false → (∀ l ∈ lanes, inside l) →
      (∃ l ∈ lanes, at_ l % (if w = 16 then 8 else w) ≠ 0) →
      TrapsFor s i e lanes (fun l => at_ l % (if w = 16 then 8 else w) ≠ 0) 0x0012 3) ∧
    (s.issues (.lds o) o e → allScalar o = false → ready → (∃ l ∈ lanes, ¬ clean l) →
      TrapsFor s (.lds o) e lanes (fun l => ¬ clean l) 0x0018 3)

/-! ### Atomics, phases and cache control -/

/-- R176, R177, R323 to R325: an atomic whose lanes are located and translate becomes one request, behind the release of
its ordering qualifier: the lanes with their addresses and operands, its destination when it returns. The
instruction completes, and the value that it returns is pending. One with no address to reach, every lane being out of bounds,
inactive or, made once for the warp, none passing (R235, R320), performs its ordering alone, an acquire after the thread's
earlier accesses, and returns zero in the active lanes. -/
def Obligations.AtomicsIssue : Prop :=
  ∀ (s s1 : State) (e : Env) (o : Ops) (k : AtomOp) (i : Instr) (accs : List Access) (lines : List (Nat × Nat)),
    (k, i) ∈ [(.add, .atomAdd o), (.fadd, .atomFadd o), (.min, .atomMin o), (.max, .atomMax o), (.and, .atomAnd o),
      (.or, .atomOr o), (.xor, .atomXor o), (.xchg, .atomXchg o), (.cas, .atomCas o)] →
    s.issues i o e → s.host.testMode = false → e.th.log = [] → e.th.pair = none →
    let els : List Elem := (e.actLanes o).map fun l => { lane := l, elem := 0, x := e.word o.a l, y := none }
    let made := allScalar o = false ∨ e.th.active o ≠ 0
    (made → s.locateAll (e.recAt (8 * o.brec)) true true (widthOf o.ty) els (allScalar o) (e.th.active o) = .ok accs) →
    (¬ made → accs = []) →
    let scope := PhaseScope.ofCode (o.extra / 8 % 4)
    let releases := o.extra.testBit 5
    let returns := o.xmod % 2 = 1
    (releases = true → s.canRelease e scope = true) →
    let zeros := accs.flatMap fun a => destVals 0 o.ty o.dst a.lane 0
    let passed := fun (t : State) (th : Thread) => exec i s = .next t ∧ t.thread e.tid = some th ∧
      th.pc = s.cur.pc + 4 * o.len ∧ th.wait = .ready ∧ th.regs = e.th.regs
    (linesOf accs = [] → (o.extra.testBit 6 = true → s.performed e = true) → ∃ t th, passed t th ∧
      t.mem = (if releases then s.release e scope else s).mem ∧ t.reqs = s.reqs ∧
      (o.extra.testBit 6 = true → Acquired t e.blk.core scope) ∧
      (returns → zeros ≠ [] → ∃ p, th.pend = e.th.pend ++ [p] ∧ p.known = true ∧ p.vals = zeros) ∧
      (¬ returns → th.pend = e.th.pend)) ∧
    (linesOf accs ≠ [] → s.reachLines e.blk.core .rw 0 (linesOf accs) = (some (lines, []), s1) →
      ∃ t th q, passed t th ∧ t.mem = (if releases then s1.release e scope else s1).mem ∧ t.reqs = s.reqs ++ [q] ∧
        q.kind = k ∧ q.ty = o.ty ∧ q.tid = e.tid ∧ q.bad = [] ∧ q.gated = false ∧ q.sat = o.sat ∧ q.hint = o.hint ∧
        q.fpmode = e.th.regs.fpmode ∧ (q.acq = if o.extra.testBit 6 then some scope else none) ∧
        q.lanes.map (fun l => (l.lane, l.va)) = accs.filterMap (fun a => a.va.map fun va => (a.lane, va)) ∧
        (∀ l ∈ q.lanes, l.pa = (lineAt lines l.va).map (· + l.va % 64) ∧
          (k ≠ .cas → l.arg = BitVec.ofNat 64 (e.th.regs.raw 0 o.ty l.lane o.b)) ∧
          (∀ n, k = .cas → o.ty.bits = 32 → o.b = .v n → l.arg = BitVec.ofNat 64 (e.th.regs.raw 0 .b32 l.lane (.v n)) ∧
            l.arg2 = BitVec.ofNat 64 (e.th.regs.raw 0 .b32 l.lane (.v (n + 1))))) ∧
        (returns → q.dest = some o.dst ∧ ∃ p, th.pend = e.th.pend ++ [p] ∧ p.op = q.op ∧ p.known = false) ∧
        (¬ returns → q.dest = none ∧ th.pend = e.th.pend))

/-- R176, R323, R324: ATOMIC_AT_HOME_SLICE performs a lane of a request in one piece: the bytes at its address become
the new value of R323, the old value is kept for the destination, and no other byte changes but to one that a core
had stored there. After the last lane the request is gone, and a destination receives the old values. Each time that
the slice's two units disagree before that counts in MISMATCH. R171, R177: an acquiring request that is behind an earlier
one of its thread stays, with its lanes performed, until that one is complete. FTZ flushes the result of a floating-point
minimum or maximum too (R324). -/
def Obligations.AtomicAtHome : Prop :=
  ∀ (s : State) (r : AtomReq) (l : AtomLane) (pa repeats : Nat), s.settled → s.reqs.find? (fun q => q.op = r.op) = some r →
    s.atomReady r = [(l, pa)] → isRemote pa = false → s.poisoned pa = false → r.twin = none →
    pa % 64 + widthOf r.ty ≤ 64 →
    (∀ c k b, k < 64 → ¬ (s.core c).unwritten (lineOf pa + k) b) →
    let w := widthOf r.ty
    let old := ofBytes (s.homeBytes pa w)
    let a := l.arg.toNat
    let env := FpEnv.ofWord r.fpmode.toNat
    let ty := r.ty
    let new := match r.kind with
      | .add => ty.fit r.sat (ty.value old + ty.value a)
      | .fadd => (fpAdd env ty env.foldMode 0 false false old a).bits
      | .min => if ty.isFloat then env.flush ty (fpMinMax env ty false false old a).bits else if ty.value a < ty.value old then a else old
      | .max => if ty.isFloat then env.flush ty (fpMinMax env ty true false old a).bits else if ty.value old < ty.value a then a else old
      | .and => old &&& a
      | .or => old ||| a
      | .xor => old ^^^ a
      | .xchg => a
      | .cas => if old = a then l.arg2.toNat else old
    let got := r.got ++ [(l.lane, BitVec.ofNat 64 old)]
    let rest := r.lanes.filter fun x => x.lane ≠ l.lane
    let waits := r.acq.isSome = true ∧ ∃ q ∈ s.reqs.takeWhile (fun q => q.op ≠ r.op), q.tid = r.tid
    ∃ t, exec (.atomicAtHomeSlice r.op repeats) s = .next t ∧
      (t.die (homeDie pa)).mismatch = (List.range repeats).foldl (fun w _ => bump w) (s.die (homeDie pa)).mismatch ∧
      (∀ i, i < w → t.homeByte (pa + i) = (bytesOf w new).getD i 0) ∧
      (∀ q, isRemote q = false → (q < pa ∨ pa + w ≤ q) →
        t.homeByte q = s.homeByte q ∨ ∃ c, (s.core c).unwritten q (t.homeByte q)) ∧
      (rest ≠ [] ∨ waits → { r with lanes := rest, got := got } ∈ t.reqs) ∧
      (rest = [] → ¬ waits → (∀ q ∈ t.reqs, q.op ≠ r.op) ∧ (r.bad = [] → ∀ e d, s.envOf r.tid = some e → r.dest = some d →
        ∃ th, t.thread r.tid = some th ∧ th.regs = e.th.regs ∧ th.pend = e.th.pend.map fun p =>
          if p.op = r.op then { p with vals := got.flatMap (fun x => destVals 0 ty d x.1 x.2.toNat), known := true } else p))

/-- R184, R327: `fence.code` discards the core's instruction cache and every block fetched by a thread of the core and not yet
issued from, and changes no register, flag or memory. R169, R171, R326, R328: once the earlier accesses of its thread have been
performed, `phase.rel` performs the bytes that the core has stored at their homes, `phase.acq` discards the core's clean bytes,
and `phase.ar` does both, at the scope in HINT. `cachectl` changes no register and no byte of memory but to one that some core
had stored there. `pf1` leaves a line that was at home only in the L1, whole, and `pf2` a local line in the L2 of its
home; `inv` discards the lines without dirty bytes from the core's L1, and changes no other line and no memory. R397, R490: of a
prefetched line that cannot be read, or that a link which is down leads to, nothing is kept, and the agent that refused it records
that. Model's reading: log entries 31 and 60. -/
def Obligations.PhasesAndCacheControl : Prop :=
  (∀ (s : State) (e : Env) (o : Ops), s.issues (.fenceCode o) o e →
      let here := fun (th : Thread) => (s.block th.block).any (fun b => decide (b.core = e.blk.core))
      ∃ t th, exec (.fenceCode o) s = .next t ∧ t.thread e.tid = some th ∧ th.pc = s.cur.pc + 4 * o.len ∧
        th.regs = e.th.regs ∧ th.flags = e.th.flags ∧ th.fetched = none ∧ t.mem = s.mem ∧
        (t.core e.blk.core).icache = [] ∧ (∀ c, c ≠ e.blk.core → t.core c = s.core c) ∧
        (∀ u, u ≠ e.tid → t.thread u = (s.thread u).map fun th =>
          if here th then { th with fetched := th.fetched.filter (·.2.2) } else th)) ∧
  (∀ (s s1 : State) (e : Env) (o : Ops) (l : Nat × Nat) (bad : List (Nat × TFault)), s.host.testMode = false →
      let core := e.blk.core
      let about := e.ident { code := 0x18, source := 0, physical := true, addr := some l.2, pc := s.cur.pc }
      let told := s1.recordOf (homeDie l.2) e.blk.launch { about with source := if isRemote l.2 then 7 else 4 }
      s.reachLines core .r 0 (e.controlLines o) = (some ([l], bad), s1) → s.linesWait core [l] = false →
      (s.issues (.cachectlPf1 o) o e → s1.loadHit core l.2 64 = false → s1.poisoned l.2 = true ∨ s1.linkDown l.2 = true →
        ∃ t, exec (.cachectlPf1 o) s = .next t ∧ OnlyThread told t e.tid) ∧
      (s.issues (.cachectlPf2 o) o e → s1.linkDown l.2 = true →
        ∃ t, exec (.cachectlPf2 o) s = .next t ∧ OnlyThread told t e.tid)) ∧
  (∀ (s : State) (e : Env) (o : Ops), s.settled → s.host.testMode = false →
      let scope := PhaseScope.ofCode o.hint
      let core := e.blk.core
      let free := s.canRelease e scope = true ∧ e.uncommitted = false
      let done := fun i (P : State → Prop) => s.issues i o e → ∃ t, exec i s = .next t ∧ Passed s t o e ∧ P t ∧
        (∀ u, u ≠ e.tid → t.thread u = s.thread u)
      let control := fun i (P : List (Nat × Nat) → State → State → Prop) => ∀ lines bad s1,
        s.reachLines core .r 0 (e.controlLines o) = (some (lines, bad), s1) → s.linesWait core lines = false →
        done i fun t => P lines s1 t ∧ ((∀ l ∈ lines, s1.poisoned l.2 = false) → ∀ pa, isRemote pa = false →
          t.homeByte pa = s.homeByte pa ∨ ∃ c, (s.core c).unwritten pa (t.homeByte pa))
      (free → done (.phaseRel o) fun t => Released s t core scope ∧ ∀ c, c ≠ core → t.core c = s.core c) ∧
      (s.performed e = true → e.uncommitted = false →
        done (.phaseAcq o) fun t => Acquired t core scope ∧ t.mem = s.mem ∧ t.peer = s.peer ∧ ∀ c, c ≠ core → t.core c = s.core c) ∧
      (free → done (.phaseAr o) fun t => Released s t core scope ∧ Acquired t core scope) ∧
      control (.cachectlPf1 o) (fun lines s1 t => s1.settled →
        (∀ l ∈ lines, l.2 % 64 = 0 ∧ s1.poisoned l.2 = false ∧
          (s1.loadHit core l.2 64 = true ∨ s1.freshLine core lines.length l.2)) →
        ∀ l ∈ lines, t.loadHit core l.2 64 = true ∧ ∀ k, k < 64 → t.seenByte core (l.2 + k) = s1.seenByte core (l.2 + k)) ∧
      control (.cachectlPf2 o) (fun lines _ t => ∀ l, lines.getLast? = some l → isRemote l.2 = false →
        ∃ p ∈ (t.die (homeDie l.2)).l2, p.1 = l.2 / 256) ∧
      control (.cachectlInv o) (fun lines s1 t => t.mem = s.mem ∧ t.peer = s.peer ∧
        (∀ l ∈ lines, (t.core core).line l.2 = ((s1.core core).line l.2).filter (fun x => decide (x.dirty ≠ []))) ∧
        (∀ pa, (∀ l ∈ lines, lineOf l.2 ≠ lineOf pa) → (t.core core).line pa = (s1.core core).line pa) ∧
        ∀ c, c ≠ core → t.core c = s1.core c))

/-- R89, R152, R153, R329: the last member of a block to arrive at a `bankcfg` leaves its conversion pending, and every
live member goes on, its status yet to come. BANK_SWITCH then gives status 2 when the source mode has no bank, 1 when the core
has too few banks, 3 when the highest FIFO bank holds a ring, and 0 otherwise, and only with status 0 moves one bank from one
mode to the other; every member receives the status. Model's reading: the order of the status values (log entry 66), and
rendezvous (18). -/
def Obligations.BankConversions : Prop :=
  (∀ (s : State) (e : Env) (o : Ops), o.scope = .block → s.arrives (.bankcfg o) o e 256 0 e.blk.warps →
    e.blk.switch = none →
    ∃ t b ops, exec (.bankcfg o) s = .next t ∧ t.mem = s.mem ∧ (∀ u, u ∉ e.blk.warps → t.thread u = s.thread u) ∧
      t.block e.th.block = some b ∧ b.switch = some (o.xmod, o.dst, ops) ∧ b.windows = e.blk.windows ∧
      b.fifoBanks = e.blk.fifoBanks ∧ b.cacheCount = e.blk.cacheCount ∧ b.scratch = e.blk.scratch ∧
      b.rends.find? (fun r => r.set = 256) = none ∧ ops.map (·.1) = s.liveMembers e.blk e.la.obj 256 ∧
      ∀ m f, s.envOf m = some f → m ∈ e.blk.warps → f.th.live = true → ∃ th op, (m, op) ∈ ops ∧ t.thread m = some th ∧
        th.pc = s.cur.pc + 4 * o.len ∧ th.wait = .ready ∧ th.regs = f.th.regs ∧
        ∃ p, th.pend = f.th.pend ++ [p] ∧ p.op = op ∧ p.known = false) ∧
  (∀ (s : State) (id : Nat) (b : Block) (code : Nat) (d : Opd) (ops : List (Nat × Nat)), s.block id = some b →
    b.switch = some (code, d, ops) → s.switchReady id b = true →
    let src := (bankModes code).1
    let dst := (bankModes code).2
    let empty : Bool := match src with
      | .cache => decide (s.ways b.core = 0) | .scratch => decide (b.windows = 0) | .fifo => decide (b.fifoBanks = 0)
    let tight := 24 < bankSum ((s.blocksOn b.core).map fun p => if p.1 = id then b.converted code else p.2)
    let status := if empty then 2 else if tight then 1 else if src = .fifo ∧ s.bankHoldsRing b = true then 3 else 0
    ∃ t b', exec (.bankSwitch id) s = .next t ∧ t.block id = some b' ∧ b'.switch = none ∧
      (status ≠ 0 → b'.windows = b.windows ∧ b'.fifoBanks = b.fifoBanks ∧ b'.cacheCount = b.cacheCount ∧
        b'.scratch = b.scratch) ∧
      (status = 0 → src = .scratch → b'.windows + 1 = b.windows ∧
        ∀ a, NMap.get 0 b'.scratch a ≠ 0 → a < b'.windows * 65536) ∧
      (status = 0 → dst = .scratch → b'.windows = b.windows + 1 ∧ b'.scratch = b.scratch) ∧
      (status = 0 → src = .fifo → b'.fifoBanks + 1 = b.fifoBanks) ∧
      (status = 0 → dst = .fifo → b'.fifoBanks = b.fifoBanks + 1) ∧
      (status = 0 → b'.cacheCount = if src = .cache then b.cacheCount - 1 else if dst = .cache then b.cacheCount + 1
        else b.cacheCount) ∧
      (∀ tid th op, (tid, op) ∈ ops → (ops.map (·.1)).Nodup → s.thread tid = some th → ∃ th', t.thread tid = some th' ∧
        th'.pend = th.pend.map fun p => if p.op = op then { p with vals := statusVals d status, known := true } else p))

/-! ### Bulk commands -/

/-- R106, R179, R331 to R337: a copy whose records pass and whose lines translate becomes a command that owns the lines
and rows it writes, and keeps its flag busy, or joins the open batch. `bseal` closes the batch onto a flag.
BULK_COMMAND_COMPLETION writes to each place the value that its source had at issue or has then, in the core, at its home or as
a core has stored it, clears the flag and ends the ownership; no other byte of scratch changes, and none of memory but to one
that some core had stored there. `bwait` and `bjoin` wait for a busy flag and pass a clear one; `bwait` discards the core's filled
copies of the lines that the commands on the flag wrote (R180), and keeps what the core has stored. Of a flag that a failed command
left behind both raise the failure, which stands until its trap is taken (R418, R428); `bread` opens its bursts and keeps its flag busy. Model's choice: a command in one step (log
entry 8), the order of its checks (28, 29), and what a flag keeps (16). -/
def Obligations.BulkCommands : Prop :=
  (∀ (s sa sb : State) (e : Env) (o : Ops) (i : Instr) (c : CopyOp) (ok1 ok2 : List (Nat × Nat)),
    (i, c) ∈ [(.bcopy o, e.copyOp o false false), (.bcopyMc o, e.copyOp o false true), (.bput o, e.copyOp o true false)] →
    s.issues i o e → e.th.log = [] → e.th.pair = none → e.th.busy o.flag = false → s.storeQueue e.blk.core < 16 →
    c.capture = none → c.empty = false → c.fault e.la.obj e.blk = none →
    let moves := lastMoves c.moves
    let rd := (moves.filterMap fun m => m.src.line).eraseDups
    let wr := (moves.filterMap fun m => m.dst.line).eraseDups
    (∀ m ∈ moves, ∀ va, (m.src = .global va ∨ m.dst = .global va) → va < 2 ^ 52) →
    s.atomsOn e.tid (rd ++ wr) = false →
    { s with nextId := s.nextId + 1 }.reachLines e.blk.core .r 0 rd = (some (ok1, []), sa) →
    sa.reachLines e.blk.core .w 0 wr = (some (ok2, []), sb) →
    ∃ t th cmd, exec i s = .next t ∧ t.thread e.tid = some th ∧ th.pc = s.cur.pc + 4 * o.len ∧ th.wait = .ready ∧
      th.regs = e.th.regs ∧ t.mem = s.mem ∧ t.cmds = s.cmds ++ [cmd] ∧ cmd.tid = e.tid ∧ cmd.waits = [] ∧
      cmd.fail = none ∧ cmd.moves.map (fun m => (m.dst, m.src)) = moves.map (fun m => (m.dst, m.src)) ∧
      (∀ p ∈ ok2, t.owned p.2 = true) ∧
      (s.cmds = [] → (∀ p ∈ ok1, isRemote p.2 = false) → ∀ m ∈ cmd.moves,
        m.old = some (sb.placeByte e.tid e.blk.core e.th.block (ok1 ++ ok2) m.src)) ∧
      (o.flag < 12 → cmd.flag = some o.flag ∧ th.flags = e.th.flags ++ [(o.flag, cmd.op)] ∧ th.batch = e.th.batch) ∧
      (¬ o.flag < 12 → cmd.flag = none ∧ th.flags = e.th.flags ∧ th.batch = e.th.batch ++ [cmd.op])) ∧
  (∀ (s : State) (e : Env) (o : Ops) (f : Nat), o.dst = .f f → e.th.busy f = false → s.issues (.bseal o) o e →
    ∃ t th, exec (.bseal o) s = .next t ∧ t.thread e.tid = some th ∧ th.pc = s.cur.pc + 4 * o.len ∧ th.batch = [] ∧
      th.flags = e.th.flags ++ e.th.batch.map (fun op => (f, op)) ∧ th.regs = e.th.regs ∧ t.mem = s.mem) ∧
  (∀ (s : State) (c : BulkCmd), s.cmds.find? (fun q => q.op = c.op) = some c → s.bulkReady c = true → c.fail = none →
    c.dry = false → s.recs = [] → s.settled → (∀ m ∈ c.moves, s.bulkBad c m = none) →
    (∀ pa b, ¬ (s.core c.core).unwritten pa b) → (∀ m ∈ c.moves, ∀ x ∈ c.moves, m.src ≠ x.dst) →
    c.moves.Pairwise (fun m x => m.dst ≠ x.dst) →
    let at_ := fun va => (lineAt c.map va).map (· + va % 64)
    (∀ m ∈ c.moves, ∀ x ∈ c.moves, ∀ va vb, m.dst = .global va → x.dst = .global vb →
      (at_ va).isSome = true ∧ (at_ va = at_ vb → va = vb)) →
    (∀ m ∈ c.moves, ∀ va, m.src = .global va → ∀ pa, at_ va = some pa → isRemote pa = false) →
    (∀ m ∈ c.moves, ∀ off, m.dst = .scratch off → off / 64 ∈ c.rows ∧ (s.block c.block).isSome = true) →
    (∀ p ∈ c.map, p.1 % 64 = 0 ∧ p.2 % 64 = 0) →
    (∀ m ∈ c.moves, ∀ va pa, m.dst = .global va → at_ va = some pa → pa / 64 ∈ c.lines) →
    let may := fun (m : ByteMove) b => m.old = some b ∨ b = s.placeByte c.tid c.core c.block c.map m.src ∨
      ∃ va pa, m.src = .global va ∧ at_ va = some pa ∧ (b = s.homeByte pa ∨ ∃ k, (s.core k).unwritten pa b)
    ∃ t, exec (.bulkCommandCompletion c.op) s = .next t ∧ (∀ q ∈ t.cmds, q.op ≠ c.op) ∧
      (∀ m ∈ c.moves, ∀ va pa, m.dst = .global va → at_ va = some pa → may m (t.homeByte pa)) ∧
      (∀ m ∈ c.moves, ∀ off b, m.dst = .scratch off → t.block c.block = some b → may m (NMap.get 0 b.scratch off)) ∧
      (∀ pa, (∀ m ∈ c.moves, ∀ va, m.dst = .global va → at_ va ≠ some pa) → t.homeByte pa = s.homeByte pa ∨
        ∃ k, (s.core k).unwritten pa (t.homeByte pa)) ∧
      (∀ b0 b, s.block c.block = some b0 → t.block c.block = some b → ∀ off, (∀ m ∈ c.moves, m.dst ≠ .scratch off) →
        NMap.get 0 b.scratch off = NMap.get 0 b0.scratch off) ∧
      (∀ th, s.thread c.tid = some th → ∃ th', t.thread c.tid = some th' ∧ th'.regs = th.regs ∧
        th'.flags = if c.flag.isSome ∨ c.op ∈ th.batch then th.flags.filter (fun f => f.2 ≠ c.op) else th.flags)) ∧
  (∀ (s : State) (e : Env) (o : Ops) (f : Nat) (i : Instr), o.a = .f f → (i = .bwait o ∨ i = .bjoin o) → s.issues i o e →
    (e.th.busy f = true → exec i s = .next (s.setThread e.tid { e.th with wait := .stalled })) ∧
    (e.th.busy f = false → e.th.faults.find? (fun x => x.flag = f) = none →
      ∃ t th, exec i s = .next t ∧ Passed s t o e ∧ t.mem = s.mem ∧ t.thread e.tid = some th ∧
        (∀ k, k ≠ e.blk.core → t.core k = s.core k) ∧
        (i = .bjoin o → t.core e.blk.core = s.core e.blk.core ∧ th.dests = e.th.dests) ∧
        (i = .bwait o → th.dests = e.th.dests.filter (fun d => d.flag ≠ f) ∧
          t.core e.blk.core = { s.core e.blk.core with l1 := (t.core e.blk.core).l1 } ∧
          ∀ pa, (t.core e.blk.core).line pa = match (s.core e.blk.core).line pa with
            | none => none
            | some l => if ∃ d ∈ e.th.dests, d.flag = f ∧ lineOf d.line = lineOf pa then
                (if l.dirty = [] then none else some { l with filled := [] }) else some l)) ∧
    (∀ x, e.th.busy f = false → e.th.faults.find? (fun x => x.flag = f) = some x → exec i s = .next
      (s.raise e.tid { s.trapOf x.cause x.detail 0 with word2 := x.word2, word3 := x.word3, flag := some f }))) ∧
  (∀ (s : State) (e : Env) (o : Ops), s.issues (.bread o) o e → s.host.testMode = false → e.th.log = [] →
    e.th.busy o.flag = false → s.loadQueue e.blk.core < 16 →
    let r := e.recAt (8 * o.brec)
    let y := e.bulkWord o.a
    r.check false true = none → r.empty = false → o.imm.toNat ≠ 0 →
    (∀ k, k < o.imm.toNat → r.bounds = 2 → y + k < r.n0 * r.n1 * r.n2) →
    ∃ t th id op b, exec (.bread o) s = .next t ∧ t.thread e.tid = some th ∧ th.pc = s.cur.pc + 4 * o.len ∧
      th.regs = e.th.regs ∧ th.flags = e.th.flags ++ [(o.flag, op)] ∧ t.mem = s.mem ∧ t.bread id = some b ∧
      b.tid = e.tid ∧ b.op = op ∧ b.flag = o.flag ∧ b.handler = o.extra ∧
      b.params = (List.range 16).map (fun i => e.th.regs.scal (e.la.obj.params + i)) ∧
      (b.bursts.map (·.bytes.length)).sum = o.imm.toNat * 2 ^ r.esize ∧
      (∀ x ∈ b.bursts, x.bytes.length ≤ 256 ∧ x.state = .unread))

/-! ### Rings, the page pool and residency -/

/-- R338 to R342, R356, R360, R365: in an unpaired pipeline launch, `rpush` puts one slot behind the ring's tail, zero
in lanes that do not pass, and `rpop` takes the slot at its head when its block is the ring's consumer; `palloc`
takes the oldest free page and `pfree` gives one back; `xres` counts the use of an expert and gives its slot. A
condition that does not hold makes the warp wait, and so do its own earlier accesses that the release or the acquire waits
for. R466: an `rpop` of a poisoned slot traps. Model's reading: log
entries 32, 33, 34 and 60. R171: `rpop` and `palloc` acquire at package scope. R342, R366: an `xres` of an expert that is in no
slot takes the lowest empty slot, or the one of the least used expert, queues the migrations of the expert's frames into it,
and waits, as one does whose expert is on its way or for which no slot is free; when the move is over it writes the slot, with bit
31 set when it had started the move. -/
def Obligations.RingsPoolAndResidency : Prop :=
  ∀ (s : State) (e : Env) (o : Ops) (c n : Nat) (x : PipeCtx), s.host.testMode = false → e.th.pair = none →
    e.la.ctx = some c → s.ctx c = some x → (o.a = .s n ∨ o.a = .none) →
    let num := (e.th.regs.scal n).toNat
    let passed := fun t => ∃ th, t.thread e.tid = some th ∧ th.pc = s.cur.pc + 4 * o.len ∧ th.wait = .ready
    let lane := fun l => if (e.th.active o).getLsbD l then BitVec.ofNat 32 (e.th.regs.raw 0 .b32 l o.b) else 0
    (s.issues (.rpush o) o e → o.a = .s n → ∀ r, x.ring num = some r → 0 < r.slots →
      (s.canRelease e .package = false → exec (.rpush o) s = .next (s.setThread e.tid { e.th with wait := .stalled })) ∧
      (s.canRelease e .package = true → r.used < r.slots → ∃ t y q, exec (.rpush o) s = .next t ∧ passed t ∧ t.mem = (({ s with nextId := s.nextId + 1 } : State).release e .package).mem ∧
        t.ctx c = some y ∧ y.ring num = some q ∧ q.tail = r.tail + 1 ∧ q.head = r.head ∧
        (∀ l, l < 64 → NMap.get 0 q.data (64 * (r.tail.toNat % r.slots) + l) = lane l) ∧
        (∀ k, (k < 64 * (r.tail.toNat % r.slots) ∨ 64 * (r.tail.toNat % r.slots) + 64 ≤ k) →
          NMap.get 0 q.data k = NMap.get 0 r.data k) ∧
        (∀ m, m ≠ num → y.ring m = x.ring m) ∧
        (∀ th, t.thread e.tid = some th → th.regs = e.th.regs ∧ th.ring = ⟨r.head, r.tail + 1, BitVec.ofNat 32 (r.slots - q.used)⟩)) ∧
      (s.canRelease e .package = true → r.slots ≤ r.used → exec (.rpush o) s = .next (s.setThread e.tid { e.th with wait := .pipe }))) ∧
    (s.issues (.rpop o) o e → o.a = .s n → ∀ r d, x.ring num = some r → o.dst = .v d → r.consumer = e.blk.id →
      (s.performed e = false → exec (.rpop o) s = .next (s.setThread e.tid { e.th with wait := .stalled })) ∧
      (s.performed e = true → r.tail ≠ r.head → r.frontBad = false → ∃ t y q, exec (.rpop o) s = .next t ∧ passed t ∧ t.mem = s.mem ∧
        Acquired t e.blk.core .package ∧ t.ctx c = some y ∧
        y.ring num = some q ∧ q.head = r.head + 1 ∧ q.tail = r.tail ∧ q.data = r.data ∧ (∀ m, m ≠ num → y.ring m = x.ring m) ∧
        (∀ th, t.thread e.tid = some th → th.regs = e.th.regs ∧ (e.th.active o ≠ 0 → ∃ p, th.pend = e.th.pend ++ [p] ∧
          p.known = true ∧ p.vals = ((List.range 64).filter ((e.th.active o).getLsbD ·)).map fun l =>
            .v d l (NMap.get 0 r.data (64 * (r.head.toNat % r.slots) + l))))) ∧
      (s.performed e = true → r.tail ≠ r.head → r.frontBad = true → exec (.rpop o) s =
        .next (s.raise e.tid (s.trapOf 0x0018 3 (e.th.regs.mask 0 &&& laneMask e.th.width)))) ∧
      (s.performed e = true → r.tail = r.head → exec (.rpop o) s = .next (s.setThread e.tid { e.th with wait := .pipe }))) ∧
    (s.issues (.palloc o) o e → ∀ d, o.dst = .s d → s.performed e = true →
      (∀ p rest, x.free = p :: rest → ∃ t y, exec (.palloc o) s = .next t ∧ passed t ∧ t.mem = s.mem ∧
        Acquired t e.blk.core .package ∧ t.ctx c = some y ∧
        y.free = rest ∧ p ∈ y.opened ∧ y.rings = x.rings ∧
        (∀ th, t.thread e.tid = some th → ∃ q, th.pend = e.th.pend ++ [q] ∧ q.known = true ∧
          q.vals = destVals 0 .n64 (.s d) 0 (x.poolBase + 65536 * p))) ∧
      (x.free = [] → exec (.palloc o) s = .next (s.setThread e.tid { e.th with wait := .pool }))) ∧
    (s.issues (.pfree o) o e → ∀ i, e.th.regs.raw 0 .n64 0 o.a = x.poolBase + 65536 * i → i < x.poolPages → i ∉ x.free →
      s.canRelease e .package = true → ∃ t y, exec (.pfree o) s = .next t ∧ passed t ∧
        t.mem = (({ s with nextId := s.nextId + 1 } : State).release e .package).mem ∧ t.ctx c = some y ∧ y.free = x.free ++ [i] ∧ y.opened = x.opened ∧ y.rings = x.rings) ∧
    (s.issues (.xres o) o e → o.a = .s n → ∀ d, o.dst = .s d → x.xres = [] →
      (x.experts.length ≤ num → ∃ t, exec (.xres o) s = .next t ∧ passed t ∧ t.mem = s.mem ∧
        ∀ th, t.thread e.tid = some th → th.regs = Regs.putAll e.th.width e.th.regs [.s d 0xFFFFFFFF]) ∧
      (∀ k, num < x.experts.length → x.xcount ≠ 0 → x.holds.find? (fun p => p.2 = num) = some (k, num) →
        (∀ p ∈ e.th.pend, p.op ≠ s.nextId) → ∃ t y, exec (.xres o) s = .next t ∧ passed t ∧ t.mem = s.mem ∧ t.ctx c = some y ∧
          y.count num = min (x.count num + 1) 0xFFFF ∧ y.holds = x.holds ∧
          ∀ th, t.thread e.tid = some th → th.regs = Regs.putAll e.th.width e.th.regs [.s d (BitVec.ofNat 32 k)]) ∧
      (num < x.experts.length → x.xcount ≠ 0 → x.holds.find? (fun p => p.2 = num) = none → NMap.sorted x.holds = true →
        let coming := ∃ m ∈ x.moving, m.2.1 = num
        let still := fun k => k < x.xcount ∧ ∀ m ∈ x.moving, m.1 ≠ k
        let full := fun k => NMap.find x.holds k ≠ none
        let uses := fun k => x.count ((NMap.find x.holds k).getD 0)
        let waits := fun t y => exec (.xres o) s = .next t ∧ passed t ∧ t.mem = s.mem ∧ t.ctx c = some y ∧
          y.count num = min (x.count num + 1) 0xFFFF ∧ ∃ th p, t.thread e.tid = some th ∧ th.regs = e.th.regs ∧
            th.pend = e.th.pend ++ [p] ∧ p.known = false
        (coming ∨ (∀ k, ¬ still k) → ∃ t y, waits t y ∧ y.holds = x.holds ∧ y.moving = x.moving) ∧
        (∀ k, ¬ coming → still k → (¬ full k ∧ (∀ j, j < k → still j → full j)) ∨
            (∀ j, still j → full j ∧ uses k ≤ uses j ∧ (j < k → uses k < uses j)) →
          x.moves + 1 ≤ 4 * x.xcount ∨ x.thrashed = true → ∃ t y migs, waits t y ∧ y.moves = x.moves + 1 ∧
            y.moving = x.moving ++ [(k, num, migs.length)] ∧ NMap.find y.holds k = none ∧
            (∀ j, j ≠ k → NMap.find y.holds j = NMap.find x.holds j) ∧
            (t.die x.xdie).migs = (s.die x.xdie).migs ++ migs ∧ (∀ g ∈ migs, g.moved = 0 ∧ g.ctx = some c) ∧
            (migs.filter fun g => g.slot.isSome).map (fun g => (g.frame, g.slot)) =
              let (first, n) := x.experts.getD num (0, 0)
              (List.range n).map fun i => (first + i, some (x.xfirst + k * x.xframes + i))))) ∧
    (∀ (k : Nat) (began : Bool) (w : XresWait) (th : Thread) (d : Nat), x.xres = [w] → w.slot = some (k, began) →
      w.twin = none → w.dst = .s d → s.thread w.tid = some th →
      ∃ y th', (s.moveDone c k w.expert).ctx c = some y ∧ NMap.find y.holds k = some w.expert ∧ y.xres = [] ∧
        (s.moveDone c k w.expert).thread w.tid = some th' ∧ th'.pend = th.pend.filter (fun p => p.op ≠ w.op) ∧
        th'.regs = Regs.putAll th.width th.regs [.s d (BitVec.ofNat 32 (if began = true then k + 2 ^ 31 else k))])

/-! ### The part's own steps -/

/-- R92, R112, R218: with compute enabled and nothing held back, ISSUE_CHOICE advances the clock by one, gives every port free
again, and lets the threads that can issue be tried in the order of R92 (StepRunsDecoded says which issue): those that
are live and do not stop, restart or wait on the host, a rendezvous or a trap, and whose idle cycles are over. R106, R220: a
result that has arrived, and whose registers no earlier result is for, is written, and its flags clear. R398, R402: a trap held
back is taken once the thread has drained. Model's choice: the order of steps (log entry 5), threads held back (22), and
when a deadlock is found (39). -/
def Obligations.IssueChoicesAndResults : Prop :=
  (∀ s : State, s.host.computeEn = true → s.undisturbed → ∃ t queue, exec .issueChoice s = .next t ∧
    t.clock = s.clock + 1 ∧ t.mem = s.mem ∧ t.peer = s.peer ∧ t.taken = [] ∧ t.issueQ = s.issueQ ++ queue ∧
    (∀ u, u ∈ queue ↔ ∃ e, s.envOf u = some e ∧ e.th.live = true ∧ ¬ (e.blk.stopping = true ∧ e.th.isWarp = true) ∧
      e.th.held = none ∧ e.th.restarts = false ∧ e.th.exited = false ∧ e.th.fetchWait = none ∧ e.th.spillWait = none ∧
      e.th.idle = 0 ∧ ∀ n, e.th.wait ≠ .rendezvous n) ∧ queue.Nodup ∧
    queue.Pairwise (fun u v => ∀ e f, s.envOf u = some e → s.envOf v = some f → keysBefore f.bid.keys e.bid.keys = false) ∧
    (∀ u, t.thread u = (s.thread u).map fun th => { th with idle := th.idle - 1 })) ∧
  (∀ (s : State) (tid idx : Nat) (th : Thread) (p : Pending), s.thread tid = some th → th.pend[idx]? = some p →
    p.known = true → (∀ q ∈ th.pend.take idx, ∀ r ∈ q.regs, r ∉ p.regs) →
    ∃ t th', exec (.resultWrite tid idx) s = .next t ∧ OnlyThread s t tid ∧ t.thread tid = some th' ∧
      th'.regs = Regs.putAll th.width th.regs p.vals ∧
      (∀ q, q ∈ th'.pend ↔ q ∈ th.pend ∧ q.op ≠ p.op) ∧ (∀ f, f ∈ th'.flags ↔ f ∈ th.flags ∧ f.2 ≠ p.op) ∧
      th' = { th with regs := th'.regs, pend := th'.pend, flags := th'.flags, pair := th'.pair } ∧
      (th.pair = none → th'.pair = none)) ∧
  (∀ (s : State) (tid pc : Nat) (e : Env) (r : Trap), s.envOf tid = some e → e.th.isWarp = true →
    e.th.handler = false → e.th.held = some r → e.th.pend = [] → e.th.log = [] → e.th.flags = [] → e.th.restarts = false → r.next = false →
    (e.la.obj.traps.find? (fun p => p.1 = r.cause)).map (·.2) = some pc → r.cause < 2 ^ 16 →
    ∃ t th, exec (.trapEntry tid) s = .next t ∧ OnlyThread s t tid ∧ t.thread tid = some th ∧ Entered e r pc th)

/-- R79, R369: a doorbell in range sets QTAIL; one that claims more records than the queue has places disables the queue
and is recorded. R80 to R83, R93, R497: the next record of the queue whose turn it is is taken: its place is free
again, a record with a faulty field becomes a launch that ends with status 1 and that field's offset, and a valid
one whose code object loads becomes a launch with all its blocks to place; a record that cannot be read is passed
over and recorded. R84, R85, R422, R497: a launch with no block left to place, saved or resident ends: its
completion word is written, its queue's vector is signalled, its tag is remembered with its status, and it is gone;
no other byte of memory changes. One that is aborted, or has failed blocks, ends with status 5 in the same way, but while a
restart is under way with its abort record and no completion word and no signal (R379). R423: the host's ABORT_TAG starts the abort
of the launch with that tag: its blocks stop, the instructions that its warps have logged are dropped (R420, R453), and nothing else
changes. Model's reading: which accesses wait and which launch a tag names (log entries 44, 46, 47), the abort (42, 50), a restart
(62), and which records are copied to the launch's own ring (21). -/
def Obligations.LaunchesComeAndGo : Prop :=
  ((∀ (s : State) (q : Nat) (tail : Word), s.host.computeEn = true → q < 64 →
      let x := s.queue q
      ((tail - x.head).toNat ≤ 2 ^ x.size →
        exec (.launchQueueDoorbell q tail) s = .next (s.setQueue q { x with tail := tail })) ∧
      (2 ^ x.size < (tail - x.head).toNat → exec (.launchQueueDoorbell q tail) s =
        .next ((s.setQueue q { x with enable := false }).ringRecord 0
          { code := 0x0308, source := 9, info := tail.toNat * 2 ^ 32 + q }))) ∧
    (∀ (s : State) (q : Nat) (words : List Word) (x : Queue) (device : Bool), s.host.computeEn = true → s.turnOf q →
      s.nextRecord q words x device →
      let r := LaunchRecord.ofWords words
      let la := fun obj waiting ending =>
        ({ queue := q, recd := r, obj := obj, paired := ending.isNone && (r.paired || obj.paired),
           restartable := ending.isNone && (r.restartable || obj.restartable),
           interlocked := ending.isNone && (r.interlocked || obj.interlocked), ctx := none, plan := none,
           device := device, waiting := waiting, saved := [], done := 0, failed := false, ending := ending,
           aborting := none, unusable := [] } : Launch)
      let took := fun l => exec (.launchRecordTake q) s =
        .next { (s.setQueue q x).setLaunch s.nextId l with roundAt := q + 1, nextId := s.nextId + 1 }
      (∀ off, off ∈ recordFaults words → (∀ y ∈ recordFaults words, off ≤ y) →
        took (la CodeObj.none [] (some (1, off)))) ∧
      (∀ o, recordFaults words = [] → s.loadObj r.code = .ok o →
        (∀ off, objectFault r o = some off → took (la CodeObj.none [] (some (1, off)))) ∧
        (objectFault r o = none → r.pipeline = false → took (la o (List.range r.blocks) none)))) ∧
    (∀ (s : State) (q bad : Nat), s.host.computeEn = true → s.turnOf q →
      let x := s.queue q
      x.places = [] → s.readVirt (x.base + x.head.toNat % 2 ^ x.size * 128) 128 = .error (some bad) →
      let next := s.setQueue q { x with head := x.head + 1 }
      let taken := fun (t : State) => exec (.launchRecordTake q) s = .next { t.ringRecord 0
        { code := 0x0309, source := 9, addr := some bad } with roundAt := q + 1 }
      (next.refusedAt bad = none → next.walkerRefuses bad = false → taken next) ∧
      (next.refusedAt bad = none → next.walkerRefuses bad = true → taken (next.ringRecord 0
        { code := 0x14, source := 3, addr := some bad })) ∧
      (∀ pa, next.refusedAt bad = some pa → taken (next.ringRecord (homeDie pa)
        { code := 0x18, source := if isRemote pa then 7 else 4, physical := true, addr := some pa })))) ∧
  ((∀ (s : State) (l st d : Nat) (la : Launch) (pas : List Nat), Memory.wf s.mem = true → NMap.sorted s.launches = true →
      s.mailbox.restart = none → s.launch l = some la → la.aborting = none → s.residentOf l = [] → la.saved = [] → la.waiting = [] → la.recd.completion % 8 = 0 →
      s.writableVirt la.recd.completion 8 = .ok pas → st ≠ 5 →
      (la.ending = some (st, d) ∨ (la.ending = none ∧ la.failed = false ∧ st = 0 ∧ d = 0)) →
      ∃ u : State, exec (.launchCompletion l) s = .next u.judge ∧ u.launch l = none ∧
        ofBytes (pas.map u.homeByte) = (la.recd.tag.toNat * 2 ^ 32 + d % 2 ^ 16 * 2 ^ 16 + st) % 2 ^ 64 ∧
        (∀ pa, pa ∉ pas → u.homeByte pa = s.homeByte pa) ∧ la.queue ∈ u.host.pending ∧
        u.ended.head? = some (la.recd.tag, st) ∧
        (s.host.aborting = some la.recd.tag → u.host.aborting = none ∧ u.host.abortDone = la.recd.tag) ∧
        (∀ c, la.ctx = some c → NMap.sorted s.ctxs = true → u.ctx c = none) ∧
        u.threads = s.threads ∧ u.blocks = s.blocks ∧ u.cores = s.cores) ∧
    (∀ (s : State) (l d : Nat) (la : Launch), NMap.sorted s.launches = true → s.mailbox.restart.isSome = true →
      s.launch l = some la → s.residentOf l = [] → la.aborting = some d →
      ∃ u : State, exec (.launchCompletion l) s = .next u.judge ∧ u.launch l = none ∧
        u.ended.head? = some (la.recd.tag, 5) ∧ (∀ v, v < 64 → v ∈ u.host.pending → v ∈ s.host.pending) ∧
        u.mem = (s.recordOf 0 l { code := 0x0410, step := 6, source := 9, tag := la.recd.tag.toNat, info := d }).mem) ∧
    (∀ (s : State) (l d : Nat) (la : Launch), NMap.sorted s.launches = true → s.mailbox.restart = none →
      s.launch l = some la → s.residentOf l = [] →
      (la.aborting = some d ∨ (la.aborting = none ∧ la.ending = none ∧ la.failed = true ∧ la.saved = [] ∧ la.waiting = [])) →
      s.writableVirt la.recd.completion 8 ≠ .error none →
      ∃ u : State, exec (.launchCompletion l) s = .next u.judge ∧ u.launch l = none ∧
        u.ended.head? = some (la.recd.tag, 5) ∧ la.queue ∈ u.host.pending ∧ u.threads = s.threads ∧ u.blocks = s.blocks) ∧
    (∀ (s : State) (tag : Word) (l : Nat) (la : Launch), s.host.computeEn = true → tag ≠ 0 → s.host.aborting = none →
      let kept := fun q : LogEntry => q.atomic || q.held.isSome
      let owed := fun (th : Thread) (p : Pending) => th.log.all fun q => kept q || decide (q.op ≠ p.op)
      s.launches.find? (fun p => p.2.recd.tag = tag) = some (l, la) → s.launch l = some la → la.aborting = none →
      exec (.launchAbort tag) s = .next { s with
        host := { s.host with aborting := some tag }, launches := NMap.put s.launches l { la with aborting := some 6 },
        blocks := s.blocks.map fun p => if p.2.launch = l then (p.1, { p.2 with stopping := true }) else p,
        threads := s.threads.map fun p =>
          if p.2.isWarp = true ∧ (s.block p.2.block).any (fun b => decide (b.launch = l)) = true then
            (p.1, { p.2 with log := p.2.log.filter kept, pend := p.2.pend.filter (owed p.2) })
          else p }) ∧
    (∀ (s : State) (tag : Word), (tag = 0 ∨ (∀ p ∈ s.launches, p.2.recd.tag ≠ tag) ∨ s.host.aborting.isSome = true) →
      exec (.launchAbort tag) s = .next s))

/-- R36, R90, R141: the first candidate, a new block of an unpaired launch, is placed on a core where it fits, of the
preferred die or else the lowest, with the fewest resident blocks, the lowest of these; its warps stand at the entry
with cleared registers; it waits while a page of its tiles cannot be walked, or a release that makes room for its banks has to
wait on each core where it fits. R91, R353: the gang of a pipeline launch is placed whole, with the lowest free context. R94,
R95: the blocks of a victim stop; quiet, they go back to their region starts and are saved. R35, R170: a block that
is over leaves its core, whose stores are performed; R88: its launch, when its producer was aborted and blocks of it are left,
then ends with status 3. Model's choice: which warp entry is taken (log entry 45), what
a save area holds (51), which candidates a candidate that fits nowhere holds back (71); its reading: what placing acquires (47),
the end of a block (48), and what its forced release covers (17). -/
def Obligations.BlocksComeAndGo : Prop :=
  (∀ (s : State) (prio l b : Nat) (rest : List (Nat × Candidate)) (la : Launch),
    s.candidates = (prio, .block l b) :: rest → s.launch l = some la → la.paired = false →
    (∀ v ∈ la.saved, v.block.id ≠ b) → b ∈ la.waiting → la.recd.dieHint < 4 ∨ la.recd.dieHint = 7 →
    let o := la.obj
    let new := Block.fresh l b o
    let first := if la.recd.dieHint = 7 then 0 else la.recd.dieHint
    let rank := fun core : Nat => if core / 100 = first then 0 else core / 100 + 1
    let held := fun core => (s.blocksOn core).length
    s.tilesWait la b = false → (∀ c, c < 400 → s.banksWait new c = false) →
    (∃ c, c < 400 ∧ (s.fits c o new).isSome = true) →
    ∃ t core seats, exec (.blockPlacement l b) s = .next t ∧ core < 400 ∧ s.fits core o new = some seats ∧
      (∀ c, c < 400 → (s.fits c o new).isSome = true → rank core ≤ rank c ∧
        (rank core = rank c → held core < held c ∨ (held core = held c ∧ core ≤ c))) ∧
      t.block s.nextId = some { new with core := core, since := s.clock.toNat,
                                         warps := (List.range o.warps).map (· + s.nextId + 1) } ∧
      (∀ w, w < o.warps → ∃ x th, seats[w]? = some x ∧ t.thread (s.nextId + 1 + w) = some th ∧ th.block = s.nextId ∧
        th.role = .warp w ∧ th.width = o.width ∧ th.pc = o.entry ∧ th.wait = .ready ∧ th.live = true ∧
        th.handler = false ∧ th.quad = x.quad ∧ th.slot = x.slot ∧ th.port = x.port ∧ th.regs.fpmode = o.fpmode ∧
        th.regs.seed = 0 ∧ th.regs.depth = 0 ∧ th.regs.mask 0 = laneMask o.width ∧
        (∀ n, n ≠ 0 → th.regs.mask n = 0) ∧ (∀ n i, th.regs.vec n i = 0) ∧ (∀ n, th.regs.scal n = 0)) ∧
      t.launch l = some { la with waiting := la.waiting.filter (· ≠ b) }) ∧
  (∀ (s : State) (l b : Nat) (la : Launch), s.launch l = some la → la.paired = false → (∀ v ∈ la.saved, v.block.id ≠ b) →
    let new := Block.fresh l b la.obj
    let unwalked := la.recd.producer ≠ 0 ∧ ∃ t ∈ la.recd.tiles b,
      ∃ page ∈ pagesIn (la.recd.tileRange t).1 (la.recd.tileRange t).2, s.walk page = .wait
    let roomless := ∀ c, c < 400 → (s.fits c la.obj new).isSome = true →
      0 < new.windows + new.fifoBanks ∧ s.stagingWaits c (s.core c).l1.length = true
    unwalked ∨ roomless → exec (.blockPlacement l b) s = .next s) ∧
  (∀ (s : State) (prio l : Nat) (rest : List (Nat × Candidate)) (la : Launch) (x : PipeCtx),
    s.candidates = (prio, .gang l) :: rest → s.launch l = some la → la.saved = [] → la.ctx = none → la.plan = some x →
    (s.placeGang l).isSome = true →
    ∃ t c la', exec (.gangPlacement l) s = .next t ∧ c < 4 ∧ s.ctx c = none ∧ (∀ c', c' < c → s.ctx c' ≠ none) ∧
      t.ctx c = some { x with launch := l } ∧ t.launch l = some la' ∧ la'.ctx = some c ∧ la'.waiting = [] ∧
      ∀ id ∈ la.waiting, ∃ n b, t.block n = some b ∧ b.launch = l ∧ b.id = id) ∧
  (∀ (s : State) (l : Nat), (∃ prio, s.candidates = [(prio, .gang l)]) → s.placeGang l = none →
    exec (.gangPlacement l) s = .next s) ∧
  (∀ (s : State) (id : Nat) (b : Block), s.block id = some b → b.stopping = false → s.victim = some id →
    (∀ i ∈ s.together id b, ∀ x la, s.block i = some x → s.launch x.launch = some la → s.saveBad la x.id = none) →
    ∃ t, exec (.preEmption id) s = .next t ∧ t = { s with blocks := t.blocks } ∧
      ∀ i, t.block i = if i ∈ s.together id b then (s.block i).map ({ · with stopping := true }) else s.block i) ∧
  (∀ (s : State) (id : Nat) (b : Block) (la : Launch), s.block id = some b → s.launch b.launch = some la →
    b.stopping = true → la.recd.pipeline = false → b.other = none → b.copy = .only → s.saveReady [id] = true →
    NMap.sorted s.threads = true → NMap.sorted s.blocks = true →
    (∀ w ∈ b.warps, ∃ th, s.thread w = some th ∧ th.block = id ∧ th.pair = none) →
    ∃ (t : State) (la' : Launch) (v : SavedBlock), exec (.preEmption id) s = .next t ∧ t.block id = none ∧ (∀ p ∈ t.threads, p.2.block ≠ id) ∧
      t.launch b.launch = some la' ∧ v ∈ la'.saved ∧ v.block.id = b.id ∧ v.block.scratch = b.scratch ∧
      v.block.windows = b.windows ∧ v.block.fifoBanks = b.fifoBanks ∧ v.warps.length = b.warps.length ∧
      ∀ (k w : Nat) (th : Thread), b.warps[k]? = some w → s.thread w = some th → ∃ th' : Thread, v.warps[k]? = some th' ∧
        (let again := th.live = true ∨ (th.halted = false ∧ th.log ≠ []);
          (again → th'.pc = th.region.start ∧ th'.ended = false) ∧ (¬ again → th'.pc = th.pc ∧ th'.ended = th.ended)) ∧
        th'.halted = th.halted ∧
        th'.pend = [] ∧ th'.flags = [] ∧ th'.handler = false) ∧
  (∀ (s : State) (id : Nat) (b : Block) (la : Launch), s.settled → s.block id = some b → b.other = none →
    s.launch b.launch = some la → s.endReady id = true → NMap.sorted s.blocks = true →
    ∃ t, exec (.blockEnd id) s = .next t ∧ t.block id = none ∧ (∀ p ∈ t.threads, p.2.block ≠ id) ∧
      (∀ u th, s.thread u = some th → th.block ≠ id → NMap.sorted s.threads = true → t.thread u = some th) ∧
      (∀ c, c ≠ b.core → t.core c = s.core c) ∧
      (la.recd.producer = 0 ∨ la.ending.isSome = true ∨ la.aborting.isSome = true ∨ la.recd.blocks ≤ la.done →
        t.launch b.launch = some { la with done := la.done + 1 } ∧ Released s t b.core .system) ∧
      ∃ la', t.launch b.launch = some la' ∧
        la' = { la with done := la.done + 1, ending := la'.ending, waiting := la'.waiting, unusable := la'.unusable } ∧
        (s.producer la = .running → la'.ending = la.ending ∧ la'.waiting = la.waiting) ∧
        (s.producer la = .aborted → la.ending = none → la.aborting = none → la.done < la.recd.blocks →
          la'.ending = some (3, 0) ∧ la'.waiting = []))

/-- R67, R180, R336: a burst whose lines translate and can be read arrives: its bytes are those that its core sees, zero
where the record gives none, and it waits for a sprout slot; no byte of memory changes but to one that a core had
stored. R68, R69: when a slot is free a waiting burst of the block starts its sprout: at the handler, with its bytes
in `v0`, the parameters, masks and burst registers, and every other register zero. R441: a burst with an address at or above 2^52 faults with cause 0x0014. Model's choice: which
burst arrives and which starts a sprout (log entry 52), the sprout's slot (45), and its `rand_seed` (80). -/
def Obligations.BurstsAndSprouts : Prop :=
  (∀ (s s1 : State) (id i : Nat) (br : Bread) (e : Env) (b : Burst) (lines : List (Nat × Nat)), s.bread id = some br →
    s.envOf br.tid = some e → e.th.pair = none → br.bursts[i]? = some b → b.state = .unread → b.waits = [] →
    (∀ va, some va ∈ b.bytes → va < 2 ^ 52) → s.reachLines br.core .r 0 b.linesOf = (some (lines, []), s1) → s1.linesWait br.core lines = false →
    s1.burstBad e.th br.core lines b = none →
    let accs := b.bytes.map fun x => ({ lane := 0, elem := 0, va := x, w := 1, data := [], bit := 0 } : Access)
    ∃ (t : State) (br' : Bread) (b' : Burst) (data : List Byte), exec (.burstArrival id i) s = .next t ∧
      t.bread id = some br' ∧ br'.bursts[i]? = some b' ∧ b'.state = .waiting data ∧ data.length = b.bytes.length ∧
      (∀ j : Nat, j ≠ i → br'.bursts[j]? = br.bursts[j]?) ∧ (∀ u, t.thread u = s.thread u) ∧
      ((∀ l ∈ lines, s1.hits br.core accs l) → br.hint ≠ 3 → t = { s1 with breads := t.breads }) ∧
      Fetches s s1 t br.core accs lines
        (data = b.bytes.map fun x => match x with | some va => s1.byteAt br.core lines va | none => 0)) ∧
  (∀ (s : State) (id i va : Nat) (br : Bread) (e : Env) (b : Burst) (pre post : List Nat), s.bread id = some br →
    s.envOf br.tid = some e → br.bursts[i]? = some b → b.state = .unread → b.waits = [] →
    b.bytes.filterMap (fun x => x) = pre ++ va :: post → (∀ x ∈ pre, x < 2 ^ 52) → 2 ^ 52 ≤ va →
    exec (.burstArrival id i) s = .next (s.bornFaulted id i 0x14 va)) ∧
  (∀ (s : State) (blk : Nat) (k : Block), s.block blk = some k → NMap.sorted s.breads = true →
    s.burstsWaiting blk ≠ [] → s.slotFree blk k.core = true →
    (∀ p ∈ s.breads, p.2.block = blk → (s.envOf p.2.tid).isSome = true) →
    ∃ (t : State) (id i : Nat) (br br' : Bread) (b b' : Burst) (e : Env) (data : List Byte) (th : Thread),
      (id, i) ∈ s.burstsWaiting blk ∧ s.bread id = some br ∧ br.bursts[i]? = some b ∧ b.state = .waiting data ∧
      s.envOf br.tid = some e ∧ exec (.sproutStart blk) s = .next t ∧ t.thread s.nextId = some th ∧
      th.block = br.block ∧ th.role = .sprout id i ∧ th.width = 64 ∧ th.pc = e.la.obj.handlers.getD br.handler 0 ∧
      th.live = true ∧ th.wait = .ready ∧ th.regs.fpmode = br.fpmode ∧ th.regs.seed = br.seed ^^^ BitVec.ofNat 32 i ∧
      th.regs.mask 0 = laneMask 64 ∧ (∀ l, l < 64 → (th.regs.mask 1).getLsbD l = decide (4 * l < data.length)) ∧
      (∀ l, l < 64 → th.regs.vec 0 l = BitVec.ofNat 32 (ofBytes ((data.drop (4 * l)).take 4))) ∧
      (∀ n l, 0 < n → l < 64 → th.regs.vec n l = 0) ∧ (∀ n, th.regs.scal n = br.params.getD n 0) ∧
      th.burst.index = BitVec.ofNat 32 i ∧ th.burst.row = BitVec.ofNat 32 b.row ∧
      th.burst.col = BitVec.ofNat 32 b.col ∧ th.burst.bytes = BitVec.ofNat 32 data.length ∧
      th.burst.last = (if b.last then 1 else 0) ∧
      t.bread id = some br' ∧ br'.bursts[i]? = some b' ∧ b'.state = .running ∧
      (∀ u, u ≠ s.nextId → t.thread u = s.thread u) ∧ t.mem = s.mem ∧ t.peer = s.peer ∧ t.cores = s.cores)

/-- R160, R162, R163, R449: a walk starts with the current stamp; one that ends fills the TLBs of its core and die with
its leaf, in place of entries that overlap it, and a stale one is redone. A shootdown raises SD_GEN and drops the
entries in its range, or all; it completes when no walk is stamped below it. R415, R448: a page answered with
`retry` stalls nothing more, and a logged load of it is performed, but while a release that makes room would wait; R416: a fetch from a page that cannot be resolved
halts its warp. Model's choice: when walks stand (log entry 53); its reading of an unresolvable page: 41 and 43. -/
def Obligations.WalksAndPageFaults : Prop :=
  (∀ (s : State) (core va : Nat), core < 400 → va < 2 ^ 52 →
    let starts := fun r => exec (.pageWalk core va) s = .next (s.modDie (core / 100) fun d => { d with
      walks := d.walks ++ [{ core := core, va := va, stamp := s.xlat.sdGen, epoch := s.xlat.qepoch, result := r }] })
    (∀ e, s.walk va = .leaf e → starts (some e)) ∧ (∀ f, s.walk va = .fault f → f.entry = none → starts none)) ∧
  (∀ (s : State) (die idx : Nat) (w : Walk), (s.die die).walks[idx]? = some w →
    ∃ t, exec (.walkEnd die idx) s = .next t ∧ t.threads = s.threads ∧
      (s.xlat.sdGen ≤ w.stamp ∨ (∃ e, s.walk w.va = .leaf e) → t.mem = s.mem) ∧
      (s.xlat.sdGen ≤ w.stamp → (t.die die).walks = (s.die die).walks.eraseIdx idx ∧
        (w.result = none → t.cores = s.cores ∧ ∀ d, (t.die d).tlb = (s.die d).tlb) ∧
        (∀ e, w.result = some e → ∀ x,
          (x ∈ (t.core w.core).tlb ↔
            x = e ∨ (x ∈ (s.core w.core).tlb ∧ x.covers e.va = false ∧ e.covers x.va = false)) ∧
          (x ∈ (t.die (w.core / 100)).tlb ↔
            x = e ∨ (x ∈ (s.die (w.core / 100)).tlb ∧ x.covers e.va = false ∧ e.covers x.va = false)))) ∧
      (w.stamp < s.xlat.sdGen → ∀ e, s.walk w.va = .leaf e → t.cores = s.cores ∧
        (t.die die).walks = (s.die die).walks.set idx
          { core := w.core, va := w.va, stamp := s.xlat.sdGen, epoch := s.xlat.qepoch, result := some e })) ∧
  (∀ s : State, s.host.computeEn = true → ∃ t, exec .shootdownStart s = .next t ∧
    t = { s with cores := t.cores, dies := t.dies, xlat := t.xlat } ∧ t.xlat.sdGen = s.xlat.sdGen + 1 ∧
    t.xlat.shoots = s.xlat.shoots ++ [s.xlat.sdGen + 1] ∧ t.xlat.sdDone = s.xlat.sdDone ∧
    let hit := fun x : TlbEntry => s.xlat.sdPages = 0 ∨
      (x.va < s.xlat.sdVa + 65536 * s.xlat.sdPages.toNat ∧ s.xlat.sdVa < x.va + x.size)
    (∀ c x, x ∈ (t.core c).tlb ↔ x ∈ (s.core c).tlb ∧ ¬ hit x) ∧ (∀ d x, x ∈ (t.die d).tlb ↔ x ∈ (s.die d).tlb ∧ ¬ hit x) ∧
    (∀ c, (t.core c).l1 = (s.core c).l1) ∧ ∀ d, (t.die d).walks = (s.die d).walks) ∧
  (∀ (s : State) (n : Nat) (rest : List Nat), s.xlat.shoots = n :: rest → exec .shootdownComplete s =
    .next (if ∃ p ∈ s.dies, ∃ w ∈ p.2.walks, w.stamp < n then s
      else { s with xlat := { s.xlat with sdDone := n, shoots := rest } })) ∧
  (∀ s : State, (∀ p ∈ s.threads, p.2.log = [] ∧ p.2.leaving = none) → s.cmds = [] →
    let left := fun w : Option (Nat × Nat) => w.filter fun x => x.1 / 65536 ≠ s.xlat.pfVa / 65536
    ∃ t, exec .pageFaultRetry s = .next t ∧ t.mem = s.mem ∧ t.cores = s.cores ∧ ∀ u th, s.thread u = some th →
      t.thread u = some { th with
        fetchWait := left th.fetchWait, spillWait := left th.spillWait,
        spillAgain := th.spillAgain || decide (left th.spillWait ≠ th.spillWait) }) ∧
  (∀ (s s1 : State) (tid pa : Nat) (e : Env) (q : LogEntry) (w : Waiting), s.envOf tid = some e → e.th.pair = none →
    e.th.log = [q] → q.write = false → q.atomic = false → q.held = none → q.lines = [w] → w.told = false →
    pageOf w.line = s.pfPage → NMap.sorted s.threads = true → (∀ p ∈ s.threads, p.2.leaving = none ∧ (p.1 ≠ tid → p.2.log = [])) →
    s.cmds = [] → s.breads = [] →
    State.reachLines { s with threads := s.threads.map fun p => (p.1, p.2.tell s.pfPage) } e.blk.core .r w.gen [w.line] =
      (some ([(w.line, pa)], []), s1) →
    s1.dataBad e.th e.blk.core [(w.line, pa)] q.acc = [] → s1.stagingWaits e.blk.core 5 = false →
    let inLine := fun va => ∃ a ∈ q.acc, ∃ p ∈ a.parts, p.1 ≤ va ∧ va < p.1 + p.2.1 ∧ lineOf va = w.line
    ∃ (t : State) (th : Thread) (got : NMap Byte), exec .pageFaultRetry s = .next t ∧ t.thread tid = some th ∧
      th.log = [] ∧ th.regs = e.th.regs ∧
      (∀ p ∈ e.th.pend, p.op = q.op → { p with vals := q.dest.vals q.acc got, known := true } ∈ th.pend) ∧
      (s1.hits e.blk.core q.acc (w.line, pa) → ∀ va, inLine va →
        NMap.find got va = some (s1.byteAt e.blk.core [(w.line, pa)] va))) ∧
  (∀ (s : State) (tid va cause : Nat) (e : Env), s.envOf tid = some e → e.th.live = true → e.th.isWarp = true →
    e.th.pair = none → e.th.log = [] → e.th.fetchWait = some (va, cause) → va / 65536 = s.xlat.pfVa / 65536 → NMap.sorted s.threads = true →
    (∀ p ∈ s.threads, p.1 ≠ tid → p.2.log = [] ∧ p.2.fetchWait = none ∧ p.2.spillWait = none) → s.cmds = [] →
    s.breads = [] →
    ∃ t th la, exec .pageFaultUnresolvable s = .next t ∧ t.thread tid = some th ∧ th.halted = true ∧
      th.regs = e.th.regs ∧ t.launch e.blk.launch = some la ∧ la.failed = true ∧
      (e.la.restartable = false → la.aborting.isSome = true))

/-- R182, R453: a push on the quarantine queue takes the next place with the current epoch and opens the next one; a
full queue refuses it, sets OVERRUN and records it. The oldest entry is released once every access in flight is of a
later epoch. Cores that hold bytes of a late entry's epoch release. R158, R159, R452: a migration starts, or is
refused with the RESULT that fits; its lines move one by one, the last of them switches the frame's slot, and one
that cannot be read ends it; GDDR-7's link CRC is retried up to 4 times (R466, R468). R157, R159: TIER_SPLIT changes while
no block is resident and the slots that go are empty; an L2 that has become smaller loses lines. Model's reading: the order of
RESULT and what a failing line poisons (log entry 54), what QDONE counts (55), which lines leave the L2 (73), and that a
release covers the staged and the dirty bytes (17). -/
def Obligations.QuarantineAndTiers : Prop :=
  (∀ (s : State) (n : Word), s.host.computeEn = true → n ≠ 0 →
    (s.xlat.qf.length < 64 → exec (.quarantinePush n) s = .next { s with xlat := { s.xlat with
      qf := s.xlat.qf ++ [(s.xlat.qfFrame, n.toNat, s.xlat.qepoch, s.clock.toNat)], pushed := s.xlat.pushed + 1,
      qepoch := s.xlat.qepoch + 1 } }) ∧
    (64 ≤ s.xlat.qf.length → exec (.quarantinePush n) s = .next (State.ringRecord
      { s with xlat := { s.xlat with overrun := true } } 0
      { code := 0x0202, source := 6, info := n.toNat * 2 ^ 32 + s.xlat.qfFrame }))) ∧
  (∀ (s : State) (frame n tag at_ : Nat) (rest : List (Nat × Nat × Nat × Nat)),
    s.xlat.qf = (frame, n, tag, at_) :: rest →
    (tag < s.xlat.qepoch → (∀ x ∈ s.epochs, tag < x) → exec .quarantineRelease s = .next { s with xlat :=
      { s.xlat with qf := rest, released := s.xlat.released + 1 } }) ∧
    ((∃ x ∈ s.epochs, x ≤ tag) → exec .quarantineRelease s = .next s)) ∧
  (∀ s : State, s.settled → NMap.sorted s.cores = true → (∀ c, s.dirtyOwned c = false) →
    ∃ t, exec .quarantineTimeout s = .next t ∧ OnlyStored s t ∧ t.threads = s.threads ∧ t.xlat = s.xlat ∧ ∀ c,
      ((∃ tag ∈ s.lateTags, (s.core c).holdsOld tag = true) → ∀ pa b, ¬ (t.core c).unwritten pa b) ∧
      ((∀ tag ∈ s.lateTags, (s.core c).holdsOld tag = false) → t.core c = s.core c)) ∧
  (∀ (s : State) (die slot : Nat), s.host.computeEn = true → die < 4 → (s.die die).migs = [] →
    let d := s.die die
    let f := d.migFrame
    let valid := f < 2 ^ 30 ∧ f / 2 ^ 28 = die ∧ f % 2 ^ 28 * 65536 < 96 * 2 ^ 30
    let near := 1024 * (8 - d.l2Units)
    let ends := fun i r => exec i s = .next (s.setDie die { d with result := r })
    let starts := fun i k => exec i s =
      .next (s.setDie die { d with migs := [{ frame := f, slot := k, moved := 0, ctx := none }] })
    (¬ valid → ends (.migrateToSram die slot) 1 ∧ ends (.migrateToGddr7 die) 1) ∧
    (valid → near ≤ slot → ends (.migrateToSram die slot) 3) ∧
    (valid → slot < near → NMap.find d.slots slot = some f → ends (.migrateToSram die slot) 4) ∧
    (∀ g, valid → slot < near → NMap.find d.slots slot = some g → g ≠ f → ends (.migrateToSram die slot) 2) ∧
    (valid → slot < near → NMap.find d.slots slot = none → starts (.migrateToSram die slot) (some slot)) ∧
    (valid → (∀ p ∈ d.slots, p.2 ≠ f) → ends (.migrateToGddr7 die) 4) ∧
    (valid → (∃ p ∈ d.slots, p.2 = f) → starts (.migrateToGddr7 die) none)) ∧
  (∀ (s : State) (die : Nat) (m : Migration) (rest : List Migration), (s.die die).migs = m :: rest → m.ctx = none →
    let gddr := ∀ p ∈ (s.die die).slots, p.2 ≠ m.frame
    ∀ c, let counted : Nat := match c with | .crc n => if gddr then min n 4 else 0 | .corrected => 1 | _ => 0
      let lost := c = .uncorrectable ∨ ∃ n, c = .crc n ∧ 4 < n ∧ gddr
      ∃ t, exec (.migrationLineMove die c) s = .next t ∧
      (t.die die).ceMem.toNat = min ((s.die die).ceMem.toNat + counted) 0xFFFFFFFF ∧
      (¬ lost → t = s.setDie die (t.die die) ∧
        (m.moved < 255 → (t.die die).migs = { m with moved := m.moved + 1 } :: rest ∧
          (t.die die).slots = (s.die die).slots) ∧
        (255 ≤ m.moved → (t.die die).migs = rest ∧ (t.die die).result = 0 ∧
          (∀ k, m.slot = some k → NMap.find (t.die die).slots k = some m.frame) ∧
          (∀ p ∈ (t.die die).slots, p.2 = m.frame → m.slot = some p.1) ∧
          (∀ p ∈ (t.die die).slots, p.2 ≠ m.frame → p ∈ (s.die die).slots))) ∧
      (lost → (t.die die).migs = rest ∧ (t.die die).result = 5 ∧
        (t.die die).slots = (s.die die).slots ∧
        let part := (frameAddr m.frame + 256 * m.moved) / 256 * 4
        (∃ i, i < 4 ∧ (part + i, 4) ∈ t.poison) ∧
        (∀ p ∈ s.poison, p ∈ t.poison ∨ (part ≤ p.1 ∧ p.1 < part + 4 ∧ (p.1, 4) ∈ t.poison)) ∧
        ∀ p ∈ t.poison, p ∈ s.poison ∨ (part ≤ p.1 ∧ p.1 < part + 4 ∧ p.2 = 4))) ∧
  (∀ (s : State) (die : Nat) (val : Word), s.host.computeEn = true → die < 4 →
    let d := s.die die
    let n := val.toNat % 16
    let d' := { d with refused := d.refused && !val.getLsbD 31 }
    let held := (∃ p ∈ d.slots, (8 - n) * 1024 ≤ p.1) ∨ ∃ m ∈ d.migs, ∃ k, m.slot = some k ∧ (8 - n) * 1024 ≤ k
    (1 ≤ n → n ≤ 8 → s.blocks = [] → ¬ held → ∃ t, exec (.tierSplitWrite die val) s = .next t ∧
      (t.die die).l2Units = n ∧ (t.die die).refused = d'.refused ∧ (t.die die).slots = d.slots ∧
      (∀ x ∈ (t.die die).l2, x ∈ d.l2) ∧ (t.die die).l2.length ≤ n * 262144 - 102400 ∧
      (d.l2.length ≤ n * 262144 - 102400 → t = s.setDie die { d' with l2Units := n })) ∧
    (n = 0 ∨ 8 < n ∨ s.blocks ≠ [] ∨ held →
      exec (.tierSplitWrite die val) s = .next (s.setDie die { d' with refused := true })))

/-- R4, R369: while compute is disabled a write of a BAR0 register other than W2_BASE is ignored. R78, R159, R164, R182,
R349, R374, R448: a write of a plain register takes the bits that it has, and changes no other register of its
block. R370, R185: the host reads and writes device memory at its home; an access that names no frame, or reaches beyond the window's 64 GiB (R368), reads ones, or is dropped, with a record. R371: a vector's message leaves when the link is up and its mask bit is clear. R18: the
clock falls by 25 MHz while the module draws more than 2.4 kW and rises otherwise. Model's choice: the clock's floor
of 25 MHz, and that it rises by 25 MHz (log entry 58), the content of a message (57); its reading of an access outside the frames: 56. -/
def Obligations.HostAccesses : Prop :=
  (∀ (s : State) (off : Nat) (val : Word), off < bar4 → off ≠ 0x10 → s.host.computeEn = false →
    exec (.registerWrite off val) s = .next s) ∧
  (∀ (s : State) (off : Nat) (val : Word), s.host.computeEn = true →
    let x := s.xlat
    (∀ mask, (off, mask) ∈ [(0x30000, 0xFFFF0000#32), (0x30004, 0xFFFFF#32), (0x30018, 0xFFFF8000#32), (0x3001C, 0xFFFF#32),
        (0x30204, 0xFFFF0000#32), (0x30208, 0xFFFFF#32)] →
      ∃ t, exec (.registerWrite off val) s = .next t ∧
        t.readReg off = (s.readReg off &&& ~~~mask) ||| (val &&& mask) ∧
        t = { s with xlat := { x with sdVa := t.xlat.sdVa, ptRoot := t.xlat.ptRoot, pfVa := t.xlat.pfVa } } ∧
        ∀ o, o ≠ off → t.readReg o = s.readReg o) ∧
    (∀ mask, (off, mask) ∈ [(0x30008, 0xFFFFFFFF#32), (0x30100, 0x3FFFFFFF#32), (0x30200, 1#32)] →
      ∃ t, exec (.registerWrite off val) s = .next t ∧ t.readReg off = val &&& mask ∧
        t = { s with xlat := { x with sdPages := t.xlat.sdPages, qfFrame := t.xlat.qfFrame, route := t.xlat.route } } ∧
        ∀ o, o ≠ off → t.readReg o = s.readReg o) ∧
    (∀ q, q < 64 → off = 0x10000 + 32 * q + 8 →
      ∃ t, exec (.registerWrite off val) s = .next t ∧
        (t.queue q).enable = val.getLsbD 31 ∧
        (t.queue q).size = (if (s.queue q).enable = true ∨ val.toNat % 32 < 4 ∨ 16 < val.toNat % 32 then (s.queue q).size
          else val.toNat % 32) ∧
        (t.queue q).base = (s.queue q).base ∧ (t.queue q).head = (s.queue q).head ∧ (t.queue q).tail = (s.queue q).tail ∧
        ∀ p, p ≠ q → t.queue p = s.queue p)) ∧
  (∀ (s : State) (off n : Nat),
    let pa := s.host.w2base * 2 ^ 36 + off
    let ones := List.replicate n (0xFF : Byte)
    ∃ t, exec (.hostBar2Read off n) s = .next t ∧
      (s.host.computeEn = false → t = { s with host := { s.host with readData := ones, readUr := false } }) ∧
      (s.host.computeEn = true → (2 ^ 36 < off + n ∨ ∃ i, i < n ∧ isLocal (pa + i) = false) → t.host.readData = ones ∧
        ∃ u, u = s.ringRecord 0 { code := 0x0203, source := 6, physical := true, addr := some pa } ∧ t.mem = u.mem ∧
          t.dies = u.dies) ∧
      (s.host.computeEn = true → off + n ≤ 2 ^ 36 → (∀ i, i < n → isLocal (pa + i) = true ∧ s.owned (pa + i) = false) → s.settled →
        t.host.readData.length = n ∧ t.host.readUr = false ∧ OnlyStored s t ∧
        ((∀ c pa b, ¬ (s.core c).unwritten pa b) → t.mem = s.mem ∧
          ∀ i, i < n → s.poisoned (pa + i) = false → t.host.readData[i]? = some (s.homeByte (pa + i))))) ∧
  (∀ (s : State) (off : Nat) (bytes : List Byte), s.host.computeEn = true →
    let pa := s.host.w2base * 2 ^ 36 + off
    ((2 ^ 36 < off + bytes.length ∨ ∃ i, i < bytes.length ∧ isLocal (pa + i) = false) → exec (.hostBar2Write off bytes) s = .next (s.ringRecord 0
      { code := 0x0203, source := 6, physical := true, addr := some pa })) ∧
    (off + bytes.length ≤ 2 ^ 36 → (∀ i, i < bytes.length → isLocal (pa + i) = true ∧ s.owned (pa + i) = false) → s.settled →
      pa % 64 + bytes.length ≤ 64 →
      ∃ t, exec (.hostBar2Write off bytes) s = .next t ∧ (∀ (i : Nat) b, bytes[i]? = some b → t.homeByte (pa + i) = b) ∧
        ∀ a, a < pa ∨ pa + bytes.length ≤ a → t.homeByte a = s.homeByte a ∨ ∃ c, (s.core c).unwritten a (t.homeByte a))) ∧
  (∀ (s : State) (v : Nat), v ∈ s.host.pending →
    exec (.msixSend v) s = .next (if s.host.pcieUp = true ∧ (NMap.get 0 s.host.msix (4 * v + 3)).getLsbD 0 = false then
      { s with host := { s.host with pending := s.host.pending.filter (· ≠ v) } } else s)) ∧
  (∀ (s : State) (watts : Nat), exec (.clockThrottle watts) s = .next { s with host := { s.host with
    mhz := if 2400 < watts then max 25 (s.host.mhz - 25) else min 800 (s.host.mhz + 25) } })

/-- R365, R459, R466, R467, R363, R486: the frequency counters of a context halve and the mismatch counts of a core fall
by one; a read of storage counts an error that it corrects, fetches a clean L1 line afresh, and poisons what it
cannot correct; the scrub leaves a record of that. A GDDR-7 transfer that fails its CRC is retried up to 4 times, each counted,
and is then uncorrectable. A context that has waited, while the conditions of R363 hold, forces its oldest page with rows,
sealing it and pushing it on its expert's ring; one whose gang stalls is recorded once. Model's choice: a page that
cannot be forced (log entry 59); its reading: a scrubbed line (60), and which records are copied to a launch's ring (21). -/
def Obligations.ClockStepsAndScrub : Prop :=
  (∀ (s : State) (c e : Nat) (x : PipeCtx), s.ctx c = some x → NMap.sorted x.counters = true →
    ∃ t x', exec .residencyCounterHalving s = .next t ∧ t = { s with ctxs := t.ctxs } ∧ t.ctx c = some x' ∧
      NMap.get 0 x'.counters e = NMap.get 0 x.counters e / 2 ∧ x'.moves = 0 ∧ x'.holds = x.holds ∧
      x'.free = x.free ∧ x'.opened = x.opened ∧ x'.rings = x.rings) ∧
  (∀ (s : State) (c k : Nat), NMap.sorted s.cores = true → NMap.sorted (s.core c).counts = true →
    ∃ t, exec .mismatchCountDecay s = .next t ∧ t = { s with cores := t.cores } ∧
      NMap.get 0 (t.core c).counts k = NMap.get 0 (s.core c).counts k - 1 ∧ (t.core c).l1 = (s.core c).l1 ∧
      (t.core c).retired = (s.core c).retired) ∧
  (∀ (s : State) (pa : Nat), isLocal (pa / 64 * 64) = true →
    let die := homeDie (pa / 64 * 64)
    ∀ scrub : Bool, exec (.scrubLine scrub (.home pa) .clean) s = .next s ∧
    exec (.scrubLine scrub (.home pa) .corrected) s = .next (s.modDie die fun d => { d with ceMem := bump d.ceMem }) ∧
    ∃ t, exec (.scrubLine scrub (.home pa) .uncorrectable) s = .next t ∧ t.poisoned pa = true ∧
      (∀ a, a / 64 ≠ pa / 64 → t.poisoned a = s.poisoned a) ∧
      (s.poisoned pa = false → t.poisonDetail pa = if s.inSram pa then 2 else 1) ∧ (t.mem = if scrub then
        (s.ringRecord die { code := 0x0106, source := 4, physical := true, addr := some (pa / 64 * 64) }).mem else s.mem) ∧
      ∀ n, ∃ u, exec (.scrubLine scrub (.home pa) (.crc n)) s = .next u ∧ (s.inSram pa = true → u = s) ∧
        (s.inSram pa = false → (u.die die).ceMem.toNat = min ((s.die die).ceMem.toNat + min n 4) 0xFFFFFFFF ∧
          (n ≤ 4 → u = { s with dies := u.dies }) ∧ (4 < n → u.poisoned pa = true))) ∧
  (∀ (s : State) (core pa : Nat) (l : Line), (s.core core).line pa = some l →
    let inWord := fun k => k / 8 = pa % 64 / 8
    ((∃ k, inWord k ∧ (NMap.find l.dirty k).isSome = true) → ∃ t, exec (.scrubLine false (.l1 core pa) .uncorrectable) s = .next t ∧
      t.dies = s.dies ∧ (t.core core).heldBad pa = some 3 ∧ ∀ k, (t.core core).holds k = (s.core core).holds k) ∧
    ((∀ k, inWord k → NMap.find l.dirty k = none) → s.holdsPending core ((List.range 8).map (pa / 8 * 8 + ·)) = false → ∃ t, exec (.scrubLine false (.l1 core pa) .uncorrectable) s = .next t ∧
      t.mem = s.mem ∧ (t.die (core / 100)).ceMem = bump (s.die (core / 100)).ceMem ∧
      ∀ x, (t.core core).line pa = some x → x.filled = [] ∧ x.dirty = l.dirty)) ∧
  (∀ (s : State) (c p n pa : Nat) (x : PipeCtx) (r : Ring) (rest : List Nat), Memory.wf s.mem = true →
    s.ctx c = some x → x.forceAfter ≤ x.waited → (∃ la, s.launch x.launch = some la ∧ la.waiting = [] ∧ la.saved = []) →
    x.free = [] → (∀ r ∈ x.rings, r.expert.isSome = true → r.used = 0) →
    (∃ u ∈ s.threads, u.2.wait = .pool ∧ ∃ b, (u.2.block, b) ∈ s.blocks ∧ b.launch = x.launch) → x.opened = p :: rest → s.reach (x.poolBase + 65536 * p) .rw = .ok pa → s.poisoned pa = false →
    let old := ofBytes (s.homeBytes pa 4)
    old.testBit 31 = false → old % 2 ^ 16 ≠ 0 → x.bufferRing (old / 2 ^ 16 % 2 ^ 8) = some n → x.rings[n]? = some r →
    ∃ t x', exec (.forcedShortBatch c) s = .next t ∧ ofBytes (t.homeBytes pa 4) = old + 2 ^ 31 ∧
      (∀ a, a < pa ∨ pa + 4 ≤ a → t.homeByte a = s.homeByte a) ∧ t.ctx c = some x' ∧ x'.waited = 0 ∧
      x'.opened = rest.filter (· ≠ p) ∧ x'.free = x.free ∧ (∀ m : Nat, m ≠ n → x'.rings[m]? = x.rings[m]?) ∧
      x'.rings[n]? = some (r.push ([BitVec.ofNat 32 (x.poolBase + 65536 * p),
        BitVec.ofNat 32 ((x.poolBase + 65536 * p) / 2 ^ 32), BitVec.ofNat 32 (old % 2 ^ 16), 1] ++
          List.replicate 60 0))) ∧
  (∀ (s : State) (c : Nat) (x : PipeCtx), s.ctx c = some x → x.waited < x.forceAfter ∨ x.free ≠ [] ∨
    (∃ r ∈ x.rings, r.expert.isSome = true ∧ r.used ≠ 0) ∨ (∀ p ∈ s.blocks, p.2.launch ≠ x.launch) →
    exec (.forcedShortBatch c) s = .next s) ∧
  (∀ (s : State) (c : Nat) (x : PipeCtx) (la : Launch), s.ctx c = some x → s.launch x.launch = some la →
    exec (.pipelineStall c) s = .next (if x.stalled < 2 ^ 24 ∨ x.reported = true then s
      else (s.modCtx c ({ · with reported := true })).recordOf 0 x.launch
        { code := 0x0301, source := 9, tag := la.recd.tag.toNat }))

/-- R456 to R462: a lane or warp instruction of which a compared lane mismatches once, and that then agrees, only counts the
positions of its lanes and of their checkers, but where a retired datapath is still in use; one that mismatches again restarts
its warp's region; a count of 3 retires a position of the slot, with a spare and a restart, or, with both spares in use, a
halt. R464, R465: a corrected register error is counted; an uncorrectable one restarts the region when a restart discards the
word, and halts the warp otherwise. R63: a restart waits for the warp's committed boundaries. R471, R472: the oldest region of a
paired warp commits: its stores are performed once, and both copies forget it, and end after `exit`; a partial commit drops the
entries that match. R476: copies that differ go back to their oldest checkpoint; the third time in a row aborts the launch.
Model's reading: where committed bytes stay and when a commit is due (log entry 49), restarts (40), and retirement (70). -/
def Obligations.SilentErrorsAndCommits : Prop :=
  (∀ (s s1 : State) (tid times : Nat) (e : Env) (i : Instr) (o : Ops) (lanes : DWord) (agrees : Bool) (votes : List Vote),
    s.atNext tid = some (e, .instr i, s1) → i.ops = some o → o.scope.code < 2 → e.th.isWarp = true → e.th.pair = none →
    1 < e.th.width → e.th.port * 16 + e.th.width ≤ 64 → times ≠ 0 →
    let step := exec (.instructionReplay tid lanes times agrees votes) s
    let l := (List.range e.th.width).filter fun k =>
      lanes.getLsbD k && ((e.th.active o).getLsbD k || decide (k = 0 ∧ (allScalar o = true ∨ o.scope ≠ .lane)))
    let core := e.blk.core
    let once := s1.countLanes e [tid] l
    let twice := once.countLanes e [tid] l
    let slot := e.th.quad * 2 + e.th.slot
    let count := fun (s : State) k => NMap.get 0 (s.core core).counts k
    let at_ := fun k => slot * 64 + e.th.port * 16 + k % e.th.width
    let counts := fun k => (s1.core core).onOld e.th.reached (at_ k) = false ∧
      (s1.core core).onOld e.th.reached (at_ (k + 1)) = false
    let full := fun s : State => ∃ k ∈ l, counts k ∧ (3 ≤ count s (at_ k) ∨ 3 ≤ count s (at_ (k + 1)))
    let hit := full once ∨ (full twice ∧ ¬ (times = 1 ∧ agrees = true))
    let spares := ((s1.core core).retired.filter fun p => p.1 / 64 = slot && p.2).length
    let restarts := fun th : Thread => (s1.restartable tid e.th = true → th.pc = e.th.region.start ∧ th.restarts = false) ∧
      (s1.restartable tid e.th = false → th.restarts = true) ∧ th.wait = .ready ∧ th.halted = e.th.halted
    (l = [] → step = .next s) ∧
    (once.threads = s1.threads ∧ once.mem = s1.mem ∧
      (l ≠ [] → (once.die (core / 100)).mismatch = bump (s1.die (core / 100)).mismatch) ∧ ∀ i, l = [i] →
        (counts i → count once (at_ i) = min 7 (count s1 (at_ i) + 1) ∧
          count once (at_ (i + 1)) = min 7 (count s1 (at_ (i + 1)) + 1)) ∧
        (∀ k, (¬ counts i ∨ (k ≠ at_ i ∧ k ≠ at_ (i + 1))) → count once k = count s1 k)) ∧
    (l ≠ [] → ¬ full once → times = 1 → agrees = true → step = .next once) ∧
    (l ≠ [] → ¬ hit → ¬ (times = 1 ∧ agrees = true) → ∃ t th, step = .next t ∧ t.thread tid = some th ∧
      restarts th ∧ (t.die (core / 100)).mismatch = (twice.die (core / 100)).mismatch) ∧
    (l ≠ [] → hit → spares < 2 → ∃ t th pos, step = .next t ∧ t.thread tid = some th ∧ restarts th ∧
      (t.core core).retired = (s1.core core).retired ++ [(slot * 64 + pos, true)] ∧ pos < 64 ∧
      (∀ p ∈ (t.core core).counts, p.1 / 64 ≠ slot) ∧
      (t.die (core / 100)).retired = bump (s1.die (core / 100)).retired) ∧
    (l ≠ [] → hit → 2 ≤ spares → ∃ t th pos, step = .next t ∧ t.thread tid = some th ∧ th.halted = true ∧ pos < 64 ∧
      (t.core core).retired = (s1.core core).retired ++ [(slot * 64 + pos, false)] ∧
      (slot * 4 + pos / 16) ∈ (t.core core).closed)) ∧
  (∀ (s s1 : State) (tid : Nat) (e : Env) (d : Decoded) (w : CheckedWord), s.atNext tid = some (e, d, s1) → e.th.isWarp = true →
    e.th.pair = none →
    exec (.registerErrorCorrection tid w .clean) s = .next s ∧
    exec (.registerErrorCorrection tid w .corrected) s =
      .next (s1.modDie (e.blk.core / 100) fun d => { d with ceReg := bump d.ceReg }) ∧
    ∃ t th, exec (.registerErrorCorrection tid w .uncorrectable) s = .next t ∧ t.thread tid = some th ∧
      (e.discards w = true → th.wait = .ready ∧ th.halted = e.th.halted ∧ (s1.restartable tid e.th = false → th.restarts = true) ∧
        (s1.restartable tid e.th = true → th.pc = e.th.region.start)) ∧
      (e.discards w = false → th.halted = true ∧ ∃ la, t.launch e.blk.launch = some la ∧ la.failed = true)) ∧
  (∀ (s : State) (blk w n va : Nat) (c : Copies) (x : Entry) (bytes : NMap Byte), s.settled →
    s.copiesIn blk w = some c → s.verdict c = .commit → c.p.oldest = some n → c.lead.tid ≠ c.trail.tid →
    c.p.entries.filter (fun y => y.region = n) = [x] → x.work = .store va bytes → x.pa % 64 = 0 → x.bad = false →
    (∀ y ∈ c.q.entries, y.num = x.num → y.bad = false) →
    isRemote x.pa = false → NMap.sorted bytes = true → (∀ p ∈ bytes, p.1 < 64) →
    s.breadOf c.lead.tid n = none → s.breadOf c.trail.tid n = none →
    ∃ (t : State) (a b : Thread) (p q : PairState), exec (.regionCommit blk w) s = .next t ∧
      t.thread c.lead.tid = some a ∧ a.pair = some p ∧ p.checks = c.p.checks.drop 1 ∧ p.rollbacks = 0 ∧
      p.entries = c.p.entries.filter (fun y => y.region ≠ n) ∧ a.regs = c.lead.th.regs ∧
      t.thread c.trail.tid = some b ∧ b.pair = some q ∧ q.checks = c.q.checks.drop 1 ∧ q.rollbacks = 0 ∧
      q.entries = c.q.entries.filter (fun y => y.region ≠ n) ∧ b.regs = c.trail.th.regs ∧
      (c.p.exit.isSome = true → c.p.checks.length ≤ 1 → a.ended = true ∧ b.ended = true) ∧
      (∀ k v, (k, v) ∈ bytes → t.homeByte (x.pa + k) = v) ∧
      ∀ pa, (∀ p ∈ bytes, pa ≠ x.pa + p.1) → t.homeByte pa = s.homeByte pa) ∧
  (∀ (s : State) (blk w : Nat) (c : Copies) (x y : Checkpoint), s.copiesIn blk w = some c → s.verdict c = .roll →
    c.p.leading = true → c.p.peer = c.trail.tid → c.lead.tid ≠ c.trail.tid → c.lead.th.isWarp = true → c.trail.th.isWarp = true →
    c.p.checks.head? = some x → c.q.checks.head? = some y →
    ∃ (t : State) (a b : Thread) (p q : PairState), exec (.regionCommit blk w) s = .next t ∧
      t.thread c.lead.tid = some a ∧ a.pc = x.region.start ∧ a.wait = .ready ∧ a.regs.fpmode = (if x.region.num = 0 then x.regs.fpmode else c.lead.th.regs.fpmode) ∧
      a.pair = some p ∧ p.checks = [x] ∧ p.entries = [] ∧ p.bytes = [] ∧ p.rollbacks = c.p.rollbacks + 1 ∧
      t.thread c.trail.tid = some b ∧ b.pc = y.region.start ∧ b.wait = .ready ∧ b.regs.fpmode = (if y.region.num = 0 then y.regs.fpmode else c.trail.th.regs.fpmode) ∧
      b.pair = some q ∧ q.checks = [y] ∧ q.entries = [] ∧ q.bytes = [] ∧ q.rollbacks = c.q.rollbacks + 1 ∧
      (2 ≤ c.p.rollbacks → ∃ la, t.launch c.lead.blk.launch = some la ∧ la.aborting.isSome = true)) ∧
  (∀ (s : State) (blk w : Nat) (c : Copies), s.copiesIn blk w = some c → s.partialReady c = true →
    c.lead.tid ≠ c.trail.tid → (∀ m ∈ c.matched, ∃ va bytes, m.1.work = .store va bytes) →
    ∃ (t : State) (a b : Thread) (p q : PairState), exec (.partialCommit blk w) s = .next t ∧
      t.thread c.lead.tid = some a ∧ a.pair = some p ∧ p.checks = c.p.checks ∧
      (∀ y, y ∈ p.entries ↔ y ∈ c.p.entries ∧ ∀ m ∈ c.matched, m.1.num ≠ y.num) ∧
      t.thread c.trail.tid = some b ∧ b.pair = some q ∧ q.checks = c.q.checks ∧
      (∀ y, y ∈ q.entries ↔ y ∈ c.q.entries ∧ ∀ m ∈ c.matched, m.1.num ≠ y.num))

/-- R376, R493, R495: a power-up start logs every step, leaves nothing resident and memory empty, and enables compute
exactly when it does not enter the safe state; with nothing failing it passes its five steps. R378, R379: a write of
MB_CMD starts the command that it names. A command that meets another running sets OVERRUN and nothing else; otherwise it runs,
and what it leaves is what R379 gives. A restart aborts every launch, whose blocks stop; once all have ended it makes its start, with
memory as it is, and completes. One that enables compute gives the registers their Reset values; one that fails keeps them.
R371, R378: when it completes the result, MB_LEN and the data buffer show that, and vector 69 is signalled. Model's
choice: what a start finds and leaves (log entries 2, 61 and 62), the clock kept (58); its reading of a command: 63, of step 5: 76. -/
def Obligations.StartsAndCommands : Prop :=
  (∀ (s : State) (r : StartReport), ∃ (t : State) (new : List StartEntry), exec (.startSequence r) s = .next t ∧
    t.threads = [] ∧ t.blocks = [] ∧ t.launches = [] ∧ t.mem = [] ∧ t.mailbox = Mailbox.init ∧
    t.xlat = State.reset.xlat ∧ t.queues = [] ∧ t.host.safe = !t.host.computeEn ∧
    t.ocwick.start = s.ocwick.start + 1 ∧ t.ocwick.log = s.ocwick.log ++ new ∧ t.ocwick.mark = s.ocwick.log.length ∧
    (∀ x ∈ new, x.start = s.ocwick.start + 1) ∧ (∃ x ∈ new, x.step = 5) ∧
    (s.cores = [] → s.ocwick.spared = [] → s.ocwick.positions = [] → s.ocwick.staged = [none, none, none] →
      (∀ i, Config.imageVerifies (imageBytes i (s.ocwick.active.getD i none)) = true) → s.ocwick.pcie = 7 →
      s.ocwick.nertu = List.replicate 8 224 → s.ocwick.gddr = List.replicate 24 48 → r.badCores = [] →
      r.badLanes = [] → r.badUnits = [] → r.badFabric = [] → r.pcieGen = 7 → r.nertuRates = List.replicate 8 224 →
      r.gddrRates = List.replicate 24 48 →
      t.host.computeEn = true ∧ t.host.step = 5 ∧ t.host.pcieUp = true ∧
      new = (List.range 5).map fun k => ⟨s.ocwick.start + 1, k + 1, 0, 0, 0, 0, 0⟩)) ∧
  (∀ (s : State) (i : Instr) (cmd : Byte), s.mailbox.busy = true →
    i ∈ [.readStartLog, .attest, .readIdentityKey, .stageFirmware, .readLostRecordCounters] ∨ (∃ r, i = .restart r) ∨
      (∃ val, i = .registerWrite 0x100000 val) ∨
      (i = .unknownCommand cmd ∧ (cmd = 0 ∨ 6 < cmd.toNat)) →
    exec i s = .next { s with mailbox := { s.mailbox with overrun := true } }) ∧
  (∀ s : State, s.mailbox.busy = false →
    let arg := (List.range s.mailbox.len.toNat).map fun i => NMap.get 0 s.mailbox.buf i
    let runs := fun i cmd n (b : List Byte) => exec i s = .next { s with mailbox := { s.mailbox with
      cmd := cmd, busy := true, out := (n, BitVec.ofNat 32 b.length, b) } }
    (s.mailbox.len = 4 → runs .readStartLog 0x01 0
      (((s.ocwick.log.drop (ofBytes arg)).take 240).flatMap fun x =>
        bytesOf 4 (x.start % 256 * 2 ^ 24 + x.step * 2 ^ 16 + x.outcome * 2 ^ 8 + x.kind) ++ bytesOf 4 x.object.toNat ++
          bytesOf 4 x.value.toNat ++ bytesOf 4 x.reason.toNat)) ∧
    (s.mailbox.len ≠ 4 → runs .readStartLog 0x01 2 []) ∧
    (s.mailbox.len = 32 → ∃ spared, spared.length = 50 ∧
      (∀ c, c < 400 → ((spared.getD (c / 8) 0).getLsbD (c % 8) = (s.core c).spared)) ∧
      let o := s.ocwick
      let report := arg ++ o.measure 0 ++ o.measure 1 ++ o.measure 2 ++
        sha3 ((o.log.drop o.mark).flatMap StartEntry.bytes) ++ [0xC2, 0, 0, 0] ++ spared ++ List.replicate 42 0
      report.length = 256 ∧ runs .attest 0x02 0 (report ++ (List.range 2420).map (Config.signature report))) ∧
    (s.mailbox.len ≠ 32 → runs .attest 0x02 2 []) ∧
    runs .readIdentityKey 0x03 0 ((List.range 1312).map Config.identityKey) ∧
    (3840 < s.mailbox.len.toNat → runs .stageFirmware 0x04 2 []) ∧
    (s.mailbox.len.toNat ≤ 3840 → ∃ t n, exec .stageFirmware s = .next t ∧
      t.mailbox = { s.mailbox with cmd := 0x04, busy := true, out := (n, 0, []) } ∧
      t.ocwick = { s.ocwick with chunk := t.ocwick.chunk, staged := t.ocwick.staged } ∧
      let image := s.ocwick.chunk ++ arg
      ((n = 0 ∧ t.ocwick.chunk = image ∧ t.ocwick.staged = s.ocwick.staged) ∨
        (t.ocwick.chunk = [] ∧ if Config.imageVerifies image then
          n = 0 ∧ ∃ i, i < 3 ∧ t.ocwick.staged = s.ocwick.staged.set i (some image)
          else n = 3 ∧ t.ocwick.staged = s.ocwick.staged))) ∧
    (∀ r, ∃ t, exec (.restart r) s = .next t ∧ t.mailbox = { s.mailbox with
        cmd := 0x05, busy := true, out := (0, 0, []), restart := some r } ∧ t.mem = s.mem ∧ t.cores = s.cores ∧ t.cmds = s.cmds ∧
      t.reqs = s.reqs ∧ t.breads = s.breads ∧ t.host = s.host ∧
      (∀ l la, s.launch l = some la → ∃ d, t.launch l = some { la with aborting := some (la.aborting.getD d) }) ∧
      (∀ b x la, s.block b = some x → s.launch x.launch = some la → la.aborting = none →
        t.block b = some { x with stopping := true })) ∧
    runs .readLostRecordCounters 0x06 0 (bytesOf 4 (s.die 0).lost.toNat ++ bytesOf 4 (s.die 1).lost.toNat ++
      bytesOf 4 (s.die 2).lost.toNat ++ bytesOf 4 (s.die 3).lost.toNat) ∧
    (∀ cmd : Byte, cmd = 0 ∨ 6 < cmd.toNat → runs (.unknownCommand cmd) cmd 1 []) ∧
    (∀ val : Word, let cmd : Byte := val.setWidth 8
      (∀ p ∈ [(1, Instr.readStartLog), (2, .attest), (3, .readIdentityKey), (4, .stageFirmware), (6, .readLostRecordCounters)],
        cmd.toNat = p.1 → exec (.registerWrite 0x100000 val) s = exec p.2 s) ∧
      (cmd = 5 → ∃ r, exec (.registerWrite 0x100000 val) s = exec (.restart r) s) ∧
      (cmd = 0 ∨ 6 < cmd.toNat → exec (.registerWrite 0x100000 val) s = exec (.unknownCommand cmd) s))) ∧
  (∀ (s : State) (r : StartReport), s.mailbox.busy = true → s.mailbox.restart = some r →
    (s.launches ≠ [] → exec .mailboxCommandComplete s = .next s) ∧
    (s.launches = [] → s.mailbox.out = (0, 0, []) → s.recs = [] → ∃ t, exec .mailboxCommandComplete s = .next t ∧
      t.threads = [] ∧ t.blocks = [] ∧ t.launches = [] ∧ t.mem = s.mem ∧ t.peer = s.peer ∧ 69 ∈ t.host.pending ∧
      t.host.safe = !t.host.computeEn ∧ t.host.mhz = s.host.mhz ∧ t.ocwick.start = s.ocwick.start + 1 ∧
      (t.host.computeEn = true → t.queues = [] ∧ t.xlat = State.reset.xlat ∧ t.mailbox = { s.mailbox with
        cmd := 0, overrun := false, result := 0, len := 0, busy := false, restart := none }) ∧
      (t.host.computeEn = false → t.queues = s.queues ∧ t.xlat = s.xlat ∧ t.host.w2base = s.host.w2base ∧
        t.host.msix = s.host.msix ∧ t.mailbox = { s.mailbox with result := 0, len := 0, busy := false, restart := none }))) ∧
  (∀ (s : State) (n : Nat) (len : Word) (b : List Byte), s.mailbox.busy = true → s.mailbox.restart = none →
    s.mailbox.out = (n, len, b) → ∃ t, exec .mailboxCommandComplete s = .next t ∧ t.mailbox.busy = false ∧ t.mailbox.result = n ∧
      t.mailbox.len = len ∧ t.mailbox.cmd = s.mailbox.cmd ∧ t.mailbox.overrun = s.mailbox.overrun ∧
      (∀ i, NMap.get 0 t.mailbox.buf i = (b[i]?).getD (NMap.get 0 s.mailbox.buf i)) ∧ 69 ∈ t.host.pending ∧
      t = { s with mailbox := t.mailbox, host := { s.host with pending := t.host.pending } })

/-- R372, R394: an error record goes to the next place of its die's ring and signals the die's vector; a full ring, or
one of size 0, only counts it. R179: it waits while a bulk command owns its place, and behind an earlier one that waits. R488, R489: a bad TLP is recorded and
noted by AER, and a read completes with Unsupported Request status; the PCIe link goes down, and comes up again, with
a record, at a generation it has passed. R490: a Nertu link that still fails retrains at half its rate, or goes
down, with a record. R374, R375: a peer's read, write or atomic inside the link's window is served at the home slice, another is
refused and recorded. R491: an error response is met by the next read of the line, or by the next write-back of it.
Model's choice: a ring outside local frames (log entry 20), the AER bits (75); its reading of records and links: 21, 64 and 65. -/
def Obligations.RecordsAndLinks : Prop :=
  (∀ (s : State) (die : Nat) (r : ErrRec), Memory.wf s.mem = true →
    let d := s.die die
    let place := d.elogHi.toNat * 2 ^ 32 + d.elogLo.toNat + 32 * (d.elogHead.toNat % 2 ^ d.elogSize)
    let full := d.elogSize = 0 ∨ (d.elogHead - d.elogTail).toNat = 2 ^ d.elogSize
    let t := s.ringRecord die r
    let word := fun i => ofBytes (t.homeBytes (place + 4 * i) 4)
    let kept := (∃ p ∈ s.recs, p.1 = .die die) ∨ ∃ c ∈ s.cmds, c.dry = false ∧ place / 64 ∈ c.lines
    (full → t = s.setDie die { d with lost := d.lost + 1 }) ∧
    (¬ full → kept → t = { s with recs := s.recs ++ [(.die die, r)] }) ∧
    (¬ full → ¬ kept → t.die die = { d with elogHead := d.elogHead + 1 } ∧ 64 + die ∈ t.host.pending ∧
      (isLocal place = true → place % 32 = 0 → (∀ a, a < place ∨ place + 32 ≤ a → t.homeByte a = s.homeByte a) ∧
        word 0 = (r.code * 2 ^ 16 + r.step * 2 ^ 12 + r.source * 2 ^ 8 + r.physical.toNat * 16 + r.nested.toNat * 8 +
          r.paired.toNat * 4 + r.setwide.toNat * 2 + r.addr.isSome.toNat) % 2 ^ 32 ∧
        word 1 = (r.core * 2 ^ 16 + r.warp * 2 ^ 8 + r.lane) % 2 ^ 32 ∧ word 2 = r.tag % 2 ^ 32 ∧
        word 3 = r.block % 2 ^ 32 ∧ word 4 + 2 ^ 32 * word 5 = r.pc % 2 ^ 64 ∧
        word 6 + 2 ^ 32 * word 7 = r.addr.getD r.info % 2 ^ 64))) ∧
  (∀ (s : State) (write : Bool) (addr : Option Nat), ∃ (aer : Aer) (tick : Nat),
    exec (.pcieBadTlp write addr) s = .next (State.ringRecord { s with
      tick := tick, host := { s.host with
        aer := aer, readData := if write then s.host.readData else [], readUr := if write then s.host.readUr else true } } 0
      { code := 0x0303, source := 6, physical := addr.isSome, addr := addr }) ∧
    aer.mask = s.host.aer.mask ∧ aer.severity = s.host.aer.severity ∧ aer.corMask = s.host.aer.corMask ∧
    ∃ bit ∈ [12, 18, 20], ∀ k, aer.status.getLsbD k = (s.host.aer.status.getLsbD k || decide (k = bit))) ∧
  (∀ s : State, s.host.pcieUp = true → exec .pcieLinkDown s = .next (State.ringRecord
    { s with host := { s.host with pcieUp := false } } 0 { code := 0x0304, source := 6, info := 0 })) ∧
  (∀ (s : State) (gen : Nat), s.host.pcieUp = false → 4 ≤ gen → gen ≤ s.ocwick.pcie →
    let up : State := { s with host := { s.host with pcieUp := true, pcieGen := gen }, ocwick := { s.ocwick with pcie := gen } }
    (s.host.pcieGen ≠ 0 →
      exec (.pcieLinkRetrain gen) s = .next (up.ringRecord 0 { code := 0x0304, source := 6, info := gen })) ∧
    (s.host.pcieGen = 0 → exec (.pcieTrainingRetry gen) s = .next up)) ∧
  (∀ (s : State) (n : Nat), n < 8 → (s.link n).up = true →
    let l := s.link n
    let record := fun (s : State) => s.ringRecord (n / 2) { code := 0x0306, source := 7, lane := n }
    (∀ passes, l.rate ≤ 14 →
      exec (.nertuLinkRetrain n passes) s = .next (record (s.setLink n { l with up := false, rate := 0 }))) ∧
    (14 < l.rate →
      let u := record (s.setLink n { l with rate := l.rate / 2 })
      exec (.nertuLinkRetrain n true) s = .next { u with ocwick := { u.ocwick with
        nertu := u.ocwick.nertu.set n (4 * (l.rate / 2)) } } ∧
      ∃ again, exec (.nertuLinkRetrain n false) s = .next { u with
        due := u.due ++ [.nertuLinkRetrain n again], tick := u.tick + 1 }) ∧
    (∀ fails, fails ≤ 16 → exec (.nertuFlitRetry n fails) s = .next s) ∧
    (∀ fails, 16 < fails → ∃ passes, exec (.nertuFlitRetry n fails) s = .next { s with
      due := s.due ++ [.nertuLinkRetrain n passes], tick := s.tick + 1 })) ∧
  (∀ (s : State) (n pa size : Nat) (req : PeerReq), n < 8 → (s.link n).up = true →
    (match req with | .read => True | .write b => size = b.length | .atomic _ ty _ _ _ _ => size = widthOf ty) →
    let l := s.link n
    let inside := ∀ a, pa ≤ a → a < pa + size → isLocal a = true ∧ l.inFrame ≤ frameOf a ∧ frameOf a < l.inFrame + l.inFrames.toNat
    let kept := fun (t : State) a => t.homeByte a = s.homeByte a ∨ ∃ c, (s.core c).unwritten a (t.homeByte a)
    0 < size → pa % 64 + size ≤ 64 →
    (¬ inside → exec (.nertuInboundRequest n pa size req) s = .next (s.ringRecord (n / 2)
      { code := 0x0307, source := 7, physical := true, addr := some pa })) ∧
    (inside → s.owned pa = false → s.settled → ∃ t, exec (.nertuInboundRequest n pa size req) s = .next t ∧
      (req = .read → s.poisoned pa = false → ∀ a, kept t a) ∧
      (∀ b, req = .write b → (∀ (i : Nat) v, b[i]? = some v → t.homeByte (pa + i) = v) ∧
        ∀ a, a < pa ∨ pa + size ≤ a → kept t a) ∧
      (∀ kind ty sat fpmode arg arg2, req = .atomic kind ty sat fpmode arg arg2 → s.poisoned pa = false →
        (∀ a, a < pa ∨ pa + size ≤ a → kept t a) ∧
        ((∀ c i b, i < size → ¬ (s.core c).unwritten (pa + i) b) → ofBytes (t.homeBytes pa size) = atomNew kind ty sat
          (.ofWord fpmode.toNat) (ofBytes (s.homeBytes pa size)) arg.toNat arg2.toNat % 2 ^ (8 * size))))) ∧
  (∀ (s : State) (n tid va pa : Nat) (e : Env), s.envOf tid = some e →
    exec (.remoteErrorResponse n tid va false) s = .next (s.setThread tid { e.th with
      refused := (va / 64 * 64 :: e.th.refused).eraseDups }) ∧
    ((s.core e.blk.core).dirtyAt va = some pa → isRemote pa = true → remoteLink pa = n →
      exec (.remoteErrorResponse n tid va true) s = .next (s.modCore e.blk.core fun c => { c with
        refused := (pa :: c.refused).eraseDups })))

/-- Every step keeps memory in its canonical form: addresses strictly rising, and no byte listed that an unlisted
address reads as. Memory is what instructions, engines, the host and peers store to, and what R372 and R394 write
records into. The canonical form is the model's (log entry 1). -/
def Obligations.StepsKeepMemoryCanonical : Prop :=
  ∀ s t : State, Memory.wf s.mem = true → step s = .next t → Memory.wf t.mem = true
end

