-- ==== Sys2Proof/Laws/NMap.lean ====
section
/-! SUPPORT. Finite maps: reading after writing, and the canonical form. -/

namespace Sys2Proof.NMap

variable {β : Type}

@[simp] theorem find_nil (k : Nat) : find ([] : NMap β) k = none := rfl

@[simp] theorem find_put_same (m : NMap β) (k : Nat) (v : β) : find (put m k v) k = some v := by
  induction m with
  | nil => simp [put, find]
  | cons p r ih =>
    obtain ⟨a, w⟩ := p
    by_cases h : k = a
    · simp [put, find, h]
    · by_cases h' : k < a <;> simp [put, find, h, h', ih]

theorem find_put_other (m : NMap β) {k j : Nat} (v : β) (hne : j ≠ k) : find (put m k v) j = find m j := by
  induction m with
  | nil => simp [put, find, hne]
  | cons p r ih =>
    obtain ⟨a, w⟩ := p
    by_cases h : k = a
    · subst h; simp [put, find, hne]
    · by_cases h' : k < a
      · simp only [put, h, h', if_true, if_false, find, hne]
        by_cases hj : j < k
        · have : j ≠ a := by omega
          have : j < a := by omega
          simp [*]
        · simp [hj]
      · simp only [put, h, h', if_false, find]
        by_cases ha : j = a
        · simp [ha]
        · by_cases hl : j < a <;> simp [ha, hl, ih]

@[simp] theorem get_put_same (d : β) (m : NMap β) (k : Nat) (v : β) : get d (put m k v) k = v := by simp [get]

theorem get_put_other (d : β) (m : NMap β) {k j : Nat} (v : β) (hne : j ≠ k) : get d (put m k v) j = get d m j := by
  simp [get, find_put_other m v hne]

/-! ### Rising keys -/

theorem above_mono {lo lo' : Nat} (h : lo' ≤ lo) {m : NMap β} (ha : above lo m = true) : above lo' m = true := by
  cases m with
  | nil => rfl
  | cons p r => obtain ⟨a, w⟩ := p; simp only [above, Bool.and_eq_true, decide_eq_true_eq] at *; exact ⟨by omega, ha.2⟩

theorem above_put {lo k : Nat} (m : NMap β) (v : β) (hk : lo < k) (h : above lo m = true) : above lo (put m k v) = true := by
  induction m generalizing lo with
  | nil => simp [put, above, hk]
  | cons p r ih =>
    obtain ⟨a, w⟩ := p
    simp only [above, Bool.and_eq_true, decide_eq_true_eq] at h
    by_cases e : k = a
    · subst e; simp [put, above, h.1, h.2]
    · by_cases l : k < a
      · simp [put, above, e, l, hk, h.2]
      · have : a < k := by omega
        simp [put, above, e, l, h.1, ih this h.2]

theorem sorted_put (m : NMap β) (k : Nat) (v : β) (h : sorted m = true) : sorted (put m k v) = true := by
  cases m with
  | nil => simp [put, sorted, above]
  | cons p r =>
    obtain ⟨a, w⟩ := p
    simp only [sorted] at h
    by_cases e : k = a
    · subst e; simp [put, sorted, h]
    · by_cases l : k < a
      · simp [put, sorted, above, e, l, h]
      · have : a < k := by omega
        simp [put, sorted, e, l, above_put r v this h]

theorem above_del {lo : Nat} (m : NMap β) (k : Nat) (h : above lo m = true) : above lo (del m k) = true := by
  induction m generalizing lo with
  | nil => rfl
  | cons p r ih =>
    obtain ⟨a, w⟩ := p
    simp only [above, Bool.and_eq_true, decide_eq_true_eq] at h
    by_cases e : k = a
    · subst e; simp only [del, if_true]; exact above_mono (by omega) h.2
    · by_cases l : k < a
      · simp [del, above, e, l, h.1, h.2]
      · simp [del, above, e, l, h.1, ih h.2]

theorem sorted_del (m : NMap β) (k : Nat) (h : sorted m = true) : sorted (del m k) = true := by
  cases m with
  | nil => rfl
  | cons p r =>
    obtain ⟨a, w⟩ := p
    simp only [sorted] at h
    by_cases e : k = a
    · subst e
      simp only [del, if_true]
      cases r with
      | nil => rfl
      | cons q t => obtain ⟨b, x⟩ := q; simp only [above, Bool.and_eq_true] at h; exact h.2
    · by_cases l : k < a
      · simp [del, sorted, e, l, h]
      · simp [del, sorted, e, l, above_del r k h]

theorem find_above {lo k : Nat} (m : NMap β) (h : above lo m = true) (hk : k ≤ lo) : find m k = none := by
  cases m with
  | nil => rfl
  | cons p r =>
    obtain ⟨a, w⟩ := p
    simp only [above, Bool.and_eq_true, decide_eq_true_eq] at h
    have h1 : k ≠ a := by omega
    have h2 : k < a := by omega
    simp [find, h1, h2]

theorem find_del_same (m : NMap β) (k : Nat) (h : sorted m = true) : find (del m k) k = none := by
  induction m with
  | nil => rfl
  | cons p r ih =>
    obtain ⟨a, w⟩ := p
    simp only [sorted] at h
    by_cases e : k = a
    · subst e; simp only [del, if_true]; exact find_above r h (le_refl _)
    · by_cases l : k < a
      · simp [del, find, e, l]
      · have hs : sorted r = true := by
          cases r with
          | nil => rfl
          | cons q t => obtain ⟨b, x⟩ := q; simp only [above, Bool.and_eq_true] at h; exact h.2
        simp [del, find, e, l, ih hs]

theorem find_del_other (m : NMap β) {k j : Nat} (hne : j ≠ k) (h : sorted m = true) : find (del m k) j = find m j := by
  induction m with
  | nil => rfl
  | cons p r ih =>
    obtain ⟨a, w⟩ := p
    simp only [sorted] at h
    have hs : sorted r = true := by
      cases r with
      | nil => rfl
      | cons q t => obtain ⟨b, x⟩ := q; simp only [above, Bool.and_eq_true] at h; exact h.2
    by_cases e : k = a
    · subst e
      simp only [del, if_true, find, hne, if_false]
      by_cases l : j < k
      · simp only [l, if_true]; exact find_above r h (by omega)
      · simp [l]
    · by_cases l : k < a
      · simp [del, e, l]
      · simp only [del, e, l, if_false, find]
        by_cases ha : j = a
        · simp [ha]
        · by_cases hl : j < a <;> simp [ha, hl, ih hs]

/-! ### The canonical form -/

theorem all_put [DecidableEq β] (d : β) (m : NMap β) (k : Nat) (v : β) (hv : v ≠ d)
    (h : m.all (fun p => !decide (p.2 = d)) = true) : (put m k v).all (fun p => !decide (p.2 = d)) = true := by
  induction m with
  | nil => simp [put, hv]
  | cons p r ih =>
    obtain ⟨a, w⟩ := p
    simp only [List.all_cons, Bool.and_eq_true] at h
    by_cases e : k = a
    · simp only [put, e, if_true, List.all_cons, Bool.and_eq_true]
      exact ⟨by simp [hv], h.2⟩
    · by_cases l : k < a
      · simp only [put, e, l, if_true, if_false, List.all_cons, Bool.and_eq_true]
        exact ⟨by simp [hv], h⟩
      · simp only [put, e, l, if_false, List.all_cons, Bool.and_eq_true]
        exact ⟨h.1, ih h.2⟩

theorem all_del {q : Nat × β → Bool} (m : NMap β) (k : Nat) (h : m.all q = true) : (del m k).all q = true := by
  induction m with
  | nil => rfl
  | cons p r ih =>
    obtain ⟨a, w⟩ := p
    simp only [List.all_cons, Bool.and_eq_true] at h
    by_cases e : k = a
    · simp only [del, e, if_true]; exact h.2
    · by_cases l : k < a
      · simp only [del, e, l, if_true, if_false, List.all_cons, Bool.and_eq_true]; exact h
      · simp only [del, e, l, if_false, List.all_cons, Bool.and_eq_true]; exact ⟨h.1, ih h.2⟩

/-- Writing keeps the canonical form. -/
theorem wf_set [DecidableEq β] (d : β) (m : NMap β) (k : Nat) (v : β) (h : wf d m = true) : wf d (set d m k v) = true := by
  simp only [wf, Bool.and_eq_true] at h
  by_cases hv : v = d
  · simp only [set, hv, if_true, wf, Bool.and_eq_true]; exact ⟨sorted_del m k h.1, all_del m k h.2⟩
  · simp only [set, hv, if_false, wf, Bool.and_eq_true]; exact ⟨sorted_put m k v h.1, all_put d m k v hv h.2⟩

/-- A canonical map reads what was written, and nothing else has changed. -/
theorem get_set [DecidableEq β] (d : β) (m : NMap β) (k j : Nat) (v : β) (h : wf d m = true) :
    get d (set d m k v) j = if j = k then v else get d m j := by
  simp only [wf, Bool.and_eq_true] at h
  by_cases e : j = k
  · subst e
    by_cases hv : v = d
    · simp [set, hv, get, find_del_same m j h.1]
    · simp [set, hv]
  · by_cases hv : v = d
    · simp [set, hv, get, e, find_del_other m e h.1]
    · simp [set, hv, e, get_put_other d m v e]

/-- Two canonical maps that read alike are equal: the reading of every entry is the entry. -/
theorem find_of_wf [DecidableEq β] {d : β} {m : NMap β} (h : wf d m = true) {k : Nat} {v : β} (hf : find m k = some v) :
    v ≠ d := by
  simp only [wf, Bool.and_eq_true] at h
  have : ∀ m : NMap β, m.all (fun p => !decide (p.2 = d)) = true → find m k = some v → v ≠ d := by
    intro m
    induction m with
    | nil => simp
    | cons p r ih =>
      obtain ⟨a, w⟩ := p
      intro ha hf
      simp only [List.all_cons, Bool.and_eq_true] at ha
      by_cases e : k = a
      · simp only [find, e, if_true, Option.some.injEq] at hf; subst hf; simpa using ha.1
      · by_cases l : k < a
        · simp [find, e, l] at hf
        · simp only [find, e, l, if_false] at hf; exact ih ha.2 hf
  exact this m h.2 hf

end Sys2Proof.NMap
end

