-- ==== Sys2Proof/Laws/State.lean ====
section
/-! SUPPORT. What each update of the state changes and what it leaves. -/

namespace Sys2Proof.Machine

/-! ### Replacing a part -/

@[simp] theorem State.setThread_blocks (s : State) (t : Nat) (x : Thread) : (s.setThread t x).blocks = s.blocks := (rfl)
@[simp] theorem State.setThread_launches (s : State) (t : Nat) (x : Thread) : (s.setThread t x).launches = s.launches := (rfl)
@[simp] theorem State.setThread_cores (s : State) (t : Nat) (x : Thread) : (s.setThread t x).cores = s.cores := (rfl)
@[simp] theorem State.setThread_dies (s : State) (t : Nat) (x : Thread) : (s.setThread t x).dies = s.dies := (rfl)
@[simp] theorem State.setThread_mem (s : State) (t : Nat) (x : Thread) : (s.setThread t x).mem = s.mem := (rfl)
@[simp] theorem State.setThread_poison (s : State) (t : Nat) (x : Thread) : (s.setThread t x).poison = s.poison := (rfl)
@[simp] theorem State.setThread_peer (s : State) (t : Nat) (x : Thread) : (s.setThread t x).peer = s.peer := (rfl)
@[simp] theorem State.setThread_reqs (s : State) (t : Nat) (x : Thread) : (s.setThread t x).reqs = s.reqs := (rfl)
@[simp] theorem State.setThread_cmds (s : State) (t : Nat) (x : Thread) : (s.setThread t x).cmds = s.cmds := (rfl)
@[simp] theorem State.setThread_breads (s : State) (t : Nat) (x : Thread) : (s.setThread t x).breads = s.breads := (rfl)
@[simp] theorem State.setThread_pipes (s : State) (t : Nat) (x : Thread) : (s.setThread t x).pipes = s.pipes := (rfl)
@[simp] theorem State.setThread_recs (s : State) (t : Nat) (x : Thread) : (s.setThread t x).recs = s.recs := (rfl)
@[simp] theorem State.setThread_roundAt (s : State) (t : Nat) (x : Thread) : (s.setThread t x).roundAt = s.roundAt := (rfl)
@[simp] theorem State.setThread_queues (s : State) (t : Nat) (x : Thread) : (s.setThread t x).queues = s.queues := (rfl)
@[simp] theorem State.setThread_ctxs (s : State) (t : Nat) (x : Thread) : (s.setThread t x).ctxs = s.ctxs := (rfl)
@[simp] theorem State.setThread_xlat (s : State) (t : Nat) (x : Thread) : (s.setThread t x).xlat = s.xlat := (rfl)
@[simp] theorem State.setThread_links (s : State) (t : Nat) (x : Thread) : (s.setThread t x).links = s.links := (rfl)
@[simp] theorem State.setThread_host (s : State) (t : Nat) (x : Thread) : (s.setThread t x).host = s.host := (rfl)
@[simp] theorem State.setThread_mailbox (s : State) (t : Nat) (x : Thread) : (s.setThread t x).mailbox = s.mailbox := (rfl)
@[simp] theorem State.setThread_ocwick (s : State) (t : Nat) (x : Thread) : (s.setThread t x).ocwick = s.ocwick := (rfl)
@[simp] theorem State.setThread_ended (s : State) (t : Nat) (x : Thread) : (s.setThread t x).ended = s.ended := (rfl)
@[simp] theorem State.setThread_clock (s : State) (t : Nat) (x : Thread) : (s.setThread t x).clock = s.clock := (rfl)
@[simp] theorem State.setThread_issueQ (s : State) (t : Nat) (x : Thread) : (s.setThread t x).issueQ = s.issueQ := (rfl)
@[simp] theorem State.setThread_taken (s : State) (t : Nat) (x : Thread) : (s.setThread t x).taken = s.taken := (rfl)
@[simp] theorem State.setThread_passed (s : State) (t : Nat) (x : Thread) : (s.setThread t x).passed = s.passed := (rfl)
@[simp] theorem State.setThread_cur (s : State) (t : Nat) (x : Thread) : (s.setThread t x).cur = s.cur := (rfl)
@[simp] theorem State.setThread_inputs (s : State) (t : Nat) (x : Thread) : (s.setThread t x).inputs = s.inputs := (rfl)
@[simp] theorem State.setThread_due (s : State) (t : Nat) (x : Thread) : (s.setThread t x).due = s.due := (rfl)
@[simp] theorem State.setThread_nextId (s : State) (t : Nat) (x : Thread) : (s.setThread t x).nextId = s.nextId := (rfl)
@[simp] theorem State.setThread_tick (s : State) (t : Nat) (x : Thread) : (s.setThread t x).tick = s.tick := (rfl)

@[simp] theorem State.setBlock_threads (s : State) (t : Nat) (x : Block) : (s.setBlock t x).threads = s.threads := (rfl)
@[simp] theorem State.setBlock_launches (s : State) (t : Nat) (x : Block) : (s.setBlock t x).launches = s.launches := (rfl)
@[simp] theorem State.setBlock_cores (s : State) (t : Nat) (x : Block) : (s.setBlock t x).cores = s.cores := (rfl)
@[simp] theorem State.setBlock_dies (s : State) (t : Nat) (x : Block) : (s.setBlock t x).dies = s.dies := (rfl)
@[simp] theorem State.setBlock_mem (s : State) (t : Nat) (x : Block) : (s.setBlock t x).mem = s.mem := (rfl)
@[simp] theorem State.setBlock_poison (s : State) (t : Nat) (x : Block) : (s.setBlock t x).poison = s.poison := (rfl)
@[simp] theorem State.setBlock_peer (s : State) (t : Nat) (x : Block) : (s.setBlock t x).peer = s.peer := (rfl)
@[simp] theorem State.setBlock_reqs (s : State) (t : Nat) (x : Block) : (s.setBlock t x).reqs = s.reqs := (rfl)
@[simp] theorem State.setBlock_cmds (s : State) (t : Nat) (x : Block) : (s.setBlock t x).cmds = s.cmds := (rfl)
@[simp] theorem State.setBlock_breads (s : State) (t : Nat) (x : Block) : (s.setBlock t x).breads = s.breads := (rfl)
@[simp] theorem State.setBlock_pipes (s : State) (t : Nat) (x : Block) : (s.setBlock t x).pipes = s.pipes := (rfl)
@[simp] theorem State.setBlock_recs (s : State) (t : Nat) (x : Block) : (s.setBlock t x).recs = s.recs := (rfl)
@[simp] theorem State.setBlock_roundAt (s : State) (t : Nat) (x : Block) : (s.setBlock t x).roundAt = s.roundAt := (rfl)
@[simp] theorem State.setBlock_queues (s : State) (t : Nat) (x : Block) : (s.setBlock t x).queues = s.queues := (rfl)
@[simp] theorem State.setBlock_ctxs (s : State) (t : Nat) (x : Block) : (s.setBlock t x).ctxs = s.ctxs := (rfl)
@[simp] theorem State.setBlock_xlat (s : State) (t : Nat) (x : Block) : (s.setBlock t x).xlat = s.xlat := (rfl)
@[simp] theorem State.setBlock_links (s : State) (t : Nat) (x : Block) : (s.setBlock t x).links = s.links := (rfl)
@[simp] theorem State.setBlock_host (s : State) (t : Nat) (x : Block) : (s.setBlock t x).host = s.host := (rfl)
@[simp] theorem State.setBlock_mailbox (s : State) (t : Nat) (x : Block) : (s.setBlock t x).mailbox = s.mailbox := (rfl)
@[simp] theorem State.setBlock_ocwick (s : State) (t : Nat) (x : Block) : (s.setBlock t x).ocwick = s.ocwick := (rfl)
@[simp] theorem State.setBlock_ended (s : State) (t : Nat) (x : Block) : (s.setBlock t x).ended = s.ended := (rfl)
@[simp] theorem State.setBlock_clock (s : State) (t : Nat) (x : Block) : (s.setBlock t x).clock = s.clock := (rfl)
@[simp] theorem State.setBlock_issueQ (s : State) (t : Nat) (x : Block) : (s.setBlock t x).issueQ = s.issueQ := (rfl)
@[simp] theorem State.setBlock_taken (s : State) (t : Nat) (x : Block) : (s.setBlock t x).taken = s.taken := (rfl)
@[simp] theorem State.setBlock_passed (s : State) (t : Nat) (x : Block) : (s.setBlock t x).passed = s.passed := (rfl)
@[simp] theorem State.setBlock_cur (s : State) (t : Nat) (x : Block) : (s.setBlock t x).cur = s.cur := (rfl)
@[simp] theorem State.setBlock_inputs (s : State) (t : Nat) (x : Block) : (s.setBlock t x).inputs = s.inputs := (rfl)
@[simp] theorem State.setBlock_due (s : State) (t : Nat) (x : Block) : (s.setBlock t x).due = s.due := (rfl)
@[simp] theorem State.setBlock_nextId (s : State) (t : Nat) (x : Block) : (s.setBlock t x).nextId = s.nextId := (rfl)
@[simp] theorem State.setBlock_tick (s : State) (t : Nat) (x : Block) : (s.setBlock t x).tick = s.tick := (rfl)

@[simp] theorem State.setLaunch_threads (s : State) (t : Nat) (x : Launch) : (s.setLaunch t x).threads = s.threads := (rfl)
@[simp] theorem State.setLaunch_blocks (s : State) (t : Nat) (x : Launch) : (s.setLaunch t x).blocks = s.blocks := (rfl)
@[simp] theorem State.setLaunch_cores (s : State) (t : Nat) (x : Launch) : (s.setLaunch t x).cores = s.cores := (rfl)
@[simp] theorem State.setLaunch_dies (s : State) (t : Nat) (x : Launch) : (s.setLaunch t x).dies = s.dies := (rfl)
@[simp] theorem State.setLaunch_mem (s : State) (t : Nat) (x : Launch) : (s.setLaunch t x).mem = s.mem := (rfl)
@[simp] theorem State.setLaunch_poison (s : State) (t : Nat) (x : Launch) : (s.setLaunch t x).poison = s.poison := (rfl)
@[simp] theorem State.setLaunch_peer (s : State) (t : Nat) (x : Launch) : (s.setLaunch t x).peer = s.peer := (rfl)
@[simp] theorem State.setLaunch_reqs (s : State) (t : Nat) (x : Launch) : (s.setLaunch t x).reqs = s.reqs := (rfl)
@[simp] theorem State.setLaunch_cmds (s : State) (t : Nat) (x : Launch) : (s.setLaunch t x).cmds = s.cmds := (rfl)
@[simp] theorem State.setLaunch_breads (s : State) (t : Nat) (x : Launch) : (s.setLaunch t x).breads = s.breads := (rfl)
@[simp] theorem State.setLaunch_pipes (s : State) (t : Nat) (x : Launch) : (s.setLaunch t x).pipes = s.pipes := (rfl)
@[simp] theorem State.setLaunch_recs (s : State) (t : Nat) (x : Launch) : (s.setLaunch t x).recs = s.recs := (rfl)
@[simp] theorem State.setLaunch_roundAt (s : State) (t : Nat) (x : Launch) : (s.setLaunch t x).roundAt = s.roundAt := (rfl)
@[simp] theorem State.setLaunch_queues (s : State) (t : Nat) (x : Launch) : (s.setLaunch t x).queues = s.queues := (rfl)
@[simp] theorem State.setLaunch_ctxs (s : State) (t : Nat) (x : Launch) : (s.setLaunch t x).ctxs = s.ctxs := (rfl)
@[simp] theorem State.setLaunch_xlat (s : State) (t : Nat) (x : Launch) : (s.setLaunch t x).xlat = s.xlat := (rfl)
@[simp] theorem State.setLaunch_links (s : State) (t : Nat) (x : Launch) : (s.setLaunch t x).links = s.links := (rfl)
@[simp] theorem State.setLaunch_host (s : State) (t : Nat) (x : Launch) : (s.setLaunch t x).host = s.host := (rfl)
@[simp] theorem State.setLaunch_mailbox (s : State) (t : Nat) (x : Launch) : (s.setLaunch t x).mailbox = s.mailbox := (rfl)
@[simp] theorem State.setLaunch_ocwick (s : State) (t : Nat) (x : Launch) : (s.setLaunch t x).ocwick = s.ocwick := (rfl)
@[simp] theorem State.setLaunch_ended (s : State) (t : Nat) (x : Launch) : (s.setLaunch t x).ended = s.ended := (rfl)
@[simp] theorem State.setLaunch_clock (s : State) (t : Nat) (x : Launch) : (s.setLaunch t x).clock = s.clock := (rfl)
@[simp] theorem State.setLaunch_issueQ (s : State) (t : Nat) (x : Launch) : (s.setLaunch t x).issueQ = s.issueQ := (rfl)
@[simp] theorem State.setLaunch_taken (s : State) (t : Nat) (x : Launch) : (s.setLaunch t x).taken = s.taken := (rfl)
@[simp] theorem State.setLaunch_passed (s : State) (t : Nat) (x : Launch) : (s.setLaunch t x).passed = s.passed := (rfl)
@[simp] theorem State.setLaunch_cur (s : State) (t : Nat) (x : Launch) : (s.setLaunch t x).cur = s.cur := (rfl)
@[simp] theorem State.setLaunch_inputs (s : State) (t : Nat) (x : Launch) : (s.setLaunch t x).inputs = s.inputs := (rfl)
@[simp] theorem State.setLaunch_due (s : State) (t : Nat) (x : Launch) : (s.setLaunch t x).due = s.due := (rfl)
@[simp] theorem State.setLaunch_nextId (s : State) (t : Nat) (x : Launch) : (s.setLaunch t x).nextId = s.nextId := (rfl)
@[simp] theorem State.setLaunch_tick (s : State) (t : Nat) (x : Launch) : (s.setLaunch t x).tick = s.tick := (rfl)

@[simp] theorem State.setCore_threads (s : State) (t : Nat) (x : Core) : (s.setCore t x).threads = s.threads := (rfl)
@[simp] theorem State.setCore_blocks (s : State) (t : Nat) (x : Core) : (s.setCore t x).blocks = s.blocks := (rfl)
@[simp] theorem State.setCore_launches (s : State) (t : Nat) (x : Core) : (s.setCore t x).launches = s.launches := (rfl)
@[simp] theorem State.setCore_dies (s : State) (t : Nat) (x : Core) : (s.setCore t x).dies = s.dies := (rfl)
@[simp] theorem State.setCore_mem (s : State) (t : Nat) (x : Core) : (s.setCore t x).mem = s.mem := (rfl)
@[simp] theorem State.setCore_poison (s : State) (t : Nat) (x : Core) : (s.setCore t x).poison = s.poison := (rfl)
@[simp] theorem State.setCore_peer (s : State) (t : Nat) (x : Core) : (s.setCore t x).peer = s.peer := (rfl)
@[simp] theorem State.setCore_reqs (s : State) (t : Nat) (x : Core) : (s.setCore t x).reqs = s.reqs := (rfl)
@[simp] theorem State.setCore_cmds (s : State) (t : Nat) (x : Core) : (s.setCore t x).cmds = s.cmds := (rfl)
@[simp] theorem State.setCore_breads (s : State) (t : Nat) (x : Core) : (s.setCore t x).breads = s.breads := (rfl)
@[simp] theorem State.setCore_pipes (s : State) (t : Nat) (x : Core) : (s.setCore t x).pipes = s.pipes := (rfl)
@[simp] theorem State.setCore_recs (s : State) (t : Nat) (x : Core) : (s.setCore t x).recs = s.recs := (rfl)
@[simp] theorem State.setCore_roundAt (s : State) (t : Nat) (x : Core) : (s.setCore t x).roundAt = s.roundAt := (rfl)
@[simp] theorem State.setCore_queues (s : State) (t : Nat) (x : Core) : (s.setCore t x).queues = s.queues := (rfl)
@[simp] theorem State.setCore_ctxs (s : State) (t : Nat) (x : Core) : (s.setCore t x).ctxs = s.ctxs := (rfl)
@[simp] theorem State.setCore_xlat (s : State) (t : Nat) (x : Core) : (s.setCore t x).xlat = s.xlat := (rfl)
@[simp] theorem State.setCore_links (s : State) (t : Nat) (x : Core) : (s.setCore t x).links = s.links := (rfl)
@[simp] theorem State.setCore_host (s : State) (t : Nat) (x : Core) : (s.setCore t x).host = s.host := (rfl)
@[simp] theorem State.setCore_mailbox (s : State) (t : Nat) (x : Core) : (s.setCore t x).mailbox = s.mailbox := (rfl)
@[simp] theorem State.setCore_ocwick (s : State) (t : Nat) (x : Core) : (s.setCore t x).ocwick = s.ocwick := (rfl)
@[simp] theorem State.setCore_ended (s : State) (t : Nat) (x : Core) : (s.setCore t x).ended = s.ended := (rfl)
@[simp] theorem State.setCore_clock (s : State) (t : Nat) (x : Core) : (s.setCore t x).clock = s.clock := (rfl)
@[simp] theorem State.setCore_issueQ (s : State) (t : Nat) (x : Core) : (s.setCore t x).issueQ = s.issueQ := (rfl)
@[simp] theorem State.setCore_taken (s : State) (t : Nat) (x : Core) : (s.setCore t x).taken = s.taken := (rfl)
@[simp] theorem State.setCore_passed (s : State) (t : Nat) (x : Core) : (s.setCore t x).passed = s.passed := (rfl)
@[simp] theorem State.setCore_cur (s : State) (t : Nat) (x : Core) : (s.setCore t x).cur = s.cur := (rfl)
@[simp] theorem State.setCore_inputs (s : State) (t : Nat) (x : Core) : (s.setCore t x).inputs = s.inputs := (rfl)
@[simp] theorem State.setCore_due (s : State) (t : Nat) (x : Core) : (s.setCore t x).due = s.due := (rfl)
@[simp] theorem State.setCore_nextId (s : State) (t : Nat) (x : Core) : (s.setCore t x).nextId = s.nextId := (rfl)
@[simp] theorem State.setCore_tick (s : State) (t : Nat) (x : Core) : (s.setCore t x).tick = s.tick := (rfl)

@[simp] theorem State.setDie_threads (s : State) (t : Nat) (x : Die) : (s.setDie t x).threads = s.threads := (rfl)
@[simp] theorem State.setDie_blocks (s : State) (t : Nat) (x : Die) : (s.setDie t x).blocks = s.blocks := (rfl)
@[simp] theorem State.setDie_launches (s : State) (t : Nat) (x : Die) : (s.setDie t x).launches = s.launches := (rfl)
@[simp] theorem State.setDie_cores (s : State) (t : Nat) (x : Die) : (s.setDie t x).cores = s.cores := (rfl)
@[simp] theorem State.setDie_mem (s : State) (t : Nat) (x : Die) : (s.setDie t x).mem = s.mem := (rfl)
@[simp] theorem State.setDie_poison (s : State) (t : Nat) (x : Die) : (s.setDie t x).poison = s.poison := (rfl)
@[simp] theorem State.setDie_peer (s : State) (t : Nat) (x : Die) : (s.setDie t x).peer = s.peer := (rfl)
@[simp] theorem State.setDie_reqs (s : State) (t : Nat) (x : Die) : (s.setDie t x).reqs = s.reqs := (rfl)
@[simp] theorem State.setDie_cmds (s : State) (t : Nat) (x : Die) : (s.setDie t x).cmds = s.cmds := (rfl)
@[simp] theorem State.setDie_breads (s : State) (t : Nat) (x : Die) : (s.setDie t x).breads = s.breads := (rfl)
@[simp] theorem State.setDie_pipes (s : State) (t : Nat) (x : Die) : (s.setDie t x).pipes = s.pipes := (rfl)
@[simp] theorem State.setDie_recs (s : State) (t : Nat) (x : Die) : (s.setDie t x).recs = s.recs := (rfl)
@[simp] theorem State.setDie_roundAt (s : State) (t : Nat) (x : Die) : (s.setDie t x).roundAt = s.roundAt := (rfl)
@[simp] theorem State.setDie_queues (s : State) (t : Nat) (x : Die) : (s.setDie t x).queues = s.queues := (rfl)
@[simp] theorem State.setDie_ctxs (s : State) (t : Nat) (x : Die) : (s.setDie t x).ctxs = s.ctxs := (rfl)
@[simp] theorem State.setDie_xlat (s : State) (t : Nat) (x : Die) : (s.setDie t x).xlat = s.xlat := (rfl)
@[simp] theorem State.setDie_links (s : State) (t : Nat) (x : Die) : (s.setDie t x).links = s.links := (rfl)
@[simp] theorem State.setDie_host (s : State) (t : Nat) (x : Die) : (s.setDie t x).host = s.host := (rfl)
@[simp] theorem State.setDie_mailbox (s : State) (t : Nat) (x : Die) : (s.setDie t x).mailbox = s.mailbox := (rfl)
@[simp] theorem State.setDie_ocwick (s : State) (t : Nat) (x : Die) : (s.setDie t x).ocwick = s.ocwick := (rfl)
@[simp] theorem State.setDie_ended (s : State) (t : Nat) (x : Die) : (s.setDie t x).ended = s.ended := (rfl)
@[simp] theorem State.setDie_clock (s : State) (t : Nat) (x : Die) : (s.setDie t x).clock = s.clock := (rfl)
@[simp] theorem State.setDie_issueQ (s : State) (t : Nat) (x : Die) : (s.setDie t x).issueQ = s.issueQ := (rfl)
@[simp] theorem State.setDie_taken (s : State) (t : Nat) (x : Die) : (s.setDie t x).taken = s.taken := (rfl)
@[simp] theorem State.setDie_passed (s : State) (t : Nat) (x : Die) : (s.setDie t x).passed = s.passed := (rfl)
@[simp] theorem State.setDie_cur (s : State) (t : Nat) (x : Die) : (s.setDie t x).cur = s.cur := (rfl)
@[simp] theorem State.setDie_inputs (s : State) (t : Nat) (x : Die) : (s.setDie t x).inputs = s.inputs := (rfl)
@[simp] theorem State.setDie_due (s : State) (t : Nat) (x : Die) : (s.setDie t x).due = s.due := (rfl)
@[simp] theorem State.setDie_nextId (s : State) (t : Nat) (x : Die) : (s.setDie t x).nextId = s.nextId := (rfl)
@[simp] theorem State.setDie_tick (s : State) (t : Nat) (x : Die) : (s.setDie t x).tick = s.tick := (rfl)

@[simp] theorem State.setQueue_threads (s : State) (t : Nat) (x : Queue) : (s.setQueue t x).threads = s.threads := (rfl)
@[simp] theorem State.setQueue_blocks (s : State) (t : Nat) (x : Queue) : (s.setQueue t x).blocks = s.blocks := (rfl)
@[simp] theorem State.setQueue_launches (s : State) (t : Nat) (x : Queue) : (s.setQueue t x).launches = s.launches := (rfl)
@[simp] theorem State.setQueue_cores (s : State) (t : Nat) (x : Queue) : (s.setQueue t x).cores = s.cores := (rfl)
@[simp] theorem State.setQueue_dies (s : State) (t : Nat) (x : Queue) : (s.setQueue t x).dies = s.dies := (rfl)
@[simp] theorem State.setQueue_mem (s : State) (t : Nat) (x : Queue) : (s.setQueue t x).mem = s.mem := (rfl)
@[simp] theorem State.setQueue_poison (s : State) (t : Nat) (x : Queue) : (s.setQueue t x).poison = s.poison := (rfl)
@[simp] theorem State.setQueue_peer (s : State) (t : Nat) (x : Queue) : (s.setQueue t x).peer = s.peer := (rfl)
@[simp] theorem State.setQueue_reqs (s : State) (t : Nat) (x : Queue) : (s.setQueue t x).reqs = s.reqs := (rfl)
@[simp] theorem State.setQueue_cmds (s : State) (t : Nat) (x : Queue) : (s.setQueue t x).cmds = s.cmds := (rfl)
@[simp] theorem State.setQueue_breads (s : State) (t : Nat) (x : Queue) : (s.setQueue t x).breads = s.breads := (rfl)
@[simp] theorem State.setQueue_pipes (s : State) (t : Nat) (x : Queue) : (s.setQueue t x).pipes = s.pipes := (rfl)
@[simp] theorem State.setQueue_recs (s : State) (t : Nat) (x : Queue) : (s.setQueue t x).recs = s.recs := (rfl)
@[simp] theorem State.setQueue_roundAt (s : State) (t : Nat) (x : Queue) : (s.setQueue t x).roundAt = s.roundAt := (rfl)
@[simp] theorem State.setQueue_ctxs (s : State) (t : Nat) (x : Queue) : (s.setQueue t x).ctxs = s.ctxs := (rfl)
@[simp] theorem State.setQueue_xlat (s : State) (t : Nat) (x : Queue) : (s.setQueue t x).xlat = s.xlat := (rfl)
@[simp] theorem State.setQueue_links (s : State) (t : Nat) (x : Queue) : (s.setQueue t x).links = s.links := (rfl)
@[simp] theorem State.setQueue_host (s : State) (t : Nat) (x : Queue) : (s.setQueue t x).host = s.host := (rfl)
@[simp] theorem State.setQueue_mailbox (s : State) (t : Nat) (x : Queue) : (s.setQueue t x).mailbox = s.mailbox := (rfl)
@[simp] theorem State.setQueue_ocwick (s : State) (t : Nat) (x : Queue) : (s.setQueue t x).ocwick = s.ocwick := (rfl)
@[simp] theorem State.setQueue_ended (s : State) (t : Nat) (x : Queue) : (s.setQueue t x).ended = s.ended := (rfl)
@[simp] theorem State.setQueue_clock (s : State) (t : Nat) (x : Queue) : (s.setQueue t x).clock = s.clock := (rfl)
@[simp] theorem State.setQueue_issueQ (s : State) (t : Nat) (x : Queue) : (s.setQueue t x).issueQ = s.issueQ := (rfl)
@[simp] theorem State.setQueue_taken (s : State) (t : Nat) (x : Queue) : (s.setQueue t x).taken = s.taken := (rfl)
@[simp] theorem State.setQueue_passed (s : State) (t : Nat) (x : Queue) : (s.setQueue t x).passed = s.passed := (rfl)
@[simp] theorem State.setQueue_cur (s : State) (t : Nat) (x : Queue) : (s.setQueue t x).cur = s.cur := (rfl)
@[simp] theorem State.setQueue_inputs (s : State) (t : Nat) (x : Queue) : (s.setQueue t x).inputs = s.inputs := (rfl)
@[simp] theorem State.setQueue_due (s : State) (t : Nat) (x : Queue) : (s.setQueue t x).due = s.due := (rfl)
@[simp] theorem State.setQueue_nextId (s : State) (t : Nat) (x : Queue) : (s.setQueue t x).nextId = s.nextId := (rfl)
@[simp] theorem State.setQueue_tick (s : State) (t : Nat) (x : Queue) : (s.setQueue t x).tick = s.tick := (rfl)

@[simp] theorem State.setLink_threads (s : State) (t : Nat) (x : Link) : (s.setLink t x).threads = s.threads := (rfl)
@[simp] theorem State.setLink_blocks (s : State) (t : Nat) (x : Link) : (s.setLink t x).blocks = s.blocks := (rfl)
@[simp] theorem State.setLink_launches (s : State) (t : Nat) (x : Link) : (s.setLink t x).launches = s.launches := (rfl)
@[simp] theorem State.setLink_cores (s : State) (t : Nat) (x : Link) : (s.setLink t x).cores = s.cores := (rfl)
@[simp] theorem State.setLink_dies (s : State) (t : Nat) (x : Link) : (s.setLink t x).dies = s.dies := (rfl)
@[simp] theorem State.setLink_mem (s : State) (t : Nat) (x : Link) : (s.setLink t x).mem = s.mem := (rfl)
@[simp] theorem State.setLink_poison (s : State) (t : Nat) (x : Link) : (s.setLink t x).poison = s.poison := (rfl)
@[simp] theorem State.setLink_peer (s : State) (t : Nat) (x : Link) : (s.setLink t x).peer = s.peer := (rfl)
@[simp] theorem State.setLink_reqs (s : State) (t : Nat) (x : Link) : (s.setLink t x).reqs = s.reqs := (rfl)
@[simp] theorem State.setLink_cmds (s : State) (t : Nat) (x : Link) : (s.setLink t x).cmds = s.cmds := (rfl)
@[simp] theorem State.setLink_breads (s : State) (t : Nat) (x : Link) : (s.setLink t x).breads = s.breads := (rfl)
@[simp] theorem State.setLink_pipes (s : State) (t : Nat) (x : Link) : (s.setLink t x).pipes = s.pipes := (rfl)
@[simp] theorem State.setLink_recs (s : State) (t : Nat) (x : Link) : (s.setLink t x).recs = s.recs := (rfl)
@[simp] theorem State.setLink_roundAt (s : State) (t : Nat) (x : Link) : (s.setLink t x).roundAt = s.roundAt := (rfl)
@[simp] theorem State.setLink_queues (s : State) (t : Nat) (x : Link) : (s.setLink t x).queues = s.queues := (rfl)
@[simp] theorem State.setLink_ctxs (s : State) (t : Nat) (x : Link) : (s.setLink t x).ctxs = s.ctxs := (rfl)
@[simp] theorem State.setLink_xlat (s : State) (t : Nat) (x : Link) : (s.setLink t x).xlat = s.xlat := (rfl)
@[simp] theorem State.setLink_host (s : State) (t : Nat) (x : Link) : (s.setLink t x).host = s.host := (rfl)
@[simp] theorem State.setLink_mailbox (s : State) (t : Nat) (x : Link) : (s.setLink t x).mailbox = s.mailbox := (rfl)
@[simp] theorem State.setLink_ocwick (s : State) (t : Nat) (x : Link) : (s.setLink t x).ocwick = s.ocwick := (rfl)
@[simp] theorem State.setLink_ended (s : State) (t : Nat) (x : Link) : (s.setLink t x).ended = s.ended := (rfl)
@[simp] theorem State.setLink_clock (s : State) (t : Nat) (x : Link) : (s.setLink t x).clock = s.clock := (rfl)
@[simp] theorem State.setLink_issueQ (s : State) (t : Nat) (x : Link) : (s.setLink t x).issueQ = s.issueQ := (rfl)
@[simp] theorem State.setLink_taken (s : State) (t : Nat) (x : Link) : (s.setLink t x).taken = s.taken := (rfl)
@[simp] theorem State.setLink_passed (s : State) (t : Nat) (x : Link) : (s.setLink t x).passed = s.passed := (rfl)
@[simp] theorem State.setLink_cur (s : State) (t : Nat) (x : Link) : (s.setLink t x).cur = s.cur := (rfl)
@[simp] theorem State.setLink_inputs (s : State) (t : Nat) (x : Link) : (s.setLink t x).inputs = s.inputs := (rfl)
@[simp] theorem State.setLink_due (s : State) (t : Nat) (x : Link) : (s.setLink t x).due = s.due := (rfl)
@[simp] theorem State.setLink_nextId (s : State) (t : Nat) (x : Link) : (s.setLink t x).nextId = s.nextId := (rfl)
@[simp] theorem State.setLink_tick (s : State) (t : Nat) (x : Link) : (s.setLink t x).tick = s.tick := (rfl)

/-! ### Changing a part -/

@[simp] theorem State.modThread_blocks (s : State) (t : Nat) (g : Thread → Thread) : (s.modThread t g).blocks = s.blocks := by unfold State.modThread; split <;> rfl
@[simp] theorem State.modThread_launches (s : State) (t : Nat) (g : Thread → Thread) : (s.modThread t g).launches = s.launches := by unfold State.modThread; split <;> rfl
@[simp] theorem State.modThread_cores (s : State) (t : Nat) (g : Thread → Thread) : (s.modThread t g).cores = s.cores := by unfold State.modThread; split <;> rfl
@[simp] theorem State.modThread_dies (s : State) (t : Nat) (g : Thread → Thread) : (s.modThread t g).dies = s.dies := by unfold State.modThread; split <;> rfl
@[simp] theorem State.modThread_mem (s : State) (t : Nat) (g : Thread → Thread) : (s.modThread t g).mem = s.mem := by unfold State.modThread; split <;> rfl
@[simp] theorem State.modThread_poison (s : State) (t : Nat) (g : Thread → Thread) : (s.modThread t g).poison = s.poison := by unfold State.modThread; split <;> rfl
@[simp] theorem State.modThread_peer (s : State) (t : Nat) (g : Thread → Thread) : (s.modThread t g).peer = s.peer := by unfold State.modThread; split <;> rfl
@[simp] theorem State.modThread_reqs (s : State) (t : Nat) (g : Thread → Thread) : (s.modThread t g).reqs = s.reqs := by unfold State.modThread; split <;> rfl
@[simp] theorem State.modThread_cmds (s : State) (t : Nat) (g : Thread → Thread) : (s.modThread t g).cmds = s.cmds := by unfold State.modThread; split <;> rfl
@[simp] theorem State.modThread_breads (s : State) (t : Nat) (g : Thread → Thread) : (s.modThread t g).breads = s.breads := by unfold State.modThread; split <;> rfl
@[simp] theorem State.modThread_pipes (s : State) (t : Nat) (g : Thread → Thread) : (s.modThread t g).pipes = s.pipes := by unfold State.modThread; split <;> rfl
@[simp] theorem State.modThread_recs (s : State) (t : Nat) (g : Thread → Thread) : (s.modThread t g).recs = s.recs := by unfold State.modThread; split <;> rfl
@[simp] theorem State.modThread_roundAt (s : State) (t : Nat) (g : Thread → Thread) : (s.modThread t g).roundAt = s.roundAt := by unfold State.modThread; split <;> rfl
@[simp] theorem State.modThread_queues (s : State) (t : Nat) (g : Thread → Thread) : (s.modThread t g).queues = s.queues := by unfold State.modThread; split <;> rfl
@[simp] theorem State.modThread_ctxs (s : State) (t : Nat) (g : Thread → Thread) : (s.modThread t g).ctxs = s.ctxs := by unfold State.modThread; split <;> rfl
@[simp] theorem State.modThread_xlat (s : State) (t : Nat) (g : Thread → Thread) : (s.modThread t g).xlat = s.xlat := by unfold State.modThread; split <;> rfl
@[simp] theorem State.modThread_links (s : State) (t : Nat) (g : Thread → Thread) : (s.modThread t g).links = s.links := by unfold State.modThread; split <;> rfl
@[simp] theorem State.modThread_host (s : State) (t : Nat) (g : Thread → Thread) : (s.modThread t g).host = s.host := by unfold State.modThread; split <;> rfl
@[simp] theorem State.modThread_mailbox (s : State) (t : Nat) (g : Thread → Thread) : (s.modThread t g).mailbox = s.mailbox := by unfold State.modThread; split <;> rfl
@[simp] theorem State.modThread_ocwick (s : State) (t : Nat) (g : Thread → Thread) : (s.modThread t g).ocwick = s.ocwick := by unfold State.modThread; split <;> rfl
@[simp] theorem State.modThread_ended (s : State) (t : Nat) (g : Thread → Thread) : (s.modThread t g).ended = s.ended := by unfold State.modThread; split <;> rfl
@[simp] theorem State.modThread_clock (s : State) (t : Nat) (g : Thread → Thread) : (s.modThread t g).clock = s.clock := by unfold State.modThread; split <;> rfl
@[simp] theorem State.modThread_issueQ (s : State) (t : Nat) (g : Thread → Thread) : (s.modThread t g).issueQ = s.issueQ := by unfold State.modThread; split <;> rfl
@[simp] theorem State.modThread_taken (s : State) (t : Nat) (g : Thread → Thread) : (s.modThread t g).taken = s.taken := by unfold State.modThread; split <;> rfl
@[simp] theorem State.modThread_passed (s : State) (t : Nat) (g : Thread → Thread) : (s.modThread t g).passed = s.passed := by unfold State.modThread; split <;> rfl
@[simp] theorem State.modThread_cur (s : State) (t : Nat) (g : Thread → Thread) : (s.modThread t g).cur = s.cur := by unfold State.modThread; split <;> rfl
@[simp] theorem State.modThread_inputs (s : State) (t : Nat) (g : Thread → Thread) : (s.modThread t g).inputs = s.inputs := by unfold State.modThread; split <;> rfl
@[simp] theorem State.modThread_due (s : State) (t : Nat) (g : Thread → Thread) : (s.modThread t g).due = s.due := by unfold State.modThread; split <;> rfl
@[simp] theorem State.modThread_nextId (s : State) (t : Nat) (g : Thread → Thread) : (s.modThread t g).nextId = s.nextId := by unfold State.modThread; split <;> rfl
@[simp] theorem State.modThread_tick (s : State) (t : Nat) (g : Thread → Thread) : (s.modThread t g).tick = s.tick := by unfold State.modThread; split <;> rfl

@[simp] theorem State.modBlock_threads (s : State) (t : Nat) (g : Block → Block) : (s.modBlock t g).threads = s.threads := by unfold State.modBlock; split <;> rfl
@[simp] theorem State.modBlock_launches (s : State) (t : Nat) (g : Block → Block) : (s.modBlock t g).launches = s.launches := by unfold State.modBlock; split <;> rfl
@[simp] theorem State.modBlock_cores (s : State) (t : Nat) (g : Block → Block) : (s.modBlock t g).cores = s.cores := by unfold State.modBlock; split <;> rfl
@[simp] theorem State.modBlock_dies (s : State) (t : Nat) (g : Block → Block) : (s.modBlock t g).dies = s.dies := by unfold State.modBlock; split <;> rfl
@[simp] theorem State.modBlock_mem (s : State) (t : Nat) (g : Block → Block) : (s.modBlock t g).mem = s.mem := by unfold State.modBlock; split <;> rfl
@[simp] theorem State.modBlock_poison (s : State) (t : Nat) (g : Block → Block) : (s.modBlock t g).poison = s.poison := by unfold State.modBlock; split <;> rfl
@[simp] theorem State.modBlock_peer (s : State) (t : Nat) (g : Block → Block) : (s.modBlock t g).peer = s.peer := by unfold State.modBlock; split <;> rfl
@[simp] theorem State.modBlock_reqs (s : State) (t : Nat) (g : Block → Block) : (s.modBlock t g).reqs = s.reqs := by unfold State.modBlock; split <;> rfl
@[simp] theorem State.modBlock_cmds (s : State) (t : Nat) (g : Block → Block) : (s.modBlock t g).cmds = s.cmds := by unfold State.modBlock; split <;> rfl
@[simp] theorem State.modBlock_breads (s : State) (t : Nat) (g : Block → Block) : (s.modBlock t g).breads = s.breads := by unfold State.modBlock; split <;> rfl
@[simp] theorem State.modBlock_pipes (s : State) (t : Nat) (g : Block → Block) : (s.modBlock t g).pipes = s.pipes := by unfold State.modBlock; split <;> rfl
@[simp] theorem State.modBlock_recs (s : State) (t : Nat) (g : Block → Block) : (s.modBlock t g).recs = s.recs := by unfold State.modBlock; split <;> rfl
@[simp] theorem State.modBlock_roundAt (s : State) (t : Nat) (g : Block → Block) : (s.modBlock t g).roundAt = s.roundAt := by unfold State.modBlock; split <;> rfl
@[simp] theorem State.modBlock_queues (s : State) (t : Nat) (g : Block → Block) : (s.modBlock t g).queues = s.queues := by unfold State.modBlock; split <;> rfl
@[simp] theorem State.modBlock_ctxs (s : State) (t : Nat) (g : Block → Block) : (s.modBlock t g).ctxs = s.ctxs := by unfold State.modBlock; split <;> rfl
@[simp] theorem State.modBlock_xlat (s : State) (t : Nat) (g : Block → Block) : (s.modBlock t g).xlat = s.xlat := by unfold State.modBlock; split <;> rfl
@[simp] theorem State.modBlock_links (s : State) (t : Nat) (g : Block → Block) : (s.modBlock t g).links = s.links := by unfold State.modBlock; split <;> rfl
@[simp] theorem State.modBlock_host (s : State) (t : Nat) (g : Block → Block) : (s.modBlock t g).host = s.host := by unfold State.modBlock; split <;> rfl
@[simp] theorem State.modBlock_mailbox (s : State) (t : Nat) (g : Block → Block) : (s.modBlock t g).mailbox = s.mailbox := by unfold State.modBlock; split <;> rfl
@[simp] theorem State.modBlock_ocwick (s : State) (t : Nat) (g : Block → Block) : (s.modBlock t g).ocwick = s.ocwick := by unfold State.modBlock; split <;> rfl
@[simp] theorem State.modBlock_ended (s : State) (t : Nat) (g : Block → Block) : (s.modBlock t g).ended = s.ended := by unfold State.modBlock; split <;> rfl
@[simp] theorem State.modBlock_clock (s : State) (t : Nat) (g : Block → Block) : (s.modBlock t g).clock = s.clock := by unfold State.modBlock; split <;> rfl
@[simp] theorem State.modBlock_issueQ (s : State) (t : Nat) (g : Block → Block) : (s.modBlock t g).issueQ = s.issueQ := by unfold State.modBlock; split <;> rfl
@[simp] theorem State.modBlock_taken (s : State) (t : Nat) (g : Block → Block) : (s.modBlock t g).taken = s.taken := by unfold State.modBlock; split <;> rfl
@[simp] theorem State.modBlock_passed (s : State) (t : Nat) (g : Block → Block) : (s.modBlock t g).passed = s.passed := by unfold State.modBlock; split <;> rfl
@[simp] theorem State.modBlock_cur (s : State) (t : Nat) (g : Block → Block) : (s.modBlock t g).cur = s.cur := by unfold State.modBlock; split <;> rfl
@[simp] theorem State.modBlock_inputs (s : State) (t : Nat) (g : Block → Block) : (s.modBlock t g).inputs = s.inputs := by unfold State.modBlock; split <;> rfl
@[simp] theorem State.modBlock_due (s : State) (t : Nat) (g : Block → Block) : (s.modBlock t g).due = s.due := by unfold State.modBlock; split <;> rfl
@[simp] theorem State.modBlock_nextId (s : State) (t : Nat) (g : Block → Block) : (s.modBlock t g).nextId = s.nextId := by unfold State.modBlock; split <;> rfl
@[simp] theorem State.modBlock_tick (s : State) (t : Nat) (g : Block → Block) : (s.modBlock t g).tick = s.tick := by unfold State.modBlock; split <;> rfl

@[simp] theorem State.modLaunch_threads (s : State) (t : Nat) (g : Launch → Launch) : (s.modLaunch t g).threads = s.threads := by unfold State.modLaunch; split <;> rfl
@[simp] theorem State.modLaunch_blocks (s : State) (t : Nat) (g : Launch → Launch) : (s.modLaunch t g).blocks = s.blocks := by unfold State.modLaunch; split <;> rfl
@[simp] theorem State.modLaunch_cores (s : State) (t : Nat) (g : Launch → Launch) : (s.modLaunch t g).cores = s.cores := by unfold State.modLaunch; split <;> rfl
@[simp] theorem State.modLaunch_dies (s : State) (t : Nat) (g : Launch → Launch) : (s.modLaunch t g).dies = s.dies := by unfold State.modLaunch; split <;> rfl
@[simp] theorem State.modLaunch_mem (s : State) (t : Nat) (g : Launch → Launch) : (s.modLaunch t g).mem = s.mem := by unfold State.modLaunch; split <;> rfl
@[simp] theorem State.modLaunch_poison (s : State) (t : Nat) (g : Launch → Launch) : (s.modLaunch t g).poison = s.poison := by unfold State.modLaunch; split <;> rfl
@[simp] theorem State.modLaunch_peer (s : State) (t : Nat) (g : Launch → Launch) : (s.modLaunch t g).peer = s.peer := by unfold State.modLaunch; split <;> rfl
@[simp] theorem State.modLaunch_reqs (s : State) (t : Nat) (g : Launch → Launch) : (s.modLaunch t g).reqs = s.reqs := by unfold State.modLaunch; split <;> rfl
@[simp] theorem State.modLaunch_cmds (s : State) (t : Nat) (g : Launch → Launch) : (s.modLaunch t g).cmds = s.cmds := by unfold State.modLaunch; split <;> rfl
@[simp] theorem State.modLaunch_breads (s : State) (t : Nat) (g : Launch → Launch) : (s.modLaunch t g).breads = s.breads := by unfold State.modLaunch; split <;> rfl
@[simp] theorem State.modLaunch_pipes (s : State) (t : Nat) (g : Launch → Launch) : (s.modLaunch t g).pipes = s.pipes := by unfold State.modLaunch; split <;> rfl
@[simp] theorem State.modLaunch_recs (s : State) (t : Nat) (g : Launch → Launch) : (s.modLaunch t g).recs = s.recs := by unfold State.modLaunch; split <;> rfl
@[simp] theorem State.modLaunch_roundAt (s : State) (t : Nat) (g : Launch → Launch) : (s.modLaunch t g).roundAt = s.roundAt := by unfold State.modLaunch; split <;> rfl
@[simp] theorem State.modLaunch_queues (s : State) (t : Nat) (g : Launch → Launch) : (s.modLaunch t g).queues = s.queues := by unfold State.modLaunch; split <;> rfl
@[simp] theorem State.modLaunch_ctxs (s : State) (t : Nat) (g : Launch → Launch) : (s.modLaunch t g).ctxs = s.ctxs := by unfold State.modLaunch; split <;> rfl
@[simp] theorem State.modLaunch_xlat (s : State) (t : Nat) (g : Launch → Launch) : (s.modLaunch t g).xlat = s.xlat := by unfold State.modLaunch; split <;> rfl
@[simp] theorem State.modLaunch_links (s : State) (t : Nat) (g : Launch → Launch) : (s.modLaunch t g).links = s.links := by unfold State.modLaunch; split <;> rfl
@[simp] theorem State.modLaunch_host (s : State) (t : Nat) (g : Launch → Launch) : (s.modLaunch t g).host = s.host := by unfold State.modLaunch; split <;> rfl
@[simp] theorem State.modLaunch_mailbox (s : State) (t : Nat) (g : Launch → Launch) : (s.modLaunch t g).mailbox = s.mailbox := by unfold State.modLaunch; split <;> rfl
@[simp] theorem State.modLaunch_ocwick (s : State) (t : Nat) (g : Launch → Launch) : (s.modLaunch t g).ocwick = s.ocwick := by unfold State.modLaunch; split <;> rfl
@[simp] theorem State.modLaunch_ended (s : State) (t : Nat) (g : Launch → Launch) : (s.modLaunch t g).ended = s.ended := by unfold State.modLaunch; split <;> rfl
@[simp] theorem State.modLaunch_clock (s : State) (t : Nat) (g : Launch → Launch) : (s.modLaunch t g).clock = s.clock := by unfold State.modLaunch; split <;> rfl
@[simp] theorem State.modLaunch_issueQ (s : State) (t : Nat) (g : Launch → Launch) : (s.modLaunch t g).issueQ = s.issueQ := by unfold State.modLaunch; split <;> rfl
@[simp] theorem State.modLaunch_taken (s : State) (t : Nat) (g : Launch → Launch) : (s.modLaunch t g).taken = s.taken := by unfold State.modLaunch; split <;> rfl
@[simp] theorem State.modLaunch_passed (s : State) (t : Nat) (g : Launch → Launch) : (s.modLaunch t g).passed = s.passed := by unfold State.modLaunch; split <;> rfl
@[simp] theorem State.modLaunch_cur (s : State) (t : Nat) (g : Launch → Launch) : (s.modLaunch t g).cur = s.cur := by unfold State.modLaunch; split <;> rfl
@[simp] theorem State.modLaunch_inputs (s : State) (t : Nat) (g : Launch → Launch) : (s.modLaunch t g).inputs = s.inputs := by unfold State.modLaunch; split <;> rfl
@[simp] theorem State.modLaunch_due (s : State) (t : Nat) (g : Launch → Launch) : (s.modLaunch t g).due = s.due := by unfold State.modLaunch; split <;> rfl
@[simp] theorem State.modLaunch_nextId (s : State) (t : Nat) (g : Launch → Launch) : (s.modLaunch t g).nextId = s.nextId := by unfold State.modLaunch; split <;> rfl
@[simp] theorem State.modLaunch_tick (s : State) (t : Nat) (g : Launch → Launch) : (s.modLaunch t g).tick = s.tick := by unfold State.modLaunch; split <;> rfl

@[simp] theorem State.modBread_threads (s : State) (t : Nat) (g : Bread → Bread) : (s.modBread t g).threads = s.threads := by unfold State.modBread; split <;> rfl
@[simp] theorem State.modBread_blocks (s : State) (t : Nat) (g : Bread → Bread) : (s.modBread t g).blocks = s.blocks := by unfold State.modBread; split <;> rfl
@[simp] theorem State.modBread_launches (s : State) (t : Nat) (g : Bread → Bread) : (s.modBread t g).launches = s.launches := by unfold State.modBread; split <;> rfl
@[simp] theorem State.modBread_cores (s : State) (t : Nat) (g : Bread → Bread) : (s.modBread t g).cores = s.cores := by unfold State.modBread; split <;> rfl
@[simp] theorem State.modBread_dies (s : State) (t : Nat) (g : Bread → Bread) : (s.modBread t g).dies = s.dies := by unfold State.modBread; split <;> rfl
@[simp] theorem State.modBread_mem (s : State) (t : Nat) (g : Bread → Bread) : (s.modBread t g).mem = s.mem := by unfold State.modBread; split <;> rfl
@[simp] theorem State.modBread_poison (s : State) (t : Nat) (g : Bread → Bread) : (s.modBread t g).poison = s.poison := by unfold State.modBread; split <;> rfl
@[simp] theorem State.modBread_peer (s : State) (t : Nat) (g : Bread → Bread) : (s.modBread t g).peer = s.peer := by unfold State.modBread; split <;> rfl
@[simp] theorem State.modBread_reqs (s : State) (t : Nat) (g : Bread → Bread) : (s.modBread t g).reqs = s.reqs := by unfold State.modBread; split <;> rfl
@[simp] theorem State.modBread_cmds (s : State) (t : Nat) (g : Bread → Bread) : (s.modBread t g).cmds = s.cmds := by unfold State.modBread; split <;> rfl
@[simp] theorem State.modBread_pipes (s : State) (t : Nat) (g : Bread → Bread) : (s.modBread t g).pipes = s.pipes := by unfold State.modBread; split <;> rfl
@[simp] theorem State.modBread_recs (s : State) (t : Nat) (g : Bread → Bread) : (s.modBread t g).recs = s.recs := by unfold State.modBread; split <;> rfl
@[simp] theorem State.modBread_roundAt (s : State) (t : Nat) (g : Bread → Bread) : (s.modBread t g).roundAt = s.roundAt := by unfold State.modBread; split <;> rfl
@[simp] theorem State.modBread_queues (s : State) (t : Nat) (g : Bread → Bread) : (s.modBread t g).queues = s.queues := by unfold State.modBread; split <;> rfl
@[simp] theorem State.modBread_ctxs (s : State) (t : Nat) (g : Bread → Bread) : (s.modBread t g).ctxs = s.ctxs := by unfold State.modBread; split <;> rfl
@[simp] theorem State.modBread_xlat (s : State) (t : Nat) (g : Bread → Bread) : (s.modBread t g).xlat = s.xlat := by unfold State.modBread; split <;> rfl
@[simp] theorem State.modBread_links (s : State) (t : Nat) (g : Bread → Bread) : (s.modBread t g).links = s.links := by unfold State.modBread; split <;> rfl
@[simp] theorem State.modBread_host (s : State) (t : Nat) (g : Bread → Bread) : (s.modBread t g).host = s.host := by unfold State.modBread; split <;> rfl
@[simp] theorem State.modBread_mailbox (s : State) (t : Nat) (g : Bread → Bread) : (s.modBread t g).mailbox = s.mailbox := by unfold State.modBread; split <;> rfl
@[simp] theorem State.modBread_ocwick (s : State) (t : Nat) (g : Bread → Bread) : (s.modBread t g).ocwick = s.ocwick := by unfold State.modBread; split <;> rfl
@[simp] theorem State.modBread_ended (s : State) (t : Nat) (g : Bread → Bread) : (s.modBread t g).ended = s.ended := by unfold State.modBread; split <;> rfl
@[simp] theorem State.modBread_clock (s : State) (t : Nat) (g : Bread → Bread) : (s.modBread t g).clock = s.clock := by unfold State.modBread; split <;> rfl
@[simp] theorem State.modBread_issueQ (s : State) (t : Nat) (g : Bread → Bread) : (s.modBread t g).issueQ = s.issueQ := by unfold State.modBread; split <;> rfl
@[simp] theorem State.modBread_taken (s : State) (t : Nat) (g : Bread → Bread) : (s.modBread t g).taken = s.taken := by unfold State.modBread; split <;> rfl
@[simp] theorem State.modBread_passed (s : State) (t : Nat) (g : Bread → Bread) : (s.modBread t g).passed = s.passed := by unfold State.modBread; split <;> rfl
@[simp] theorem State.modBread_cur (s : State) (t : Nat) (g : Bread → Bread) : (s.modBread t g).cur = s.cur := by unfold State.modBread; split <;> rfl
@[simp] theorem State.modBread_inputs (s : State) (t : Nat) (g : Bread → Bread) : (s.modBread t g).inputs = s.inputs := by unfold State.modBread; split <;> rfl
@[simp] theorem State.modBread_due (s : State) (t : Nat) (g : Bread → Bread) : (s.modBread t g).due = s.due := by unfold State.modBread; split <;> rfl
@[simp] theorem State.modBread_nextId (s : State) (t : Nat) (g : Bread → Bread) : (s.modBread t g).nextId = s.nextId := by unfold State.modBread; split <;> rfl
@[simp] theorem State.modBread_tick (s : State) (t : Nat) (g : Bread → Bread) : (s.modBread t g).tick = s.tick := by unfold State.modBread; split <;> rfl

@[simp] theorem State.modCtx_threads (s : State) (t : Nat) (g : PipeCtx → PipeCtx) : (s.modCtx t g).threads = s.threads := by unfold State.modCtx; split <;> rfl
@[simp] theorem State.modCtx_blocks (s : State) (t : Nat) (g : PipeCtx → PipeCtx) : (s.modCtx t g).blocks = s.blocks := by unfold State.modCtx; split <;> rfl
@[simp] theorem State.modCtx_launches (s : State) (t : Nat) (g : PipeCtx → PipeCtx) : (s.modCtx t g).launches = s.launches := by unfold State.modCtx; split <;> rfl
@[simp] theorem State.modCtx_cores (s : State) (t : Nat) (g : PipeCtx → PipeCtx) : (s.modCtx t g).cores = s.cores := by unfold State.modCtx; split <;> rfl
@[simp] theorem State.modCtx_dies (s : State) (t : Nat) (g : PipeCtx → PipeCtx) : (s.modCtx t g).dies = s.dies := by unfold State.modCtx; split <;> rfl
@[simp] theorem State.modCtx_mem (s : State) (t : Nat) (g : PipeCtx → PipeCtx) : (s.modCtx t g).mem = s.mem := by unfold State.modCtx; split <;> rfl
@[simp] theorem State.modCtx_poison (s : State) (t : Nat) (g : PipeCtx → PipeCtx) : (s.modCtx t g).poison = s.poison := by unfold State.modCtx; split <;> rfl
@[simp] theorem State.modCtx_peer (s : State) (t : Nat) (g : PipeCtx → PipeCtx) : (s.modCtx t g).peer = s.peer := by unfold State.modCtx; split <;> rfl
@[simp] theorem State.modCtx_reqs (s : State) (t : Nat) (g : PipeCtx → PipeCtx) : (s.modCtx t g).reqs = s.reqs := by unfold State.modCtx; split <;> rfl
@[simp] theorem State.modCtx_cmds (s : State) (t : Nat) (g : PipeCtx → PipeCtx) : (s.modCtx t g).cmds = s.cmds := by unfold State.modCtx; split <;> rfl
@[simp] theorem State.modCtx_breads (s : State) (t : Nat) (g : PipeCtx → PipeCtx) : (s.modCtx t g).breads = s.breads := by unfold State.modCtx; split <;> rfl
@[simp] theorem State.modCtx_pipes (s : State) (t : Nat) (g : PipeCtx → PipeCtx) : (s.modCtx t g).pipes = s.pipes := by unfold State.modCtx; split <;> rfl
@[simp] theorem State.modCtx_recs (s : State) (t : Nat) (g : PipeCtx → PipeCtx) : (s.modCtx t g).recs = s.recs := by unfold State.modCtx; split <;> rfl
@[simp] theorem State.modCtx_roundAt (s : State) (t : Nat) (g : PipeCtx → PipeCtx) : (s.modCtx t g).roundAt = s.roundAt := by unfold State.modCtx; split <;> rfl
@[simp] theorem State.modCtx_queues (s : State) (t : Nat) (g : PipeCtx → PipeCtx) : (s.modCtx t g).queues = s.queues := by unfold State.modCtx; split <;> rfl
@[simp] theorem State.modCtx_xlat (s : State) (t : Nat) (g : PipeCtx → PipeCtx) : (s.modCtx t g).xlat = s.xlat := by unfold State.modCtx; split <;> rfl
@[simp] theorem State.modCtx_links (s : State) (t : Nat) (g : PipeCtx → PipeCtx) : (s.modCtx t g).links = s.links := by unfold State.modCtx; split <;> rfl
@[simp] theorem State.modCtx_host (s : State) (t : Nat) (g : PipeCtx → PipeCtx) : (s.modCtx t g).host = s.host := by unfold State.modCtx; split <;> rfl
@[simp] theorem State.modCtx_mailbox (s : State) (t : Nat) (g : PipeCtx → PipeCtx) : (s.modCtx t g).mailbox = s.mailbox := by unfold State.modCtx; split <;> rfl
@[simp] theorem State.modCtx_ocwick (s : State) (t : Nat) (g : PipeCtx → PipeCtx) : (s.modCtx t g).ocwick = s.ocwick := by unfold State.modCtx; split <;> rfl
@[simp] theorem State.modCtx_ended (s : State) (t : Nat) (g : PipeCtx → PipeCtx) : (s.modCtx t g).ended = s.ended := by unfold State.modCtx; split <;> rfl
@[simp] theorem State.modCtx_clock (s : State) (t : Nat) (g : PipeCtx → PipeCtx) : (s.modCtx t g).clock = s.clock := by unfold State.modCtx; split <;> rfl
@[simp] theorem State.modCtx_issueQ (s : State) (t : Nat) (g : PipeCtx → PipeCtx) : (s.modCtx t g).issueQ = s.issueQ := by unfold State.modCtx; split <;> rfl
@[simp] theorem State.modCtx_taken (s : State) (t : Nat) (g : PipeCtx → PipeCtx) : (s.modCtx t g).taken = s.taken := by unfold State.modCtx; split <;> rfl
@[simp] theorem State.modCtx_passed (s : State) (t : Nat) (g : PipeCtx → PipeCtx) : (s.modCtx t g).passed = s.passed := by unfold State.modCtx; split <;> rfl
@[simp] theorem State.modCtx_cur (s : State) (t : Nat) (g : PipeCtx → PipeCtx) : (s.modCtx t g).cur = s.cur := by unfold State.modCtx; split <;> rfl
@[simp] theorem State.modCtx_inputs (s : State) (t : Nat) (g : PipeCtx → PipeCtx) : (s.modCtx t g).inputs = s.inputs := by unfold State.modCtx; split <;> rfl
@[simp] theorem State.modCtx_due (s : State) (t : Nat) (g : PipeCtx → PipeCtx) : (s.modCtx t g).due = s.due := by unfold State.modCtx; split <;> rfl
@[simp] theorem State.modCtx_nextId (s : State) (t : Nat) (g : PipeCtx → PipeCtx) : (s.modCtx t g).nextId = s.nextId := by unfold State.modCtx; split <;> rfl
@[simp] theorem State.modCtx_tick (s : State) (t : Nat) (g : PipeCtx → PipeCtx) : (s.modCtx t g).tick = s.tick := by unfold State.modCtx; split <;> rfl

@[simp] theorem State.modCore_threads (s : State) (t : Nat) (g : Core → Core) : (s.modCore t g).threads = s.threads := (rfl)
@[simp] theorem State.modCore_blocks (s : State) (t : Nat) (g : Core → Core) : (s.modCore t g).blocks = s.blocks := (rfl)
@[simp] theorem State.modCore_launches (s : State) (t : Nat) (g : Core → Core) : (s.modCore t g).launches = s.launches := (rfl)
@[simp] theorem State.modCore_dies (s : State) (t : Nat) (g : Core → Core) : (s.modCore t g).dies = s.dies := (rfl)
@[simp] theorem State.modCore_mem (s : State) (t : Nat) (g : Core → Core) : (s.modCore t g).mem = s.mem := (rfl)
@[simp] theorem State.modCore_poison (s : State) (t : Nat) (g : Core → Core) : (s.modCore t g).poison = s.poison := (rfl)
@[simp] theorem State.modCore_peer (s : State) (t : Nat) (g : Core → Core) : (s.modCore t g).peer = s.peer := (rfl)
@[simp] theorem State.modCore_reqs (s : State) (t : Nat) (g : Core → Core) : (s.modCore t g).reqs = s.reqs := (rfl)
@[simp] theorem State.modCore_cmds (s : State) (t : Nat) (g : Core → Core) : (s.modCore t g).cmds = s.cmds := (rfl)
@[simp] theorem State.modCore_breads (s : State) (t : Nat) (g : Core → Core) : (s.modCore t g).breads = s.breads := (rfl)
@[simp] theorem State.modCore_pipes (s : State) (t : Nat) (g : Core → Core) : (s.modCore t g).pipes = s.pipes := (rfl)
@[simp] theorem State.modCore_recs (s : State) (t : Nat) (g : Core → Core) : (s.modCore t g).recs = s.recs := (rfl)
@[simp] theorem State.modCore_roundAt (s : State) (t : Nat) (g : Core → Core) : (s.modCore t g).roundAt = s.roundAt := (rfl)
@[simp] theorem State.modCore_queues (s : State) (t : Nat) (g : Core → Core) : (s.modCore t g).queues = s.queues := (rfl)
@[simp] theorem State.modCore_ctxs (s : State) (t : Nat) (g : Core → Core) : (s.modCore t g).ctxs = s.ctxs := (rfl)
@[simp] theorem State.modCore_xlat (s : State) (t : Nat) (g : Core → Core) : (s.modCore t g).xlat = s.xlat := (rfl)
@[simp] theorem State.modCore_links (s : State) (t : Nat) (g : Core → Core) : (s.modCore t g).links = s.links := (rfl)
@[simp] theorem State.modCore_host (s : State) (t : Nat) (g : Core → Core) : (s.modCore t g).host = s.host := (rfl)
@[simp] theorem State.modCore_mailbox (s : State) (t : Nat) (g : Core → Core) : (s.modCore t g).mailbox = s.mailbox := (rfl)
@[simp] theorem State.modCore_ocwick (s : State) (t : Nat) (g : Core → Core) : (s.modCore t g).ocwick = s.ocwick := (rfl)
@[simp] theorem State.modCore_ended (s : State) (t : Nat) (g : Core → Core) : (s.modCore t g).ended = s.ended := (rfl)
@[simp] theorem State.modCore_clock (s : State) (t : Nat) (g : Core → Core) : (s.modCore t g).clock = s.clock := (rfl)
@[simp] theorem State.modCore_issueQ (s : State) (t : Nat) (g : Core → Core) : (s.modCore t g).issueQ = s.issueQ := (rfl)
@[simp] theorem State.modCore_taken (s : State) (t : Nat) (g : Core → Core) : (s.modCore t g).taken = s.taken := (rfl)
@[simp] theorem State.modCore_passed (s : State) (t : Nat) (g : Core → Core) : (s.modCore t g).passed = s.passed := (rfl)
@[simp] theorem State.modCore_cur (s : State) (t : Nat) (g : Core → Core) : (s.modCore t g).cur = s.cur := (rfl)
@[simp] theorem State.modCore_inputs (s : State) (t : Nat) (g : Core → Core) : (s.modCore t g).inputs = s.inputs := (rfl)
@[simp] theorem State.modCore_due (s : State) (t : Nat) (g : Core → Core) : (s.modCore t g).due = s.due := (rfl)
@[simp] theorem State.modCore_nextId (s : State) (t : Nat) (g : Core → Core) : (s.modCore t g).nextId = s.nextId := (rfl)
@[simp] theorem State.modCore_tick (s : State) (t : Nat) (g : Core → Core) : (s.modCore t g).tick = s.tick := (rfl)

@[simp] theorem State.modDie_threads (s : State) (t : Nat) (g : Die → Die) : (s.modDie t g).threads = s.threads := (rfl)
@[simp] theorem State.modDie_blocks (s : State) (t : Nat) (g : Die → Die) : (s.modDie t g).blocks = s.blocks := (rfl)
@[simp] theorem State.modDie_launches (s : State) (t : Nat) (g : Die → Die) : (s.modDie t g).launches = s.launches := (rfl)
@[simp] theorem State.modDie_cores (s : State) (t : Nat) (g : Die → Die) : (s.modDie t g).cores = s.cores := (rfl)
@[simp] theorem State.modDie_mem (s : State) (t : Nat) (g : Die → Die) : (s.modDie t g).mem = s.mem := (rfl)
@[simp] theorem State.modDie_poison (s : State) (t : Nat) (g : Die → Die) : (s.modDie t g).poison = s.poison := (rfl)
@[simp] theorem State.modDie_peer (s : State) (t : Nat) (g : Die → Die) : (s.modDie t g).peer = s.peer := (rfl)
@[simp] theorem State.modDie_reqs (s : State) (t : Nat) (g : Die → Die) : (s.modDie t g).reqs = s.reqs := (rfl)
@[simp] theorem State.modDie_cmds (s : State) (t : Nat) (g : Die → Die) : (s.modDie t g).cmds = s.cmds := (rfl)
@[simp] theorem State.modDie_breads (s : State) (t : Nat) (g : Die → Die) : (s.modDie t g).breads = s.breads := (rfl)
@[simp] theorem State.modDie_pipes (s : State) (t : Nat) (g : Die → Die) : (s.modDie t g).pipes = s.pipes := (rfl)
@[simp] theorem State.modDie_recs (s : State) (t : Nat) (g : Die → Die) : (s.modDie t g).recs = s.recs := (rfl)
@[simp] theorem State.modDie_roundAt (s : State) (t : Nat) (g : Die → Die) : (s.modDie t g).roundAt = s.roundAt := (rfl)
@[simp] theorem State.modDie_queues (s : State) (t : Nat) (g : Die → Die) : (s.modDie t g).queues = s.queues := (rfl)
@[simp] theorem State.modDie_ctxs (s : State) (t : Nat) (g : Die → Die) : (s.modDie t g).ctxs = s.ctxs := (rfl)
@[simp] theorem State.modDie_xlat (s : State) (t : Nat) (g : Die → Die) : (s.modDie t g).xlat = s.xlat := (rfl)
@[simp] theorem State.modDie_links (s : State) (t : Nat) (g : Die → Die) : (s.modDie t g).links = s.links := (rfl)
@[simp] theorem State.modDie_host (s : State) (t : Nat) (g : Die → Die) : (s.modDie t g).host = s.host := (rfl)
@[simp] theorem State.modDie_mailbox (s : State) (t : Nat) (g : Die → Die) : (s.modDie t g).mailbox = s.mailbox := (rfl)
@[simp] theorem State.modDie_ocwick (s : State) (t : Nat) (g : Die → Die) : (s.modDie t g).ocwick = s.ocwick := (rfl)
@[simp] theorem State.modDie_ended (s : State) (t : Nat) (g : Die → Die) : (s.modDie t g).ended = s.ended := (rfl)
@[simp] theorem State.modDie_clock (s : State) (t : Nat) (g : Die → Die) : (s.modDie t g).clock = s.clock := (rfl)
@[simp] theorem State.modDie_issueQ (s : State) (t : Nat) (g : Die → Die) : (s.modDie t g).issueQ = s.issueQ := (rfl)
@[simp] theorem State.modDie_taken (s : State) (t : Nat) (g : Die → Die) : (s.modDie t g).taken = s.taken := (rfl)
@[simp] theorem State.modDie_passed (s : State) (t : Nat) (g : Die → Die) : (s.modDie t g).passed = s.passed := (rfl)
@[simp] theorem State.modDie_cur (s : State) (t : Nat) (g : Die → Die) : (s.modDie t g).cur = s.cur := (rfl)
@[simp] theorem State.modDie_inputs (s : State) (t : Nat) (g : Die → Die) : (s.modDie t g).inputs = s.inputs := (rfl)
@[simp] theorem State.modDie_due (s : State) (t : Nat) (g : Die → Die) : (s.modDie t g).due = s.due := (rfl)
@[simp] theorem State.modDie_nextId (s : State) (t : Nat) (g : Die → Die) : (s.modDie t g).nextId = s.nextId := (rfl)
@[simp] theorem State.modDie_tick (s : State) (t : Nat) (g : Die → Die) : (s.modDie t g).tick = s.tick := (rfl)

/-! ### Numbers and choices -/

@[simp] theorem State.fresh_threads (s : State) : s.fresh.2.threads = s.threads := (rfl)
@[simp] theorem State.fresh_blocks (s : State) : s.fresh.2.blocks = s.blocks := (rfl)
@[simp] theorem State.fresh_launches (s : State) : s.fresh.2.launches = s.launches := (rfl)
@[simp] theorem State.fresh_cores (s : State) : s.fresh.2.cores = s.cores := (rfl)
@[simp] theorem State.fresh_dies (s : State) : s.fresh.2.dies = s.dies := (rfl)
@[simp] theorem State.fresh_mem (s : State) : s.fresh.2.mem = s.mem := (rfl)
@[simp] theorem State.fresh_poison (s : State) : s.fresh.2.poison = s.poison := (rfl)
@[simp] theorem State.fresh_peer (s : State) : s.fresh.2.peer = s.peer := (rfl)
@[simp] theorem State.fresh_reqs (s : State) : s.fresh.2.reqs = s.reqs := (rfl)
@[simp] theorem State.fresh_cmds (s : State) : s.fresh.2.cmds = s.cmds := (rfl)
@[simp] theorem State.fresh_breads (s : State) : s.fresh.2.breads = s.breads := (rfl)
@[simp] theorem State.fresh_pipes (s : State) : s.fresh.2.pipes = s.pipes := (rfl)
@[simp] theorem State.fresh_recs (s : State) : s.fresh.2.recs = s.recs := (rfl)
@[simp] theorem State.fresh_roundAt (s : State) : s.fresh.2.roundAt = s.roundAt := (rfl)
@[simp] theorem State.fresh_queues (s : State) : s.fresh.2.queues = s.queues := (rfl)
@[simp] theorem State.fresh_ctxs (s : State) : s.fresh.2.ctxs = s.ctxs := (rfl)
@[simp] theorem State.fresh_xlat (s : State) : s.fresh.2.xlat = s.xlat := (rfl)
@[simp] theorem State.fresh_links (s : State) : s.fresh.2.links = s.links := (rfl)
@[simp] theorem State.fresh_host (s : State) : s.fresh.2.host = s.host := (rfl)
@[simp] theorem State.fresh_mailbox (s : State) : s.fresh.2.mailbox = s.mailbox := (rfl)
@[simp] theorem State.fresh_ocwick (s : State) : s.fresh.2.ocwick = s.ocwick := (rfl)
@[simp] theorem State.fresh_ended (s : State) : s.fresh.2.ended = s.ended := (rfl)
@[simp] theorem State.fresh_clock (s : State) : s.fresh.2.clock = s.clock := (rfl)
@[simp] theorem State.fresh_issueQ (s : State) : s.fresh.2.issueQ = s.issueQ := (rfl)
@[simp] theorem State.fresh_taken (s : State) : s.fresh.2.taken = s.taken := (rfl)
@[simp] theorem State.fresh_passed (s : State) : s.fresh.2.passed = s.passed := (rfl)
@[simp] theorem State.fresh_cur (s : State) : s.fresh.2.cur = s.cur := (rfl)
@[simp] theorem State.fresh_inputs (s : State) : s.fresh.2.inputs = s.inputs := (rfl)
@[simp] theorem State.fresh_due (s : State) : s.fresh.2.due = s.due := (rfl)
@[simp] theorem State.fresh_tick (s : State) : s.fresh.2.tick = s.tick := (rfl)

@[simp] theorem State.draw_threads (s : State) (n : Nat) : (s.draw n).2.threads = s.threads := by unfold State.draw; split <;> rfl
@[simp] theorem State.draw_blocks (s : State) (n : Nat) : (s.draw n).2.blocks = s.blocks := by unfold State.draw; split <;> rfl
@[simp] theorem State.draw_launches (s : State) (n : Nat) : (s.draw n).2.launches = s.launches := by unfold State.draw; split <;> rfl
@[simp] theorem State.draw_cores (s : State) (n : Nat) : (s.draw n).2.cores = s.cores := by unfold State.draw; split <;> rfl
@[simp] theorem State.draw_dies (s : State) (n : Nat) : (s.draw n).2.dies = s.dies := by unfold State.draw; split <;> rfl
@[simp] theorem State.draw_mem (s : State) (n : Nat) : (s.draw n).2.mem = s.mem := by unfold State.draw; split <;> rfl
@[simp] theorem State.draw_poison (s : State) (n : Nat) : (s.draw n).2.poison = s.poison := by unfold State.draw; split <;> rfl
@[simp] theorem State.draw_peer (s : State) (n : Nat) : (s.draw n).2.peer = s.peer := by unfold State.draw; split <;> rfl
@[simp] theorem State.draw_reqs (s : State) (n : Nat) : (s.draw n).2.reqs = s.reqs := by unfold State.draw; split <;> rfl
@[simp] theorem State.draw_cmds (s : State) (n : Nat) : (s.draw n).2.cmds = s.cmds := by unfold State.draw; split <;> rfl
@[simp] theorem State.draw_breads (s : State) (n : Nat) : (s.draw n).2.breads = s.breads := by unfold State.draw; split <;> rfl
@[simp] theorem State.draw_pipes (s : State) (n : Nat) : (s.draw n).2.pipes = s.pipes := by unfold State.draw; split <;> rfl
@[simp] theorem State.draw_recs (s : State) (n : Nat) : (s.draw n).2.recs = s.recs := by unfold State.draw; split <;> rfl
@[simp] theorem State.draw_roundAt (s : State) (n : Nat) : (s.draw n).2.roundAt = s.roundAt := by unfold State.draw; split <;> rfl
@[simp] theorem State.draw_queues (s : State) (n : Nat) : (s.draw n).2.queues = s.queues := by unfold State.draw; split <;> rfl
@[simp] theorem State.draw_ctxs (s : State) (n : Nat) : (s.draw n).2.ctxs = s.ctxs := by unfold State.draw; split <;> rfl
@[simp] theorem State.draw_xlat (s : State) (n : Nat) : (s.draw n).2.xlat = s.xlat := by unfold State.draw; split <;> rfl
@[simp] theorem State.draw_links (s : State) (n : Nat) : (s.draw n).2.links = s.links := by unfold State.draw; split <;> rfl
@[simp] theorem State.draw_host (s : State) (n : Nat) : (s.draw n).2.host = s.host := by unfold State.draw; split <;> rfl
@[simp] theorem State.draw_mailbox (s : State) (n : Nat) : (s.draw n).2.mailbox = s.mailbox := by unfold State.draw; split <;> rfl
@[simp] theorem State.draw_ocwick (s : State) (n : Nat) : (s.draw n).2.ocwick = s.ocwick := by unfold State.draw; split <;> rfl
@[simp] theorem State.draw_ended (s : State) (n : Nat) : (s.draw n).2.ended = s.ended := by unfold State.draw; split <;> rfl
@[simp] theorem State.draw_clock (s : State) (n : Nat) : (s.draw n).2.clock = s.clock := by unfold State.draw; split <;> rfl
@[simp] theorem State.draw_issueQ (s : State) (n : Nat) : (s.draw n).2.issueQ = s.issueQ := by unfold State.draw; split <;> rfl
@[simp] theorem State.draw_taken (s : State) (n : Nat) : (s.draw n).2.taken = s.taken := by unfold State.draw; split <;> rfl
@[simp] theorem State.draw_passed (s : State) (n : Nat) : (s.draw n).2.passed = s.passed := by unfold State.draw; split <;> rfl
@[simp] theorem State.draw_cur (s : State) (n : Nat) : (s.draw n).2.cur = s.cur := by unfold State.draw; split <;> rfl
@[simp] theorem State.draw_inputs (s : State) (n : Nat) : (s.draw n).2.inputs = s.inputs := by unfold State.draw; split <;> rfl
@[simp] theorem State.draw_due (s : State) (n : Nat) : (s.draw n).2.due = s.due := by unfold State.draw; split <;> rfl
@[simp] theorem State.draw_nextId (s : State) (n : Nat) : (s.draw n).2.nextId = s.nextId := by unfold State.draw; split <;> rfl

@[simp] theorem State.drawFrom_threads {α : Type} (s : State) (d : α) (l : List α) : (s.drawFrom d l).2.threads = s.threads := State.draw_threads s l.length
@[simp] theorem State.drawFrom_blocks {α : Type} (s : State) (d : α) (l : List α) : (s.drawFrom d l).2.blocks = s.blocks := State.draw_blocks s l.length
@[simp] theorem State.drawFrom_launches {α : Type} (s : State) (d : α) (l : List α) : (s.drawFrom d l).2.launches = s.launches := State.draw_launches s l.length
@[simp] theorem State.drawFrom_cores {α : Type} (s : State) (d : α) (l : List α) : (s.drawFrom d l).2.cores = s.cores := State.draw_cores s l.length
@[simp] theorem State.drawFrom_dies {α : Type} (s : State) (d : α) (l : List α) : (s.drawFrom d l).2.dies = s.dies := State.draw_dies s l.length
@[simp] theorem State.drawFrom_mem {α : Type} (s : State) (d : α) (l : List α) : (s.drawFrom d l).2.mem = s.mem := State.draw_mem s l.length
@[simp] theorem State.drawFrom_poison {α : Type} (s : State) (d : α) (l : List α) : (s.drawFrom d l).2.poison = s.poison := State.draw_poison s l.length
@[simp] theorem State.drawFrom_peer {α : Type} (s : State) (d : α) (l : List α) : (s.drawFrom d l).2.peer = s.peer := State.draw_peer s l.length
@[simp] theorem State.drawFrom_reqs {α : Type} (s : State) (d : α) (l : List α) : (s.drawFrom d l).2.reqs = s.reqs := State.draw_reqs s l.length
@[simp] theorem State.drawFrom_cmds {α : Type} (s : State) (d : α) (l : List α) : (s.drawFrom d l).2.cmds = s.cmds := State.draw_cmds s l.length
@[simp] theorem State.drawFrom_breads {α : Type} (s : State) (d : α) (l : List α) : (s.drawFrom d l).2.breads = s.breads := State.draw_breads s l.length
@[simp] theorem State.drawFrom_pipes {α : Type} (s : State) (d : α) (l : List α) : (s.drawFrom d l).2.pipes = s.pipes := State.draw_pipes s l.length
@[simp] theorem State.drawFrom_recs {α : Type} (s : State) (d : α) (l : List α) : (s.drawFrom d l).2.recs = s.recs := State.draw_recs s l.length
@[simp] theorem State.drawFrom_roundAt {α : Type} (s : State) (d : α) (l : List α) : (s.drawFrom d l).2.roundAt = s.roundAt := State.draw_roundAt s l.length
@[simp] theorem State.drawFrom_queues {α : Type} (s : State) (d : α) (l : List α) : (s.drawFrom d l).2.queues = s.queues := State.draw_queues s l.length
@[simp] theorem State.drawFrom_ctxs {α : Type} (s : State) (d : α) (l : List α) : (s.drawFrom d l).2.ctxs = s.ctxs := State.draw_ctxs s l.length
@[simp] theorem State.drawFrom_xlat {α : Type} (s : State) (d : α) (l : List α) : (s.drawFrom d l).2.xlat = s.xlat := State.draw_xlat s l.length
@[simp] theorem State.drawFrom_links {α : Type} (s : State) (d : α) (l : List α) : (s.drawFrom d l).2.links = s.links := State.draw_links s l.length
@[simp] theorem State.drawFrom_host {α : Type} (s : State) (d : α) (l : List α) : (s.drawFrom d l).2.host = s.host := State.draw_host s l.length
@[simp] theorem State.drawFrom_mailbox {α : Type} (s : State) (d : α) (l : List α) : (s.drawFrom d l).2.mailbox = s.mailbox := State.draw_mailbox s l.length
@[simp] theorem State.drawFrom_ocwick {α : Type} (s : State) (d : α) (l : List α) : (s.drawFrom d l).2.ocwick = s.ocwick := State.draw_ocwick s l.length
@[simp] theorem State.drawFrom_ended {α : Type} (s : State) (d : α) (l : List α) : (s.drawFrom d l).2.ended = s.ended := State.draw_ended s l.length
@[simp] theorem State.drawFrom_clock {α : Type} (s : State) (d : α) (l : List α) : (s.drawFrom d l).2.clock = s.clock := State.draw_clock s l.length
@[simp] theorem State.drawFrom_issueQ {α : Type} (s : State) (d : α) (l : List α) : (s.drawFrom d l).2.issueQ = s.issueQ := State.draw_issueQ s l.length
@[simp] theorem State.drawFrom_taken {α : Type} (s : State) (d : α) (l : List α) : (s.drawFrom d l).2.taken = s.taken := State.draw_taken s l.length
@[simp] theorem State.drawFrom_passed {α : Type} (s : State) (d : α) (l : List α) : (s.drawFrom d l).2.passed = s.passed := State.draw_passed s l.length
@[simp] theorem State.drawFrom_cur {α : Type} (s : State) (d : α) (l : List α) : (s.drawFrom d l).2.cur = s.cur := State.draw_cur s l.length
@[simp] theorem State.drawFrom_inputs {α : Type} (s : State) (d : α) (l : List α) : (s.drawFrom d l).2.inputs = s.inputs := State.draw_inputs s l.length
@[simp] theorem State.drawFrom_due {α : Type} (s : State) (d : α) (l : List α) : (s.drawFrom d l).2.due = s.due := State.draw_due s l.length
@[simp] theorem State.drawFrom_nextId {α : Type} (s : State) (d : α) (l : List α) : (s.drawFrom d l).2.nextId = s.nextId := State.draw_nextId s l.length

/-! ### Signals -/

@[simp] theorem State.signal_threads (s : State) (v : Nat) : (s.signal v).threads = s.threads := by unfold State.signal; split <;> rfl
@[simp] theorem State.signal_blocks (s : State) (v : Nat) : (s.signal v).blocks = s.blocks := by unfold State.signal; split <;> rfl
@[simp] theorem State.signal_launches (s : State) (v : Nat) : (s.signal v).launches = s.launches := by unfold State.signal; split <;> rfl
@[simp] theorem State.signal_cores (s : State) (v : Nat) : (s.signal v).cores = s.cores := by unfold State.signal; split <;> rfl
@[simp] theorem State.signal_dies (s : State) (v : Nat) : (s.signal v).dies = s.dies := by unfold State.signal; split <;> rfl
@[simp] theorem State.signal_mem (s : State) (v : Nat) : (s.signal v).mem = s.mem := by unfold State.signal; split <;> rfl
@[simp] theorem State.signal_poison (s : State) (v : Nat) : (s.signal v).poison = s.poison := by unfold State.signal; split <;> rfl
@[simp] theorem State.signal_peer (s : State) (v : Nat) : (s.signal v).peer = s.peer := by unfold State.signal; split <;> rfl
@[simp] theorem State.signal_reqs (s : State) (v : Nat) : (s.signal v).reqs = s.reqs := by unfold State.signal; split <;> rfl
@[simp] theorem State.signal_cmds (s : State) (v : Nat) : (s.signal v).cmds = s.cmds := by unfold State.signal; split <;> rfl
@[simp] theorem State.signal_breads (s : State) (v : Nat) : (s.signal v).breads = s.breads := by unfold State.signal; split <;> rfl
@[simp] theorem State.signal_pipes (s : State) (v : Nat) : (s.signal v).pipes = s.pipes := by unfold State.signal; split <;> rfl
@[simp] theorem State.signal_recs (s : State) (v : Nat) : (s.signal v).recs = s.recs := by unfold State.signal; split <;> rfl
@[simp] theorem State.signal_roundAt (s : State) (v : Nat) : (s.signal v).roundAt = s.roundAt := by unfold State.signal; split <;> rfl
@[simp] theorem State.signal_queues (s : State) (v : Nat) : (s.signal v).queues = s.queues := by unfold State.signal; split <;> rfl
@[simp] theorem State.signal_ctxs (s : State) (v : Nat) : (s.signal v).ctxs = s.ctxs := by unfold State.signal; split <;> rfl
@[simp] theorem State.signal_xlat (s : State) (v : Nat) : (s.signal v).xlat = s.xlat := by unfold State.signal; split <;> rfl
@[simp] theorem State.signal_links (s : State) (v : Nat) : (s.signal v).links = s.links := by unfold State.signal; split <;> rfl
@[simp] theorem State.signal_mailbox (s : State) (v : Nat) : (s.signal v).mailbox = s.mailbox := by unfold State.signal; split <;> rfl
@[simp] theorem State.signal_ocwick (s : State) (v : Nat) : (s.signal v).ocwick = s.ocwick := by unfold State.signal; split <;> rfl
@[simp] theorem State.signal_ended (s : State) (v : Nat) : (s.signal v).ended = s.ended := by unfold State.signal; split <;> rfl
@[simp] theorem State.signal_clock (s : State) (v : Nat) : (s.signal v).clock = s.clock := by unfold State.signal; split <;> rfl
@[simp] theorem State.signal_issueQ (s : State) (v : Nat) : (s.signal v).issueQ = s.issueQ := by unfold State.signal; split <;> rfl
@[simp] theorem State.signal_taken (s : State) (v : Nat) : (s.signal v).taken = s.taken := by unfold State.signal; split <;> rfl
@[simp] theorem State.signal_passed (s : State) (v : Nat) : (s.signal v).passed = s.passed := by unfold State.signal; split <;> rfl
@[simp] theorem State.signal_cur (s : State) (v : Nat) : (s.signal v).cur = s.cur := by unfold State.signal; split <;> rfl
@[simp] theorem State.signal_inputs (s : State) (v : Nat) : (s.signal v).inputs = s.inputs := by unfold State.signal; split <;> rfl
@[simp] theorem State.signal_due (s : State) (v : Nat) : (s.signal v).due = s.due := by unfold State.signal; split <;> rfl
@[simp] theorem State.signal_nextId (s : State) (v : Nat) : (s.signal v).nextId = s.nextId := by unfold State.signal; split <;> rfl
@[simp] theorem State.signal_tick (s : State) (v : Nat) : (s.signal v).tick = s.tick := by unfold State.signal; split <;> rfl

/-! ### Reading what was written -/

@[simp] theorem State.thread_setThread (s : State) (t : Nat) (x : Thread) : (s.setThread t x).thread t = some x := NMap.find_put_same _ t x
theorem State.thread_setThread_other (s : State) {t u : Nat} (x : Thread) (h : u ≠ t) : (s.setThread t x).thread u = s.thread u := NMap.find_put_other _ x h
theorem State.thread_modThread (s : State) (t : Nat) (g : Thread → Thread) : (s.modThread t g).thread t = (s.thread t).map g := by
  unfold State.modThread; split <;> simp_all
theorem State.thread_modThread_other (s : State) {t u : Nat} (g : Thread → Thread) (h : u ≠ t) : (s.modThread t g).thread u = s.thread u := by
  unfold State.modThread; split
  · exact State.thread_setThread_other s _ h
  · rfl

@[simp] theorem State.block_setBlock (s : State) (t : Nat) (x : Block) : (s.setBlock t x).block t = some x := NMap.find_put_same _ t x
theorem State.block_setBlock_other (s : State) {t u : Nat} (x : Block) (h : u ≠ t) : (s.setBlock t x).block u = s.block u := NMap.find_put_other _ x h
theorem State.block_modBlock (s : State) (t : Nat) (g : Block → Block) : (s.modBlock t g).block t = (s.block t).map g := by
  unfold State.modBlock; split <;> simp_all
theorem State.block_modBlock_other (s : State) {t u : Nat} (g : Block → Block) (h : u ≠ t) : (s.modBlock t g).block u = s.block u := by
  unfold State.modBlock; split
  · exact State.block_setBlock_other s _ h
  · rfl

@[simp] theorem State.launch_setLaunch (s : State) (t : Nat) (x : Launch) : (s.setLaunch t x).launch t = some x := NMap.find_put_same _ t x
theorem State.launch_setLaunch_other (s : State) {t u : Nat} (x : Launch) (h : u ≠ t) : (s.setLaunch t x).launch u = s.launch u := NMap.find_put_other _ x h
theorem State.launch_modLaunch (s : State) (t : Nat) (g : Launch → Launch) : (s.modLaunch t g).launch t = (s.launch t).map g := by
  unfold State.modLaunch; split <;> simp_all
theorem State.launch_modLaunch_other (s : State) {t u : Nat} (g : Launch → Launch) (h : u ≠ t) : (s.modLaunch t g).launch u = s.launch u := by
  unfold State.modLaunch; split
  · exact State.launch_setLaunch_other s _ h
  · rfl

@[simp] theorem State.core_setCore (s : State) (t : Nat) (x : Core) : (s.setCore t x).core t = x := NMap.get_put_same _ _ t x
theorem State.core_setCore_other (s : State) {t u : Nat} (x : Core) (h : u ≠ t) : (s.setCore t x).core u = s.core u := NMap.get_put_other _ _ x h
@[simp] theorem State.die_setDie (s : State) (t : Nat) (x : Die) : (s.setDie t x).die t = x := NMap.get_put_same _ _ t x
theorem State.die_setDie_other (s : State) {t u : Nat} (x : Die) (h : u ≠ t) : (s.setDie t x).die u = s.die u := NMap.get_put_other _ _ x h
@[simp] theorem State.queue_setQueue (s : State) (t : Nat) (x : Queue) : (s.setQueue t x).queue t = x := NMap.get_put_same _ _ t x
theorem State.queue_setQueue_other (s : State) {t u : Nat} (x : Queue) (h : u ≠ t) : (s.setQueue t x).queue u = s.queue u := NMap.get_put_other _ _ x h
@[simp] theorem State.link_setLink (s : State) (t : Nat) (x : Link) : (s.setLink t x).link t = x := NMap.get_put_same _ _ t x
theorem State.link_setLink_other (s : State) {t u : Nat} (x : Link) (h : u ≠ t) : (s.setLink t x).link u = s.link u := NMap.get_put_other _ _ x h

@[simp] theorem State.core_modCore (s : State) (t : Nat) (g : Core → Core) : (s.modCore t g).core t = g (s.core t) := NMap.get_put_same _ _ t _
theorem State.core_modCore_other (s : State) {t u : Nat} (g : Core → Core) (h : u ≠ t) : (s.modCore t g).core u = s.core u := NMap.get_put_other _ _ _ h
@[simp] theorem State.die_modDie (s : State) (t : Nat) (g : Die → Die) : (s.modDie t g).die t = g (s.die t) := NMap.get_put_same _ _ t _
theorem State.die_modDie_other (s : State) {t u : Nat} (g : Die → Die) (h : u ≠ t) : (s.modDie t g).die u = s.die u := NMap.get_put_other _ _ _ h

/-! ### A record that waits -/

@[simp] theorem State.deferRec_threads (s : State) (d : RecDest) (r : ErrRec) : (s.deferRec d r).threads = s.threads := (rfl)
@[simp] theorem State.deferRec_blocks (s : State) (d : RecDest) (r : ErrRec) : (s.deferRec d r).blocks = s.blocks := (rfl)
@[simp] theorem State.deferRec_launches (s : State) (d : RecDest) (r : ErrRec) : (s.deferRec d r).launches = s.launches := (rfl)
@[simp] theorem State.deferRec_cores (s : State) (d : RecDest) (r : ErrRec) : (s.deferRec d r).cores = s.cores := (rfl)
@[simp] theorem State.deferRec_dies (s : State) (d : RecDest) (r : ErrRec) : (s.deferRec d r).dies = s.dies := (rfl)
@[simp] theorem State.deferRec_mem (s : State) (d : RecDest) (r : ErrRec) : (s.deferRec d r).mem = s.mem := (rfl)
@[simp] theorem State.deferRec_poison (s : State) (d : RecDest) (r : ErrRec) : (s.deferRec d r).poison = s.poison := (rfl)
@[simp] theorem State.deferRec_peer (s : State) (d : RecDest) (r : ErrRec) : (s.deferRec d r).peer = s.peer := (rfl)
@[simp] theorem State.deferRec_reqs (s : State) (d : RecDest) (r : ErrRec) : (s.deferRec d r).reqs = s.reqs := (rfl)
@[simp] theorem State.deferRec_cmds (s : State) (d : RecDest) (r : ErrRec) : (s.deferRec d r).cmds = s.cmds := (rfl)
@[simp] theorem State.deferRec_breads (s : State) (d : RecDest) (r : ErrRec) : (s.deferRec d r).breads = s.breads := (rfl)
@[simp] theorem State.deferRec_pipes (s : State) (d : RecDest) (r : ErrRec) : (s.deferRec d r).pipes = s.pipes := (rfl)
@[simp] theorem State.deferRec_roundAt (s : State) (d : RecDest) (r : ErrRec) : (s.deferRec d r).roundAt = s.roundAt := (rfl)
@[simp] theorem State.deferRec_queues (s : State) (d : RecDest) (r : ErrRec) : (s.deferRec d r).queues = s.queues := (rfl)
@[simp] theorem State.deferRec_ctxs (s : State) (d : RecDest) (r : ErrRec) : (s.deferRec d r).ctxs = s.ctxs := (rfl)
@[simp] theorem State.deferRec_xlat (s : State) (d : RecDest) (r : ErrRec) : (s.deferRec d r).xlat = s.xlat := (rfl)
@[simp] theorem State.deferRec_links (s : State) (d : RecDest) (r : ErrRec) : (s.deferRec d r).links = s.links := (rfl)
@[simp] theorem State.deferRec_host (s : State) (d : RecDest) (r : ErrRec) : (s.deferRec d r).host = s.host := (rfl)
@[simp] theorem State.deferRec_mailbox (s : State) (d : RecDest) (r : ErrRec) : (s.deferRec d r).mailbox = s.mailbox := (rfl)
@[simp] theorem State.deferRec_ocwick (s : State) (d : RecDest) (r : ErrRec) : (s.deferRec d r).ocwick = s.ocwick := (rfl)
@[simp] theorem State.deferRec_ended (s : State) (d : RecDest) (r : ErrRec) : (s.deferRec d r).ended = s.ended := (rfl)
@[simp] theorem State.deferRec_clock (s : State) (d : RecDest) (r : ErrRec) : (s.deferRec d r).clock = s.clock := (rfl)
@[simp] theorem State.deferRec_issueQ (s : State) (d : RecDest) (r : ErrRec) : (s.deferRec d r).issueQ = s.issueQ := (rfl)
@[simp] theorem State.deferRec_taken (s : State) (d : RecDest) (r : ErrRec) : (s.deferRec d r).taken = s.taken := (rfl)
@[simp] theorem State.deferRec_passed (s : State) (d : RecDest) (r : ErrRec) : (s.deferRec d r).passed = s.passed := (rfl)
@[simp] theorem State.deferRec_cur (s : State) (d : RecDest) (r : ErrRec) : (s.deferRec d r).cur = s.cur := (rfl)
@[simp] theorem State.deferRec_inputs (s : State) (d : RecDest) (r : ErrRec) : (s.deferRec d r).inputs = s.inputs := (rfl)
@[simp] theorem State.deferRec_due (s : State) (d : RecDest) (r : ErrRec) : (s.deferRec d r).due = s.due := (rfl)
@[simp] theorem State.deferRec_nextId (s : State) (d : RecDest) (r : ErrRec) : (s.deferRec d r).nextId = s.nextId := (rfl)
@[simp] theorem State.deferRec_tick (s : State) (d : RecDest) (r : ErrRec) : (s.deferRec d r).tick = s.tick := (rfl)
@[simp] theorem State.deferRec_recs (s : State) (d : RecDest) (r : ErrRec) : (s.deferRec d r).recs = s.recs ++ [(d, r)] := (rfl)

end Sys2Proof.Machine
end

