-- ==== Sys2Proof/Laws/Issue.lean ====
section
/-! SUPPORT. What issuing an instruction can do: an unhindered instruction is its meaning's answer; what completing one
changes; when a trap is taken and when it is held back. -/

namespace Sys2Proof.Machine

/-! ### An unhindered instruction -/

/-- An unhindered instruction does what its meaning answers. -/
theorem issue_of_issues {s : State} {i : Instr} {o : Ops} {e : Env} (body : Env → State → Res) (h : s.issues i o e) :
    issue s i o body = .next (s.finish e i o (body e s)) := by
  obtain ⟨h1, h2, h3, h4, h5, _⟩ := h
  simp [issue, h1, State.issueAt, h2, h3, h4, h5]

/-- Where no checker result is wrong, an instruction goes on. -/
@[simp] theorem checkedAll_nil (space : List Nat) (s0 s : State) (next : State → State) :
    State.checkedAll space [] s0 s next = next s := rfl

@[simp] theorem checked_none (space : List Nat) (e : Env) (s0 s : State) (next : State → State) :
    State.checked s0 s e space none next = next s := rfl

/-- With no injected checker error, a completed instruction writes its results and advances. -/
theorem finish_done {s s' : State} {i : Instr} {o : Ops} {e : Env} {vals : List RegVal} (h : e.th.checkErr = none) :
    s.finish e i o (.done s' vals) =
      (s'.results e i o vals).advance e.tid i o.len (s.cur.pc + 4 * o.len) (vals.map (·.reg)) := by
  simp [State.finish, Env.checkedLane, Env.armed, h]

theorem issue_done {s s' : State} {i : Instr} {o : Ops} {e : Env} {vals : List RegVal} {body : Env → State → Res}
    (h : s.issues i o e) (hb : body e s = .done s' vals) :
    issue s i o body =
      .next ((s'.results e i o vals).advance e.tid i o.len (s.cur.pc + 4 * o.len) (vals.map (·.reg))) := by
  rw [issue_of_issues body h, hb, finish_done h.2.2.2.2.2]

theorem issue_async {s s' : State} {i : Instr} {o : Ops} {e : Env} {p : Pending} {body : Env → State → Res}
    (h : s.issues i o e) (hb : body e s = .async s' p) :
    issue s i o body =
      .next ((s'.asyncResults e o p).advance e.tid i o.len (s.cur.pc + 4 * o.len) p.regs) := by
  simp [issue_of_issues body h, hb, State.finish, Env.checkedLater, Env.armed, h.2.2.2.2.2]

theorem issue_jump {s s' : State} {i : Instr} {o : Ops} {e : Env} {vals : List RegVal} {pc : Nat}
    {body : Env → State → Res} (h : s.issues i o e) (hb : body e s = .jump s' vals pc) :
    issue s i o body =
      .next (((s'.results e i o vals).advance e.tid i o.len pc (vals.map (·.reg))).modThread e.tid
        (fun th => { th with clause := none, fetched := none })) := by
  rw [issue_of_issues body h, hb]; rfl

theorem issue_trap {s s' : State} {i : Instr} {o : Ops} {e : Env} {t : Trap} {body : Env → State → Res}
    (h : s.issues i o e) (hb : body e s = .trap s' t) : issue s i o body = .next (s'.raise e.tid t) := by
  rw [issue_of_issues body h, hb]; rfl

theorem issue_wait {s s' : State} {i : Instr} {o : Ops} {e : Env} {w : WaitOn} {body : Env → State → Res}
    (h : s.issues i o e) (hb : body e s = .wait s' w) : issue s i o body = .next (s'.hold e.tid w) := by
  rw [issue_of_issues body h, hb]; rfl

theorem issue_stop {s s' : State} {i : Instr} {o : Ops} {e : Env} {body : Env → State → Res}
    (h : s.issues i o e) (hb : body e s = .stop s') : issue s i o body = .next s' := by
  rw [issue_of_issues body h, hb]; rfl

/-! ### The issuing thread -/

theorem envOf_thread {s : State} {t : Nat} {e : Env} (h : s.envOf t = some e) : s.thread t = some e.th ∧ e.tid = t := by
  unfold State.envOf at h
  split at h
  · simp at h
  · rename_i th hth
    split at h
    · simp at h
    · split at h
      · simp at h
      · simp only [Option.some.injEq] at h; subst h; exact ⟨hth, rfl⟩

theorem envOf_block {s : State} {t : Nat} {e : Env} (h : s.envOf t = some e) :
    s.block e.th.block = some e.blk ∧ s.launch e.blk.launch = some e.la := by
  unfold State.envOf at h
  split at h
  · simp at h
  · split at h
    · simp at h
    · rename_i blk hb
      split at h
      · simp at h
      · rename_i la hl
        simp only [Option.some.injEq] at h; subst h; exact ⟨hb, hl⟩

theorem issues_thread {s : State} {i : Instr} {o : Ops} {e : Env} (h : s.issues i o e) : s.thread e.tid = some e.th := by
  have h1 := h.1
  unfold State.env at h1
  obtain ⟨a, b⟩ := envOf_thread h1
  rw [b]; exact a

theorem modThread_eq {s : State} {t : Nat} {th : Thread} (h : s.thread t = some th) (g : Thread → Thread) :
    s.modThread t g = s.setThread t (g th) := by simp [State.modThread, h]

theorem setThread_setThread (s : State) (t : Nat) (a b : Thread) : (s.setThread t a).setThread t b = s.setThread t b := by
  have : ∀ m : NMap Thread, NMap.put (NMap.put m t a) t b = NMap.put m t b := by
    intro m
    induction m with
    | nil => simp [NMap.put]
    | cons p r ih =>
      obtain ⟨k, w⟩ := p
      by_cases h : t = k
      · simp [NMap.put, h]
      · by_cases l : t < k <;> simp [NMap.put, h, l, ih]
  simp [State.setThread, this]

/-! ### Results and the advance of a completed instruction -/

/-- What a fixed-latency instruction writes. -/
theorem results_short {s : State} {e : Env} {i : Instr} {o : Ops} {vals : List RegVal} (h : isLong i = false) :
    s.results e i o vals = s.modThread e.tid (fun th => { th with regs := Regs.putAll th.width th.regs vals }) := by
  simp [State.results, h]

/-- An instruction that is no region boundary advances its thread and changes nothing else. -/
theorem advance_plain {s : State} {t len pc : Nat} {i : Instr} {wrote : List RegId} (h : isBoundary i = false) :
    s.advance t i len pc wrote = s.modThread t (fun th =>
      { th.passWords len with
        pc := pc, wait := .ready, idle := s.stallOf t len,
        fetched := th.keepBlock pc, region := th.region.wrote (wrote ++ th.due) }) := by
  cases i <;> simp_all [State.advance, isBoundary]

theorem advance_region {s : State} {t len pc : Nat} {o : Ops} {wrote : List RegId} :
    s.advance t (.region o) len pc wrote = s.modThread t (fun th =>
      { th.passWords len with
        pc := pc, wait := .ready, idle := s.stallOf t len,
        fetched := th.keepBlock pc, region := th.region.wrote (wrote ++ th.due) }) := rfl

/-! ### Traps -/

/-- R398, R401, R402: a live warp that has drained and is not in its handler enters the handler that the trap table
names for the cause. -/
theorem raise_enters {s : State} {tid pc : Nat} {e : Env} {t : Trap} (h : s.envOf tid = some e) (hl : e.th.live = true)
    (hc : e.th.clear = true) (hr : e.th.restarts = false) (hn : t.next = false) (hw : e.th.isWarp = true)
    (hh : e.th.handler = false)
    (hp : e.la.obj.handlerFor t.cause = some pc) : s.raise tid t = s.setThread tid (e.th.enter t pc) := by
  simp [State.raise, h, hl, hc, hr, State.resolveTrap, hn, State.takeTrap, hw, hh, hp]

/-- R398: a live thread with earlier results outstanding keeps the trap back. -/
theorem raise_held {s : State} {tid : Nat} {e : Env} {t : Trap} (h : s.envOf tid = some e) (hl : e.th.live = true)
    (hc : e.th.clear = false) :
    s.raise tid t = s.setThread tid { e.th with held := some t, wait := .ready } := by
  simp [State.raise, h, hl, hc]

/-- R403, R404: without a handler for the cause, or in its handler, a warp halts. -/
theorem raise_halts {s : State} {tid : Nat} {e : Env} {t : Trap} (h : s.envOf tid = some e) (hl : e.th.live = true)
    (hc : e.th.clear = true) (hr : e.th.restarts = false) (hn : t.next = false) (hw : e.th.isWarp = true)
    (hh : e.th.handler = true) : s.raise tid t = s.halt tid (t.asRec true) := by
  simp [State.raise, h, hl, hc, hr, State.resolveTrap, hn, State.takeTrap, hw, hh]

/-- R52: a thread that is held back changes nothing but what it waits for. -/
theorem hold_eq {s : State} {t : Nat} {th : Thread} (h : s.thread t = some th) (w : WaitOn) :
    s.hold t w = s.setThread t { th with wait := w } := by simp [State.hold, State.modThread, h]

end Sys2Proof.Machine
end

