-- ==== Sys2Proof/Laws/Memory.lean ====
section
/-! SUPPORT. Home memory: every write keeps the canonical form, and reads what was written. -/

namespace Sys2Proof.Machine

theorem mem_wf_nil : Memory.wf [] = true := rfl

/-! ### Writes keep the canonical form -/

theorem setHome_wf {s : State} (pa : Nat) (b : Byte) (h : Memory.wf s.mem = true) :
    Memory.wf (s.setHome pa b).mem = true := by
  unfold State.setHome
  split
  · exact h
  · exact NMap.wf_set emptyByte s.mem pa b h

theorem setHomes_wf (l : List (Nat × Byte)) {s : State} (h : Memory.wf s.mem = true) :
    Memory.wf (s.setHomes l).mem = true := by
  induction l generalizing s with
  | nil => exact h
  | cons p r ih => exact ih (setHome_wf p.1 p.2 h)

theorem writeLine_wf {s : State} (line : Nat) (bytes : NMap Byte) (h : Memory.wf s.mem = true) :
    Memory.wf (s.writeLine line bytes).mem = true := by
  unfold State.writeLine
  split <;> exact setHomes_wf _ h

theorem writeHome_wf {s : State} (pa : Nat) (bytes : List Byte) (h : Memory.wf s.mem = true) :
    Memory.wf (s.writeHome pa bytes).mem = true := setHomes_wf _ h

theorem ringBytes_wf {s : State} (pa : Nat) (r : ErrRec) (h : Memory.wf s.mem = true) :
    Memory.wf (s.ringBytes pa r).mem = true := by
  unfold State.ringBytes
  split
  · exact writeHome_wf _ _ h
  · exact h

theorem ringRecord_wf {s : State} (die : Nat) (r : ErrRec) (h : Memory.wf s.mem = true) :
    Memory.wf (s.ringRecord die r).mem = true := by
  unfold State.ringRecord
  split
  · exact h
  · split
    · exact h
    · simp only [State.signal_mem, State.modDie_mem]; exact ringBytes_wf _ r h

theorem writeBack_wf {s : State} (core pa va : Nat) (dirty : NMap Byte) (bad : Bool) (h : Memory.wf s.mem = true) :
    Memory.wf (s.writeBack core pa va dirty bad).mem = true := by
  unfold State.writeBack
  split
  · exact h
  · split
    · exact ringRecord_wf _ _ h
    · split
      · exact setHomes_wf _ h
      · exact writeLine_wf _ _ h

theorem refusedHere_wf {s : State} (va : Nat) (h : Memory.wf s.mem = true) : Memory.wf (s.refusedHere va).mem = true := by
  unfold State.refusedHere
  split
  · exact ringRecord_wf _ _ h
  · split
    · exact ringRecord_wf _ _ h
    · exact h

theorem noteUnusable_wf {s : State} (l field va : Nat) (h : Memory.wf s.mem = true) :
    Memory.wf (s.noteUnusable l field va).mem = true := by
  unfold State.noteUnusable
  split
  · exact h
  · split
    · exact h
    · exact ringRecord_wf _ _ (refusedHere_wf va h)

theorem copyRecord_wf {s : State} (l base : Nat) (r : ErrRec) (h : Memory.wf s.mem = true) :
    Memory.wf (s.copyRecord l base r).mem = true := by
  unfold State.copyRecord
  split
  · exact h
  · split
    · exact h
    · exact noteUnusable_wf _ _ _ h
    · exact setHomes_wf _ h

/-- Records that waited for a bulk command keep the memory's form when they are written. -/
theorem flushRecs_wf {s : State} (h : Memory.wf s.mem = true) : Memory.wf s.flushRecs.mem = true := by
  have step : ∀ (l : List (RecDest × ErrRec)) (t : State), Memory.wf t.mem = true →
      Memory.wf (l.foldl (fun (s : State) p => match p.1 with
        | .die d => s.ringRecord d p.2
        | .launch n base => s.copyRecord n base p.2) t).mem = true := by
    intro l
    induction l with
    | nil => exact fun _ ht => ht
    | cons p r ih =>
      intro t ht
      refine ih _ ?_
      rcases p with ⟨d | ⟨n, base⟩, r⟩
      · exact ringRecord_wf _ _ ht
      · exact copyRecord_wf _ _ _ ht
  exact step s.recs _ h

/-- An access that no bulk command delays leaves its record at once. -/
theorem flushRecs_nil {s : State} (h : s.recs = []) : s.flushRecs = s := by
  rcases s with ⟨⟩
  subst h
  rfl

/-! ### Reading after writing -/

/-- A canonical memory reads at each local address what was last written there, and nothing else has changed. -/
theorem homeByte_setHome {s : State} (pa q : Nat) (b : Byte) (h : Memory.wf s.mem = true) :
    (s.setHome pa b).homeByte q = if q = pa then b else s.homeByte q := by
  unfold State.setHome State.homeByte
  by_cases hr : isRemote pa = true
  · simp only [hr, if_true]
    by_cases hq : q = pa
    · subst hq; simp [hr]
    · by_cases hq' : isRemote q = true
      · simp [hq, hq', NMap.find_put_other]
      · simp [hq, hq']
  · simp only [hr]
    by_cases hq' : isRemote q = true
    · have : q ≠ pa := by intro e; subst e; exact hr hq'
      simp [hq', this]
    · simp only [hq']; exact NMap.get_set emptyByte s.mem pa q b h

/-- A write to addresses that do not include `q` leaves the byte at `q`. -/
theorem homeByte_setHomes_other (l : List (Nat × Byte)) {s : State} (q : Nat) (h : Memory.wf s.mem = true)
    (hq : ∀ p ∈ l, p.1 ≠ q) : (s.setHomes l).homeByte q = s.homeByte q := by
  induction l generalizing s with
  | nil => rfl
  | cons p r ih =>
    have h1 : q ≠ p.1 := fun e => hq p (by simp) e.symm
    rw [State.setHomes, ih (setHome_wf p.1 p.2 h) (fun x hx => hq x (by simp [hx])), homeByte_setHome _ _ _ h]
    simp [h1]

end Sys2Proof.Machine
end

