-- ==== Sys2Proof/Laws/PerInstr.lean ====
section
/-! SUPPORT. The family Coded: what the opcode map (R223) gives for the fields of each instruction's row. -/

namespace Sys2Proof.Laws.Coded

/-- R223: the major opcode, the sub-operation and every legal MOD[8:6] of an encoded instruction's row name that
instruction, and that row. A step of the part has no row. -/
def Statement (i : Instr) : Prop :=
  ∀ r o, i.row = some r → i.ops = some o → ∀ x ∈ r.xmods,
    ∃ mk, instrOf r.opc r.sub x = some mk ∧ rowOf mk = some r ∧ mk o = i

theorem add (o : Ops) : Statement (.add o) := by rintro _ _ ⟨⟩ ⟨⟩ x _; exact ⟨_, rfl, rfl, rfl⟩
theorem addc (o : Ops) : Statement (.addc o) := by rintro _ _ ⟨⟩ ⟨⟩ x _; exact ⟨_, rfl, rfl, rfl⟩
theorem sub (o : Ops) : Statement (.sub o) := by rintro _ _ ⟨⟩ ⟨⟩ x _; exact ⟨_, rfl, rfl, rfl⟩
theorem subb (o : Ops) : Statement (.subb o) := by rintro _ _ ⟨⟩ ⟨⟩ x _; exact ⟨_, rfl, rfl, rfl⟩
theorem mul (o : Ops) : Statement (.mul o) := by rintro _ _ ⟨⟩ ⟨⟩ x _; exact ⟨_, rfl, rfl, rfl⟩
theorem mulhi (o : Ops) : Statement (.mulhi o) := by rintro _ _ ⟨⟩ ⟨⟩ x _; exact ⟨_, rfl, rfl, rfl⟩
theorem mad (o : Ops) : Statement (.mad o) := by rintro _ _ ⟨⟩ ⟨⟩ x _; exact ⟨_, rfl, rfl, rfl⟩
theorem div (o : Ops) : Statement (.div o) := by rintro _ _ ⟨⟩ ⟨⟩ x _; exact ⟨_, rfl, rfl, rfl⟩
theorem rem (o : Ops) : Statement (.rem o) := by rintro _ _ ⟨⟩ ⟨⟩ x _; exact ⟨_, rfl, rfl, rfl⟩
theorem min (o : Ops) : Statement (.min o) := by rintro _ _ ⟨⟩ ⟨⟩ x _; exact ⟨_, rfl, rfl, rfl⟩
theorem max (o : Ops) : Statement (.max o) := by rintro _ _ ⟨⟩ ⟨⟩ x _; exact ⟨_, rfl, rfl, rfl⟩
theorem abs (o : Ops) : Statement (.abs o) := by rintro _ _ ⟨⟩ ⟨⟩ x _; exact ⟨_, rfl, rfl, rfl⟩
theorem neg (o : Ops) : Statement (.neg o) := by rintro _ _ ⟨⟩ ⟨⟩ x _; exact ⟨_, rfl, rfl, rfl⟩
theorem and (o : Ops) : Statement (.and o) := by rintro _ _ ⟨⟩ ⟨⟩ x _; exact ⟨_, rfl, rfl, rfl⟩
theorem or (o : Ops) : Statement (.or o) := by rintro _ _ ⟨⟩ ⟨⟩ x _; exact ⟨_, rfl, rfl, rfl⟩
theorem xor (o : Ops) : Statement (.xor o) := by rintro _ _ ⟨⟩ ⟨⟩ x _; exact ⟨_, rfl, rfl, rfl⟩
theorem andn (o : Ops) : Statement (.andn o) := by rintro _ _ ⟨⟩ ⟨⟩ x _; exact ⟨_, rfl, rfl, rfl⟩
theorem not (o : Ops) : Statement (.not o) := by rintro _ _ ⟨⟩ ⟨⟩ x _; exact ⟨_, rfl, rfl, rfl⟩
theorem shl (o : Ops) : Statement (.shl o) := by rintro _ _ ⟨⟩ ⟨⟩ x _; exact ⟨_, rfl, rfl, rfl⟩
theorem shr (o : Ops) : Statement (.shr o) := by rintro _ _ ⟨⟩ ⟨⟩ x _; exact ⟨_, rfl, rfl, rfl⟩
theorem sar (o : Ops) : Statement (.sar o) := by rintro _ _ ⟨⟩ ⟨⟩ x _; exact ⟨_, rfl, rfl, rfl⟩
theorem rot (o : Ops) : Statement (.rot o) := by rintro _ _ ⟨⟩ ⟨⟩ x _; exact ⟨_, rfl, rfl, rfl⟩
theorem bfx (o : Ops) : Statement (.bfx o) := by rintro _ _ ⟨⟩ ⟨⟩ x _; exact ⟨_, rfl, rfl, rfl⟩
theorem bfi (o : Ops) : Statement (.bfi o) := by rintro _ _ ⟨⟩ ⟨⟩ x _; exact ⟨_, rfl, rfl, rfl⟩
theorem popc (o : Ops) : Statement (.popc o) := by rintro _ _ ⟨⟩ ⟨⟩ x _; exact ⟨_, rfl, rfl, rfl⟩
theorem clz (o : Ops) : Statement (.clz o) := by rintro _ _ ⟨⟩ ⟨⟩ x _; exact ⟨_, rfl, rfl, rfl⟩
theorem brev (o : Ops) : Statement (.brev o) := by rintro _ _ ⟨⟩ ⟨⟩ x _; exact ⟨_, rfl, rfl, rfl⟩
theorem sel (o : Ops) : Statement (.sel o) := by rintro _ _ ⟨⟩ ⟨⟩ x _; exact ⟨_, rfl, rfl, rfl⟩
theorem mov (o : Ops) : Statement (.mov o) := by rintro _ _ ⟨⟩ ⟨⟩ x _; exact ⟨_, rfl, rfl, rfl⟩
theorem movi (o : Ops) : Statement (.movi o) := by rintro _ _ ⟨⟩ ⟨⟩ x _; exact ⟨_, rfl, rfl, rfl⟩
theorem cvt (o : Ops) : Statement (.cvt o) := by rintro _ _ ⟨⟩ ⟨⟩ x _; exact ⟨_, rfl, rfl, rfl⟩
theorem lea (o : Ops) : Statement (.lea o) := by rintro _ _ ⟨⟩ ⟨⟩ x _; exact ⟨_, rfl, rfl, rfl⟩
theorem fadd (o : Ops) : Statement (.fadd o) := by rintro _ _ ⟨⟩ ⟨⟩ x _; exact ⟨_, rfl, rfl, rfl⟩
theorem fsub (o : Ops) : Statement (.fsub o) := by rintro _ _ ⟨⟩ ⟨⟩ x _; exact ⟨_, rfl, rfl, rfl⟩
theorem fmul (o : Ops) : Statement (.fmul o) := by rintro _ _ ⟨⟩ ⟨⟩ x _; exact ⟨_, rfl, rfl, rfl⟩
theorem fma (o : Ops) : Statement (.fma o) := by rintro _ _ ⟨⟩ ⟨⟩ x _; exact ⟨_, rfl, rfl, rfl⟩
theorem fdiv (o : Ops) : Statement (.fdiv o) := by rintro _ _ ⟨⟩ ⟨⟩ x _; exact ⟨_, rfl, rfl, rfl⟩
theorem fmin (o : Ops) : Statement (.fmin o) := by rintro _ _ ⟨⟩ ⟨⟩ x _; exact ⟨_, rfl, rfl, rfl⟩
theorem fmax (o : Ops) : Statement (.fmax o) := by rintro _ _ ⟨⟩ ⟨⟩ x _; exact ⟨_, rfl, rfl, rfl⟩
theorem fabs (o : Ops) : Statement (.fabs o) := by rintro _ _ ⟨⟩ ⟨⟩ x _; exact ⟨_, rfl, rfl, rfl⟩
theorem fneg (o : Ops) : Statement (.fneg o) := by rintro _ _ ⟨⟩ ⟨⟩ x _; exact ⟨_, rfl, rfl, rfl⟩
theorem fsign (o : Ops) : Statement (.fsign o) := by rintro _ _ ⟨⟩ ⟨⟩ x _; exact ⟨_, rfl, rfl, rfl⟩
theorem frnd (o : Ops) : Statement (.frnd o) := by rintro _ _ ⟨⟩ ⟨⟩ x _; exact ⟨_, rfl, rfl, rfl⟩
theorem fscale (o : Ops) : Statement (.fscale o) := by rintro _ _ ⟨⟩ ⟨⟩ x _; exact ⟨_, rfl, rfl, rfl⟩
theorem fcvt (o : Ops) : Statement (.fcvt o) := by rintro _ _ ⟨⟩ ⟨⟩ x _; exact ⟨_, rfl, rfl, rfl⟩
theorem f2i (o : Ops) : Statement (.f2i o) := by rintro _ _ ⟨⟩ ⟨⟩ x _; exact ⟨_, rfl, rfl, rfl⟩
theorem i2f (o : Ops) : Statement (.i2f o) := by rintro _ _ ⟨⟩ ⟨⟩ x _; exact ⟨_, rfl, rfl, rfl⟩
theorem fclass (o : Ops) : Statement (.fclass o) := by rintro _ _ ⟨⟩ ⟨⟩ x _; exact ⟨_, rfl, rfl, rfl⟩
theorem rcp (o : Ops) : Statement (.rcp o) := by rintro _ _ ⟨⟩ ⟨⟩ x _; exact ⟨_, rfl, rfl, rfl⟩
theorem rsq (o : Ops) : Statement (.rsq o) := by rintro _ _ ⟨⟩ ⟨⟩ x _; exact ⟨_, rfl, rfl, rfl⟩
theorem sqrt (o : Ops) : Statement (.sqrt o) := by rintro _ _ ⟨⟩ ⟨⟩ x _; exact ⟨_, rfl, rfl, rfl⟩
theorem exp2 (o : Ops) : Statement (.exp2 o) := by rintro _ _ ⟨⟩ ⟨⟩ x _; exact ⟨_, rfl, rfl, rfl⟩
theorem log2 (o : Ops) : Statement (.log2 o) := by rintro _ _ ⟨⟩ ⟨⟩ x _; exact ⟨_, rfl, rfl, rfl⟩
theorem sinpi (o : Ops) : Statement (.sinpi o) := by rintro _ _ ⟨⟩ ⟨⟩ x _; exact ⟨_, rfl, rfl, rfl⟩
theorem cospi (o : Ops) : Statement (.cospi o) := by rintro _ _ ⟨⟩ ⟨⟩ x _; exact ⟨_, rfl, rfl, rfl⟩
theorem srand (o : Ops) : Statement (.srand o) := by rintro _ _ ⟨⟩ ⟨⟩ x _; exact ⟨_, rfl, rfl, rfl⟩
theorem cmp (p : CmpPred) (o : Ops) : Statement (.cmp p o) := by
  cases p <;> (rintro _ _ ⟨⟩ ⟨⟩ x _; exact ⟨_, rfl, rfl, rfl⟩)
theorem fcmp (p : FcmpPred) (o : Ops) : Statement (.fcmp p o) := by
  cases p <;> (rintro _ _ ⟨⟩ ⟨⟩ x _; exact ⟨_, rfl, rfl, rfl⟩)
theorem kand (o : Ops) : Statement (.kand o) := by rintro _ _ ⟨⟩ ⟨⟩ x _; exact ⟨_, rfl, rfl, rfl⟩
theorem kor (o : Ops) : Statement (.kor o) := by rintro _ _ ⟨⟩ ⟨⟩ x _; exact ⟨_, rfl, rfl, rfl⟩
theorem kxor (o : Ops) : Statement (.kxor o) := by rintro _ _ ⟨⟩ ⟨⟩ x _; exact ⟨_, rfl, rfl, rfl⟩
theorem kandn (o : Ops) : Statement (.kandn o) := by rintro _ _ ⟨⟩ ⟨⟩ x _; exact ⟨_, rfl, rfl, rfl⟩
theorem knot (o : Ops) : Statement (.knot o) := by rintro _ _ ⟨⟩ ⟨⟩ x _; exact ⟨_, rfl, rfl, rfl⟩
theorem kmov (o : Ops) : Statement (.kmov o) := by rintro _ _ ⟨⟩ ⟨⟩ x _; exact ⟨_, rfl, rfl, rfl⟩
theorem kpop (o : Ops) : Statement (.kpop o) := by rintro _ _ ⟨⟩ ⟨⟩ x _; exact ⟨_, rfl, rfl, rfl⟩
theorem kfirst (o : Ops) : Statement (.kfirst o) := by rintro _ _ ⟨⟩ ⟨⟩ x _; exact ⟨_, rfl, rfl, rfl⟩
theorem kany (o : Ops) : Statement (.kany o) := by rintro _ _ ⟨⟩ ⟨⟩ x _; exact ⟨_, rfl, rfl, rfl⟩
theorem kall (o : Ops) : Statement (.kall o) := by rintro _ _ ⟨⟩ ⟨⟩ x _; exact ⟨_, rfl, rfl, rfl⟩
theorem ballot (o : Ops) : Statement (.ballot o) := by rintro _ _ ⟨⟩ ⟨⟩ x _; exact ⟨_, rfl, rfl, rfl⟩
theorem shfl (m : ShflMode) (o : Ops) : Statement (.shfl m o) := by
  cases m <;> (rintro _ _ ⟨⟩ ⟨⟩ x _; exact ⟨_, rfl, rfl, rfl⟩)
theorem bcast (o : Ops) : Statement (.bcast o) := by rintro _ _ ⟨⟩ ⟨⟩ x _; exact ⟨_, rfl, rfl, rfl⟩
theorem red (r : RedOp) (o : Ops) : Statement (.red r o) := by
  cases r <;> (rintro _ _ ⟨⟩ ⟨⟩ x _; exact ⟨_, rfl, rfl, rfl⟩)
theorem scan (r : RedOp) (o : Ops) : Statement (.scan r o) := by
  cases r <;> (rintro _ _ ⟨⟩ ⟨⟩ x _; exact ⟨_, rfl, rfl, rfl⟩)
theorem sred (r : RedOp) (o : Ops) : Statement (.sred r o) := by
  cases r <;> (rintro _ _ ⟨⟩ ⟨⟩ x _; exact ⟨_, rfl, rfl, rfl⟩)
theorem topk (o : Ops) : Statement (.topk o) := by rintro _ _ ⟨⟩ ⟨⟩ x _; exact ⟨_, rfl, rfl, rfl⟩
theorem mld (o : Ops) : Statement (.mld o) := by rintro _ _ ⟨⟩ ⟨⟩ x _; exact ⟨_, rfl, rfl, rfl⟩
theorem mst (o : Ops) : Statement (.mst o) := by rintro _ _ ⟨⟩ ⟨⟩ x _; exact ⟨_, rfl, rfl, rfl⟩
theorem mshape (o : Ops) : Statement (.mshape o) := by rintro _ _ ⟨⟩ ⟨⟩ x _; exact ⟨_, rfl, rfl, rfl⟩
theorem mzero (o : Ops) : Statement (.mzero o) := by rintro _ _ ⟨⟩ ⟨⟩ x _; exact ⟨_, rfl, rfl, rfl⟩
theorem mid (o : Ops) : Statement (.mid o) := by rintro _ _ ⟨⟩ ⟨⟩ x _; exact ⟨_, rfl, rfl, rfl⟩
theorem mget (o : Ops) : Statement (.mget o) := by rintro _ _ ⟨⟩ ⟨⟩ x _; exact ⟨_, rfl, rfl, rfl⟩
theorem mput (o : Ops) : Statement (.mput o) := by rintro _ _ ⟨⟩ ⟨⟩ x _; exact ⟨_, rfl, rfl, rfl⟩
theorem madd (o : Ops) : Statement (.madd o) := by rintro _ _ ⟨⟩ ⟨⟩ x _; exact ⟨_, rfl, rfl, rfl⟩
theorem msub (o : Ops) : Statement (.msub o) := by rintro _ _ ⟨⟩ ⟨⟩ x _; exact ⟨_, rfl, rfl, rfl⟩
theorem mscal (o : Ops) : Statement (.mscal o) := by rintro _ _ ⟨⟩ ⟨⟩ x _; exact ⟨_, rfl, rfl, rfl⟩
theorem mmul (f : MulForm) (o : Ops) : Statement (.mmul f o) := by
  cases f <;> (rintro _ _ ⟨⟩ ⟨⟩ x _; exact ⟨_, rfl, rfl, rfl⟩)
theorem mfma (f : MulForm) (o : Ops) : Statement (.mfma f o) := by
  cases f <;> (rintro _ _ ⟨⟩ ⟨⟩ x _; exact ⟨_, rfl, rfl, rfl⟩)
theorem mtrn (o : Ops) : Statement (.mtrn o) := by rintro _ _ ⟨⟩ ⟨⟩ x _; exact ⟨_, rfl, rfl, rfl⟩
theorem minv (o : Ops) : Statement (.minv o) := by rintro _ _ ⟨⟩ ⟨⟩ x _; exact ⟨_, rfl, rfl, rfl⟩
theorem mlu (o : Ops) : Statement (.mlu o) := by rintro _ _ ⟨⟩ ⟨⟩ x _; exact ⟨_, rfl, rfl, rfl⟩
theorem mchol (o : Ops) : Statement (.mchol o) := by rintro _ _ ⟨⟩ ⟨⟩ x _; exact ⟨_, rfl, rfl, rfl⟩
theorem msolve (o : Ops) : Statement (.msolve o) := by rintro _ _ ⟨⟩ ⟨⟩ x _; exact ⟨_, rfl, rfl, rfl⟩
theorem mpow (o : Ops) : Statement (.mpow o) := by rintro _ _ ⟨⟩ ⟨⟩ x _; exact ⟨_, rfl, rfl, rfl⟩
theorem mma (o : Ops) : Statement (.mma o) := by rintro _ _ ⟨⟩ ⟨⟩ x _; exact ⟨_, rfl, rfl, rfl⟩
theorem mpack (o : Ops) : Statement (.mpack o) := by rintro _ _ ⟨⟩ ⟨⟩ x _; exact ⟨_, rfl, rfl, rfl⟩
theorem munpack (o : Ops) : Statement (.munpack o) := by rintro _ _ ⟨⟩ ⟨⟩ x _; exact ⟨_, rfl, rfl, rfl⟩
theorem ld (o : Ops) : Statement (.ld o) := by rintro _ _ ⟨⟩ ⟨⟩ x _; exact ⟨_, rfl, rfl, rfl⟩
theorem st (o : Ops) : Statement (.st o) := by rintro _ _ ⟨⟩ ⟨⟩ x _; exact ⟨_, rfl, rfl, rfl⟩
theorem lds (o : Ops) : Statement (.lds o) := by rintro _ _ ⟨⟩ ⟨⟩ x _; exact ⟨_, rfl, rfl, rfl⟩
theorem sts (o : Ops) : Statement (.sts o) := by rintro _ _ ⟨⟩ ⟨⟩ x _; exact ⟨_, rfl, rfl, rfl⟩
theorem atomAdd (o : Ops) : Statement (.atomAdd o) := by rintro _ _ ⟨⟩ ⟨⟩ x _; exact ⟨_, rfl, rfl, rfl⟩
theorem atomFadd (o : Ops) : Statement (.atomFadd o) := by rintro _ _ ⟨⟩ ⟨⟩ x _; exact ⟨_, rfl, rfl, rfl⟩
theorem atomMin (o : Ops) : Statement (.atomMin o) := by rintro _ _ ⟨⟩ ⟨⟩ x _; exact ⟨_, rfl, rfl, rfl⟩
theorem atomMax (o : Ops) : Statement (.atomMax o) := by rintro _ _ ⟨⟩ ⟨⟩ x _; exact ⟨_, rfl, rfl, rfl⟩
theorem atomAnd (o : Ops) : Statement (.atomAnd o) := by rintro _ _ ⟨⟩ ⟨⟩ x _; exact ⟨_, rfl, rfl, rfl⟩
theorem atomOr (o : Ops) : Statement (.atomOr o) := by rintro _ _ ⟨⟩ ⟨⟩ x _; exact ⟨_, rfl, rfl, rfl⟩
theorem atomXor (o : Ops) : Statement (.atomXor o) := by rintro _ _ ⟨⟩ ⟨⟩ x _; exact ⟨_, rfl, rfl, rfl⟩
theorem atomXchg (o : Ops) : Statement (.atomXchg o) := by rintro _ _ ⟨⟩ ⟨⟩ x _; exact ⟨_, rfl, rfl, rfl⟩
theorem atomCas (o : Ops) : Statement (.atomCas o) := by rintro _ _ ⟨⟩ ⟨⟩ x _; exact ⟨_, rfl, rfl, rfl⟩
theorem phaseRel (o : Ops) : Statement (.phaseRel o) := by rintro _ _ ⟨⟩ ⟨⟩ x _; exact ⟨_, rfl, rfl, rfl⟩
theorem phaseAcq (o : Ops) : Statement (.phaseAcq o) := by rintro _ _ ⟨⟩ ⟨⟩ x _; exact ⟨_, rfl, rfl, rfl⟩
theorem phaseAr (o : Ops) : Statement (.phaseAr o) := by rintro _ _ ⟨⟩ ⟨⟩ x _; exact ⟨_, rfl, rfl, rfl⟩
theorem cachectlPf1 (o : Ops) : Statement (.cachectlPf1 o) := by
  rintro _ _ ⟨⟩ ⟨⟩ x hx
  obtain rfl := List.mem_singleton.mp hx
  exact ⟨_, rfl, rfl, rfl⟩
theorem cachectlPf2 (o : Ops) : Statement (.cachectlPf2 o) := by
  rintro _ _ ⟨⟩ ⟨⟩ x hx
  obtain rfl := List.mem_singleton.mp hx
  exact ⟨_, rfl, rfl, rfl⟩
theorem cachectlInv (o : Ops) : Statement (.cachectlInv o) := by
  rintro _ _ ⟨⟩ ⟨⟩ x hx
  obtain rfl := List.mem_singleton.mp hx
  exact ⟨_, rfl, rfl, rfl⟩
theorem bankcfg (o : Ops) : Statement (.bankcfg o) := by rintro _ _ ⟨⟩ ⟨⟩ x _; exact ⟨_, rfl, rfl, rfl⟩
theorem bcopy (o : Ops) : Statement (.bcopy o) := by rintro _ _ ⟨⟩ ⟨⟩ x _; exact ⟨_, rfl, rfl, rfl⟩
theorem bcopyMc (o : Ops) : Statement (.bcopyMc o) := by rintro _ _ ⟨⟩ ⟨⟩ x _; exact ⟨_, rfl, rfl, rfl⟩
theorem bput (o : Ops) : Statement (.bput o) := by rintro _ _ ⟨⟩ ⟨⟩ x _; exact ⟨_, rfl, rfl, rfl⟩
theorem bseal (o : Ops) : Statement (.bseal o) := by rintro _ _ ⟨⟩ ⟨⟩ x _; exact ⟨_, rfl, rfl, rfl⟩
theorem bwait (o : Ops) : Statement (.bwait o) := by rintro _ _ ⟨⟩ ⟨⟩ x _; exact ⟨_, rfl, rfl, rfl⟩
theorem bread (o : Ops) : Statement (.bread o) := by rintro _ _ ⟨⟩ ⟨⟩ x _; exact ⟨_, rfl, rfl, rfl⟩
theorem bjoin (o : Ops) : Statement (.bjoin o) := by rintro _ _ ⟨⟩ ⟨⟩ x _; exact ⟨_, rfl, rfl, rfl⟩
theorem rpush (o : Ops) : Statement (.rpush o) := by rintro _ _ ⟨⟩ ⟨⟩ x _; exact ⟨_, rfl, rfl, rfl⟩
theorem rpop (o : Ops) : Statement (.rpop o) := by rintro _ _ ⟨⟩ ⟨⟩ x _; exact ⟨_, rfl, rfl, rfl⟩
theorem palloc (o : Ops) : Statement (.palloc o) := by rintro _ _ ⟨⟩ ⟨⟩ x _; exact ⟨_, rfl, rfl, rfl⟩
theorem pfree (o : Ops) : Statement (.pfree o) := by rintro _ _ ⟨⟩ ⟨⟩ x _; exact ⟨_, rfl, rfl, rfl⟩
theorem xres (o : Ops) : Statement (.xres o) := by rintro _ _ ⟨⟩ ⟨⟩ x _; exact ⟨_, rfl, rfl, rfl⟩
theorem bra (c : BraCond) (o : Ops) : Statement (.bra c o) := by
  cases c <;> (rintro _ _ ⟨⟩ ⟨⟩ x _; exact ⟨_, rfl, rfl, rfl⟩)
theorem loop (o : Ops) : Statement (.loop o) := by rintro _ _ ⟨⟩ ⟨⟩ x _; exact ⟨_, rfl, rfl, rfl⟩
theorem call (o : Ops) : Statement (.call o) := by rintro _ _ ⟨⟩ ⟨⟩ x _; exact ⟨_, rfl, rfl, rfl⟩
theorem callInd (o : Ops) : Statement (.callInd o) := by rintro _ _ ⟨⟩ ⟨⟩ x _; exact ⟨_, rfl, rfl, rfl⟩
theorem ret (o : Ops) : Statement (.ret o) := by rintro _ _ ⟨⟩ ⟨⟩ x _; exact ⟨_, rfl, rfl, rfl⟩
theorem retire (o : Ops) : Statement (.retire o) := by rintro _ _ ⟨⟩ ⟨⟩ x _; exact ⟨_, rfl, rfl, rfl⟩
theorem exit (o : Ops) : Statement (.exit o) := by rintro _ _ ⟨⟩ ⟨⟩ x _; exact ⟨_, rfl, rfl, rfl⟩
theorem region (o : Ops) : Statement (.region o) := by rintro _ _ ⟨⟩ ⟨⟩ x _; exact ⟨_, rfl, rfl, rfl⟩
theorem sync (o : Ops) : Statement (.sync o) := by rintro _ _ ⟨⟩ ⟨⟩ x _; exact ⟨_, rfl, rfl, rfl⟩
theorem wait (o : Ops) : Statement (.wait o) := by rintro _ _ ⟨⟩ ⟨⟩ x _; exact ⟨_, rfl, rfl, rfl⟩
theorem nop (o : Ops) : Statement (.nop o) := by rintro _ _ ⟨⟩ ⟨⟩ x _; exact ⟨_, rfl, rfl, rfl⟩
theorem trap (o : Ops) : Statement (.trap o) := by rintro _ _ ⟨⟩ ⟨⟩ x _; exact ⟨_, rfl, rfl, rfl⟩
theorem brk (o : Ops) : Statement (.brk o) := by rintro _ _ ⟨⟩ ⟨⟩ x _; exact ⟨_, rfl, rfl, rfl⟩
theorem eret (o : Ops) : Statement (.eret o) := by
  rintro _ _ ⟨⟩ ⟨⟩ x hx
  obtain rfl := List.mem_singleton.mp hx
  exact ⟨_, rfl, rfl, rfl⟩
theorem eretRetry (o : Ops) : Statement (.eretRetry o) := by
  rintro _ _ ⟨⟩ ⟨⟩ x hx
  obtain rfl := List.mem_singleton.mp hx
  exact ⟨_, rfl, rfl, rfl⟩
theorem sread (o : Ops) : Statement (.sread o) := by rintro _ _ ⟨⟩ ⟨⟩ x _; exact ⟨_, rfl, rfl, rfl⟩
theorem swrite (o : Ops) : Statement (.swrite o) := by rintro _ _ ⟨⟩ ⟨⟩ x _; exact ⟨_, rfl, rfl, rfl⟩
theorem launch (o : Ops) : Statement (.launch o) := by rintro _ _ ⟨⟩ ⟨⟩ x _; exact ⟨_, rfl, rfl, rfl⟩
theorem fenceCode (o : Ops) : Statement (.fenceCode o) := by rintro _ _ ⟨⟩ ⟨⟩ x _; exact ⟨_, rfl, rfl, rfl⟩
theorem issueChoice : Statement .issueChoice := by rintro _ _ ⟨⟩
theorem resultWrite (tid : Nat) (idx : Nat) : Statement (.resultWrite tid idx) := by rintro _ _ ⟨⟩
theorem trapEntry (tid : Nat) : Statement (.trapEntry tid) := by rintro _ _ ⟨⟩
theorem launchQueueDoorbell (q : Nat) (tail : Word) : Statement (.launchQueueDoorbell q tail) := by rintro _ _ ⟨⟩
theorem launchRecordTake (q : Nat) : Statement (.launchRecordTake q) := by rintro _ _ ⟨⟩
theorem blockPlacement (l : Nat) (b : Nat) : Statement (.blockPlacement l b) := by rintro _ _ ⟨⟩
theorem gangPlacement (l : Nat) : Statement (.gangPlacement l) := by rintro _ _ ⟨⟩
theorem preEmption (blk : Nat) : Statement (.preEmption blk) := by rintro _ _ ⟨⟩
theorem blockEnd (blk : Nat) : Statement (.blockEnd blk) := by rintro _ _ ⟨⟩
theorem launchCompletion (l : Nat) : Statement (.launchCompletion l) := by rintro _ _ ⟨⟩
theorem launchAbort (tag : Word) : Statement (.launchAbort tag) := by rintro _ _ ⟨⟩
theorem burstArrival (bread : Nat) (burst : Nat) : Statement (.burstArrival bread burst) := by rintro _ _ ⟨⟩
theorem sproutStart (blk : Nat) : Statement (.sproutStart blk) := by rintro _ _ ⟨⟩
theorem atomicAtHomeSlice (req : Nat) (repeats : Nat) : Statement (.atomicAtHomeSlice req repeats) := by rintro _ _ ⟨⟩
theorem bulkCommandCompletion (cmd : Nat) : Statement (.bulkCommandCompletion cmd) := by rintro _ _ ⟨⟩
theorem pageWalk (core : Nat) (va : Nat) : Statement (.pageWalk core va) := by rintro _ _ ⟨⟩
theorem walkEnd (die : Nat) (idx : Nat) : Statement (.walkEnd die idx) := by rintro _ _ ⟨⟩
theorem pageFaultRetry : Statement .pageFaultRetry := by rintro _ _ ⟨⟩
theorem pageFaultUnresolvable : Statement .pageFaultUnresolvable := by rintro _ _ ⟨⟩
theorem shootdownStart : Statement .shootdownStart := by rintro _ _ ⟨⟩
theorem shootdownComplete : Statement .shootdownComplete := by rintro _ _ ⟨⟩
theorem quarantinePush (n : Word) : Statement (.quarantinePush n) := by rintro _ _ ⟨⟩
theorem quarantineRelease : Statement .quarantineRelease := by rintro _ _ ⟨⟩
theorem quarantineTimeout : Statement .quarantineTimeout := by rintro _ _ ⟨⟩
theorem migrateToSram (die : Nat) (slot : Nat) : Statement (.migrateToSram die slot) := by rintro _ _ ⟨⟩
theorem migrateToGddr7 (die : Nat) : Statement (.migrateToGddr7 die) := by rintro _ _ ⟨⟩
theorem migrationLineMove (die : Nat) (check : ReadCheck) : Statement (.migrationLineMove die check) := by rintro _ _ ⟨⟩
theorem tierSplitWrite (die : Nat) (val : Word) : Statement (.tierSplitWrite die val) := by rintro _ _ ⟨⟩
theorem registerWrite (off : Nat) (val : Word) : Statement (.registerWrite off val) := by rintro _ _ ⟨⟩
theorem hostBar2Read (off : Nat) (n : Nat) : Statement (.hostBar2Read off n) := by rintro _ _ ⟨⟩
theorem hostBar2Write (off : Nat) (bytes : List Byte) : Statement (.hostBar2Write off bytes) := by rintro _ _ ⟨⟩
theorem msixSend (vec : Nat) : Statement (.msixSend vec) := by rintro _ _ ⟨⟩
theorem clockThrottle (watts : Nat) : Statement (.clockThrottle watts) := by rintro _ _ ⟨⟩
theorem residencyCounterHalving : Statement .residencyCounterHalving := by rintro _ _ ⟨⟩
theorem mismatchCountDecay : Statement .mismatchCountDecay := by rintro _ _ ⟨⟩
theorem scrubLine (scrub : Bool) (place : Storage) (check : ReadCheck) : Statement (.scrubLine scrub place check) := by rintro _ _ ⟨⟩
theorem instructionReplay (tid : Nat) (lanes : DWord) (mismatches : Nat) (agrees : Bool) (votes : List Vote) : Statement (.instructionReplay tid lanes mismatches agrees votes) := by rintro _ _ ⟨⟩
theorem registerErrorCorrection (tid : Nat) (w : CheckedWord) (check : ReadCheck) : Statement (.registerErrorCorrection tid w check) := by rintro _ _ ⟨⟩
theorem regionCommit (blk : Nat) (w : Nat) : Statement (.regionCommit blk w) := by rintro _ _ ⟨⟩
theorem partialCommit (blk : Nat) (w : Nat) : Statement (.partialCommit blk w) := by rintro _ _ ⟨⟩
theorem bankSwitch (blk : Nat) : Statement (.bankSwitch blk) := by rintro _ _ ⟨⟩
theorem forcedShortBatch (ctx : Nat) : Statement (.forcedShortBatch ctx) := by rintro _ _ ⟨⟩
theorem pipelineStall (ctx : Nat) : Statement (.pipelineStall ctx) := by rintro _ _ ⟨⟩
theorem startSequence (r : StartReport) : Statement (.startSequence r) := by rintro _ _ ⟨⟩
theorem readStartLog : Statement .readStartLog := by rintro _ _ ⟨⟩
theorem attest : Statement .attest := by rintro _ _ ⟨⟩
theorem readIdentityKey : Statement .readIdentityKey := by rintro _ _ ⟨⟩
theorem stageFirmware : Statement .stageFirmware := by rintro _ _ ⟨⟩
theorem restart (r : StartReport) : Statement (.restart r) := by rintro _ _ ⟨⟩
theorem readLostRecordCounters : Statement .readLostRecordCounters := by rintro _ _ ⟨⟩
theorem unknownCommand (cmd : Byte) : Statement (.unknownCommand cmd) := by rintro _ _ ⟨⟩
theorem mailboxCommandComplete : Statement .mailboxCommandComplete := by rintro _ _ ⟨⟩
theorem pcieBadTlp (write : Bool) (addr : Option Nat) : Statement (.pcieBadTlp write addr) := by rintro _ _ ⟨⟩
theorem pcieLinkDown : Statement .pcieLinkDown := by rintro _ _ ⟨⟩
theorem pcieLinkRetrain (gen : Nat) : Statement (.pcieLinkRetrain gen) := by rintro _ _ ⟨⟩
theorem pcieTrainingRetry (gen : Nat) : Statement (.pcieTrainingRetry gen) := by rintro _ _ ⟨⟩
theorem nertuFlitRetry (n : Nat) (fails : Nat) : Statement (.nertuFlitRetry n fails) := by rintro _ _ ⟨⟩
theorem nertuLinkRetrain (n : Nat) (passes : Bool) : Statement (.nertuLinkRetrain n passes) := by rintro _ _ ⟨⟩
theorem nertuInboundRequest (n : Nat) (pa : Nat) (len : Nat) (req : PeerReq) : Statement (.nertuInboundRequest n pa len req) := by rintro _ _ ⟨⟩
theorem remoteErrorResponse (n : Nat) (tid : Nat) (va : Nat) (write : Bool) : Statement (.remoteErrorResponse n tid va write) := by rintro _ _ ⟨⟩

end Sys2Proof.Laws.Coded
end

