-- ==== Sys2Proof/Tests/Slice0.lean ====
section
/-! SUPPORT. The model's own tests: words and terms that the decoder takes or refuses, states that meet the hypotheses
of the statements, and single steps with the results that the spec gives. -/

set_option Elab.async false

namespace Sys2Proof.Tests

open Sys2Proof Sys2Proof.Machine

/-! ### Operands -/

/-- The operands of a two-source vector form. -/
def two (ty : Ty) : Ops := { Ops.blank with ty := ty, dst := .v 4, a := .v 8, b := .v 12 }
/-- The operands of a one-source vector form. -/
def one (ty : Ty) : Ops := { Ops.blank with ty := ty, dst := .v 4, a := .v 8 }
/-- The operands of a three-source vector form. -/
def three (ty : Ty) : Ops := { two ty with len := 3, c := .v 16 }
/-- The operands of a form at warp scope. -/
def warp : Ops := { Ops.blank with scope := .warp }
/-- The operands of a matrix form. -/
def mat (ty : Ty) : Ops := { Ops.blank with ty := ty, dst := .m 1, a := .m 2, b := .m 3 }
/-- The operands of an access through the record in `s16` to `s23`. -/
def rec (ty : Ty) : Ops := { Ops.blank with len := 4, ty := ty, dst := .v 4, a := .v 8, brec := 2 }

/-! ### Words, field by field (R205, R210, R211, R223): OPC at bit 6, GUARD 14, GINV 18, DST 19, OPA 29, OPB 39, TYPE 49,
MOD 55, IMM32 64, OPC2 96, EXTRA 106, FLAG 113, QUAD 117, REC 124; `s`n is 0x100 + n, an immediate 0x300 + b -/

-- R223, R239: `.i32 add v4, v8, v12`
theorem test_word_add : decodeTableWord 64 (2 ^ 19 * 4 + 2 ^ 29 * 8 + 2 ^ 39 * 12 + 2 ^ 49 * 0x03) =
    some (.add (two .i32)) := by decide +kernel
-- R223: `.i32 rem.g k3, v4, v8, -1` under the inverted guard `k3`
theorem test_word_rem : decodeTableWord 64 (2 ^ 6 * 0x04 + 2 ^ 14 * 3 + 2 ^ 18 + 2 ^ 19 * 4 + 2 ^ 29 * 8 + 2 ^ 39 * 0x3FF +
    2 ^ 49 * 0x03 + 2 ^ 61) = some (.rem { two .i32 with guard := 3, ginv := true, b := .imm 0xFF }) := by decide +kernel
-- R223, R210: `.i32 not v4, 0x10000` of 96 bits, sub-operation 4, the long immediate in place of a
theorem test_word_not : decodeTableWord 96 (1 + 2 ^ 6 * 0x07 + 2 ^ 19 * 4 + 2 ^ 29 * 0x300 + 2 ^ 49 * 0x03 + 2 ^ 55 * 0x100 +
    2 ^ 64 * 0x10000) = some (.not { one .i32 with len := 3, a := .long 0x10000 }) := by decide +kernel
-- R213: `cvt` to `.i32` from `.i8`, the source type in OPB
theorem test_word_cvt : decodeTableWord 64 (2 ^ 6 * 0x0D + 2 ^ 19 * 4 + 2 ^ 29 * 8 + 2 ^ 39 * 0x01 + 2 ^ 49 * 0x03) =
    some (.cvt { one .i32 with sty := .i8 }) := by decide +kernel
-- R119, R248: `.f64 fma` in rounding mode rs, the third source in IMM32
theorem test_word_fma : decodeTableWord 96 (1 + 2 ^ 6 * 0x22 + 2 ^ 19 * 4 + 2 ^ 29 * 8 + 2 ^ 39 * 12 + 2 ^ 49 * 0x20 +
    2 ^ 55 * 5 + 2 ^ 64 * 16) = some (.fma { three .f64 with rnd := 5 }) := by decide +kernel
-- R257: `fcmp.uno` is opcode 0x42, sub-operation 6
theorem test_word_fcmp : decodeTableWord 64 (2 ^ 6 * 0x42 + 2 ^ 19 + 2 ^ 29 * 8 + 2 ^ 39 * 12 + 2 ^ 49 * 0x21 + 2 ^ 55 * 0x180) =
    some (.fcmp .uno { two .f32 with dst := .k 1 }) := by decide +kernel
-- R259: `kandn k1, k2, k3`
theorem test_word_kandn : decodeTableWord 64 (4 + 2 ^ 6 * 0x43 + 2 ^ 19 + 2 ^ 29 * 2 + 2 ^ 39 * 3 + 2 ^ 55 * 0xC0) =
    some (.kandn { warp with dst := .k 1, a := .k 2, b := .k 3 }) := by decide +kernel
-- R263: `.b32 shfl.down v4, v8, 1`
theorem test_word_shfl : decodeTableWord 64 (4 + 2 ^ 6 * 0x50 + 2 ^ 19 * 4 + 2 ^ 29 * 8 + 2 ^ 39 * 0x301 + 2 ^ 49 * 0x12 +
    2 ^ 55 * 0x80) = some (.shfl .down { one .b32 with scope := .warp, b := .imm 1 }) := by decide +kernel
-- R291: `.f16 mfma.tn m1, m2, m3, m4`
theorem test_word_mfma : decodeTableWord 96 (1 + 2 ^ 6 * 0x6A + 2 ^ 19 * 0x301 + 2 ^ 29 * 0x302 + 2 ^ 39 * 0x303 + 2 ^ 49 * 0x22 +
    2 ^ 55 * 0x80 + 2 ^ 64 * 0x304) = some (.mfma .tn { mat .f16 with len := 3, c := .m 4 }) := by decide +kernel
-- R318: `.b128 st` of `v4` to `v7` through REC 2, two coordinates
theorem test_word_st : decodeTableWord 128 (2 + 2 ^ 6 * 0x81 + 2 ^ 19 * 4 + 2 ^ 29 * 8 + 2 ^ 39 * 12 + 2 ^ 49 * 0x14 +
    2 ^ 55 * 0x40 + 2 ^ 113 * 15 + 2 ^ 124 * 2) = some (.st { rec .b128 with b := .v 12, xmod := 1 }) := by decide +kernel
-- R315, R323: `.b32 atom.cas` that returns, with release and acquire at die scope: OPC2 8, EXTRA 0x68
theorem test_word_cas : decodeTableWord 128 (2 + 2 ^ 6 * 0x84 + 2 ^ 19 * 4 + 2 ^ 29 * 8 + 2 ^ 39 * 12 + 2 ^ 49 * 0x12 +
    2 ^ 55 * 0x40 + 2 ^ 96 * 8 + 2 ^ 106 * 0x68 + 2 ^ 113 * 15 + 2 ^ 124 * 2) =
    some (.atomCas { rec .b32 with b := .v 12, xmod := 1, extra := 0x68 }) := by decide +kernel
-- R326: `phase.ar` at system scope, HINT 3
theorem test_word_phase : decodeTableWord 64 (4 + 2 ^ 6 * 0x85 + 2 ^ 55 * 0xB0) =
    some (.phaseAr { warp with hint := 3 }) := by decide +kernel
-- R331: `bput` of 64 elements from scratch `s4` at index `s8`, flag 1, REC 2
theorem test_word_bput : decodeTableWord 128 (2 + 4 + 2 ^ 6 * 0xA1 + 2 ^ 19 * 0x104 + 2 ^ 29 * 0x108 + 2 ^ 64 * 64 + 2 ^ 113 +
    2 ^ 124 * 2) = some (.bput { warp with len := 4, dst := .s 4, a := .s 8, imm := 64, flag := 1, brec := 2 }) := by
  decide +kernel
-- R338: `rpop v4, s8`
theorem test_word_rpop : decodeTableWord 64 (4 + 2 ^ 6 * 0xA7 + 2 ^ 19 * 4 + 2 ^ 29 * 0x108 + 2 ^ 49 * 0x12) =
    some (.rpop { one .b32 with scope := .warp, a := .s 8 }) := by decide +kernel
-- R271: `loop s4` back over 64 bytes
theorem test_word_loop : decodeTableWord 96 (1 + 4 + 2 ^ 6 * 0xB1 + 2 ^ 19 * 0x104 + 2 ^ 64 * 0xFFFFFFC0) =
    some (.loop { warp with len := 3, dst := .s 4, imm := 0xFFFFFFC0 }) := by decide +kernel
-- R276: `sync` of the set in membership slot 2, with a status in `s4`
theorem test_word_sync : decodeTableWord 64 (8 + 2 ^ 4 * 2 + 2 ^ 6 * 0xB7 + 2 ^ 19 * 0x104) =
    some (.sync { Ops.blank with scope := .set, mslot := 2, dst := .s 4 }) := by decide +kernel
-- R345: `eret.retry` has 1 in MOD[8:6]
theorem test_word_eret : decodeTableWord 64 (4 + 2 ^ 6 * 0xC2 + 2 ^ 55 * 0x40) =
    some (.eretRetry { warp with xmod := 1 }) := by decide +kernel
-- R346: `swrite fpmode, s8`
theorem test_word_swrite : decodeTableWord 64 (2 ^ 6 * 0xC3 + 2 ^ 19 * 0x10 + 2 ^ 29 * 0x108 + 2 ^ 55 * 0x40) =
    some (.swrite { Ops.blank with dst := .sp 0x10, a := .s 8 }) := by decide +kernel

/-! ### Words and terms that are refused -/

-- R203, R204, R215, R225
theorem test_pad_word : decodeAt .full 28 (2 ^ 32 * 5 + 0x3000) = .pad := by decide +kernel
theorem test_crossing_word : decodeAt .full 24 (1 + 2 ^ 6 * 0x03) = .malformed 1 := by decide +kernel
theorem test_reserved_header : [2 ^ 14 * 12, 2 ^ 18 * 14, 2 ^ 52].all (fun r => decide (decode (3 + r) = .malformed 2)) = true ∧
    (match decode (3 + 2 ^ 2 * 0x801 + 2 ^ 14 * 15 + 2 ^ 18 * 11 + 2 ^ 22 * 5 + 2 ^ 28 * 0x8001) with
      | .header h => decide (h.wait = 0x801 ∧ h.seta = 15 ∧ h.setb = 11 ∧ h.length = 5 ∧ h.stall = 0x8001)
      | _ => false) = true := by decide +kernel
theorem test_unassigned_opcode : decode (2 ^ 6 * 0x0F) = .unimplemented ∧ decode (2 ^ 6 * 0x2A + 2 ^ 55 * 0x1C0) = .unimplemented := by
  decide +kernel
-- R240: `.sat` on `rem`
theorem test_rem_takes_no_sat : (Instr.rem (two .i32)).wf = true ∧
    decode (encode (.rem { two .i32 with sat := true })) = .malformed 9 := by decide +kernel
-- R343: a `nop` with another field
theorem test_nop_is_one_word : decode (0x3000 + 2 ^ 19) = .malformed 4 ∧ decode (0x3002 + 2 ^ 96) = .unimplemented ∧
    decode 0x3001 = .malformed 3 := by decide +kernel

-- each check of WellFormed refuses a term
theorem test_wf_length : (Instr.add { two .i32 with len := 4 }).wf = false := by decide +kernel
theorem test_wf_ranges : (Instr.add { two .i32 with guard := 16 }).wf = false ∧ (Instr.add { two .i32 with flag := 1 }).wf = false ∧
    (Instr.ld { rec .b32 with brec := 16 }).wf = false := by decide +kernel
theorem test_wf_fields : (Instr.add (two .f32)).wf = false ∧ (Instr.add { two .i64 with dst := .v 5 }).wf = false ∧
    (Instr.kand { warp with dst := .k 0, a := .k 2, b := .k 3 }).wf = false ∧
    (Instr.add { two .i32 with mslot := 1 }).wf = false ∧ (Instr.ret { warp with guard := 1 }).wf = false := by decide +kernel
theorem test_wf_canonical : (Instr.nop { Ops.blank with a := .v 0 }).wf = false ∧
    (Instr.add { two .i32 with a := .m 2 }).wf = false := by decide +kernel
theorem test_wf_steps : ([.launchQueueDoorbell 64 0, .launchRecordTake 64, .walkEnd 4 0, .migrateToSram 4 0, .migrateToGddr7 4,
    .migrationLineMove 4 .clean, .tierSplitWrite 4 0, .forcedShortBatch 4, .pipelineStall 4, .msixSend 70, .nertuFlitRetry 8 0,
    .nertuLinkRetrain 8 true, .nertuInboundRequest 8 0 4 .read, .nertuInboundRequest 0 0 4 (.write [1]), .remoteErrorResponse 8 3 0 true, .registerWrite 2 0,
    .hostBar2Read 0 3, .hostBar2Read (2 ^ 36) 4, .hostBar2Write 0 [], .instructionReplay 3 0 1 true [.primary],
    .instructionReplay 3 1 1 true []] : List Instr).all (fun i => !i.wf) = true := by decide +kernel

/-! ### Small states -/

/-- A warp of two lanes, the third thread, has fetched `i`; `f` sets what the test needs of it. -/
def ready (i : Instr) (f : Thread → Thread := id) : State :=
  let s := State.reset.withFetchWord (encodedBits i) (encode i)
  let s := s.modThread 3 fun th => f { th with width := 2, regs := { th.regs with k := [(0, 3)], gen := [(0, 1), (1, 2)] } }
  let s := s.modLaunch 1 fun la => { la with obj := { la.obj with width := 2 } }
  { s with issueQ := [], cur := { tid := 3, pc := 0x10000, words := wordsOf (encodedBits i / 32) (encode i) } }

/-- Vector register `n` holds these words in lanes 0, 1, … -/
def vec (n : Nat) (xs : List Nat) (th : Thread) : Thread :=
  { th with regs := { th.regs with v := xs.zipIdx.foldl (fun m p => NMap.set 0 m (64 * n + p.2) (BitVec.ofNat 32 p.1)) th.regs.v } }
/-- Scalar register `n` holds `x`. -/
def scal (n x : Nat) (th : Thread) : Thread :=
  { th with regs := { th.regs with s := NMap.set 0 th.regs.s n (BitVec.ofNat 32 x) } }
/-- Mask register `n` holds `x`. -/
def mask (n x : Nat) (th : Thread) : Thread :=
  { th with regs := { th.regs with k := NMap.set 0 th.regs.k n (BitVec.ofNat 64 x) } }
/-- `fpmode` holds `x`. -/
def fpmode (x : Nat) (th : Thread) : Thread := { th with regs := { th.regs with fpmode := BitVec.ofNat 32 x } }
/-- Matrix register `n` of lane `l` holds this matrix. -/
def matrix (n l : Nat) (m : Mat) (th : Thread) : Thread := { th with regs := Regs.putAll th.width th.regs [m.val n l] }

/-- The current thread issues `i` unhindered, and its operands and surroundings meet `p`. -/
def issuing (s : State) (i : Instr) (p : Ops → Env → Bool := fun _ _ => true) : Bool :=
  match i.ops, s.env with
  | some o, some e => decide (s.issues i o e) && p o e
  | _, _ => false

/-- `exec` runs `i` in `s`; the next state and the thread that issued it meet `p`. -/
def after (s : State) (i : Instr) (p : State → Thread → Bool) : Bool :=
  match exec i s with
  | .next t => match t.thread 3 with | some th => p t th | none => false
  | _ => false

/-- Lanes of a vector register of 32-bit values. -/
def lanes (n k : Nat) (th : Thread) : List Nat := (List.range k).map fun l => (th.regs.vec n l).toNat
/-- The values that the last pending result will write to a vector register of 32-bit values. -/
def pending (n k : Nat) (th : Thread) : List Nat :=
  (List.range k).map fun l =>
    ((Regs.putAll th.width th.regs ((th.pend.map (·.vals)).flatten)).vec n l).toNat

/-! ### Lane arithmetic -/

/-- Forms of lane arithmetic. -/
def laneForms : List Instr :=
  [.add (two .i32), .addc (two .n32), .sub (two .i32), .subb (two .n32), .mul (two .i32), .mulhi (two .i32),
   .mad (three .i32), .div (two .i32), .rem (two .i32), .min (two .i32), .max (two .i32), .abs (one .i32),
   .neg (one .i32), .and (two .b32), .or (two .b32), .xor (two .b32), .andn (two .b32), .not (one .b32),
   .shl (two .b32), .shr (two .b32), .sar (two .i32), .rot (two .b32), .bfx (two .b32), .bfi (three .b32),
   .popc (one .b32), .clz (one .b32), .brev (one .b32), .sel { three .b32 with c := .k 4 }, .mov (one .b32),
   .movi { one .b32 with a := .imm 5 }, .cvt { one .i32 with sty := .i8 }, .lea (two .n32)]
/-- Forms of floating point; no condition is enabled. -/
def floatForms : List Instr :=
  [.fadd (two .f32), .fsub (two .f32), .fmul (two .f32), .fma (three .f32), .fdiv (two .f32), .fmin (two .f32),
   .fmax (two .f32), .fabs (one .f32), .fneg (one .f32), .fsign (one .f32), .frnd (one .f32), .fscale (two .f32),
   .fcvt { one .f16 with sty := .f32 }, .f2i { one .i32 with sty := .f32 }, .i2f { one .f32 with sty := .i32 },
   .fclass (one .f32), .rcp (one .f32), .rsq (one .f32), .sqrt (one .f32), .exp2 (one .f32), .log2 (one .f32),
   .sinpi (one .f32), .cospi (one .f32)]

-- the hypotheses of IntegerArithmetic, DivisionAndCarryChains, ShiftsFieldsCountsAndMoves
theorem test_lane_forms_issue : laneForms.all (fun i => i.wf && issuing (ready i) i (fun o _ =>
    decide (0 < o.ty.bits) && (o.ty.isInt || o.ty.isBits) && decide (o.ty ≠ .b128))) = true := by decide +kernel
-- RoundingInstructions and SignsAndComparisons: nothing is enabled, whatever is raised
theorem test_float_forms_issue : floatForms.all (fun i => i.wf && issuing (ready i) i (fun o e =>
    (List.range 32).all (fun c => !e.fp.traps c) && (decide (o.ty ∈ tysArith) || decide (i = .f2i o)))) = true := by
  decide +kernel
-- LaneResultsReadBack: a vector destination, and an all-scalar form with and without a lane that passes
theorem test_lane_results_witness : issuing (ready (.add (two .i32))) (.add (two .i32)) (fun o e =>
      decide (o.ty ≠ .none) && decide (e.th.width ≤ 64) && decide (o.dst = .v 4)) = true ∧
    (let i := Instr.add { two .i32 with dst := .s 4, a := .s 8, b := .s 12 }
     issuing (ready i) i (fun o e => allScalar o && decide (e.th.active o ≠ 0)) &&
     issuing (ready i (mask 0 0)) i (fun o e => allScalar o && decide (e.th.active o = 0))) = true := by decide +kernel

-- R239: 0x7FFFFFFF + 1 wraps, and is clamped with `.sat`
theorem test_add_wraps : after (ready (.add (two .i32)) (vec 8 [0x7FFFFFFF, 5] ∘ vec 12 [1, 6])) (.add (two .i32))
    (fun _ th => decide (lanes 4 2 th = [0x80000000, 11])) = true := by decide +kernel
theorem test_add_sat : after (ready (.add { two .i32 with sat := true }) (vec 8 [0x7FFFFFFF, 5] ∘ vec 12 [1, 6]))
    (.add { two .i32 with sat := true }) (fun _ th => decide (lanes 4 2 th = [0x7FFFFFFF, 11])) = true := by decide +kernel
-- R240
theorem test_div_corners : after (ready (.div (two .i32)) (vec 8 [0x80000000, 7] ∘ vec 12 [0xFFFFFFFF, 0])) (.div (two .i32))
    (fun _ th => decide (pending 4 2 th = [0x80000000, 0xFFFFFFFF])) = true := by decide +kernel
theorem test_rem_corners : after (ready (.rem (two .i32)) (vec 8 [0xFFFFFFF9, 7] ∘ vec 12 [2, 0])) (.rem (two .i32))
    (fun _ th => decide (pending 4 2 th = [0xFFFFFFFF, 7])) = true := by decide +kernel
-- R241: the first `addc` of the spec's example
theorem test_addc_example : let i := Instr.addc { two .n32 with dst := .v 24, a := .v 20, b := .v 22 }
    after (ready i (vec 20 [0xFFFFFFFF] ∘ vec 22 [2])) i
      (fun _ th => decide ((lanes 24 1 th, lanes 25 1 th) = ([1], [1]))) = true := by decide +kernel
-- R243: a field of 8 bits at 28 is clipped to 4
theorem test_bfx_clips : after (ready (.bfx (two .i32)) (vec 8 [0xA0000000] ∘ vec 12 [0x81C])) (.bfx (two .i32))
    (fun _ th => decide (lanes 4 1 th = [0xFFFFFFFA])) = true := by decide +kernel
-- R249, R253: 1.0 + 2^-24 rounds to even
theorem test_fadd_rounds : after (ready (.fadd (two .f32)) (vec 8 [0x3F800000, 0x3F800001] ∘ vec 12 [0x33800000, 0x33800000]))
    (.fadd (two .f32)) (fun _ th => decide (lanes 4 2 th = [0x3F800000, 0x3F800002])) = true := by decide +kernel
theorem test_fdiv : after (ready (.fdiv (two .f32)) (vec 8 [0x3F800000, 0x3F800000] ∘ vec 12 [0x40400000, 0]))
    (.fdiv (two .f32)) (fun _ th => decide (pending 4 2 th = [0x3EAAAAAB, 0x7F800000])) = true := by decide +kernel

-- LaneTraps: overflow, division by zero and an unordered comparison with the conditions enabled
theorem test_arithmetic_traps : let en := fpmode 0x7C00
    (issuing (ready (.fadd (two .f32)) (en ∘ vec 8 [0x7F7FFFFF] ∘ vec 12 [0x7F7FFFFF])) (.fadd (two .f32)) (fun o e =>
      (e.actLanes o).any fun l => e.fp.traps (fpAdd e.fp o.ty o.rnd (genStep (e.th.regs.genOf l)) o.sat false (e.srcA o l) (e.srcB o l)).conds) &&
    issuing (ready (.fdiv (two .f32)) (en ∘ vec 8 [0x3F800000])) (.fdiv (two .f32)) (fun o e =>
      (e.actLanes o).any fun l => e.fp.traps (fpDiv e.fp o.ty o.rnd o.sat (e.srcA o l) (e.srcB o l)).conds) &&
    issuing (ready (.fcmp .lt { two .f32 with dst := .k 1 }) (en ∘ vec 8 [0x7FC00000])) (.fcmp .lt { two .f32 with dst := .k 1 })
      (fun o e => (e.actLanes o).any fun l => e.fp.traps (fpCompare e.fp o.ty .lt (e.srcA o l) (e.srcB o l)).2)) = true := by
  decide +kernel

/-! ### Special registers -/

-- SpecialWritesAndSeeds: every register that `swrite` sets, one that it does not, a bad `fpmode`, and `srand`
theorem test_special_writes_witness : ([0x10, 0x11, 0x30, 0x31, 0x32, 0x33, 0x34, 0x35, 0x36, 0x38, 0x18].all fun n =>
      let i := Instr.swrite { Ops.blank with dst := .sp n, a := .s 8 }
      i.wf && issuing (ready i) i (fun o e => decide (e.th.active o ≠ 0) && fpmodeOk 0)) = true ∧
    (let i := Instr.swrite { Ops.blank with dst := .sp 0x10, a := .s 8 }
     issuing (ready i (scal 8 0x8000)) i (fun o e => !fpmodeOk (e.th.regs.scal 8).toNat && decide (e.th.active o ≠ 0))) = true ∧
    (let i := Instr.swrite { Ops.blank with dst := .sp 0x38, a := .s 8 }
     let s := ready i
     let s := { s with host := { s.host with testMode := true } }
     issuing s i && s.host.testMode) = true ∧
    (let i := Instr.srand { warp with ty := .b32, a := .s 8 }
     i.wf && issuing (ready i) i) = true := by decide +kernel
-- SpecialReads: every special register, with and without a lane that passes
theorem test_special_reads_witness : ([0x01, 0x02, 0x03, 0x04, 0x05, 0x08, 0x09, 0x0A, 0x0B, 0x10, 0x11, 0x18, 0x19, 0x20,
      0x21, 0x22, 0x23, 0x24, 0x28, 0x29, 0x2A, 0x30, 0x31, 0x32, 0x33, 0x34, 0x35, 0x36, 0x38].all fun n =>
      let i := Instr.sread { Ops.blank with dst := .s 4, a := .sp n }
      i.wf && issuing (ready i) i (fun o e => e.th.isWarp && decide (e.th.active o ≠ 0))) = true ∧
    (let i := Instr.sread { Ops.blank with dst := .s 4, a := .sp 1 }
     issuing (ready i (mask 0 0)) i (fun o e => e.th.isWarp && decide (e.th.active o = 0))) = true ∧
    (let i := Instr.sread { Ops.blank with dst := .v 4, a := .sp 0 }
     i.wf && issuing (ready i) i) = true ∧
    (let i := Instr.sread { Ops.blank with dst := .k 4, a := .sp 0x36 }
     i.wf && issuing (ready i) i) = true := by decide +kernel
-- R109: `lane_id` in every active lane, the stepping in `hw_rev`
theorem test_sread : (let i := Instr.sread { Ops.blank with dst := .v 4, a := .sp 0 }
      after (ready i (vec 4 [9, 9])) i (fun _ th => decide (lanes 4 2 th = [0, 1]))) = true ∧
    (let i := Instr.sread { Ops.blank with dst := .s 4, a := .sp 0x19 }
     after (ready i) i (fun _ th => decide (th.regs.scal 4 = 0xC2))) = true := by decide +kernel

/-! ### Comparisons, masks and cross-lane instructions -/

/-- Forms over masks. -/
def maskForms : List Instr :=
  [.kand { warp with dst := .k 1, a := .k 2, b := .k 3 }, .kor { warp with dst := .k 1, a := .k 2, b := .k 3 },
   .kxor { warp with dst := .k 1, a := .k 2, b := .k 3 }, .kandn { warp with dst := .k 1, a := .k 2, b := .k 3 },
   .knot { warp with dst := .k 1, a := .k 2 }, .kmov { warp with dst := .k 1, a := .k 2 }, .kmov { warp with dst := .k 1, a := .s 8 },
   .kmov { warp with dst := .s 4, a := .k 2 }, .kpop { warp with dst := .s 4, a := .k 2 },
   .kfirst { warp with dst := .s 4, a := .k 2 }, .kany { warp with dst := .s 4, a := .k 2 },
   .kall { warp with dst := .s 4, a := .k 2 }, .ballot { warp with ty := .b32, dst := .k 1, a := .v 8 },
   .ballot { warp with ty := .b32, dst := .s 4, a := .v 8 }]
/-- Cross-lane forms. -/
def crossForms : List Instr :=
  [.shfl .idx { two .b32 with scope := .warp }, .shfl .up { two .b32 with scope := .warp },
   .shfl .down { two .b32 with scope := .warp }, .shfl .xor { two .b32 with scope := .warp, b := .imm 1 },
   .bcast { two .b32 with scope := .warp, b := .imm 1 }, .bcast { two .b32 with scope := .warp, dst := .s 4, b := .s 12 },
   .red .sum { one .i32 with scope := .warp, dst := .s 4 }, .scan .min { one .i32 with scope := .warp },
   .sred .sum { one .f32 with len := 3, scope := .warp, b := .k 3, c := .imm 2 },
   .topk { one .i32 with scope := .warp, b := .imm 1 }]

-- MaskInstructions, CrossLaneMoves, Reductions
theorem test_mask_forms_issue : maskForms.all (fun i => i.wf && issuing (ready i) i (fun _ e => decide (e.th.width ≤ 64))) = true := by
  decide +kernel
theorem test_cross_forms_issue : crossForms.all (fun i => i.wf && issuing (ready i) i (fun o e =>
    decide (o.scope = .warp) && decide (o.a = .v 8) && decide (0 < e.th.width) && decide (e.th.width ≤ 64) &&
    !e.la.obj.errata.getLsbD 9)) = true := by decide +kernel
-- SignsAndComparisons: both kinds of destination
theorem test_compare_forms_issue : ([.cmp .lt { two .i32 with dst := .k 1 }, .cmp .ge { two .n32 with dst := .s 4, a := .s 8, b := .s 12 },
      .fcmp .uno { two .f32 with dst := .k 1 }, .fcmp .eq { two .f32 with dst := .s 4, a := .s 8, b := .s 12 }] : List Instr).all
    (fun i => i.wf && issuing (ready i) i (fun o e => decide (e.th.width ≤ 64) && decide (e.th.active o ≠ 0) &&
      (List.range 32).all (fun c => !e.fp.traps c))) = true := by decide +kernel
-- Reductions: a selector above 2, and an empty and a full range
theorem test_sred_selector_witness : let i := Instr.sred .sum { one .f32 with len := 3, scope := .warp, b := .k 3, c := .s 16 }
    issuing (ready i (scal 16 3)) i (fun o e => decide (2 < e.th.regs.raw 0 .b32 0 o.c)) = true ∧
    issuing (ready i (scal 16 2)) i (fun o e => decide (e.th.regs.raw 0 .b32 0 o.c ≤ 2)) = true := by decide +kernel

-- R258: the bits of lanes that are not active are cleared
theorem test_cmp_clears : let i := Instr.cmp .lt { two .i32 with dst := .k 1, guard := 2 }
    after (ready i (mask 1 0xF ∘ mask 2 2 ∘ vec 8 [0xFFFFFFFF, 0xFFFFFFFF])) i (fun _ th => decide (th.regs.mask 1 = 2)) = true := by
  decide +kernel
-- R259: a merge under the guard
theorem test_kor_merges : let i := Instr.kor { warp with dst := .k 1, a := .k 2, b := .k 3, guard := 4 }
    after (ready i (mask 1 2 ∘ mask 2 3 ∘ mask 4 1)) i (fun _ th => decide (th.regs.mask 1 = 3)) = true := by decide +kernel
-- R263: a lane outside the warp reads its own
theorem test_shfl_edge : let i := Instr.shfl .up { two .b32 with scope := .warp, b := .imm 1 }
    after (ready i (vec 8 [7, 9])) i (fun _ th => decide (pending 4 2 th = [7, 7])) = true := by decide +kernel
-- R267: the spec's example with selector 0 and 2, in its first lanes
theorem test_sred_example : ∀ c ∈ [(0, [0x40C00000, 0x40C00000, 0x40C00000, 0x421C0000]), (2, [0x40C00000, 0, 0, 0x421C0000])],
    let i := Instr.sred .sum { one .f32 with len := 3, scope := .warp, dst := .v 5, a := .v 4, b := .k 3, c := .imm c.1 }
    after (ready i (fun th => vec 4 [0x3F800000, 0x40000000, 0x40400000, 0x40800000, 0x40A00000, 0x40C00000, 0x40E00000,
      0x41000000, 0x41100000, 0x41200000, 0x41300000, 0x41400000, 0x41500000, 0x41600000, 0x41700000, 0x41800000]
      (mask 3 0x208 (mask 0 0xFFFF { th with width := 16 })))) i
      (fun _ th => decide (pending 5 4 th = c.2)) = true := by decide +kernel

/-! ### Control flow -/

/-- Forms of control flow and system instructions that complete at once. -/
def controlForms : List Instr :=
  [.nop Ops.blank, .bra .always { warp with len := 3, imm := 0x40 }, .bra .any { warp with len := 3, a := .k 2, imm := 0x40 },
   .bra .all { warp with len := 3, a := .k 2 }, .bra .none { warp with len := 3, a := .k 2 }, .bra .nz { warp with len := 3, a := .s 8 },
   .bra .z { warp with len := 3, a := .s 8 }, .loop { warp with len := 3, dst := .s 4 }, .call { warp with len := 3, imm := 0x40 },
   .retire Ops.blank, .exit warp, .region { warp with len := 3 }, .sync { warp with dst := .s 4 },
   .wait { warp with len := 3, imm := 4 }, .trap { warp with a := .s 8 }, .trap { warp with a := .imm 5 },
   .brk { warp with a := .imm 5 }, .fenceCode warp, .launch { warp with a := .s 8 }]

-- NopAndBranches, Loops, CallsAndReturns, ThreadsEnd, RegionsOpen, SyncAndWait, SoftwareTraps
theorem test_control_forms_issue : controlForms.all (fun i => i.wf && issuing (ready i) i (fun o e =>
    codeOk ((ready i).target o) && decide (e.th.regs.depth < 16) && decide (e.th.regs.ras.length < 16) && e.th.isWarp &&
    decide (e.th.active o ≠ 0) && decide (e.th.pend = []) && decide (e.th.flags = []) &&
    (e.la.obj.regions[o.imm.toNat]?.isSome || decide (i ≠ .region o)) && !(ready i).host.testMode)) = true := by decide +kernel
-- a branch both ways, and a loop that ends
theorem test_branches : (let i := Instr.bra .nz { warp with len := 3, a := .s 8, imm := 0x40 }
      after (ready i (scal 8 1)) i (fun _ th => decide (th.pc = 0x10040)) &&
      after (ready i) i (fun _ th => decide (th.pc = 0x1000C))) = true ∧
    (let i := Instr.loop { warp with len := 3, dst := .s 4, imm := 0xFFFFFFC0 }
     after (ready i (scal 4 1)) i (fun _ th => decide (th.pc = 0x1000C ∧ th.regs.scal 4 = 0)) &&
     after (ready i) i (fun _ th => decide (th.pc = 0xFFC0 ∧ th.regs.scal 4 = 0xFFFFFFFF))) = true := by decide +kernel
-- CallsAndReturns: `ret` with an entry, and `call.ind` with and without a pending lane
theorem test_returns_witness : (let i := Instr.ret warp
      issuing (ready i (fun th => { th with regs := { th.regs with ras := [0x10040], depth := 1 } })) i (fun _ e =>
        decide (0 < e.th.regs.depth) && decide (e.th.regs.depth ≤ 16) && codeOk (e.th.regs.ras.getD 0 0).toNat)) = true ∧
    (let i := Instr.callInd { warp with dst := .k 1, a := .v 8, b := .k 3 }
     i.wf && issuing (ready i (vec 8 [0x10080, 0x10040] ∘ mask 3 3)) i (fun o e =>
       decide (e.th.regs.mask 3 &&& e.th.active o = 3) && decide (e.th.regs.raw 0 .n64 1 o.a ≤ e.th.regs.raw 0 .n64 0 o.a) &&
       codeOk (e.th.regs.raw 0 .n64 1 o.a) && decide (e.th.regs.depth < 16)) &&
     issuing (ready i) i (fun o e => decide (e.th.regs.mask 3 &&& e.th.active o = 0))) = true := by decide +kernel
-- R273: the least target is served, and the other lane stays pending
theorem test_call_ind : let i := Instr.callInd { warp with dst := .k 1, a := .v 8, b := .k 3 }
    after (ready i (vec 8 [0x10080, 0x10040] ∘ mask 3 3)) i (fun _ th =>
      decide (th.pc = 0x10040 ∧ th.regs.mask 1 = 2 ∧ th.regs.mask 3 = 1 ∧ th.regs.ras = [0x10000])) = true := by decide +kernel
-- ControlTransfersTrap: a target that is no multiple of 4, a full and an empty stack
theorem test_transfers_trap_witness : ([.bra .always { warp with len := 3, imm := 2 }, .loop { warp with len := 3, dst := .s 4, imm := 2 },
      .call { warp with len := 3, imm := 2 }] : List Instr).all (fun i => i.wf && issuing (ready i) i (fun o _ =>
        !codeOk ((ready i).target o))) = true ∧
    (let i := Instr.call { warp with len := 3 }
     issuing (ready i (fun th => { th with regs := { th.regs with depth := 16 } })) i (fun o e => codeOk ((ready i).target o) &&
       decide (16 + e.la.recd.spillStride / 8 ≤ e.th.regs.depth))) = true ∧
    issuing (ready (.ret warp)) (.ret warp) (fun _ e => decide (e.th.regs.depth = 0)) = true := by decide +kernel
-- ThreadsEnd: a guard that leaves a lane, and none
theorem test_retire_witness : let i := Instr.retire { Ops.blank with guard := 2 }
    i.wf && issuing (ready i (mask 2 1)) i (fun o e => e.th.isWarp &&
      decide (e.th.regs.mask 0 &&& ~~~(e.th.active o) &&& laneMask e.th.width ≠ 0)) &&
    issuing (ready i (mask 2 3)) i (fun o e => decide (e.th.regs.mask 0 &&& ~~~(e.th.active o) &&& laneMask e.th.width = 0)) = true := by
  decide +kernel
-- RegionsOpen: an entry past the table
theorem test_region_past_witness : let i := Instr.region { warp with len := 3, imm := 1 }
    i.wf && issuing (ready i) i (fun o e => e.la.obj.regions[o.imm.toNat]?.isNone) = true := by decide +kernel

/-- An earlier result that is not yet written, and the flag that it keeps busy. -/
def busy (th : Thread) : Thread :=
  { th with pend := [{ op := 9, vals := [], stale := none, known := false, regs := [], region := 0 }], flags := [(1, 9)] }

-- SyncAndWait: something outstanding
theorem test_waits_witness : (let i := Instr.sync { warp with dst := .s 4 }
      issuing (ready i busy) i (fun _ e => decide (e.th.pend ≠ []))) = true ∧
    (let i := Instr.wait { warp with len := 3, imm := 2 }
     issuing (ready i busy) i (fun o e => e.th.flags.any fun p => decide (p.1 < 12) && o.imm.getLsbD p.1)) = true := by
  decide +kernel
theorem test_wait_holds : let i := Instr.wait { warp with len := 3, imm := 2 }
    after (ready i busy) i (fun _ th => decide (th.wait = .stalled ∧ th.pc = 0x10000)) = true := by decide +kernel

/-! ### Sets -/

/-- As `ready`, with a second warp in the set, whose thread is the fourth and which has arrived at `at_` when that is given. -/
def pair (i : Instr) (at_ : Option Nat) : State :=
  let s := ready i
  let s := s.setThread 4 (match s.thread 3 with
    | some th => { th with role := .warp 1, wait := if at_.isSome then .rendezvous 0 else .ready }
    | none => .start 2 (.warp 1) 2 0x10000 0 0 0 0 0 (Regs.start 2 0 [] []))
  let s := s.modLaunch 1 fun la => { la with obj := { la.obj with warps := 2, groups := [⟨0, 0, 3⟩] } }
  s.modBlock 2 fun b => { b with warps := [3, 4], rends := match at_ with
    | some a => [{ set := 0, addr := a, instr := i, words := s.cur.words, arrived := [4] }]
    | none => [] }

/-- What the hypotheses of the rendezvous statements share. -/
def gathers (s : State) (i : Instr) (p : Ops → Env → Bool) : Bool :=
  match i.ops, s.env with
  | some o, some e => decide (2 ≤ o.scope.code ∧ e.setOf o = (0, 0, [3, 4]) ∧ e.th.pend = [] ∧ e.flagHazard i o.len = false ∧
      e.pairHazard i = false ∧ s.host.testMode = false) && p o e
  | _, _ => false

-- RendezvousCompletes, RendezvousOpensOrMismatches
theorem test_rendezvous_witness : let i := Instr.sync { Ops.blank with scope := .set, dst := .s 4 }
    i.wf && gathers (pair i (some 0x10000)) i (fun _ e =>
      let s := pair i (some 0x10000)
      e.blk.rends.any (fun r => decide (r.set = 0 ∧ r.addr = s.cur.pc ∧ e.tid ∉ r.arrived) &&
        (s.liveMembers e.blk e.la.obj 0).all fun m => decide (m ≠ e.tid → m ∈ r.arrived)) && e.th.live &&
      [3, 4].all fun m => (s.envOf m).any fun f => decide (f.th.block = e.th.block) && f.th.isWarp) &&
    gathers (pair i none) i (fun _ e => decide (e.blk.rends = []) &&
      ((pair i none).liveMembers e.blk e.la.obj 0).any (fun m => decide (m ≠ e.tid))) &&
    gathers (pair i (some 0x10020)) i (fun _ e => e.blk.rends.any fun r =>
      decide (r.set = 0 ∧ r.addr ≠ (pair i (some 0x10020)).cur.pc ∧ e.tid ∉ r.arrived)) = true := by decide +kernel
-- R53, R411
theorem test_sync_completes : let i := Instr.sync { Ops.blank with scope := .set, dst := .s 4 }
    after (pair i (some 0x10000)) i (fun t th => decide (th.pc = 0x10008) &&
      (t.thread 4).any fun x => decide (x.pc = 0x10008 ∧ x.wait = .ready)) = true := by decide +kernel

/-! ### Traps and system instructions -/

/-- A trap of cause 0x0003. -/
def someTrap : Trap :=
  { cause := 3, detail := 0, mask := 1, pc := 0x10000, word0 := 0, word1 := 0, word2 := 0, word3 := 0, setwide := false,
    addr := none, next := false }
/-- As `ready`, with a trap table that names cause 0x0003. -/
def handled (i : Instr) (f : Thread → Thread := id) : State :=
  (ready i f).modLaunch 1 fun la => { la with obj := { la.obj with traps := [(3, 0x10100)] } }

-- SoftwareTraps: no lane that passes
theorem test_no_trap_witness : ([.trap { warp with a := .s 8 }, .brk { warp with a := .imm 5 }] : List Instr).all (fun i =>
    issuing (ready i (mask 0 0)) i (fun o e => decide (e.th.active o = 0))) = true := by decide +kernel
-- TrapsAreTaken: entered, held back, and halting (no entry in the table, and in handler mode)
theorem test_traps_witness : (match (handled (.nop Ops.blank)).envOf 3 with
      | some e => decide (e.th.live = true ∧ e.th.isWarp = true ∧ e.th.handler = false ∧ e.th.pend = [] ∧ e.th.log = [] ∧
          e.th.flags = [] ∧ someTrap.next = false ∧ someTrap.cause < 2 ^ 16 ∧
          (e.la.obj.traps.find? (fun p => p.1 = someTrap.cause)).map (·.2) = some 0x10100)
      | none => false) = true ∧
    (match (handled (.nop Ops.blank) busy).envOf 3 with
      | some e => decide (e.th.live = true ∧ e.th.pend ≠ [])
      | none => false) = true ∧
    (match (ready (.nop Ops.blank)).envOf 3, (handled (.nop Ops.blank) fun th => { th with handler := true }).envOf 3 with
      | some e, some f => decide (e.th.live = true ∧ e.th.isWarp = true ∧ e.th.pend = [] ∧ e.th.log = [] ∧ e.th.flags = [] ∧
          e.th.pair = none ∧ e.la.obj.traps.find? (fun p => p.1 = someTrap.cause) = none ∧ f.th.handler = true ∧
          f.th.live = true ∧ f.th.pend = [] ∧ f.th.pair = none)
      | _, _ => false) = true := by decide +kernel
-- R344, R401: `trap 5` enters the handler
theorem test_trap_enters : let i := Instr.trap { warp with a := .imm 0xFB }
    after (handled i) i (fun _ th => decide (th.pc = 0x10100 ∧ th.handler = true ∧ th.trap.pc = 0x10000 ∧ th.trap.cause = 3 ∧
      th.trap.word2 = 0xFFFFFFFB ∧ th.trap.word3 = 0 ∧ th.trap.mask = 3)) = true := by decide +kernel
-- HandlerReturns: in the handler and outside it; `eret` passes a word of 96 bits
theorem test_eret_witness : ([.eret warp, .eretRetry { warp with xmod := 1 }] : List Instr).all (fun i => i.wf &&
    issuing (ready i fun th => { th with handler := true, trap := { th.trap with pc := 0x10040, word0 := 1 } }) i (fun _ e =>
      decide (e.th.handler = true ∧ e.th.later = none ∧ (e.th.trap.pc.toNat + 4 * lengthOf e.th.trap.word0.toNat) % 4 = 0 ∧
        e.th.trap.pc.toNat % 4 = 0)) &&
    issuing (ready i fun th => { th with handler := false }) i (fun _ e => decide (e.th.handler = false))) = true := by decide +kernel
theorem test_eret : after (ready (.eret warp) fun th => { th with handler := true, trap := { th.trap with pc := 0x10040, word0 := 1 } })
    (.eret warp) (fun _ th => decide (th.pc = 0x1004C ∧ th.handler = false)) = true := by decide +kernel
-- DeviceLaunch: a misaligned address, a readable record, and full places
theorem test_launch_witness : let i := Instr.launch { warp with a := .s 8 }
    issuing (ready i (scal 8 0x10001)) i (fun o e => decide (e.th.regs.raw 0 .n64 0 o.a % 128 ≠ 0)) &&
    (let s := ready i (scal 8 0x10080)
     issuing s i (fun o e => decide (e.th.regs.raw 0 .n64 0 o.a % 128 = 0 ∧ (s.queue e.la.queue).places.length < 16 ∧
       e.uncommitted = false ∧ s.canRelease e .package = true) &&
       match (s.release e .package).readRecord e (e.th.regs.raw 0 .n64 0 o.a) (e.th.active o) with
       | (some (.ok _), _) => true
       | _ => false)) &&
    (let s := (ready i (scal 8 0x10080)).setQueue 0 { Queue.init with places := List.replicate 16 [] }
     issuing s i (fun _ e => decide (16 ≤ (s.queue e.la.queue).places.length))) = true := by decide +kernel

/-! ### Matrices -/

/-- Two by two. -/
def square (ty : Ty) (els : List Nat) : Mat := ⟨2, 2, ty, els⟩
/-- `m2`, `m3` and `m4` of both lanes hold this matrix. -/
def mats (m : Mat) (th : Thread) : Thread :=
  (List.range 2).foldl (fun th l => matrix 2 l m (matrix 3 l m (matrix 4 l m (matrix 1 l m th)))) th
/-- R281, as `Env.fits` has it. -/
def fitting (e : Env) (d : Opd) (rows cols : Nat) (ty : Ty) : Bool :=
  decide (1 ≤ rows ∧ rows ≤ 64 ∧ 1 ≤ cols ∧ cols ≤ 64 ∧ rows * cols * ty.bits ≤ 32 * e.la.obj.caps.getD (matNo d) 0)

/-- The identity of order two in `.f32`. -/
def unit : Mat := square .f32 [0x3F800000, 0, 0, 0x3F800000]

-- MatrixShapes
theorem test_matrix_shapes_witness : ([.mshape { mat .f32 with a := .v 8, b := .none }, .mzero { mat .f32 with a := .v 8, b := .v 8 },
      .mid { mat .f32 with a := .v 8, b := .none }, .mget { mat .f32 with dst := .v 4, b := .v 12 },
      .mput { mat .f32 with a := .v 12, b := .v 8 }, .mtrn { mat .f32 with b := .none }] : List Instr).all (fun i => i.wf &&
    issuing (ready i (mats unit ∘ vec 8 [1, 1])) i (fun o e => decide (o.rnd = 0) && (e.th.activeLanes o).all fun l =>
      fitting e (.m 1) 1 1 .f32 && fitting e (.m 1) (e.word (.v 8) l) (e.word (.v 8) l) .f32 &&
      fitting e (.m 1) (e.word (.v 8) l / 256 % 256 + 1) (e.word (.v 8) l % 256) .f32 &&
      decide ((e.mat (.m 2) l).ty = o.ty) && decide (e.word (.v 12) l < (e.mat (.m 2) l).rows * (e.mat (.m 2) l).cols) &&
      fitting e (.m 1) (e.mat (.m 2) l).cols (e.mat (.m 2) l).rows o.ty)) = true := by decide +kernel
theorem test_mshape_witness : let i := Instr.mshape { mat .f32 with a := .v 8, b := .none }
    issuing (ready i (vec 8 [0x102, 0x201])) i (fun o e => (e.th.activeLanes o).all fun l =>
      fitting e o.dst (e.word o.a l / 256 % 256) (e.word o.a l % 256) o.ty) = true := by decide +kernel

-- MatrixArithmetic: matching operands and no enabled condition
theorem test_matrix_arithmetic_witness : ([.madd (mat .f32), .msub (mat .f32), .mscal { mat .f32 with b := .v 12 },
      .mmul .nn (mat .f32), .mfma .nn { mat .f32 with len := 3, c := .m 4 }] : List Instr).all (fun i => i.wf &&
    issuing (ready i (mats unit)) i (fun o e => (List.range 32).all (fun c => !e.fp.traps c) &&
      (e.th.activeLanes o).all fun l => decide ((e.mat o.a l).ty = o.ty ∧ (e.mat (.m 3) l).ty = o.ty ∧
        (e.mat o.a l).rows = (e.mat (.m 3) l).rows ∧ (e.mat o.a l).cols = (e.mat (.m 3) l).cols ∧
        pairingOk o.ty (e.mat o.a l).ty (e.mat (.m 3) l).ty = true ∧ (mulLeft .nn (e.mat o.a l)).cols = (mulRight .nn (e.mat (.m 3) l)).rows ∧
        (e.mat (.m 4) l).rows = 2 ∧ (e.mat (.m 4) l).cols = 2 ∧ (e.mat (.m 4) l).ty = o.ty) &&
        fitting e o.dst (e.mat o.a l).rows (e.mat o.a l).cols o.ty)) = true := by decide +kernel
-- the exact sum of `.i8` products
theorem test_mmul_i8_witness : let i := Instr.mmul .nn (mat .i32)
    i.wf && issuing (ready i (mats (square .i8 [1, 2, 3, 4]))) i (fun o e => (e.th.activeLanes o).all fun l =>
      decide ((mulLeft .nn (e.mat o.a l)).ty = .i8 ∧ (mulRight .nn (e.mat o.b l)).ty = .i8 ∧ o.sat = false) &&
      pairingOk o.ty .i8 .i8 && fitting e o.dst 2 2 o.ty) = true := by decide +kernel
-- R291: [1 2; 3 4] squared
theorem test_mmul : let i := Instr.mmul .nn (mat .i32)
    after (ready i (mats (square .i8 [1, 2, 3, 4]))) i (fun _ th =>
      decide (th.pend.map (·.vals) = [[(square .i32 [7, 10, 15, 22]).val 1 0, (square .i32 [7, 10, 15, 22]).val 1 1]])) = true := by
  decide +kernel
-- LaneTraps: another type, and a register that is too small
theorem test_matrix_traps_witness : let i := Instr.madd (mat .f32)
    issuing (ready i (mats (square .f16 [0, 0, 0, 0]))) i (fun o e => (e.th.activeLanes o).any fun l => decide ((e.mat o.a l).ty ≠ o.ty)) &&
    issuing ((ready i (mats unit)).modLaunch 1 fun la => { la with obj := { la.obj with caps := List.replicate 16 3 } }) i (fun o e =>
      (e.th.activeLanes o).all (fun l => decide ((e.mat o.a l).ty = o.ty ∧ (e.mat o.b l).ty = o.ty ∧ (e.mat o.a l).rows = (e.mat o.b l).rows ∧
        (e.mat o.a l).cols = (e.mat o.b l).cols) && !fitting e o.dst (e.mat o.a l).rows (e.mat o.a l).cols o.ty)) = true := by decide +kernel

/-- Forms of matrix algebra. -/
def algebraForms : List Instr :=
  [.minv { mat .f32 with len := 3, b := .none, c := .k 4 }, .mlu { mat .f32 with len := 3, b := .v 12, c := .k 4 },
   .mchol { mat .f32 with len := 3, b := .none, c := .k 4 }, .msolve { mat .f32 with len := 3, c := .k 4 },
   .mpow { mat .f32 with len := 3, b := .v 12, c := .k 4 }]

-- MatrixAlgebra: square operands of the type; a singular lane is no trap, since `fpmode` does not ask for one
theorem test_algebra_witness : algebraForms.all (fun i => i.wf && issuing (ready i (mats unit)) i (fun o e =>
    (List.range 32).all (fun c => !e.fp.traps c) && !e.fp.singular && (e.th.activeLanes o).all fun l =>
      decide ((e.mat o.a l).rows = (e.mat o.a l).cols ∧ (e.mat o.a l).rows ≤ 8 ∧ (e.mat o.a l).ty = o.ty ∧
        (e.mat (.m 3) l).ty = o.ty ∧ (e.mat (.m 3) l).rows = (e.mat o.a l).rows) &&
      fitting e o.dst (e.mat o.a l).rows (e.mat (.m 3) l).cols o.ty)) = true := by decide +kernel
-- R294: the inverse of a diagonal matrix, and the mark of a singular lane
theorem test_minv : let i := Instr.minv { mat .f32 with len := 3, b := .none, c := .k 4 }
    after (ready i (matrix 2 0 (square .f32 [0x40000000, 0, 0, 0x40800000]) ∘ matrix 2 1 (square .f32 [0, 0, 0, 0]))) i (fun _ th =>
      decide (th.pend.map (·.vals) = [[(square .f32 [0x3F000000, 0, 0, 0x3E800000]).val 1 0,
        (square .f32 (List.replicate 4 0x7FC00000)).val 1 1, .kl 4 3 2]])) = true := by decide +kernel

-- BlockFormats: plain, and with blocks of 32
theorem test_block_formats_witness :
    (let i := Instr.mpack { Ops.blank with len := 3, ty := .e4m3, sty := .f32, dst := .m 1, a := .m 2 }
     i.wf && issuing (ready i (mats unit)) i (fun o e => decide (blockLen o = 0 ∧ o.c = .none) && (e.th.activeLanes o).all fun l =>
       decide ((e.mat o.a l).ty = o.sty) && fitting e o.dst (e.mat o.a l).rows (e.mat o.a l).cols o.ty)) = true ∧
    (let i := Instr.munpack { Ops.blank with len := 3, ty := .f32, sty := .e4m3, dst := .m 1, a := .m 2 }
     i.wf && issuing (ready i (mats (square .e4m3 [0, 0, 0, 0]))) i (fun o e => decide (blockLen o = 0 ∧ o.c = .none) &&
       (e.th.activeLanes o).all fun l => decide ((e.mat o.a l).ty = o.sty) && fitting e o.dst 2 2 o.ty)) = true ∧
    (let i := Instr.mpack { Ops.blank with len := 3, ty := .e4m3, sty := .f32, dst := .m 1, a := .m 2, c := .v 16, xmod := 2 }
     i.wf && issuing (ready i (mats unit)) i (fun o e => decide (blockLen o ≠ 0) && (e.th.activeLanes o).all fun l =>
       decide ((e.mat o.a l).ty = o.sty ∧ 16 + scaleRun (blockLen o) 2 2 ≤ e.la.obj.vregs) && fitting e o.dst 2 2 o.ty)) = true ∧
    (let i := Instr.munpack { Ops.blank with len := 3, ty := .f32, sty := .e4m3, dst := .m 1, a := .m 2, c := .v 16, xmod := 2 }
     i.wf && issuing (ready i (mats (square .e4m3 [0, 0, 0, 0]))) i (fun o e => decide (blockLen o ≠ 0) &&
       (e.th.activeLanes o).all fun l => decide ((e.mat o.a l).ty = o.sty ∧ 16 + scaleRun (blockLen o) 2 2 ≤ e.la.obj.vregs) &&
         fitting e o.dst 2 2 o.ty)) = true := by decide +kernel

/-- A row of two. -/
def row (ty : Ty) (els : List Nat) : Mat := ⟨1, 2, ty, els⟩
/-- The operands of an `mma` over one warp. -/
def product : Ops := { warp with len := 4, dst := .m 1, a := .m 2, b := .m 3, xmod := 1, quad := 20 }

-- CollectiveProducts: `.i8` rows that accumulate, and `.f16` rows
theorem test_mma_witness : ∀ q ∈ [(Ty.i8, Ty.i32, 0x3041), (Ty.f16, Ty.f32, 0x218A2)],
    let i := Instr.mma product
    (i.wf && issuing (ready i (fun th => scal 20 q.2.2 (matrix 1 0 (row q.2.1 [0, 0]) (matrix 1 1 (row q.2.1 [0, 0]) (mats (row q.1 [1, 2]) th))))) i (fun o e =>
      let quad := Quad.ofWords ((List.range 4).map fun j => e.th.regs.scal (o.quad + j))
      quad.ok && decide (quad.a = q.1 ∧ quad.acc = q.2.1 ∧ quad.len = 0 ∧ o.sat = false ∧ e.th.activeLanes o ≠ []) &&
      (e.th.activeLanes o).all fun l => decide ((e.mat o.a l).rows = 1 ∧ (e.mat o.a l).cols = 2 ∧ (e.mat o.a l).ty = quad.a ∧
        (e.mat o.b l).rows = 1 ∧ (e.mat o.b l).cols = 2 ∧ (e.mat o.b l).ty = quad.b ∧ (e.mat o.dst l).rows = 1 ∧
        (e.mat o.dst l).cols = e.th.width ∧ (e.mat o.dst l).ty = quad.acc ∧ e.th.width ≤ e.la.obj.caps.getD 1 0))) = true := by
  decide +kernel
-- R303: row i of a against row j of b
theorem test_mma : let i := Instr.mma { product with xmod := 0 }
    after (ready i (fun th => scal 20 0x3041 (matrix 2 0 (row .i8 [1, 2]) (matrix 2 1 (row .i8 [3, 4]) (matrix 3 0 (row .i8 [5, 6])
      (matrix 3 1 (row .i8 [7, 8]) th)))))) i (fun _ th =>
      decide (th.pend.map (·.vals) = [[(row .i32 [17, 23]).val 1 0, (row .i32 [39, 53]).val 1 1]])) = true := by decide +kernel

/-! ### Memory -/

/-- The record in `s16` to `s23`: 16 elements of 4 bytes at 0x10000 + `off`, with these bits of word 1. -/
def record (off bits : Nat) (th : Thread) : Thread :=
  scal 16 (0x10000 + off) (scal 17 (0x200000 + bits) (scal 18 16 (scal 19 1 (scal 22 1 th))))

/-- The hypotheses of an access that reaches memory: its elements are located, and its lines translate. -/
def reaching (s : State) (i : Instr) (write : Bool) (width : Nat) (els : Ops → Env → List Elem) (p : List Access → Bool) : Bool :=
  issuing s i fun o e => decide (e.th.active o ≠ 0 ∧ e.th.log = [] ∧ e.th.pair = none) &&
    match s.locateAll (e.recAt (8 * o.brec)) write true width (els o e) false (e.th.active o) with
    | .ok accs => p accs && match s.reachLines e.blk.core (if write then .w else .r) 0 (linesOf accs) with
      | (some (lines, []), s1) => lines.all (fun l => !s1.owned l.2 && !s1.atomAhead e.tid l.2) &&
          (write || decide (s1.dataBad e.th e.blk.core lines accs = []))
      | _ => false
    | _ => false

-- GlobalLoads, GlobalStores
theorem test_ld_st_witness : ([(.ld (rec .b32), false), (.st (rec .b32), true)] : List (Instr × Bool)).all (fun x => x.1.wf &&
    reaching (ready x.1 (record 0x80 0 ∘ vec 8 [0, 3])) x.1 x.2 4 (fun o e => e.elems o fun _ => [0, 0, 0, 0]) fun a =>
      decide (a.map (·.va) = [some 0x10080, some 0x1008C])) = true := by decide +kernel
theorem test_mld_mst_witness :
    (let i := Instr.mld { rec .f32 with dst := .m 1, imm := 0x80000041 }
     i.wf && reaching (ready i (record 0x80 0 ∘ vec 8 [0, 4])) i false 4 (fun o e => (e.th.activeLanes o).flatMap fun l =>
        matElems o.ty l (e.indices o l).1 (e.indices o l).2 (e.loadShape o l).1 (e.loadShape o l).2) (fun a => decide (a.length = 8)) &&
      issuing (ready i (record 0x80 0)) i fun o e => decide ((e.recAt (8 * o.brec)).check false true = none) &&
        (e.th.activeLanes o).all fun l => fitting e o.dst (e.loadShape o l).1 (e.loadShape o l).2 o.ty) = true ∧
    (let i := Instr.mst { rec .f32 with dst := .m 1 }
     i.wf && reaching (ready i (record 0x80 0 ∘ mats unit ∘ vec 8 [0, 4])) i true 4 (fun o e => (e.th.activeLanes o).flatMap fun l =>
        matStores o.ty l (e.indices o l).1 (e.indices o l).2 (e.mat o.dst l)) (fun a => decide (a.length = 8)) &&
      issuing (ready i (record 0x80 0 ∘ mats unit)) i fun o e => decide ((e.recAt (8 * o.brec)).check true true = none) &&
        (e.th.activeLanes o).all fun l => decide ((e.mat o.dst l).ty = o.ty)) = true := by decide +kernel
/-- Memory canonical and no peer refusing a write-back: what the statements about home memory assume. -/
theorem test_settled : State.reset.settled := by
  refine ⟨by decide, fun c pa => ?_, fun c => ⟨rfl, rfl⟩⟩
  have h : (State.reset.link (remoteLink pa)).up = true := rfl
  have hc : (State.reset.core c).refused = [] := rfl
  rw [State.refused, State.linkDown, h, hc]; simp

-- AccessTraps: a faulty record, a store through RDONLY, an index out of bounds, a misaligned and a non-canonical address
theorem test_access_traps_witness : ([.ld (rec .b32), .st (rec .b32)] : List Instr).all (fun i =>
    issuing (ready i (record 0 0x8000000)) i (fun o e => decide (e.th.active o ≠ 0 ∧ (e.recAt (8 * o.brec)).layout ≠ 0)) &&
    issuing (ready i (record 0 0x3000000)) i (fun o e => decide ((e.recAt (8 * o.brec)).layout = 0 ∧ (e.recAt (8 * o.brec)).bounds = 3)) &&
    issuing (ready i (record 0 0x4000000)) i (fun o e => decide ((e.recAt (8 * o.brec)).layout = 0 ∧ (e.recAt (8 * o.brec)).bounds ≠ 3 ∧
      (e.recAt (8 * o.brec)).rdonly = true)) &&
    issuing (ready i (record 0 0x2000000 ∘ vec 8 [0, 16])) i (fun o e => let r := e.recAt (8 * o.brec)
      decide (r.check (decide (i = .st o)) true = none ∧ r.bounds = 2 ∧ r.n0 * r.n1 * r.n2 ≤ e.word o.a 1 ∧ 1 ∈ e.actLanes o)) &&
    issuing (ready i (scal 17 0 ∘ record 0 0 ∘ vec 8 [2, 0])) i (fun o e => let r := e.recAt (8 * o.brec)
      decide (r.check (decide (i = .st o)) true = none ∧ (r.base + e.word o.a 0) % 4 ≠ 0) &&
      (e.actLanes o).all fun l => decide (e.word o.a l < r.n0 * r.n1 * r.n2)) &&
    issuing (ready i ((fun th => scal 16 0xFFFFFFFC th) ∘ record 0 0xFFFFF ∘ vec 8 [0, 1])) i (fun o e => let r := e.recAt (8 * o.brec)
      decide (r.check (decide (i = .st o)) true = none ∧ r.base + 4 = 2 ^ 52 ∧ e.word o.a 1 = 1))) = true := by decide +kernel

-- ScratchAccesses: inside, and beyond the end
theorem test_scratch_witness : ([.lds { two .b32 with a := .s 8 }, .sts { two .b32 with a := .s 8 }] : List Instr).all (fun i => i.wf &&
    issuing (ready i (scal 8 0x100 ∘ vec 12 [0, 4])) i (fun o e => (e.actLanes o).all fun l =>
      let a := e.word o.a l + e.word o.b l
      decide (swizzle a (o.xmod % 4) + 4 ≤ scratchSize e.la.obj e.blk ∧ a % 4 = 0 ∧
        (ready i).rowOwned e.th.block (swizzle a (o.xmod % 4)) = false ∧ (ready i).rowOwned e.th.block (swizzle a (o.xmod % 4) + 3) = false)) &&
    issuing (ready i (scal 8 0x10000)) i (fun o e => !allScalar o && (e.actLanes o).any fun l =>
      decide (scratchSize e.la.obj e.blk < e.word o.a l + e.word o.b l + 4))) = true := by decide +kernel
-- R321, R322: a store is read back
theorem test_sts_lds : let i := Instr.sts { two .b32 with a := .s 8 }
    (match exec i (ready i (scal 8 0x100 ∘ vec 12 [0, 4] ∘ vec 4 [0xAABBCCDD, 5])) with
     | .next t => (t.block 2).any fun b => decide ((List.range 8).map (fun k => NMap.get 0 b.scratch (0x100 + k)) =
         [0xDD, 0xCC, 0xBB, 0xAA, 5, 0, 0, 0])
     | _ => false) = true := by decide +kernel

/-! ### Atomics, phases, cache control and banks -/

/-- The atomics on 32-bit values, returning their old value, with release and acquire at package scope. -/
def atomicForms : List Instr :=
  let o := fun ty => { rec ty with b := .v 12, xmod := 1, extra := 0x70 }
  [.atomAdd (o .n32), .atomFadd (o .f32), .atomMin (o .i32), .atomMax (o .i32), .atomAnd (o .b32), .atomOr (o .b32),
   .atomXor (o .b32), .atomXchg (o .b32), .atomCas (o .b32)]

-- AtomicsIssue
theorem test_atomics_witness : atomicForms.all (fun i => let s := ready i (record 0x80 0)
    i.wf && decide (s.host.testMode = false) && issuing s i (fun o e => decide (e.th.log = [] ∧ e.th.pair = none ∧
      s.canRelease e (.ofCode (o.extra / 8 % 4)) = true) &&
    match s.locateAll (e.recAt (8 * o.brec)) true true (widthOf o.ty)
        ((e.actLanes o).map fun l => { lane := l, elem := 0, x := e.word o.a l, y := none }) (allScalar o) (e.th.active o) with
    | .ok accs => decide (linesOf accs ≠ []) && match s.reachLines e.blk.core .rw 0 (linesOf accs) with
      | (some (_, []), _) => true
      | _ => false
    | _ => false)) = true := by decide +kernel

/-- A request of one lane: an `.n32` atomic of this kind with argument 5 on the bytes at 0x1000. -/
def request (k : AtomOp) : AtomReq :=
  { op := 9, tid := 3, block := 2, core := 0, pc := 0x10000, words := [], kind := k, ty := .n32, extra := 0, sat := false, fpmode := 0,
    lanes := [{ lane := 0, va := 0x1000, pa := some 0x1000, arg := 5, arg2 := 8 }], got := [], bad := [], dest := some (.v 4), once := none,
    acq := none, bread := none, epoch := 0, gated := false, twin := none, hint := 0 }
/-- The request is under way, its thread waits for the old value, and the word at 0x1000 is 7. -/
def requested (k : AtomOp) : State :=
  let s := ready (.nop Ops.blank) fun th =>
    { th with pend := [{ op := 9, vals := [], stale := none, known := false, regs := [], region := 0 }] }
  { s with mem := [(0x1000, 7)], reqs := [request k] }

-- AtomicAtHome
theorem test_atomic_at_home_witness : let s := requested .add
    (Memory.wf s.mem && decide (s.reqs.find? (fun q => q.op = 9) = some (request .add)) &&
    decide (s.atomReady (request .add) = [({ lane := 0, va := 0x1000, pa := some 0x1000, arg := 5, arg2 := 8 }, 0x1000)]) &&
    !isRemote 0x1000 && !s.poisoned 0x1000 && decide (s.cores.all (fun c => decide (c.2.l1 = [] ∧ c.2.staged = [] ∧ c.2.refused = [])))) = true := by decide +kernel
-- R323: 7 + 5, 7 stays under `cas` with another expected value, and 7 goes back to the warp
theorem test_atomic_add : (match exec (.atomicAtHomeSlice 9 0) (requested .add) with
    | .next t => decide (t.homeByte 0x1000 = 12) && decide (t.reqs = []) && (t.thread 3).any fun th =>
        decide (th.pend.map (fun p => (p.known, p.vals)) = [(true, [.v 4 0 7])])
    | _ => false) = true := by decide +kernel
theorem test_atomic_cas : (match exec (.atomicAtHomeSlice 9 0) (requested .cas) with
    | .next t => decide (t.homeByte 0x1000 = 7)
    | _ => false) = true := by decide +kernel

-- PhasesAndCacheControl
theorem test_phases_witness : ([.phaseRel { warp with hint := 2 }, .phaseAcq { warp with hint := 2 }, .phaseAr { warp with hint := 3 }] :
      List Instr).all (fun i => let s := ready i
    i.wf && decide (s.host.testMode = false) && Memory.wf s.mem && issuing s i (fun o e => decide (s.canRelease e (.ofCode o.hint) = true ∧
      e.uncommitted = false ∧ s.performed e = true))) = true ∧
    ([.cachectlPf1 { Ops.blank with ty := .b32, a := .s 16, b := .v 12 }, .cachectlPf2 { Ops.blank with ty := .b32, a := .s 16, b := .v 12, xmod := 1 },
      .cachectlInv { Ops.blank with ty := .b32, a := .s 16, b := .v 12, xmod := 2 }] : List Instr).all (fun i =>
      let s := ready i (record 0x80 0)
      i.wf && issuing s i (fun o e => match s.reachLines e.blk.core .r 0 (e.controlLines o) with
        | (some (lines, _), s1) => decide (lines ≠ []) && lines.all fun l => !s1.owned l.2
        | _ => false)) = true := by decide +kernel

-- BankConversions: one warp at a `bankcfg`, and a conversion that is ready
theorem test_bankcfg_witness : let i := Instr.bankcfg { Ops.blank with scope := .block, dst := .s 4, xmod := 1 }
    let s := ready i
    (i.wf && (match i.ops, s.env with
      | some o, some e => decide (o.scope = .block ∧ o.dst = .s 4 ∧ e.th.pend = [] ∧ e.flagHazard i o.len = false ∧
          e.pairHazard i = false ∧ s.host.testMode = false ∧ e.th.isWarp = true ∧ e.th.live = true ∧ e.blk.switch = none ∧
          e.blk.warps = [e.tid] ∧ e.blk.rends = [])
      | _, _ => false)) = true := by decide +kernel
/-- The block of `ready` with a pending conversion. -/
def switching (code : Nat) : State :=
  (ready (.nop Ops.blank)).modBlock 2 fun b => { b with switch := some (code, .s 4, [(3, 9)]) }
theorem test_bank_switch_witness : (List.range 6).all (fun code => ((switching code).block 2).any fun b =>
    (switching code).switchReady 2 b) = true := by decide +kernel

/-! ### Bulk commands -/

/-- Copies of two elements from 0x10080 to scratch 0x40, back, and to a second record, with flag 1. -/
def copies : List (Instr × (Env → CopyOp)) :=
  let o := { warp with len := 4, dst := .s 4, a := .s 8, brec := 2, imm := 2, flag := 1 }
  let c := { o with xmod := 2 }
  let r := { o with dst := .s 24, b := .s 8 }
  [(.bcopy c, fun e => e.copyOp c false false), (.bcopyMc c, fun e => e.copyOp c false true), (.bput o, fun e => e.copyOp o true false),
   (.bcopy r, fun e => e.copyOp r false false)]
/-- The registers of those copies. -/
def copyRegs (th : Thread) : Thread :=
  record 0x80 0 (scal 4 0x40 (scal 24 0x10200 (scal 25 0x200000 (scal 26 16 (scal 27 1 (scal 30 1 th))))))

-- BulkCommands: an issue
theorem test_copies_witness : copies.all (fun x => let s := ready x.1 copyRegs
    x.1.wf && issuing s x.1 (fun o e => let c := x.2 e
      let moves := lastMoves c.moves
      let rd := (moves.filterMap fun m => m.src.line).eraseDups
      let wr := (moves.filterMap fun m => m.dst.line).eraseDups
      decide (e.th.log = [] ∧ e.th.pair = none ∧ e.th.busy o.flag = false ∧ s.storeQueue e.blk.core < 16 ∧ c.capture = none ∧
        c.empty = false ∧ c.fault e.la.obj e.blk = none ∧ moves.length = 8 ∧ s.atomsOn e.tid (rd ++ wr) = false) &&
      match { s with nextId := s.nextId + 1 }.reachLines e.blk.core .r 0 rd with
      | (some (_, []), sa) => match sa.reachLines e.blk.core .w 0 wr with
        | (some (_, []), _) => true
        | _ => false
      | _ => false)) = true := by decide +kernel
-- R331: the command is under way and its flag busy
theorem test_bput_issues : copies.all (fun x => after (ready x.1 copyRegs) x.1 fun t th =>
    decide (t.cmds.map (fun c => (c.flag, c.moves.length)) = [(some 1, 8)] ∧ th.flags.map (·.1) = [1] ∧ th.pc = 0x10010)) = true := by
  decide +kernel
-- bseal, bwait and bjoin
theorem test_flags_witness : (let i := Instr.bseal { warp with dst := .f 1 }
      i.wf && issuing (ready i) i (fun _ e => !e.th.busy 1)) = true ∧
    ([.bwait { warp with a := .f 1 }, .bjoin { warp with a := .f 1 }] : List Instr).all (fun i => i.wf &&
      issuing (ready i busy) i (fun _ e => e.th.busy 1) &&
      issuing (ready i) i (fun _ e => !e.th.busy 1 && decide (e.th.faults.find? (fun x => x.flag = 1) = none))) = true := by decide +kernel
-- bread
theorem test_bread_witness : let i := Instr.bread { warp with len := 4, a := .s 8, brec := 2, imm := 3, flag := 1 }
    (i.wf && issuing (ready i (record 0x80 0)) i (fun o e => let r := e.recAt (8 * o.brec)
      decide ((ready i).host.testMode = false ∧ e.th.log = [] ∧ e.th.busy o.flag = false ∧ (ready i).loadQueue e.blk.core < 16 ∧
        r.check false true = none ∧ r.empty = false ∧ o.imm.toNat ≠ 0 ∧ r.bounds ≠ 2))) = true := by decide +kernel

/-- A copy of one byte at 0x2000, seen at 0x10080, to scratch 0x40. -/
def command : BulkCmd :=
  { tid := 3, block := 2, core := 0, op := 9, pc := 0x10000, flag := some 1, moves := [{ dst := .scratch 0x40, src := .global 0x10080, old := some 6 }],
    map := [(0x10080, 0x2000)], lines := [], rows := [1], waits := [], fail := none, epoch := 0, region := 0, sealing := none, num := 0,
    gated := false, dry := false, once := false, hint := 0 }
/-- That copy is under way, with the byte 6 at home. -/
def commanded : State :=
  let s := ready (.nop Ops.blank) fun th => { th with flags := [(1, 9)] }
  { s with mem := [(0x2000, 6)], cmds := [command] }

-- BulkCommands: a completion
theorem test_completion_witness : let s := commanded
    (Memory.wf s.mem && decide (s.cmds.find? (fun q => q.op = 9) = some command ∧ s.bulkReady command = true ∧ command.fail = none ∧
      command.dry = false ∧ s.recs = [] ∧ (command.moves.map fun m => s.bulkBad command m) = [none] ∧
      (lineAt command.map 0x10080).isSome = true ∧ isRemote 0x2000 = false ∧ (s.block 2).isSome = true ∧
      s.cores.all (fun c => decide (c.2.l1 = [] ∧ c.2.staged = [] ∧ c.2.refused = [])) = true)) = true := by decide +kernel
theorem test_completion : (match exec (.bulkCommandCompletion 9) commanded with
    | .next t => decide (t.cmds = []) && (t.thread 3).any (fun th => decide (th.flags = [])) &&
        (t.block 2).any fun b => decide (NMap.get 0 b.scratch 0x40 = 6)
    | _ => false) = true := by decide +kernel

/-! ### Rings, pool and residency -/

/-- A context with a ring of four slots that holds `n` of them, a pool of two pages of which these are free, and an expert in
slot 0. -/
def context (n : Nat) (free : List Nat) : PipeCtx :=
  { launch := 1, rings := [{ consumer := 0, bank := 0, expert := none, slots := 4, head := 0, tail := BitVec.ofNat 32 n, data := [(0, 5)] }],
    experts := [(0, 0)], poolBase := 0x1000000, poolPages := 2, free := free, opened := [], forceWait := 0, waited := 0, stalled := 0,
    reported := false, xdie := 0, xcount := 1, xfirst := 0, xframes := 1, counters := [], holds := [(0, 0)], moving := [], xres := [],
    moves := 0, thrashed := false }
/-- As `ready`, in a pipeline launch with that context. -/
def piped (i : Instr) (n : Nat) (free : List Nat) (f : Thread → Thread := id) : State :=
  let s := (ready i f).modLaunch 1 fun la => { la with ctx := some 0 }
  { s with ctxs := [(0, context n free)] }
/-- What the hypotheses about rings share. -/
def piping (s : State) (i : Instr) (p : Ops → Env → PipeCtx → Bool) : Bool :=
  i.wf && issuing s i fun o e => decide (s.host.testMode = false ∧ e.th.pair = none ∧ e.la.ctx = some 0) &&
    (s.ctx 0).any fun x => p o e x

-- RingsPoolAndResidency: each instruction that goes on, and each that waits
theorem test_rings_witness :
    (let i := Instr.rpush { warp with ty := .b32, a := .s 8, b := .v 12 }
     piping (piped i 1 []) i (fun _ e x => (x.ring 0).any fun r => decide (r.used < r.slots ∧ (piped i 1 []).canRelease e .package = true)) &&
     piping (piped i 4 []) i (fun _ _ x => (x.ring 0).any fun r => decide (0 < r.slots ∧ r.slots ≤ r.used))) = true ∧
    (let i := Instr.rpop { warp with ty := .b32, dst := .v 4, a := .s 8 }
     piping (piped i 1 []) i (fun _ e x => (x.ring 0).any fun r => decide (r.tail ≠ r.head ∧ r.consumer = e.blk.id ∧
       (piped i 1 []).performed e = true)) &&
     piping (piped i 0 []) i (fun _ e x => (x.ring 0).any fun r => decide (r.tail = r.head ∧ r.consumer = e.blk.id))) = true ∧
    (let i := Instr.palloc { warp with dst := .s 4 }
     piping (piped i 0 [1, 0]) i (fun _ e x => decide (x.free = [1, 0]) && (piped i 0 []).performed e) &&
     piping (piped i 0 []) i (fun _ _ x => decide (x.free = []))) = true ∧
    (let i := Instr.pfree { warp with a := .s 8 }
     piping (piped i 0 [0] (scal 8 0x1010000)) i (fun o e x => decide (e.th.regs.raw 0 .n64 0 o.a = x.poolBase + 65536 * 1 ∧
       1 < x.poolPages ∧ 1 ∉ x.free ∧ (piped i 0 []).canRelease e .package = true))) = true ∧
    (let i := Instr.xres { warp with dst := .s 4, a := .s 8 }
     piping (piped i 0 [] (scal 8 1)) i (fun _ e x => decide (x.xres = [] ∧ x.experts.length ≤ (e.th.regs.scal 8).toNat)) &&
     piping (piped i 0 []) i (fun _ e x => decide (x.xres = [] ∧ x.xcount ≠ 0 ∧ e.th.pend = [] ∧
       x.holds.find? (fun p => p.2 = 0) = some (0, 0)))) = true := by decide +kernel
-- R356: a push into an empty ring, and a pop
theorem test_rpush : let i := Instr.rpush { warp with ty := .b32, a := .s 8, b := .v 12 }
    after (piped i 1 [] (vec 12 [3, 4])) i (fun t _ => (t.ctx 0).any fun x => (x.ring 0).any fun r =>
      decide (r.tail = 2 ∧ NMap.get 0 r.data 64 = 3 ∧ NMap.get 0 r.data 65 = 4 ∧ NMap.get 0 r.data 0 = 5)) = true := by decide +kernel
theorem test_rpop : let i := Instr.rpop { warp with ty := .b32, dst := .v 4, a := .s 8 }
    after (piped i 1 []) i (fun t th => decide (pending 4 2 th = [5, 0]) && (t.ctx 0).any fun x =>
      (x.ring 0).any fun r => decide (r.head = 1)) = true := by decide +kernel


/-! ### The step and the cycle -/

-- StepRunsDecoded: a thread that is ready, and one that was held back
theorem test_step_witness : ([.ready, .stalled] : List WaitOn).all (fun w =>
    let s := (State.reset.withFetchWord 64 0x3000).modThread 3 fun th => { th with wait := w }
    let s0 := { s with issueQ := [] }
    decide (s.issueQ = [3]) && (s0.envOf 3).any fun e =>
      decide (e.th.live = true ∧ e.mayIssue = true ∧ e.blk.rends = [] ∧ e.clauseWaits 2 = false ∧ (∀ p ∈ e.slotPorts, p ∉ s0.taken)) &&
      match s0.threadBlock e e.th.pc with
      | (.ok block, _) =>
        decide (decodeAt e.decodeCtx (e.th.pc % 32) (ofWords ((block.drop (e.th.pc % 32 / 4)).take 4)) = .instr (.nop Ops.blank))
      | _ => false) = true := by decide +kernel
-- a step of that state is the `nop`
theorem test_step_runs : (match step (State.reset.withFetchWord 64 0x3000) with
    | .next t => (t.thread 3).any fun th => decide (th.pc = 0x10008)
    | _ => false) = true := by decide +kernel

/-- Two warps of one block that compete for a port, the younger in a region since cycle 1. -/
def rivals : State :=
  let s := ready (.nop Ops.blank) fun th => th
  let s := s.modThread 3 fun th => { th with width := 16 }
  let s := (s.thread 3).elim s fun th => s.setThread 4 { th with entry := 1, region := { th.region with since := 1 } }
  s.modBlock 2 fun b => { b with warps := [3, 4] }

-- IssueChoicesAndResults
theorem test_choice_witness : rivals.host.computeEn = true ∧ rivals.undisturbed ∧ rivals.bidders.length = 2 := by
  unfold State.undisturbed; decide +kernel
theorem test_choice : (match exec .issueChoice rivals with
    | .next t => decide (t.issueQ = [3, 4] ∧ t.taken = [] ∧ t.clock = 1)
    | _ => false) = true := by decide +kernel
theorem test_result_witness :
    let p : Pending := { op := 5, vals := [.s 4 7], stale := none, known := true, regs := [.s 4], region := 0 }
    let q : Pending := { op := 6, vals := [.s 5 8], stale := none, known := true, regs := [.s 5], region := 0 }
    (let s := ready (.nop Ops.blank) fun th => { th with pend := [p, q], flags := [(2, 6)] }
     (s.thread 3).any (fun th => decide (th.pend[1]? = some q ∧ (∀ q' ∈ th.pend.take 1, ∀ r ∈ q'.regs, r ∉ q.regs) ∧ th.pair = none)) &&
     match exec (.resultWrite 3 1) s with
     | .next t => (t.thread 3).any fun th => decide (th.regs.scal 5 = 8 ∧ th.regs.scal 4 = 0 ∧ th.pend = [p] ∧ th.flags = [])
     | _ => false) = true := by decide +kernel
theorem test_held_trap_witness : 
    (let r : Trap := { cause := 3, detail := 0, mask := 1, pc := 0x10000, word0 := 0, word1 := 0, word2 := 0,
                       word3 := 0, setwide := false, addr := none, next := false }
    let s := handled (.nop Ops.blank) fun th => { th with held := some r }
    (s.envOf 3).any fun e => decide (e.th.isWarp = true ∧ e.th.handler = false ∧ e.th.held = some r ∧ e.th.pend = [] ∧
      e.th.log = [] ∧ e.th.flags = [] ∧ (e.la.obj.traps.find? (fun p => p.1 = r.cause)).map (·.2) = some 0x10100)) = true := by decide +kernel

/-! ### Launches -/

/-- Words put into memory from `va` on. -/
def putWords (s : State) (va : Nat) (ws : List (Nat × Nat)) : State :=
  s.setHomes (ws.flatMap fun p => (bytesOf 4 p.2).zipIdx.map fun b => (va + p.1 + b.2, b.1))
/-- A machine that maps the first 512 MiB of virtual memory to die 0's with one leaf (R160), with every right. -/
def mapped : State :=
  putWords { State.reset with xlat := { Xlat.init with ptRoot := 0 } } 0 [(0, 0x8001), (0x8000, 0x1F)]
/-- A code object of one warp of 16 lanes at 0x10000, with its code at 0x11000 (R231). -/
def image : List (Nat × Nat) :=
  [(0, 0x4F435952), (4, 0x00C20001), (0x10, 1), (0x14, 0x10010), (0x18, 0x01080008), (0x44, 0x1800), (0x4C, 0x700), (0x50, 0x1000),
   (0x7C, 0x1000), (0x80, 0x20)]
/-- A launch record of that code (R81) with tag 9 and two blocks. -/
def recordWords : List (Nat × Nat) := [(0, 0x10000), (8, 2), (0xC, 0x1C00), (0x10, 9), (0x40, 0x18000), (0x48, 0x700), (0x60, 0x1C000)]
/-- Queue 5 holds the record at 0x14000. -/
def queued (r : List (Nat × Nat)) : State :=
  (putWords (putWords mapped 0x10000 image) 0x14000 r).setQueue 5 { Queue.init with base := 0x14000, enable := true, tail := 1 }

-- LaunchesComeAndGo: the doorbell in range and out of it, at the queue's size of 16
theorem test_doorbell_witness : State.reset.host.computeEn = true ∧
    ((16 : Word) - (State.reset.queue 63).head).toNat ≤ 2 ^ (State.reset.queue 63).size ∧
    2 ^ (State.reset.queue 63).size < ((17 : Word) - (State.reset.queue 63).head).toNat := by decide +kernel
/-- It is queue 5's turn. -/
theorem test_turn : ([recordWords, []] : List (List (Nat × Nat))).all (fun r => decide ((queued r).roundAt = 0) &&
    (List.range 64).all fun p => (queued r).queueReady p == decide (p = 5)) = true := by decide +kernel
-- the records in memory: one without a fault, one with; the code object loads and fits
theorem test_record_witness : (let s := queued recordWords
    match s.readVirt 0x14000 128 with
    | .ok b => decide (recordFaults (wordsOf 32 (ofBytes b)) = []) && match s.loadObj 0x10000 with
      | .ok o => decide (objectFault (LaunchRecord.ofWords (wordsOf 32 (ofBytes b))) o = none ∧
          (LaunchRecord.ofWords (wordsOf 32 (ofBytes b))).pipeline = false ∧ o.warps = 1 ∧ o.width = 16 ∧ o.entry = 0x11000) &&
          decide (objectFault { LaunchRecord.ofWords (wordsOf 32 (ofBytes b)) with warps := 2 } o = some 0x0C)
      | _ => false
    | _ => false) = true := by decide +kernel
theorem test_faulty_record_witness : (match (queued []).readVirt 0x14000 128 with
    | .ok b => decide (recordFaults (wordsOf 32 (ofBytes b)) = [0x08, 0x10])
    | _ => false) = true := by decide +kernel
theorem test_unreadable_record_witness : (let s := { queued [] with xlat := { Xlat.init with ptRoot := 0x10000 } }
    match s.readVirt 0x14000 128 with | .error (some bad) => decide (bad = 0x14000) | _ => false) = true := by decide +kernel
-- R83: the record becomes a launch of two blocks
theorem test_take : (match exec (.launchRecordTake 5) (queued recordWords) with
    | .next t => t.launches.any (fun p => decide (p.2.waiting = [0, 1] ∧ p.2.recd.tag = 9 ∧ p.2.restartable = true)) &&
        decide ((t.queue 5).head = 1 ∧ t.roundAt = 6)
    | _ => false) = true := by decide +kernel

/-- A launch of queue 5 with tag 9 and completion word at 0x1C000, without a block. -/
def idle : State :=
  let s := (ready (.nop Ops.blank)).modLaunch 1 fun la => { la with queue := 5, recd := { la.recd with tag := 9, completion := 0x1C000 } }
  { s with threads := [], blocks := [] }
theorem test_completion_word_witness : (let s := idle
    Memory.wf s.mem && NMap.sorted s.launches && (s.launch 1).any (fun la => decide (la.aborting = none ∧ s.residentOf 1 = [] ∧
      la.saved = [] ∧ la.waiting = [] ∧ la.recd.completion % 8 = 0 ∧ la.ending = none ∧ la.failed = false)) &&
    match s.writableVirt 0x1C000 8 with | .ok pas => decide (pas.length = 8) | _ => false) = true := by decide +kernel
-- R84: TAG above STATUS and detail
theorem test_completion_word : (match exec (.launchCompletion 1) (idle.modLaunch 1 fun la => { la with ending := some (4, 3) }) with
    | .next t => decide (ofBytes (t.homeBytes (placePage + 0xC000) 8) = 9 * 2 ^ 32 + 3 * 2 ^ 16 + 4 ∧ t.launches = [] ∧
        t.host.pending = [5] ∧ t.ended = [(9, 4)])
    | _ => false) = true := by decide +kernel
theorem test_abort_witness : (let s := ready (.nop Ops.blank)
    decide (s.host.computeEn = true ∧ s.host.aborting = none ∧ (s.launches.find? (fun p => p.2.recd.tag = 1)).map (·.1) = some 1) &&
    (s.launch 1).any fun la => decide (la.aborting = none)) = true := by decide +kernel
theorem test_abort : (match exec (.launchAbort 1) (ready (.nop Ops.blank)) with
    | .next t => decide (t.host.aborting = some 1) && (t.launch 1).any (fun la => decide (la.aborting = some 6)) &&
        (t.block 2).any (·.stopping)
    | _ => false) = true := by decide +kernel

/-! ### Blocks -/

/-- The launch of `idle` with its block still to place. -/
def unplaced (f : Launch → Launch := id) : State := idle.modLaunch 1 fun la => f { la with waiting := [0] }
/-- A pipeline launch with a plan. -/
def ganged (la : Launch) : Launch := { la with recd := { la.recd with pipeline := true }, plan := some (context 0 [0]) }

-- BlocksComeAndGo: a new block, a gang that is placed, and one that finds no context
theorem test_placement_witness : (let s := unplaced
    decide (s.candidates = [(0, .block 1 0)]) && (s.launch 1).any fun la => decide (la.paired = false ∧ la.saved = [] ∧
      la.recd.dieHint = 7) && (s.fits 0 la.obj (Block.fresh 1 0 la.obj)).isSome) = true := by decide +kernel
theorem test_gang_witness : (let s := unplaced ganged
    let full := { s with ctxs := (List.range 4).map fun c => (c, context 0 []) }
    decide (s.candidates = [(0, .gang 1)] ∧ full.candidates = [(0, .gang 1)]) && (s.placeGang 1).isSome && (full.placeGang 1).isNone &&
    (s.launch 1).any fun la => decide (la.saved = [] ∧ la.ctx = none ∧ la.plan.isSome = true)) = true := by decide +kernel
-- R36, R90
theorem test_placement : (match exec (.blockPlacement 1 0) (unplaced fun la => { la with recd := { la.recd with dieHint := 2 } }) with
    | .next t => (t.block 4).any (fun b => decide (b.core = 200 ∧ b.id = 0 ∧ b.warps = [5])) &&
        (t.thread 5).any fun th => decide (th.pc = 0x10000 ∧ th.regs.mask 0 = 3)
    | _ => false) = true := by decide +kernel

/-- A block of priority 3 on core 0, the only core there is, and a launch of priority 0 that waits. -/
def crowded : State :=
  let s := (ready (.nop Ops.blank)).modLaunch 1 fun la => { la with recd := { la.recd with prio := 3, save := 0x18000, saveStride := 0x100 },
                                                                    obj := { la.obj with saveSize := 0x100 } }
  let s := s.setLaunch 4 { placeLaunch with waiting := [0], recd := { placeRecord with tag := 5 } }
  { s with cores := (List.range 400).map fun c => (c, { Core.init with spared := decide (c ≠ 0) }) }
theorem test_victim_witness : (let s := crowded
    (s.block 2).any (fun b => decide (b.stopping = false ∧ s.victim = some 2 ∧ s.together 2 b = [2])) &&
    (s.launch 1).any fun la => decide (s.saveBad la 0 = none)) = true := by decide +kernel
/-- A block that stops. -/
def stopping : State := (ready (.nop Ops.blank) fun th => { th with pc := 0x10004 }).modBlock 2 fun b => { b with stopping := true }
theorem test_saving_witness : (let s := stopping
    (s.block 2).any (fun b => decide (b.stopping = true ∧ b.other = none ∧ b.copy = .only ∧ s.saveReady [2] = true ∧ b.warps = [3])) &&
    (s.thread 3).any (fun th => decide (th.block = 2 ∧ th.pair = none)) && NMap.sorted s.threads && NMap.sorted s.blocks) = true := by
  decide +kernel
-- R95, R96: the warp goes back to its region's start
theorem test_saving : (match exec (.preEmption 2) stopping with
    | .next t => decide (t.blocks = [] ∧ t.threads = []) && (t.launch 1).any fun la =>
        decide (la.saved.map (fun v => v.warps.map (·.pc)) = [[0x10000]])
    | _ => false) = true := by decide +kernel
/-- A value of a map is one that it lists, or the default. -/
theorem get_all {α : Type} {P : α → Prop} {d : α} {m : NMap α} (h0 : P d) (h : ∀ p ∈ m, P p.2) (k : Nat) : P (NMap.get d m k) := by
  induction m with
  | nil => exact h0
  | cons p r ih =>
    have hr := ih fun q hq => h q (List.mem_cons_of_mem _ hq)
    simp only [NMap.get, NMap.find] at hr ⊢
    split
    · exact h p (List.mem_cons_self ..)
    · split
      · exact h0
      · exact hr
/-- When every link is up and no core has a refused or poisoned line, a canonical state is settled. -/
theorem settled_of {s : State} (hm : Memory.wf s.mem = true) (hl : ∀ p ∈ s.links, p.2.up = true) (hc : ∀ p ∈ s.cores, p.2.refused = [])
    (hb : ∀ p ∈ s.cores, p.2.l1.all (!·.bad) = true ∧ p.2.staged.all (!·.bad) = true) : s.settled := by
  refine ⟨hm, fun c pa => ?_, get_all (P := fun c : Core => c.l1.all (!·.bad) = true ∧ c.staged.all (!·.bad) = true) ⟨rfl, rfl⟩ hb⟩
  have h : (s.link (remoteLink pa)).up = true := get_all (P := fun l : Link => l.up = true) rfl hl _
  have hr : (s.core c).refused = [] := get_all (P := fun c : Core => c.refused = []) rfl hc c
  rw [State.refused, State.linkDown, h, hr]; simp
/-- The only warp of a block has ended. -/
def finished : State := ready (.nop Ops.blank) fun th => { th with ended := true }
theorem test_block_end_witness : finished.settled ∧ (finished.block 2).any (fun b => b.other.isNone) = true ∧ finished.endReady 2 = true ∧
    NMap.sorted finished.blocks = true :=
  ⟨settled_of (by decide +kernel) (by decide +kernel) (by decide +kernel) (by decide +kernel), by decide +kernel⟩

/-! ### Bursts, page faults, tiers -/

/-- A bread of thread 3 with one burst of four bytes from 0x10080 and one filled with zero. -/
def readout (st : BurstState) : Bread :=
  { tid := 3, block := 2, core := 0, op := 9, pc := 0x10000, flag := 1, handler := 0, params := List.replicate 16 7, fpmode := 0, seed := 5,
    bursts := [{ row := 0, col := 0, last := true, state := st, waits := [],
                 bytes := [some 0x10080, some 0x10081, some 0x10082, some 0x10083, none] }],
    quad := 0, slot := 0, hint := 0, failed := none, epoch := 0, region := 0, done := [], left := [] }
/-- That bread is under way; the page holds 4 at 0x10081. -/
def reading (st : BurstState) : State :=
  let s := (ready (.nop Ops.blank)).setHomes [(placePage + 0x81, 4)]
  { s with breads := [(6, readout st)] }

-- BurstsAndSprouts
theorem test_burst_witness : (let s := reading .unread
    (s.bread 6).any fun br => (s.envOf br.tid).any fun e => decide (e.th.pair = none) && (br.bursts[0]?).any fun b =>
      decide (b.state = .unread ∧ b.waits = []) && (b.bytes.all fun x => x.all fun va => decide (va < 2 ^ 52)) && match s.reachLines br.core .r 0 b.linesOf with
        | (some (lines, []), s1) => decide (lines = [(0x10080, placePage + 0x80)] ∧ s1.burstBad e.th br.core lines b = none ∧ s1.linesWait br.core lines = false)
        | _ => false) = true := by decide +kernel
theorem test_sprout_witness : (let s := reading (.waiting [1, 4, 0, 0, 2])
    decide (s.burstsWaiting 2 = [(6, 0)] ∧ s.slotFree 2 0 = true) && NMap.sorted s.breads && (s.block 2).any (fun b => decide (b.core = 0)) &&
    s.breads.all fun p => (s.envOf p.2.tid).isSome) = true := by decide +kernel
-- R68, R69
theorem test_sprout_start : (match exec (.sproutStart 2) (reading (.waiting [1, 4, 0, 0, 2])) with
    | .next t => (t.thread 4).any fun th => decide (th.regs.vec 0 0 = 0x0401 ∧ th.regs.vec 0 1 = 2 ∧ th.regs.mask 1 = 3 ∧
        th.regs.scal 15 = 7 ∧ th.burst.bytes = 5 ∧ th.burst.last = 1)
    | _ => false) = true := by decide +kernel

-- WalksAndPageFaults: a walk that finds a leaf, one that does not; the ends of walks; shootdowns under way
theorem test_walk_witness : (match mapped.walk 0x1234567 with | .leaf e => decide (e.pa = 0 ∧ e.size = 2 ^ 29) | _ => false) = true ∧
    (match mapped.walk 0x20000000 with | .fault f => decide (f.cause = 0x14 ∧ f.detail = 2) | _ => false) = true := by decide +kernel
/-- A walk of core 7 under way with this stamp, when SD_GEN is 1. -/
def walking (n : Nat) (r : Option TlbEntry) : State :=
  { mapped with xlat := { mapped.xlat with sdGen := 1, shoots := [1] },
                dies := [(0, { Die.init with walks := [{ core := 7, va := 0x5000, stamp := n, epoch := 0, result := r }] })] }
theorem test_walk_end_witness : [0, 1].all (fun n => ([none, some ⟨0, 0x10000, 0, true, true, true, 0⟩] : List (Option TlbEntry)).all fun r =>
    let s := walking n r
    decide ((s.die 0).walks[0]?.map (·.stamp) = some n ∧ s.xlat.shoots = [1]) &&
      match s.walk 0x5000 with | .leaf _ => true | _ => false) = true := by decide +kernel
-- R162: the leaf is in the TLBs of core 7 and of its die
theorem test_walk_end : (match exec (.walkEnd 0 0) (walking 1 (some ⟨0, 0x10000, 0, true, true, true, 0⟩)) with
    | .next t => decide ((t.core 7).tlb.length = 1 ∧ (t.die 0).tlb.length = 1 ∧ (t.die 0).walks = [])
    | _ => false) = true := by decide +kernel
/-- A load of thread 3 from 0x10080 whose line waits on the host; the host answers for its page. -/
def faulted : State :=
  let q : LogEntry := { op := 5, pc := 0x10000, write := false, atomic := false, got := [], dest := .reg .b32 (.v 4), epoch := 0, region := 0,
                        acc := [{ lane := 0, elem := 0, va := some 0x10080, w := 4, data := [], bit := 0 }],
                        lines := [{ line := 0x10080, va := 0x10080, write := false, cause := 0x14, gen := 0, told := false }],
                        held := none, hint := 0, nums := [] }
  let p : Pending := { op := 5, vals := [], stale := none, known := false, regs := [.v 4], region := 0 }
  let s := (ready (.nop Ops.blank) fun th => { th with log := [q], pend := [p] }).setHomes [(placePage + 0x81, 4)]
  { s with xlat := { s.xlat with pfVa := 0x10000 } }
theorem test_retry_witness : (let s := faulted
    (s.envOf 3).any fun e => decide (e.th.pair = none ∧ e.th.log.length = 1 ∧ s.cmds = [] ∧ s.breads = [] ∧ pageOf 0x10080 = s.pfPage) &&
      NMap.sorted s.threads && (s.threads.all fun p => decide (p.1 = 3 ∧ p.2.leaving = none)) &&
      match State.reachLines { s with threads := s.threads.map fun p => (p.1, p.2.tell s.pfPage) } e.blk.core .r 0 [0x10080] with
      | (some ([(_, pa)], []), s1) => e.th.log.all fun q => decide (s1.dataBad e.th e.blk.core [(0x10080, pa)] q.acc = [] ∧ s1.stagingWaits e.blk.core 5 = false)
      | _ => false) = true := by decide +kernel
-- R415: the load is performed
theorem test_retry : (match exec .pageFaultRetry faulted with
    | .next t => (t.thread 3).any fun th => decide (th.log = [] ∧ pending 4 1 th = [0x400])
    | _ => false) = true := by decide +kernel
theorem test_unresolvable_witness : (let s := ready (.nop Ops.blank) fun th => { th with fetchWait := some (0x40, 0x14) }
    (s.envOf 3).any fun e => decide (e.th.live = true ∧ e.th.isWarp = true ∧ e.th.pair = none ∧ e.th.log = [] ∧
      e.th.fetchWait = some (0x40, 0x14) ∧ 0x40 / 65536 = s.xlat.pfVa / 65536 ∧ s.cmds = [] ∧ s.breads = []) && NMap.sorted s.threads) = true := by decide +kernel

-- QuarantineAndTiers: pushes, releases
theorem test_quarantine_witness : State.reset.host.computeEn = true ∧ State.reset.xlat.qf.length < 64 ∧
    ([0, 1].all fun n => let s := { State.reset with xlat := { Xlat.init with qf := List.replicate 64 (0, 1, n, 0), qepoch := 1 } }
     decide (64 ≤ s.xlat.qf.length ∧ s.epochs = []) || decide (n = 0)) = true ∧
    (let s := commanded
     decide (s.epochs = [0]) && [(0, 1, 0, 0)].any fun q => decide (∃ x ∈ s.epochs, x ≤ q.2.2.1)) = true := by decide +kernel
theorem test_timeout_witness : State.reset.settled ∧ NMap.sorted State.reset.cores = true ∧ ∀ c, State.reset.dirtyOwned c = false :=
  ⟨test_settled, by decide, fun c => by simp [State.dirtyOwned, State.core, State.reset, NMap.get, Core.init]⟩
/-- Die 0 has 1,024 near-memory slots, of which slot 3 serves frame 5. -/
def tiered (frame : Nat) : State := State.reset.setDie 0 { Die.init with l2Units := 7, migFrame := frame, slots := [(3, 5)] }
-- R158: RESULT 1, 3, 4, 2, a start, and back: 4 and a start
theorem test_migrations : (let res := fun f i => match exec i (tiered f) with
        | .next t => ((t.die 0).result, (t.die 0).migs.length)
        | _ => (9, 9)
    [res (2 ^ 28) (.migrateToSram 0 0), res 6 (.migrateToSram 0 1024), res 5 (.migrateToSram 0 3), res 6 (.migrateToSram 0 3),
     res 6 (.migrateToSram 0 1023), res 6 (.migrateToGddr7 0), res 5 (.migrateToGddr7 0)]) =
    [(1, 0), (3, 0), (4, 0), (2, 0), (0, 1), (4, 0), (0, 1)] := by decide +kernel
-- R159: a line before the last, and the last; TIER_SPLIT when the slots that go are empty, and when they are not
theorem test_line_moves : (let moved := fun n => match exec (.migrationLineMove 0 .clean) ((tiered 6).modDie 0 fun d =>
          { d with migs := [{ frame := 6, slot := some 9, moved := n, ctx := none }] }) with
        | .next t => ((t.die 0).migs.map (·.moved), (t.die 0).slots)
        | _ => ([], [])
    [moved 254, moved 255]) = [([255], [(3, 5)]), ([], [(3, 5), (9, 6)])] := by decide +kernel
theorem test_split : (let split := fun v => match exec (.tierSplitWrite 0 v) (tiered 6) with
        | .next t => ((t.die 0).l2Units, (t.die 0).refused)
        | _ => (9, false)
    [split 7, split 8, split 0, split 9]) = [(7, false), (7, true), (7, true), (7, true)] := by decide +kernel

/-! ### Registers, clock, errors -/

-- HostAccesses
theorem test_host_witness : State.reset.settled ∧ State.reset.host.computeEn = true ∧ isLocal (0x1000 + 7) = true ∧ isLocal (2 ^ 36 * 0xFFF) = false ∧
    (State.reset.queue 63).enable = false := ⟨test_settled, by decide +kernel⟩
-- R370, R78, R371
theorem test_bar2 : (match exec (.hostBar2Write 0x1002 [5, 6]) State.reset with
    | .next t => match exec (.hostBar2Read 0x1000 4) t with
      | .next u => decide (u.host.readData = [0, 0, 5, 6])
      | _ => false
    | _ => false) = true := by decide +kernel
theorem test_qctl : (match exec (.registerWrite (0x10000 + 32 * 63 + 8) 0x80000010) State.reset with
    | .next t => decide ((t.queue 63).enable = true ∧ (t.queue 63).size = 16)
    | _ => false) = true := by decide +kernel
theorem test_msix : (let s := { State.reset with host := { HostRegs.init with pending := [68, 69], msix := [(4 * 68 + 3, 1)] } }
    (match exec (.msixSend 68) s with | .next t => decide (t = s) | _ => false) &&
    match exec (.msixSend 69) s with | .next t => decide (t.host.pending = [68]) | _ => false) = true := by decide +kernel

/-- A context that has waited 4,096 cycles with page 1 open, which holds 3 rows for expert 0. -/
def waited : State :=
  let x := context 0 []
  let s := putWords mapped 0x1010000 [(0, 3)]
  { s with ctxs := [(2, { x with waited := 4096, opened := [1], rings := x.rings.map ({ · with expert := some 0 }) })],
           launches := [(1, placeLaunch)], blocks := [(2, placeBlock 1 3)],
           threads := (ready (.nop Ops.blank) fun th => { th with wait := .pool }).threads }
-- ClockStepsAndScrub: R363 holds
theorem test_forced_witness : (let s := waited
    Memory.wf s.mem && (s.ctx 2).any (fun x => decide (x.forceAfter ≤ x.waited ∧ x.opened = [1] ∧ x.bufferRing 0 = some 0 ∧
      ofBytes (s.homeBytes 0x1010000 4) = 3) && NMap.sorted x.counters &&
      decide (x.free = [] ∧ (x.rings.all fun r => r.expert.isNone || decide (r.used = 0)) = true) && s.starved x &&
      (s.launch x.launch).any (fun la => decide (la.waiting = [] ∧ la.saved = [])) &&
      match s.reach (x.poolBase + 65536) .rw with | .ok pa => decide (pa = 0x1010000) && !s.poisoned pa | _ => false)) = true := by decide +kernel
-- R363: the page is sealed and pushed
theorem test_forced : (match exec (.forcedShortBatch 2) waited with
    | .next t => decide (ofBytes (t.homeBytes 0x1010000 4) = 0x80000003) && (t.ctx 2).any fun x => decide (x.opened = [] ∧ x.waited = 0) &&
        (x.ring 0).any fun r => decide (r.tail = 1 ∧ NMap.get 0 r.data 0 = 0x1010000 ∧ NMap.get 0 r.data 2 = 3 ∧ NMap.get 0 r.data 3 = 1)
    | _ => false) = true := by decide +kernel
theorem test_scrub : isLocal (0x1234 / 64 * 64) = true ∧ (match exec (.scrubLine true (.home 0x1234) .uncorrectable) State.reset with
    | .next t => t.poisoned 0x1200 && !t.poisoned 0x1240
    | _ => false) = true := by decide +kernel
/-- Core 0 holds line 0x1000, of which byte 3 is dirty, and block 2's row 1 of scratch is poisoned. -/
def marred : State :=
  let s := (ready (.lds { two .b32 with a := .s 8 }) (vec 12 [0x44, 0])).modCore 0 fun c =>
    { c with l1 := [{ pa := 0x1000, va := 0, filled := [(9, 5)], dirty := [(3, 7)], hint := 0, epoch := 0 }] }
  match exec (.scrubLine false (.scratch 2 0x7F) .uncorrectable) s with | .next t => t | _ => s
-- R466: an error in the word with the dirty byte, and one in another; R467: a poisoned row
theorem test_l1_errors : (let kept := fun pa => match exec (.scrubLine false (.l1 0 pa) .uncorrectable) marred with
        | .next t => ((t.core 0).heldBad 0x1000, (t.core 0).l1.map (·.filled), (t.die 0).ceMem)
        | _ => (none, [], 9)
    [kept 0x1007, kept 0x1008]) = [(some 3, [[(9, 5)]], 0), (none, [[]], 1)] := by decide +kernel
theorem test_poisoned_row : (let i := Instr.lds { two .b32 with a := .s 8 }
    issuing marred i (fun o e => (e.actLanes o).map (fun l => decide ((e.word o.a l + e.word o.b l) / 64 ∈ e.blk.badRows)) == [true, false]) &&
    match exec i marred with
    | .next t => (t.thread 3).any fun th => decide (th.trap.cause.toNat % 65536 = 0x18 ∧ th.halted = true)
    | _ => false) = true := by decide +kernel
theorem test_decay : (match exec .mismatchCountDecay { State.reset with cores := [(9, { Core.init with counts := [(64, 2), (70, 1)] })] } with
    | .next t => decide (NMap.get 0 (t.core 9).counts 64 = 1 ∧ NMap.get 0 (t.core 9).counts 70 = 0)
    | _ => false) = true := by decide +kernel

/-- A `nop` of a warp whose core has these counts and, with `full`, twice a retired position of its slot, which the warp has
taken. -/
def worn (counts : NMap Nat) (full : Bool) : State :=
  (ready (.nop Ops.blank) fun th => { th with reached := 2 }).modCore 0 fun c =>
    { c with counts := counts, retired := if full then [(1, true), (2, true)] else [] }
-- SilentErrorsAndCommits: one mismatch; a count that reaches 3, with a spare and without; a restart that is free and one that
-- is not; a word that a restart discards and one that it does not
theorem test_silent_witness : ([([], false, none), ([(0, 2)], false, some 0), ([(0, 2)], true, some 0)] : List (NMap Nat × Bool × Option Nat)).all (fun x =>
    match (worn x.1 x.2.1).atNext 3 with
    | some (e, d, s) => decide (d = .instr (.nop Ops.blank) ∧ e.th.isWarp = true ∧ e.th.pair = none ∧ 1 < e.th.width ∧
        e.th.port * 16 + e.th.width ≤ 64 ∧ (s.countLanes e [3] [0]).slotFull e [3] [0] = x.2.2 ∧ s.counted e [3] 0 = true ∧
        ((s.core e.blk.core).retired.filter fun p => p.1 / 64 = e.th.quad * 2 + e.th.slot && p.2).length = if x.2.1 then 2 else 0) &&
        decide (((s.countLanes e [3] [0]).countLanes e [3] [0]).slotFull e [3] [0] = x.2.2) &&
        s.restartable 3 e.th && e.discards (.s 4) && !e.discards .entry
    | none => false) = true ∧
    (let s := ready (.nop Ops.blank) fun th => { th with
       pend := [{ op := 9, vals := [], stale := none, known := false, regs := [], region := 0 }], region := { th.region with num := 1 } }
     match s.atNext 3 with
     | some (e, _, s) => !s.restartable 3 e.th
     | none => false) = true := by decide +kernel
theorem test_replay : (match exec (.instructionReplay 3 1 1 true [.primary]) (worn [] false) with
    | .next t => decide ((t.core 0).counts = [(0, 1), (1, 1)] ∧ (t.die 0).mismatch = 1)
    | _ => false) = true := by decide +kernel

/-- Both copies of a warp have stored a byte to line 0x40 in region 0, the trailing one with the signature `sig`; they have closed
it or not, and wait for `w`. -/
def copies2 (closed : Bool) (w : WaitOn) (sig : DWord := 7) : State :=
  let s := ready (.nop Ops.blank)
  let x : Entry := { num := 0, region := 0, pa := 0x40, sig := 7, work := .store 0x10040 [(3, 9)], epoch := 0 }
  match s.thread 3, s.block 2 with
  | some th, some b =>
    let r1 := { th.region with num := 1 }
    let checks : List Checkpoint := ⟨th.region, th.regs, 1, 0⟩ :: if closed then [⟨r1, th.regs, 2, 1⟩] else []
    let pair (peer : Nat) (lead : Bool) : PairState :=
      { peer := peer, leading := lead, entries := [if lead then x else { x with sig := sig }], nextEntry := 1, settled := 0, after := 0, exit := none,
        bytes := [{ entry := 0, pa := 0x43, byte := 9 }], checks := checks, rollbacks := 2 }
    let copy (blk peer : Nat) (lead : Bool) : Thread :=
      { th with block := blk, region := if closed then r1 else th.region, wait := w, pair := some (pair peer lead) }
    (((s.setThread 3 (copy 2 5 true)).setThread 5 (copy 4 3 false)).setBlock 2 { b with copy := .leading, other := some 4 }).setBlock 4
      { b with copy := .trailing, other := some 2, core := 1, warps := [5] }
  | _, _ => s
theorem test_commit_settled (closed : Bool) (w : WaitOn) (hc : closed = true) (hw : w = .ready) : (copies2 closed w).settled := by
  subst hc hw
  exact settled_of (by decide +kernel) (by decide +kernel) (by decide +kernel) (by decide +kernel)
theorem test_commit_witness : (let s := copies2 true .ready
    (s.copiesIn 2 0).any fun c => decide (s.verdict c = .commit ∧ c.p.oldest = some 0 ∧ c.lead.tid = 3 ∧ c.trail.tid = 5 ∧
      (c.p.entries.filter (fun y => y.region = 0)).map (·.pa) = [0x40] ∧ isRemote 0x40 = false ∧ (c.q.entries.map (·.bad)) = [false]) &&
      (s.breadOf 3 0).isNone && (s.breadOf 5 0).isNone) = true ∧
    (let s := copies2 false .full
     (s.copiesIn 2 0).any fun c => decide (s.partialReady c = true ∧ c.matched.length = 1)) = true := by decide +kernel

/-! ### Starts, commands, records, links -/

-- StartsAndCommands: what the statement of a start that passes assumes of the state (that images verify is a free value);
-- commands, with an argument of the right length and of another
theorem test_start_witness : State.reset.cores = [] ∧ State.reset.ocwick.spared = [] ∧ State.reset.ocwick.positions = [] ∧
    State.reset.ocwick.staged = [none, none, none] ∧ State.reset.ocwick.pcie = 7 ∧ State.reset.ocwick.nertu = List.replicate 8 224 ∧
    State.reset.ocwick.gddr = List.replicate 24 48 := by decide +kernel
/-- The mailbox holds an argument of this length. -/
def posted (n : Word) (busy : Bool) : State := { State.reset with mailbox := { Mailbox.init with len := n, busy := busy, out := (0, 0, []) } }
theorem test_mailbox_witness : (posted 4 true).mailbox.busy = true ∧
    ([4, 32, 3840, 3841] : List Word).all (fun n => !(posted n false).mailbox.busy && decide ((posted n false).mailbox.len = n)) = true := by
  decide +kernel
-- R379, R378: the start log of the first start, and its completion
theorem test_start_log : (match exec .readStartLog (posted 4 false) with
    | .next t => match exec .mailboxCommandComplete t with
      | .next u => decide (u.mailbox.len = 80 ∧ u.mailbox.result = 0 ∧ NMap.get 0 u.mailbox.buf 3 = 1 ∧ NMap.get 0 u.mailbox.buf 2 = 1 ∧
          NMap.get 0 u.mailbox.buf 18 = 2 ∧ u.host.pending = [69])
      | _ => false
    | _ => false) = true := by decide +kernel
theorem test_overrun : (match exec .attest (posted 32 true) with | .next t => t.mailbox.overrun | _ => false) = true := by decide +kernel

/-- Die 1's log ring of two records at 0x2000, with this head. -/
def logged (head : Word) : State := State.reset.setDie 1 { Die.init with elogLo := 0x2000, elogSize := 1, elogHead := head }
-- RecordsAndLinks: room, a full ring and no ring; links
theorem test_ring_witness : ([0, 1, 2] : List Word).all (fun h => let d := (logged h).die 1
    Memory.wf (logged h).mem && (decide ((d.elogHead - d.elogTail).toNat = 2 ^ d.elogSize) == decide (h = 2)) && isLocal 0x2020) = true ∧
    (State.reset.die 1).elogSize = 0 ∧ (State.reset.link 7).up = true ∧ (State.reset.link 7).rate = 56 ∧ State.reset.host.pcieUp = true := by
  decide +kernel
-- R394: the second record's words
theorem test_record : (match exec (.scrubLine true (.home (2 ^ 46 + 0x1234)) .uncorrectable) (logged 1) with
    | .next t => decide (ofBytes (t.homeBytes 0x2020 4) = 0x01060000 + 0x400 + 0x10 + 1 ∧ ofBytes (t.homeBytes 0x2038 8) = 2 ^ 46 + 0x1200 ∧
        (t.die 1).elogHead = 2 ∧ t.host.pending = [65])
    | _ => false) = true := by decide +kernel
/-- The PCIe link is down, after generation `n`; link 7's window is frames 2 and 3 and its rate `r`. -/
def linked (n r : Nat) : State :=
  { State.reset with host := { HostRegs.init with pcieUp := false, pcieGen := n }, links := [(7, ⟨2, 2, true, r⟩)] }
theorem test_link_witness : ([(0, 14), (5, 28)] : List (Nat × Nat)).all (fun x => let s := linked x.1 x.2
    decide (s.host.pcieUp = false ∧ s.ocwick.pcie = 7 ∧ (s.link 7).up = true ∧ ((s.link 7).rate ≤ 14 ↔ x.2 = 14)) &&
    decide (isLocal 0x20000 = true ∧ frameOf 0x20000 = 2 ∧ frameOf 0x3FFFF = 3 ∧ frameOf 0x40000 = 4)) = true := by decide +kernel
-- R490, R374
theorem test_link_retrain : (match exec (.nertuLinkRetrain 7 true) (linked 5 28) with
    | .next t => decide ((t.link 7).rate = 14 ∧ (t.link 7).up = true) | _ => false) = true ∧
    (match exec (.nertuLinkRetrain 7 true) (linked 5 14) with
    | .next t => decide ((t.link 7).rate = 0 ∧ (t.link 7).up = false) | _ => false) = true := by decide +kernel
theorem test_inbound : (match exec (.nertuInboundRequest 7 0x3FFF8 1 (.write [7])) (linked 5 28) with
    | .next t => decide (t.homeByte 0x3FFF8 = 7) | _ => false) = true ∧
    (match exec (.nertuInboundRequest 7 0x40000 1 (.write [7])) ((linked 5 28).setDie 3 { Die.init with elogSize := 4 }) with
    | .next t => decide (t.homeByte 0x40000 = 0 ∧ (t.die 3).elogHead = 1) | _ => false) = true := by decide +kernel
theorem test_error_response_witness : (let s := (ready (.nop Ops.blank)).modCore 0 fun c =>
      { c with l1 := [{ pa := 2 ^ 45 + 7 * 2 ^ 42, va := 0x10080, filled := [], dirty := [(0, 1)], hint := 0, epoch := 0 }] }
    (s.envOf 3).any fun e => ((s.core e.blk.core).dirtyAt 0x10080).any fun pa => isRemote pa && decide (remoteLink pa = 7)) = true := by
  decide +kernel
-- StepsKeepMemoryCanonical
theorem test_canonical_witness : (let s := State.reset.withFetchWord 64 0x3000
    Memory.wf s.mem && match step s with | .next _ => true | _ => false) = true := by decide +kernel
/-! ### Further witnesses -/

-- CorrectRounding: numbers of three signs, 1 in both formats of `rsq`, and conversions to each kind of format
theorem test_numbers_witness : Ty.f32.number false 0x3F800000 = some (false, 1) ∧ Ty.f32.number false 0xC0000000 = some (true, -2) ∧
    Ty.f32.number false 0x80000000 = some (true, 0) ∧ Ty.f64.number false 0x3FF0000000000000 = some (false, 1) ∧
    Ty.f32.number true 0x00400000 = some (false, 0) ∧ Ty.e4m3.number false 0x7F = none ∧ (1 : ℚ) = 2 ^ (0 : Int) ∧
    (2 : ℚ) * 1 = (2 : Int) ∧ Ty.f32 ∈ tysArith ∧ Ty.i8.isInt = true := by decide +kernel
theorem test_grid : Ty.f16.grid 0x3C01 = 1 + 1 / 1024 ∧ Ty.f16.grid 1 = 1 / 2 ^ 24 ∧ Ty.e3m5.grid 0x60 = 1 ∧ Ty.e8m0.grid 0x80 = 2 ∧
    Ty.e2m1.grid 7 = 6 ∧ Ty.e4m3.grid 0x7E = 448 := by decide +kernel
-- R114: a signed result narrower than its register
theorem test_add_i8 : after (ready (.add (two .i8)) (vec 8 [0x7F, 5] ∘ vec 12 [1, 6])) (.add (two .i8))
    (fun _ th => decide (lanes 4 2 th = [0xFFFFFF80, 11])) = true := by decide +kernel
-- R254
theorem test_fclass : after (ready (.fclass (one .f32)) (vec 8 [0xFF800000, 0x7FC00000])) (.fclass (one .f32))
    (fun _ th => decide (lanes 4 2 th = [4, 2])) = true := by decide +kernel
/-- As `ready`, with `n` entries of the return-address stack and a spill area at 0x10100 of 8 places. -/
def nested (i : Instr) (n : Nat) (f : Thread → Thread := id) : State :=
  (ready i fun th => f { th with regs := { th.regs with ras := List.replicate (min n 16) 0x10040, depth := n } }).modLaunch 1 fun la =>
    { la with recd := { la.recd with spill := 0x10100, spillStride := 64 } }
/-- These accesses of the thread reach memory. -/
def reached (s : State) (e : Env) (write : Bool) (accs : List Access) : Bool :=
  decide (e.th.log = [] ∧ e.th.pair = none ∧ s.host.testMode = false) &&
    match s.reachLines e.blk.core (if write then .w else .r) 0 (linesOf accs) with
    | (some (lines, []), s1) => lines.all (fun l => !s1.atomAhead e.tid l.2) && !s1.linesWait e.blk.core lines &&
        (write || decide (s1.dataBad e.th e.blk.core lines accs = []))
    | _ => false
/-- The access to place `n` of the spill area. -/
def place (n : Nat) (data : List Byte) : Access := { lane := 0, elem := 0, va := some (0x10100 + 8 * n), w := 8, data := data, bit := 0 }
/-- The `call.ind` of the tests. -/
def callInd : Instr := .callInd { warp with dst := .k 1, a := .v 8, b := .k 3 }

-- CallsAndReturns: pushes that spill, of both calls, and a pop that reads a spilled entry back
theorem test_spill_witness : (([.call { warp with len := 3, imm := 0x40 }, callInd] : List Instr).all fun i =>
      let s := nested i 16 (vec 8 [0x10080, 0x10040] ∘ mask 3 3)
      issuing s i fun o e => decide (e.th.regs.depth = 16 ∧ 16 < 16 + e.la.recd.spillStride / 8 ∧ e.la.recd.spill % 8 = 0) &&
        reached s e true [place 0 (bytesOf 8 0x10040)] && (codeOk (s.target o) || decide (i = callInd))) = true ∧
    (let s := nested (.ret warp) 17
     issuing s (.ret warp) fun _ e => decide (16 < e.th.regs.depth) && codeOk (e.th.regs.ras.getD 0 0).toNat &&
       reached s e false [place 0 []]) = true := by decide +kernel
-- R108: the oldest entry is stored, and read back
theorem test_spill : (match exec (.call { warp with len := 3, imm := 0x40 }) (nested (.call { warp with len := 3, imm := 0x40 }) 16) with
      | .next t => decide (t.seenByte 0 (placePage + 0x102) = 1 ∧ (List.range 2).map (fun k => t.seenByte 0 (placePage + 0x100 + k)) = [0x40, 0]) &&
          (t.thread 3).any fun th => decide (th.regs.depth = 17 ∧ th.regs.ras = 0x1000C :: List.replicate 15 0x10040)
      | _ => false) = true ∧
    (match exec (.ret warp) ((nested (.ret warp) 17).setHomes [(placePage + 0x100, 0x44)]) with
      | .next t => (t.thread 3).any fun th => decide (th.pc = 0x10040 ∧ th.regs.depth = 16 ∧ th.regs.ras = List.replicate 15 0x10040 ++ [0x44])
      | _ => false) = true := by decide +kernel
-- ControlTransfersTrap: an invalid entry, an invalid least target, and both calls at the depth limit
theorem test_invalid_targets_witness : (let s := nested (.ret warp) 1 (fun th => { th with regs := { th.regs with ras := [0x10042] } })
      issuing s (.ret warp) fun _ e => decide (0 < e.th.regs.depth) && !codeOk (e.th.regs.ras.getD 0 0).toNat) = true ∧
    (issuing (ready callInd (vec 8 [0x10080, 0x10042] ∘ mask 3 3)) callInd fun o e => !codeOk (e.th.regs.raw 0 .n64 1 o.a) &&
      decide ((e.th.regs.mask 3 &&& e.th.active o).getLsbD 1 = true ∧ 1 < e.th.width ∧
        e.th.regs.raw 0 .n64 1 o.a ≤ e.th.regs.raw 0 .n64 0 o.a)) = true ∧
    (issuing (nested callInd 24 (vec 8 [0x10080, 0x10040] ∘ mask 3 3)) callInd fun o e => codeOk (e.th.regs.raw 0 .n64 1 o.a) &&
      decide (16 + e.la.recd.spillStride / 8 ≤ e.th.regs.depth)) = true := by decide +kernel
theorem test_too_deep : after (nested callInd 24 (vec 8 [0x10080, 0x10040] ∘ mask 3 3)) callInd (fun _ th =>
    decide (th.trap.cause.toNat % 65536 = 0x0B ∧ th.trap.cause.toNat / 65536 = 24)) = true := by decide +kernel

/-- A sprout of burst 0 of bread 6, which has two bursts, and its issuing warp, the fifth thread. -/
def sprouting (i : Instr) (other : BurstState) (reqs : List AtomReq) : State :=
  let s := ready i fun th => { th with role := .sprout 6 0 }
  let s := (s.thread 3).elim s fun th => s.setThread 5 { th with role := .warp 0, flags := [(1, 9), (2, 8)] }
  let b : Burst := { row := 0, col := 0, last := false, state := .running, waits := [], bytes := [] }
  { s with breads := [(6, { readout .running with tid := 5, bursts := [b, { b with state := other }], failed := some (0, 0x12) })], reqs := reqs }
-- ThreadsEnd: a sprout whose burst is the last, one whose is not, and one with an access outstanding
theorem test_sprout_ends_witness : ([.exit warp, .retire Ops.blank] : List Instr).all (fun i =>
    ([BurstState.retired, .running]).all fun b =>
      let s := sprouting i b []
      NMap.sorted s.threads && NMap.sorted s.breads && issuing s i fun o e => decide (e.th.pair = none ∧ e.th.role = .sprout 6 0) &&
        s.performed e && (s.bread 6).any (fun br => decide (br.tid = 5 ∧ br.bursts.length = 2)) && (s.thread 5).isSome &&
        decide (e.th.regs.mask 0 &&& ~~~(e.th.active o) &&& laneMask e.th.width = 0)) = true ∧
    (let s := sprouting (.exit warp) .running [request .add]
     issuing s (.exit warp) fun _ e => !s.performed e) = true := by decide +kernel
-- R72, R418
theorem test_sprout_ends : (match exec (.exit warp) (sprouting (.exit warp) .retired []) with
    | .next t => decide ((t.thread 3).isNone ∧ (t.bread 6).isNone) && (t.thread 5).any fun th =>
        decide (th.flags = [(2, 8)] ∧ th.faults.map (fun f => (f.flag, f.cause)) = [(1, 0x0D)])
    | _ => false) = true := by decide +kernel
-- RegionsOpen: a restart executes the `region` again
theorem test_region_again : (let i := Instr.region { warp with len := 3 }
    after (ready i fun th => { th with region := { th.region with again := true, start := 0x10000, num := 4 } }) i
      (fun _ th => decide (th.region.num = 4 ∧ th.region.again = false))) = true := by decide +kernel
-- SyncAndWait: a failure that a `wait` consumes
theorem test_wait_consumes : (let i := Instr.wait { warp with len := 3, imm := 4 }
    let f : FlagFault := { flag := 2, cause := 13, detail := 0, word2 := 0, word3 := 0, region := 0, sealing := none }
    after (ready i fun th => { th with faults := [f, { f with flag := 3 }] }) i
      (fun _ th => decide (th.faults.map (·.flag) = [3] ∧ th.pc = 0x1000C))) = true := by decide +kernel
/-- The last live member of its set arrives at `i`. -/
def arriving (s : State) (i : Instr) (p : Ops → Env → SetCtx → Bool := fun _ _ _ => true) : Bool :=
  match i.ops, s.env with
  | some o, some e =>
    let (set, base, all) := e.setOf o
    let others := (s.liveMembers e.blk e.la.obj set).filter (· ≠ e.tid)
    decide (2 ≤ o.scope.code ∧ e.th.pend = [] ∧ e.flagHazard i o.len = false ∧ e.pairHazard i = false ∧ s.accessHold e i = false ∧ s.host.testMode = false ∧
      e.th.live = true ∧ e.tid ∈ all ∧ all.Nodup ∧ 0 < e.th.width ∧ e.th.width ≤ 64) &&
    (match e.blk.rends.find? (fun r => r.set = set) with
      | some r => decide (r.addr = s.cur.pc ∧ e.tid ∉ r.arrived ∧ ∀ m ∈ others, m ∈ r.arrived)
      | none => decide (others = [])) &&
    (e.blk.rends.all fun r => decide (r.set = set) || all.all fun m => decide (m ∉ r.arrived)) &&
    (all.all fun m => (s.envOf m).any fun f => decide (f.th.block = e.th.block ∧ f.th.checkErr = none) && f.th.isWarp &&
      (f.flawRead i base).isNone) &&
    match s.setCtx e o with | some c => p o e c | none => false
  | _, _ => false
/-- `exec` runs `i` in `s`; thread 4 of the next state meets `p`. -/
def afterFor4 (s : State) (i : Instr) (p : Thread → Bool) : Bool :=
  match exec i s with | .next t => (t.thread 4).any p | _ => false
/-- As `pair`, at a rendezvous of the block. -/
def pairBlock (i : Instr) : State := (pair i (some 0x10000)).modBlock 2 fun b => { b with rends := b.rends.map ({ · with set := 256 }) }
/-- The collective forms at a scope, with the flag that the completion of `mma` needs. -/
def setForms (sc : Scope) : List Instr :=
  let at_ := fun (o : Ops) => { o with scope := sc }
  [.sync { Ops.blank with scope := sc, dst := .s 4 }, .shfl .idx (at_ (two .b32)), .shfl .up (at_ (two .b32)), .bcast (at_ { two .b32 with b := .imm 1 }),
   .bcast (at_ { two .b32 with dst := .s 4, b := .s 12 }), .red .sum (at_ { one .i32 with dst := .s 4 }), .scan .min (at_ (one .i32)),
   .sred .sum (at_ { one .f32 with len := 3, b := .k 3, c := .imm 2 }), .topk (at_ { one .i32 with b := .imm 1 }),
   .mma { product with scope := sc }]

-- RendezvousCompletes, CrossLaneMoves, Reductions, RankedLanes, CollectiveProducts, BankConversions: a set of two warps, the
-- block, and a member that is alone
theorem test_arrives_witness : ((setForms .set).all fun i => arriving (pair i (some 0x10000)) i && arriving (ready i) i) = true ∧
    ((.bankcfg { Ops.blank with scope := .block, dst := .s 4, xmod := 1 } :: setForms .block).all fun i => arriving (pairBlock i) i fun _ e _ =>
      e.blk.switch.isNone) = true := by decide +kernel
theorem test_abandoned_witness : let i := Instr.sync { Ops.blank with scope := .set, dst := .s 4 }
    let s := (pair i (some 0x10000)).modBlock 2 fun b => { b with abandoned := [0] }
    arriving s i = true ∧ (after s i fun t th => decide (pending 4 0 th = [] ∧ th.pend.map (·.vals) = [[.s 4 1]]) &&
      (t.block 2).any fun b => decide (b.abandoned = [])) = true := by decide +kernel
-- R47, R263: lane 2 of the set, the first lane of the second warp, reads lane 1, of the first
theorem test_shfl_set : let i := Instr.shfl .up { two .b32 with scope := .set, b := .imm 1 }
    afterFor4 ((pair i (some 0x10000)).modThread 3 (vec 8 [7, 9])) i (fun th => decide (pending 4 1 th = [9])) = true := by decide +kernel
-- R424: erratum 9, with no active lane
theorem test_bcast_erratum : let i := Instr.bcast { two .b32 with scope := .warp, dst := .s 4, b := .s 12 }
    let s := (ready i (mask 0 0)).modLaunch 1 fun la => { la with obj := { la.obj with errata := 0x200 } }
    issuing s i (fun o e => e.la.obj.errata.getLsbD 9 && decide (e.solo.actives o = [])) = true ∧
    (after s i fun _ th => decide (th.pend = [])) = true := by decide +kernel
-- Reductions: a selector above 2 at set scope
theorem test_sred_set_witness : let i := Instr.sred .sum { one .f32 with len := 3, scope := .set, b := .k 3, c := .s 16 }
    arriving ((pair i (some 0x10000)).modThread 3 (scal 16 3)) i (fun o _ c => decide (2 < c.raw .b32 o.c 0)) = true := by decide +kernel
-- R138: the root over 112 lanes, (l0 to l63) + (l64 to l95 + l96 to l111)
theorem test_red_root : (treeHeight 112, treeHeight 64, treeHeight 1) = (7, 6, 0) := by decide +kernel

/-- Two warps at an `mma` of a set, whose rows are those of `m`, with this quad. -/
def multiplying (q : Nat) (sat : Bool) (m : Mat) : State :=
  let i := Instr.mma { product with scope := .set, xmod := 0, sat := sat }
  ((pair i (some 0x10000)).modThread 3 fun th => scal 20 q (mats m th)).modThread 4 (mats m)
-- CollectiveProducts: rows that match; an illegal quad and `.sat` with a float one; scales beyond the scratch; rows that differ;
-- a register that is too small; no lane
theorem test_mma_set_witness :
    let i := fun sat => Instr.mma { product with scope := .set, xmod := 0, sat := sat }
    let quad := fun (o : Ops) (c : SetCtx) => Quad.ofWords ((List.range 4).map fun j => c.leader.th.regs.scal (o.quad + j))
    (arriving (multiplying 0x3041 false (row .i8 [1, 2])) (i false) fun o _ c => let q := quad o c
      q.ok && decide (q.a = .i8 ∧ q.len = 0 ∧ c.actives o = [0, 1, 2, 3] ∧ c.size = 2 ∧ c.leader.blk.badRows = []) &&
      (c.actives o).all fun l => (c.member l).any fun p => decide (p.1.th.regs.matrix 2 p.2 = row .i8 [1, 2]) &&
        decide (p.1.th.width ≤ c.leader.la.obj.caps.getD 1 0 ∧ p.1.th.width ≤ c.leader.la.obj.caps.getD 2 0)) = true ∧
    (arriving (multiplying 0 false (row .i8 [1, 2])) (i false) fun o _ c => !(quad o c).ok) = true ∧
    (arriving (multiplying 0x218A2 true (row .f16 [0, 0])) (i true) fun o _ c => (quad o c).ok && decide ((quad o c).a ≠ .i8)) = true ∧
    (arriving ((multiplying 0x4821924 false (row .e4m3 [0, 0])).modThread 3 (scal 21 0x100000)) (i false) fun o _ c => let q := quad o c
      q.ok && decide (q.len ≠ 0) && decide (scratchSize c.leader.la.obj c.leader.blk < q.offA + c.count * Quad.perRow q 2)) = true ∧
    (arriving ((multiplying 0x3041 false (row .i8 [1, 2])).modThread 4 (mats ⟨1, 3, .i8, [1, 1, 1]⟩)) (i false) fun o _ c => (quad o c).ok &&
      (c.member 2).any fun p => decide ((p.1.th.regs.matrix 2 p.2).cols ≠ 2)) = true ∧
    (arriving ((multiplying 0x3041 false (row .i8 [1, 2])).modLaunch 1 fun la => { la with obj := { la.obj with caps := List.replicate 16 1 } })
      (i false) fun _ _ c => decide (c.leader.la.obj.caps.getD 1 0 < c.width)) = true ∧
    (issuing (ready (.mma product) (mask 0 0 ∘ scal 20 0x3041)) (.mma product) fun o e => decide (e.solo.actives o = [])) = true := by
  decide +kernel
-- R303: row 3, of lane 1 of the second warp, against row 0
theorem test_mma_set : let i := Instr.mma { product with scope := .set, xmod := 0 }
    afterFor4 ((multiplying 0x3041 false (row .i8 [1, 2])).modThread 4 (matrix 2 1 (row .i8 [3, 4]))) i (fun th =>
      decide (th.pend.map (·.vals) = [[(row .i32 [5, 5]).val 1 0, (row .i32 [5, 5]).val 2 0, (row .i32 [11, 11]).val 1 1,
        (row .i32 [11, 11]).val 2 1]])) = true := by decide +kernel
theorem test_mma_traps : ([(multiplying 0 false (row .i8 [1, 2]), 2),
      ((multiplying 0x3041 false (row .i8 [1, 2])).modThread 4 (mats ⟨1, 3, .i8, [1, 1, 1]⟩), 6)] : List (State × Nat)).all (fun x =>
    afterFor4 x.1 (.mma { product with scope := .set, xmod := 0 }) fun th => decide (th.trap.cause.toNat % 65536 = x.2 ∧ th.trap.mask = 3)) = true := by
  decide +kernel

/-- Every matrix register of the launch has room for one word. -/
def narrow (i : Instr) (f : Thread → Thread := id) : State :=
  (ready i f).modLaunch 1 fun la => { la with obj := { la.obj with caps := List.replicate 16 1 } }
/-- The cause of the trap that `i` takes. -/
def causeOf (s : State) (i : Instr) : Nat :=
  match exec i s with | .next t => ((t.thread 3).map fun th => th.trap.cause.toNat % 65536).getD 0 | _ => 0
/-- Per-lane forms whose operands must match their type. -/
def typedForms : List Instr :=
  [.mget { mat .f32 with dst := .v 4, b := .v 12 }, .mput { mat .f32 with a := .v 12, b := .v 8 }, .mtrn { mat .f32 with b := .none },
   .madd (mat .f32), .msub (mat .f32), .mscal { mat .f32 with b := .v 12 }, .mmul .nn (mat .f32),
   .mfma .nn { mat .f32 with len := 3, c := .m 4 },
   .mpack { Ops.blank with len := 3, ty := .e4m3, sty := .f32, dst := .m 1, a := .m 2 },
   .munpack { Ops.blank with len := 3, ty := .f32, sty := .e4m3, dst := .m 1, a := .m 2 }] ++ algebraForms
/-- Per-lane forms whose result must fit. -/
def sizedForms : List Instr :=
  [.mshape { mat .f32 with a := .v 8, b := .none }, .mzero { mat .f32 with a := .v 12, b := .v 12 }, .mid { mat .f32 with a := .v 12, b := .none },
   .mtrn { mat .f32 with b := .none }, .madd (mat .f32), .msub (mat .f32), .mscal { mat .f32 with b := .v 12 }, .mmul .nn (mat .f32),
   .mfma .nn { mat .f32 with len := 3, c := .m 4 }] ++ algebraForms

-- LaneTraps: operands of another type, and results that do not fit; a record whose checks pass; a singular lane under SINGULAR_TRAP
theorem test_shape_traps_witness : (typedForms.all fun i => issuing (ready i (mats (square .i8 [0, 0, 0, 0]))) i fun o e =>
      decide (e.th.activeLanes o ≠ []) && (e.th.activeLanes o).any fun l => decide ((e.mat (.m 2) l).ty ≠ o.ty ∧ (e.mat (.m 1) l).ty ≠ o.ty)) = true ∧
    (sizedForms.all fun i => issuing (narrow i (mats unit ∘ vec 8 [0x202, 0x202] ∘ vec 12 [2, 2])) i fun o e =>
      decide (e.th.activeLanes o ≠ [] ∧ e.la.obj.caps.getD (matNo o.dst) 0 * 32 < 2 * 2 * o.ty.bits)) = true ∧
    (let i := Instr.mld { rec .e2m1 with dst := .m 1, imm := 0x80000042 }
     issuing (ready i (scal 17 0 ∘ record 0x80 0)) i fun o e => decide ((e.loadShape o 0).2 % 2 = 1 ∧
       (e.recAt (8 * o.brec)).check false (decide ((e.recAt (8 * o.brec)).esz = elemBytes o.ty)) = none)) = true ∧
    (let i := Instr.mst { rec .f32 with dst := .m 1 }
     issuing (ready i (mats (square .i8 [0, 0, 0, 0]) ∘ record 0x80 0)) i fun o e => decide ((e.mat o.dst 0).ty ≠ o.ty ∧
       (e.recAt (8 * o.brec)).check true (decide ((e.recAt (8 * o.brec)).esz = elemBytes o.ty)) = none)) = true ∧
    (let i := Instr.minv { mat .f32 with len := 3, b := .none, c := .k 4 }
     issuing (ready i (fpmode 0x200 ∘ mats (square .f32 [0, 0, 0, 0]))) i fun o e => e.fp.singular &&
       decide ((matInverse e.fp.inner o.ty o.rnd 2 (e.srcEls o.a 0) (e.calc 0)).1 = none)) = true := by decide +kernel
theorem test_shape_traps : (typedForms.all fun i => decide (causeOf (ready i (mats (square .i8 [0, 0, 0, 0]))) i = 6)) = true ∧
    (sizedForms.all fun i => decide (causeOf (narrow i (mats unit ∘ vec 8 [0x202, 0x202] ∘ vec 12 [2, 2])) i = 7)) = true ∧
    (let i := Instr.minv { mat .f32 with len := 3, b := .none, c := .k 4 }
     causeOf (ready i (fpmode 0x200 ∘ mats (square .f32 [0, 0, 0, 0]))) i = 8) := by decide +kernel
/-- Core 0 holds the line at `pa` whole and clean, byte `k` of it being `k`. -/
def holding (pa : Nat) (s : State) : State := s.modCore 0 fun c =>
  { c with l1 := { pa := pa, va := 0, filled := (List.range 64).map fun k => (k, BitVec.ofNat 8 k), dirty := [], hint := 0, epoch := 0 } :: c.l1 }
/-- The L2 of the home die holds the lines of the data of `record`. -/
def inL2 (s : State) : State := s.modDie 3 fun d => { d with l2 := [(placePage / 256, 0)] }
/-- A load or a store of elements 0 and 15 of `record 0x84`, in two lines. -/
def twoLines (i : Instr) : State := ready i (record 0x84 0 ∘ vec 8 [0, 15] ∘ vec 4 [0x11223344, 9])
/-- The lines that an access of `twoLines` reaches, in the state with the TLBs as it finds them. -/
def linesIn (s : State) (p : State → List (Nat × Nat) → Bool) : Bool :=
  match s.reachLines 0 .r 0 [0x10080, 0x100C0] with | (some (lines, []), s1) => decide (lines.length = 2) && p s1 lines | _ => false
/-- A line that stands at home only, whatever bytes the cores have stored elsewhere. -/
def homeOnly (s : State) (pa : Nat) : Bool :=
  !isRemote pa && decide ((s.core 0).line pa = none ∧ (s.core 0).stagedLine pa = none) &&
    s.cores.all fun c => decide (c.2.staged = []) && c.2.l1.all fun l => decide (l.dirty = [])

-- GlobalLoads, GlobalStores: both lines in the L1; one in the L1 and one at home with room for it; both at home only
theorem test_lines_witness : ([(.ld (rec .b32), false), (.st (rec .b32), true)] : List (Instr × Bool)).all (fun x =>
    let held := holding (placePage + 0x80) (holding (placePage + 0xC0) (twoLines x.1))
    let mixed := inL2 (holding (placePage + 0x80) (twoLines x.1))
    ([held, mixed, twoLines x.1].all fun s => x.1.wf && Memory.wf s.mem && decide (0 < s.ways 0 ∧ s.links = []) &&
      reaching s x.1 x.2 4 (fun o e => e.elems o fun _ => [0, 0, 0, 0]) fun a => decide (a.map (·.va) = [some 0x10084, some 0x100C0])) &&
    linesIn held (fun s1 ls => ls.all fun l => s1.loadHit 0 l.2 64) &&
    linesIn mixed (fun s1 ls => ls.all fun l => s1.loadHit 0 l.2 64 || homeOnly s1 l.2 && s1.cores.all (fun c => decide (c.2.l1.length ≤ 1)) &&
      ((s1.die (homeDie l.2)).l2.any fun p => decide (p.1 = l.2 / 256))) &&
    linesIn (twoLines x.1) (fun s1 ls => ls.all fun l => homeOnly s1 l.2)) = true := by decide +kernel
-- R154: a load reads what the L1 holds, and, on a miss, memory; R154, R168: a store that misses is read back, the rest as before
theorem test_held_load : after (inL2 (holding (placePage + 0x80) (twoLines (.ld (rec .b32))))) (.ld (rec .b32)) (fun _ th =>
    decide (pending 4 2 th = [0x07060504, 0])) = true := by decide +kernel
theorem test_store_miss : (match exec (.st (rec .b32)) ((twoLines (.st (rec .b32))).setHomes [(placePage + 0x88, 6)]) with
    | .next t => decide ((List.range 6).map (fun k => t.seenByte 0 (placePage + 0x83 + k)) = [0, 0x44, 0x33, 0x22, 0x11, 6] ∧
        t.homeByte (placePage + 0x84) = 0)
    | _ => false) = true := by decide +kernel
-- R235: an access made once for the warp, with no lane that passes
theorem test_not_made_witness : ([.ld { rec .b32 with dst := .s 4, a := .s 8 }, .st { rec .b32 with dst := .s 4, a := .s 8 }] : List Instr).all (fun i =>
    i.wf && issuing (ready i (mask 0 0 ∘ record 0 0x8000000)) i fun o e => allScalar o && decide (e.th.active o = 0)) = true := by
  decide +kernel
-- AccessTraps: only the upper half of 16 bytes lies past 2^52
theorem test_upper_half_witness : ([.ld { rec .b128 with dst := .v 4 }, .st { rec .b128 with dst := .v 4 }] : List Instr).all (fun i => i.wf &&
    issuing (ready i (scal 18 16 ∘ scal 17 0x3FFFFF ∘ scal 16 0xFFFFFFF8 ∘ record 0 0)) i fun o e => let r := e.recAt (8 * o.brec)
      decide (r.check (decide (i = .st o)) true = none ∧ r.base + 8 = 2 ^ 52 ∧ r.base % 8 = 0) && (e.actLanes o).all fun l => decide (e.word o.a l = 0)) = true := by
  decide +kernel
theorem test_upper_half : causeOf (ready (.ld { rec .b128 with dst := .v 4 }) (scal 18 16 ∘ scal 17 0x3FFFFF ∘ scal 16 0xFFFFFFF8 ∘ record 0 0))
    (.ld { rec .b128 with dst := .v 4 }) = 0x14 := by decide +kernel

-- ScratchAccesses: 16 bytes that cross a chunk in swizzle mode 1, R446's place for the upper half, and a poisoned row
theorem test_scratch_halves_witness : ([.lds { two .b128 with dst := .v 4, a := .s 8, b := .imm 0, xmod := 1 }, .sts { two .b128 with dst := .v 4, a := .s 8, b := .imm 0, xmod := 1 }] :
      List Instr).all (fun i => i.wf && issuing (ready i (scal 8 0x198)) i fun o e => decide (e.blk.badRows = []) && (e.actLanes o).all fun l =>
    let a := e.word o.a l + e.word o.b l
    decide (a % 8 = 0 ∧ (swizzle a 1, swizzle (a + 8) 1) = (0x1A8, 0x190) ∧ 0x1B0 ≤ scratchSize e.la.obj e.blk)) = true := by decide +kernel
theorem test_sts_halves : (match exec (.sts { two .b128 with dst := .v 4, a := .s 8, b := .imm 0, xmod := 1 })
      (ready (.sts { two .b128 with dst := .v 4, a := .s 8, b := .imm 0, xmod := 1 }) (scal 8 0x198 ∘ vec 4 [0, 1] ∘ vec 6 [0, 2] ∘ mask 0 2)) with
    | .next t => (t.block 2).any fun b => decide ((NMap.get 0 b.scratch 0x1A8, NMap.get 0 b.scratch 0x190) = (1, 2))
    | _ => false) = true := by decide +kernel

-- AtomicsIssue: every lane out of bounds under BOUNDS 0, and made once with no lane that passes
theorem test_no_address_witness : atomicForms.all (fun i => let s := ready i (record 0x80 0 ∘ vec 8 [16, 16])
    issuing s i (fun o e => decide (e.th.log = [] ∧ e.th.pair = none ∧ s.canRelease e (.ofCode (o.extra / 8 % 4)) = true ∧ s.performed e = true) &&
      match s.locateAll (e.recAt (8 * o.brec)) true true (widthOf o.ty)
        ((e.actLanes o).map fun l => { lane := l, elem := 0, x := e.word o.a l, y := none }) (allScalar o) (e.th.active o) with
      | .ok accs => decide (linesOf accs = [] ∧ accs.length = 2)
      | _ => false)) = true ∧
    (let i := Instr.atomAdd { rec .n32 with dst := .s 4, a := .s 8, b := .s 12, xmod := 1, extra := 0x70 }
     i.wf && issuing (ready i (mask 0 0)) i fun o e => allScalar o && decide (e.th.active o = 0)) = true := by decide +kernel
-- R320: zero comes back
theorem test_no_address : after (ready (.atomAdd { rec .n32 with b := .v 12, xmod := 1 }) (record 0x80 0 ∘ vec 8 [16, 16] ∘ vec 4 [5, 6]))
    (.atomAdd { rec .n32 with b := .v 12, xmod := 1 }) (fun t th => decide (pending 4 2 th = [0, 0] ∧ t.reqs = [])) = true := by decide +kernel

/-- An acquiring request behind an earlier one of its thread. -/
def behind : State :=
  let s := requested .add
  { s with reqs := [{ request .or with op := 8, lanes := [{ lane := 1, va := 0x1040, pa := some 0x1040, arg := 1, arg2 := 0 }] },
                    { request .add with acq := some .package }] }
-- AtomicAtHome: the last lane of a request that has to wait, and of one that does not
theorem test_atomic_waits_witness : (let s := behind
    (s.reqs.find? (fun q => q.op = 9)).any fun r => decide (r.acq.isSome = true ∧ (s.reqs.takeWhile (fun q => q.op ≠ r.op)).map (·.tid) = [3] ∧
      (s.atomReady r).map (·.2) = [0x1000])) = true := by decide +kernel
theorem test_atomic_waits : (match exec (.atomicAtHomeSlice 9 2) behind with
    | .next t => decide (t.homeByte 0x1000 = 12 ∧ t.reqs.map (fun q => (q.op, q.lanes.length)) = [(8, 1), (9, 0)] ∧ (t.die 0).mismatch = 2)
    | _ => false) = true := by decide +kernel
-- PhasesAndCacheControl: `pf1` of a line that hits and one at home with room, `pf2` and `inv`
theorem test_cache_control_witness : (let i := Instr.cachectlPf1 { Ops.blank with ty := .b32, a := .s 16, b := .v 8 }
    let s := inL2 (holding (placePage + 0x80) (twoLines i))
    i.wf && issuing s i (fun o e => decide (e.controlLines o = [0x10080, 0x100C0])) && linesIn s (fun s1 ls => !s1.linesWait 0 ls && ls.all fun l =>
      decide (l.2 % 64 = 0) && !s1.poisoned l.2 && (s1.loadHit 0 l.2 64 || homeOnly s1 l.2))) = true := by decide +kernel
theorem test_cache_control : (let run : Instr → List (Nat × Nat) × List Nat := fun i => match exec i (holding (placePage + 0x80) (twoLines i)) with
      | .next t => ((t.core 0).l1.map (fun l => (l.pa - placePage, l.filled.length)), (t.die 3).l2.map (fun p => p.1 - placePage / 256))
      | _ => ([], [])
    let o := fun x => { Ops.blank with ty := .b32, a := .s 16, b := .v 8, xmod := x }
    decide (((run (.cachectlPf1 (o 0))).1.map (·.2)) = [64, 64]) && decide ((run (.cachectlPf2 (o 1))).2 = [0]) &&
      decide ((run (.cachectlInv (o 2))).1 = [])) = true := by decide +kernel
-- BankConversions: with status 0 a cache bank becomes a scratch bank
theorem test_bank_switch : (match exec (.bankSwitch 2) (switching 0) with
    | .next t => (t.block 2).any fun b => decide (b.windows = 9 ∧ b.cacheCount = 11 ∧ b.switch = none)
    | _ => false) = true := by decide +kernel
-- BulkCommands: addresses below 2^52 and lines of this package; a completion that also stores to memory; a failure, raised once
theorem test_copy_lines_witness : copies.all (fun x => let s := ready x.1 copyRegs
    issuing s x.1 (fun _ e => let moves := lastMoves (x.2 e).moves
      decide (s.cmds = []) && moves.all (fun m => (m.src.line.all fun l => decide (l + 64 < 2 ^ 52)) && m.dst.line.all fun l => decide (l + 64 < 2 ^ 52)) &&
      match s.reachLines e.blk.core .r 0 ((moves.filterMap fun m => m.src.line).eraseDups) with
      | (some (ok, []), _) => ok.all fun p => !isRemote p.2
      | _ => false)) = true := by decide +kernel
/-- A copy of scratch byte 0x80 to 0x10085, and of 0x10080 to scratch 0x40. -/
def crossing : State :=
  { commanded with cmds := [{ command with
      moves := [{ dst := .scratch 0x40, src := .global 0x10080, old := some 6 }, { dst := .global 0x10085, src := .scratch 0x80, old := some 0 }],
      lines := [0x80] }] }
theorem test_crossing_witness : crossing.cmds.all (fun c => let s := crossing
    crossing.bulkReady c && (c.moves.all fun m => decide (s.bulkBad c m = none)) && c.moves.all (fun m => c.moves.all fun x => decide (m.src ≠ x.dst)) &&
    decide (c.moves.Pairwise (fun m x => m.dst ≠ x.dst) ∧ (0x40 / 64 ∈ c.rows) ∧ (∀ p ∈ c.map, p.1 % 64 = 0 ∧ p.2 % 64 = 0) ∧
      ((lineAt c.map 0x10085).map (· + 0x10085 % 64)) = some 0x2005 ∧ 0x2005 / 64 ∈ c.lines)) = true := by decide +kernel
theorem test_crossing : (match exec (.bulkCommandCompletion 9) crossing with
    | .next t => decide (t.homeByte 0x2005 = 0 ∧ t.homeByte 0x2000 = 6) && (t.block 2).any fun b => decide (NMap.get 0 b.scratch 0x40 = 6)
    | _ => false) = true := by decide +kernel
/-- The thread's flag 1 has left a failure behind. -/
def failedFlag (th : Thread) : Thread :=
  { th with faults := [{ flag := 1, cause := 0x14, detail := 2, word2 := 5, word3 := 0, region := 0, sealing := none }] }
theorem test_flag_fault_witness : ([.bwait { warp with a := .f 1 }, .bjoin { warp with a := .f 1 }] : List Instr).all (fun i =>
    issuing (ready i failedFlag) i (fun _ e => !e.th.busy 1 && (e.th.faults.find? (fun x => x.flag = 1)).isSome) &&
    after (ready i failedFlag) i fun _ th => decide (th.trap.cause.toNat % 65536 = 0x14)) = true := by decide +kernel

-- RingsPoolAndResidency: an access outstanding, and a poisoned slot
theorem test_ring_waits_witness : (let i := Instr.rpush { warp with ty := .b32, a := .s 8, b := .v 12 }
     let s := { piped i 1 [] with reqs := [request .add] }
     piping s i (fun _ e x => (x.ring 0).any fun r => decide (0 < r.slots) && !s.canRelease e .package)) = true ∧
    (let i := Instr.rpop { warp with ty := .b32, dst := .v 4, a := .s 8 }
     let s := { piped i 1 [] with reqs := [request .add] }
     let x := context 1 []
     let bad := { piped i 1 [] with ctxs := [(0, { x with rings := x.rings.map ({ · with bad := [0] }) })] }
     piping s i (fun _ e _ => !s.performed e) &&
     piping bad i (fun _ e x => (x.ring 0).any fun r => decide (r.tail ≠ r.head ∧ r.consumer = e.blk.id) && r.frontBad && bad.performed e) &&
     decide (causeOf bad i = 0x18)) = true := by decide +kernel

-- LaunchesComeAndGo: an aborted launch, and one with failed blocks
theorem test_ended_5_witness : ([fun la => { la with aborting := some 6, waiting := [1] }, fun la => { la with failed := true }] :
      List (Launch → Launch)).all (fun f => let s := idle.modLaunch 1 f
    NMap.sorted s.launches && (s.launch 1).any (fun la => decide (s.residentOf 1 = []) && (decide (la.aborting = some 6) ||
      decide (la.aborting = none ∧ la.ending = none ∧ la.failed = true ∧ la.saved = [] ∧ la.waiting = []))) &&
    (match s.writableVirt 0x1C000 8 with | .ok _ => true | _ => false) &&
    match exec (.launchCompletion 1) s with | .next t => decide (t.ended = [(9, 5)] ∧ t.launches = []) | _ => false) = true := by
  decide +kernel

-- BlocksComeAndGo: no tile waits, no bank waits, and the block still has to be placed
theorem test_placing_witness : (let s := unplaced
    (s.launch 1).any fun la => !s.tilesWait la 0 && decide (0 ∈ la.waiting ∧ la.saved = []) &&
      (List.range 400).all fun c => !s.banksWait (Block.fresh 1 0 la.obj) c) = true := by decide +kernel
-- HandlerReturns, TrapsAreTaken: nothing restarts
theorem test_no_restart : (ready (.nop Ops.blank)).threads.all (fun p => !p.2.restarts) = true := by decide +kernel

-- QuarantineAndTiers: CRC errors of GDDR-7; a line that is lost; a split that makes the L2 smaller than what it holds
/-- Die 0 moves line 7 of frame 6 to slot 9. -/
def moving : State := (tiered 6).modDie 0 fun d => { d with migs := [{ frame := 6, slot := some 9, moved := 7, ctx := none }] }
theorem test_crc_move : (match exec (.migrationLineMove 0 (.crc 4)) moving with
    | .next t => decide ((t.die 0).ceMem = 4 ∧ (t.die 0).migs.map (·.moved) = [8] ∧ t.poison = [])
    | _ => false) = true := by decide +kernel
theorem test_moving_witness : (let s := moving
    decide ((s.die 0).migs.map (fun m => (m.moved, m.ctx)) = [(7, none)]) && (s.die 0).slots.all fun p => decide (p.2 ≠ 6)) = true := by
  decide +kernel

-- HostAccesses: at the end of the window
theorem test_bar2_edge : (match exec (.hostBar2Read (2 ^ 36 - 2) 4) State.reset with
    | .next t => decide (t.host.readData = [0xFF, 0xFF, 0xFF, 0xFF] ∧ (t.die 0).lost = 1)
    | _ => false) = true := by decide +kernel
-- ClockStepsAndScrub: R466's CRC retries, an L1 line without a store that is not committed, and a context that is not forced
theorem test_crc_scrub : ([4, 5] : List Nat).map (fun n => match exec (.scrubLine false (.home 0x1234) (.crc n)) State.reset with
      | .next t => ((t.die 0).ceMem, t.poisoned 0x1234)
      | _ => (9, false)) = [(4, false), (4, true)] := by decide +kernel
theorem test_l1_clean_witness : (!marred.holdsPending 0 ((List.range 8).map (0x1008 / 8 * 8 + ·)) && decide (((marred.core 0).line 0x1008).isSome = true)) = true := by
  decide +kernel
theorem test_not_forced : ([fun x => { x with waited := x.forceAfter - 1 }, fun x => { x with free := [0] }] : List (PipeCtx → PipeCtx)).all (fun f =>
    let s := { waited with ctxs := waited.ctxs.map fun p => (p.1, f p.2) }
    match exec (.forcedShortBatch 2) s with | .next t => decide (t = s) | _ => false) = true := by decide +kernel

-- SilentErrorsAndCommits: copies that both wait at an `exit`, and copies whose oldest regions differ, for the third time in a row
/-- Both copies wait at the `exit` that closes their only region. -/
def exiting : State :=
  let s := copies2 false .ready
  { s with threads := s.threads.map fun p => (p.1, { p.2 with pair := p.2.pair.map ({ · with exit := some 0x10000 }) }) }
theorem test_exit_commit_witness : (let s := exiting
    (s.copiesIn 2 0).any fun c => decide (s.verdict c = .commit ∧ c.p.exit.isSome = true ∧ c.p.checks.length ≤ 1)) = true := by decide +kernel
theorem test_exit_commit : (match exec (.regionCommit 2 0) exiting with
    | .next t => (t.thread 3).any (·.ended) && (t.thread 5).any (·.ended) && decide (t.homeByte 0x43 = 9)
    | _ => false) = true := by decide +kernel
theorem test_roll_witness : (let s := copies2 true .ready 8
    (s.copiesIn 2 0).any fun c => decide (s.verdict c = .roll ∧ c.p.leading = true ∧ c.p.peer = c.trail.tid ∧ c.lead.th.isWarp = true ∧
      c.trail.th.isWarp = true ∧ c.p.rollbacks = 2) && c.p.checks.head?.isSome && c.q.checks.head?.isSome) = true := by decide +kernel
theorem test_roll : (match exec (.regionCommit 2 0) (copies2 true .ready 8) with
    | .next t => (t.launch 1).any (fun la => la.aborting.isSome) && (t.thread 3).any fun th => decide (th.pc = 0x10000) && th.pair.any fun p =>
        decide (p.entries = [] ∧ p.checks.length = 1 ∧ p.rollbacks = 3)
    | _ => false) = true := by decide +kernel

-- StartsAndCommands: a write of MB_CMD
theorem test_mb_cmd : (match exec (.registerWrite 0x100000 2) (posted 32 true) with | .next t => t.mailbox.overrun | _ => false) = true ∧
    (match exec (.registerWrite 0x100000 1) (posted 4 false), exec .readStartLog (posted 4 false) with
      | .next t, .next u => decide (t = u) | _, _ => false) = true ∧
    (match exec (.registerWrite 0x100000 9) (posted 4 false) with
      | .next t => decide (t.mailbox.cmd = 9 ∧ t.mailbox.busy = true ∧ t.mailbox.out = (1, 0, [])) | _ => false) = true := by decide +kernel

-- RecordsAndLinks: R488's read; R375: a peer's atomic inside the link's window, at its last bytes, and one that leaves it
theorem test_bad_tlp : (match exec (.pcieBadTlp false (some 0x40)) State.reset with
    | .next t => decide (t.host.readUr = true ∧ t.host.readData = [])
    | _ => false) = true := by decide +kernel
theorem test_peer_atomic : (let add := fun pa => match exec (.nertuInboundRequest 7 pa 4 (.atomic .add .n32 false 0 5 0)) ((linked 5 28).setHomes [(0x3FFFC, 4)]) with
      | .next t => (t.homeByte 0x3FFFC, (t.die 3).lost)
      | _ => (0, 9)
    decide (add 0x3FFFC = (9, 0) ∧ add 0x40000 = (4, 1))) = true := by decide +kernel
theorem test_peer_settled : (linked 5 28).settled ∧ (linked 5 28).owned 0x3FFFC = false ∧ (linked 5 28).poisoned 0x3FFFC = false :=
  ⟨settled_of (by decide +kernel) (by decide +kernel) (by decide +kernel) (by decide +kernel), by decide +kernel⟩

/-! ### Clauses on exact values, waits and deferrals -/

-- SignsAndComparisons, R257, R127: 1 < 2, +0 = −0, a NaN, a subnormal under DAZ, a signalling NaN
theorem test_fcmp_values : let env := FpEnv.ofWord 0
    let cmp := fun q a b => fpCompare env .f32 q a b
    [cmp .lt 0x3F800000 0x40000000, cmp .eq 0 0x80000000, cmp .ueq 0x7FC00000 0, cmp .lt 0x7FC00000 0, cmp .eq 0x7F800001 0,
      fpCompare (FpEnv.ofWord 8) .f32 .eq 1 0, cmp .eq 1 0] =
    [(true, 0), (true, 0), (true, 0), (false, 1), (false, 1), (true, 0), (false, 0)] := by decide +kernel

-- MatrixArithmetic: what the clause on exact sums assumes, and that product: [1 2; 3 4] squared in `.f32`
theorem test_exact_product : let i := Instr.mmul .nn (mat .f32)
    let m := square .f32 [0x3F800000, 0x40000000, 0x40400000, 0x40800000]
    issuing (ready i (mats m)) i (fun o e => decide (o.rnd ≤ 5 ∧ e.fp.ftz = false) && (e.th.activeLanes o).all fun l =>
      decide ((e.mat o.a l).ty = .f32 ∧ (e.mat o.b l).rows = 2) && pairingOk o.ty .f32 .f32) = true ∧
    after (ready i (mats m)) i (fun _ th =>
      let p := square .f32 [0x40E00000, 0x41200000, 0x41700000, 0x41B00000]
      decide (th.pend.map (·.vals) = [[p.val 1 0, p.val 1 1]])) = true := by decide +kernel

-- BlockFormats, R302's example: its row, the scale 0x68, the elements and what comes back
theorem test_block_example : let env := FpEnv.ofWord 0
    let m : Mat := ⟨1, 8, .f32, [0x3E99999A, 0xC039999A, 0x40A00000, 0, 0x3F800000, 0x40F00000, 0xBDCCCCCD, 0x400CCCCD]⟩
    let els := m.els.map fun x => (packEl env .e2m1 .f32 8 0 0 x 0x68).bits
    m.scales env .e2m1 8 = [0x68] ∧ m.scales env .e2m1 32 = [0x80] ∧ els = [0x0, 0xC, 0x6, 0x0, 0x2, 0x7, 0x8, 0x4] ∧
    els.map (fun x => (unpackEl env .f32 .e2m1 8 0 0 x 0x68).bits) =
      [0, 0xC0200000, 0x40A00000, 0, 0x3FA00000, 0x40F00000, 0x80000000, 0x40200000] := by decide +kernel

-- CollectiveProducts: `.f16` rows [1 2] with a band scale of 1; every sum is exact
theorem test_float_mma : let i := Instr.mma { product with xmod := 0 }
    let s := ready i (fun th => scal 20 0x218A2 (scal 23 0x3F803F80 (mats (row .f16 [0x3C00, 0x4000]) th)))
    issuing s i (fun o e => let q := Quad.ofWords ((List.range 4).map fun j => e.th.regs.scal (o.quad + j))
      q.ok && decide (q.a = .f16 ∧ q.len = 0 ∧ q.bandA = 0x3F80 ∧ q.bandB = 0x3F80 ∧ e.fp.ftz = false)) = true ∧
    after s i (fun _ th => decide (th.pend.map (·.vals) =
      [[(row .f32 [0x40A00000, 0x40A00000]).val 1 0, (row .f32 [0x40A00000, 0x40A00000]).val 1 1]])) = true := by decide +kernel

-- BlocksComeAndGo, R87: a tile's page whose table a command owns; a core whose banks cannot be taken
theorem test_tile_waits : let s := { unplaced (fun la => { la with recd := { la.recd with producer := 4, tileData := 0x10000 } }) with
      cmds := [{ command with lines := [placeRoot / 64] }] }
    (s.launch 1).any (fun la => decide (la.saved = [] ∧ la.recd.tiles 0 = [0]) &&
      decide (s.walk 0x10000 = .wait ∧ 0x10000 ∈ pagesIn (la.recd.tileRange 0).1 (la.recd.tileRange 0).2)) = true ∧
    (match exec (.blockPlacement 1 0) s with | .next t => decide (t = s) | _ => false) = true := by decide +kernel
-- R88: the last resident block ends after its producer was aborted; another is left
theorem test_abandoned_launch : let s := { finished.modLaunch 1 (fun la =>
      { la with recd := { la.recd with producer := 4, blocks := 2 }, waiting := [1] }) with ended := [(4, 5)] }
    (s.launch 1).any (fun la => decide (s.producer la = .aborted ∧ la.ending = none ∧ la.aborting = none ∧ la.done < la.recd.blocks)) &&
    s.endReady 2 && (match exec (.blockEnd 2) s with
      | .next t => (t.launch 1).any fun la => decide (la.ending = some (3, 0) ∧ la.waiting = [])
      | _ => false) = true := by decide +kernel

-- BurstsAndSprouts, R441: the second address of a burst is above the virtual addresses
theorem test_far_burst : let b := fun (b : Burst) => { b with bytes := [some 0x10080, some (2 ^ 52 + 0x10081), none] }
    let s := { reading .unread with breads := [(6, { readout .unread with bursts := (readout .unread).bursts.map b })] }
    (s.bread 6).any (fun br => (br.bursts[0]?).any fun x => decide (x.bytes.filterMap (fun y => y) = [0x10080] ++ (2 ^ 52 + 0x10081) :: []) &&
      decide (x.state = .unread ∧ x.waits = []) && (s.envOf br.tid).isSome) = true ∧
    (match exec (.burstArrival 6 0) s with
      | .next t => (t.thread 3).any fun th => decide (th.faults.map (fun f => (f.flag, f.cause, f.word3)) = [(1, 0x0D, 0x14)])
      | _ => false) = true := by decide +kernel

-- RecordsAndLinks, R179: a command owns the place of a record; it is written when the command is over
theorem test_record_waits : let s := { logged 1 with cmds := [{ command with lines := [0x2020 / 64] }] }
    decide (s.cmds.any fun c => !c.dry && c.lines.contains (0x2020 / 64)) = true ∧
    (let t := s.ringRecord 1 { code := 0x18, source := 4 }
     decide (t.recs.length = 1 ∧ t.mem = [] ∧ (t.die 1).elogHead = 1) &&
      (let u := { t with cmds := [] }.flushRecs
       decide (u.recs = [] ∧ (u.die 1).elogHead = 2))) = true := by decide +kernel

-- LaunchesComeAndGo: a record that cannot be read, since it is not mapped and since it is poisoned
theorem test_refused_record : let s := { queued [] with xlat := { Xlat.init with ptRoot := 0x10000 } }
    let p := { queued [] with poison := [(0x14000 / 64, 4)] }
    s.refusedAt 0x14000 = none ∧ p.refusedAt 0x14000 = some 0x14000 ∧
    (match p.readVirt 0x14000 128 with | .error (some bad) => decide (bad = 0x14000) | _ => false) = true := by decide +kernel

/-! ### Clauses on tininess, seeds, translation and moves -/

-- CorrectRounding, R128's example: the three rows of its table that differ, and R122's step and seeds by hand
theorem test_tininess : ([0x00, 0x10, 0x20, 0x30] : List Nat).map (fun w =>
      roundFp (.ofWord w) .f32 0 0 false false { m := 2 ^ 25 - 1, e := -151 }) =
    [⟨0x800000, 16⟩, ⟨0x800000, 16⟩, ⟨0x800000, 24⟩, ⟨0, 24⟩] := by decide +kernel
theorem test_generators : ((ready (.nop Ops.blank)).thread 3).any (fun th => let r := th.regs.seedAll 2 0x9E3779B9
    decide ((r.genOf 0, r.genOf 1) = (0x6D2B79F5, 0x9E3779B9 ^^^ 0x3C6EF372) ∧ (stepGens (th.regs.setGen 0 1) [0]).genOf 0 = 0x42021 ∧
      ([0] : List Nat).Nodup)) = true := by decide +kernel

/-- A sprout of bread 6 in place of the warp of `ready`. -/
def asSprout (th : Thread) : Thread := { th with role := .sprout 6 0, burst := { th.burst with bytes := 5 } }
-- SpecialReads: the burst registers of a sprout, and no rank in a set
theorem test_sprout_reads : ([(0x23, 5), (0x08, 0xFFFFFFFF), (0x02, 0)] : List (Nat × Nat)).all (fun x =>
    let i := Instr.sread { Ops.blank with dst := .s 4, a := .sp x.1 }
    issuing (ready i asSprout) i (fun o e => !e.th.isWarp && decide (e.th.active o ≠ 0)) &&
    after (ready i asSprout) i (fun _ th => decide ((th.regs.scal 4).toNat = x.2))) = true := by decide +kernel
theorem test_sprout_warp_id_witness : (let i := Instr.sread { Ops.blank with dst := .s 4, a := .sp 1 }
    issuing (ready i asSprout) i (fun o e => !e.th.isWarp && decide (e.th.active o ≠ 0))) = true := by decide +kernel

/-- A load or a store of elements 0 and 15 through `record 0xFFC4`: the second lies in a page that is not mapped. -/
def unmapped (i : Instr) : State := ready i (record 0xFFC4 0 ∘ vec 8 [0, 15])
/-- The page of `ready` may not be written. -/
def readOnly (s : State) : State := s.setHomes [(placeRoot + 0xD008, 0x17)]
/-- The cause, DETAIL and mask of the trap that `i` takes. -/
def trapOf3 (s : State) (i : Instr) : Nat × Nat × Nat :=
  match exec i s with
  | .next t => ((t.thread 3).map fun th => (th.trap.cause.toNat % 65536, th.trap.cause.toNat / 65536 % 1024, th.trap.mask.toNat)).getD (0, 0, 0)
  | _ => (0, 0, 0)
-- AccessTraps: lanes that step 4 stops
theorem test_translation_witness : ([.ld (rec .b32), .st (rec .b32)] : List Instr).all (fun i => let s := unmapped i
    issuing s i fun o e => decide (e.th.logged.length < 8 ∧ s.xlat.route = false) &&
      match s.locateAll (e.recAt (8 * o.brec)) (decide (i = .st o)) true 4 (e.elems o fun l => if i = .st o then
          bytesOf 4 (e.th.regs.raw 0 o.ty l o.dst) else []) (allScalar o) (e.th.active o) with
      | .ok accs => match s.reachLines e.blk.core (if i = .st o then .w else .r) 0 (linesOf accs) with
        | (some ([_], [(l, f)]), _) => decide (l = 0x20000 ∧ f.cause = 0x14) && accs.any fun a => decide (a.lane = 1) && a.parts.any fun p => decide (lineOf p.1 = l)
        | _ => false
      | _ => false) = true := by decide +kernel
-- R442, R161: V = 0; a page without W; a malformed entry
theorem test_translation_traps : [trapOf3 (unmapped (.ld (rec .b32))) (.ld (rec .b32)),
      trapOf3 (readOnly (twoLines (.st (rec .b32)))) (.st (rec .b32)), trapOf3 (readOnly (twoLines (.ld (rec .b32)))) (.ld (rec .b32)),
      trapOf3 ((twoLines (.ld (rec .b32))).setHomes [(placeRoot + 0xD008, 0x3F)]) (.ld (rec .b32))] =
    [(0x14, 2, 2), (0x15, 2, 3), (0, 0, 0), (0x14, 3, 3)] := by decide +kernel
theorem test_root_witness : isLocal (twoLines (.ld (rec .b32))).xlat.ptRoot = true ∧ isLocal (2 ^ 45) = false := by decide +kernel
-- R442: both coordinates out of range; an extent that is zero
theorem test_bounds_detail : let i := Instr.ld { rec .b32 with b := .v 12, xmod := 1 }
    [trapOf3 (ready i (record 0 0x2000000 ∘ vec 8 [16, 0] ∘ vec 12 [0, 1])) i,
      trapOf3 (ready i (scal 22 0 ∘ record 0 0x2000000)) i] = [(0x10, 3, 3), (0x10, 4, 3)] ∧
    issuing (ready i (scal 22 0 ∘ record 0 0x2000000)) i (fun o e => decide ((e.recAt (8 * o.brec)).n2 = 0)) = true := by decide +kernel
-- ScratchAccesses: a window that `bankcfg` has removed, and past the code object's scratch
theorem test_scratch_detail : let i := Instr.lds { two .b32 with a := .s 8 }
    let s := fun a => (ready i (scal 8 a)).modBlock 2 fun b => { b with windows := 0, maxWindows := 1 }
    [trapOf3 (s 0x100) i, trapOf3 (s 0x10000) i] = [(0x13, 2, 3), (0x13, 1, 3)] := by decide +kernel

-- BulkCommands, R335: `bwait` of a flag whose command wrote the line; the core has also stored in it
theorem test_bwait_discards : let i := Instr.bwait { warp with a := .f 1 }
    let s := (holding 0x2000 (ready i fun th => { th with dests := [⟨1, 0x2000, 0, none⟩, ⟨1, 0x3000, 0, none⟩] })).modCore 0 fun c =>
      { c with l1 := { pa := 0x3000, va := 0, filled := [(1, 2)], dirty := [(3, 7)], hint := 0, epoch := 0 } :: c.l1 }
    issuing s i (fun _ e => !e.th.busy 1 && decide (e.th.faults = []) && e.th.dests.any fun d => decide (d.flag = 1 ∧ lineOf d.line = 0x3000)) = true ∧
    after s i (fun t th => decide ((t.core 0).l1.map (fun l => (l.pa, l.filled, l.dirty.length)) = [(0x3000, [], 1)] ∧ th.dests = [])) = true := by
  decide +kernel

/-- As `piped`, with an expert of two frames, from 4 on, in no slot. -/
def absent (f : PipeCtx → PipeCtx := id) : State :=
  let s := piped (.xres { warp with dst := .s 4, a := .s 8 }) 0 []
  { s with ctxs := [(0, f { context 0 [] with experts := [(4, 2)], xframes := 2, holds := [] })] }
-- RingsPoolAndResidency: a slot is empty; no slot is free; the expert is on its way; the move is over
theorem test_xres_witness : ([id, fun x => { x with moving := [(0, 3, 1)] }, fun x => { x with moving := [(0, 0, 2)] }] : List (PipeCtx → PipeCtx)).all (fun f =>
    piping (absent f) (.xres { warp with dst := .s 4, a := .s 8 }) fun _ e x => decide ((e.th.regs.scal 8).toNat = 0 ∧ x.xres = [] ∧ x.xcount ≠ 0 ∧
      x.holds.find? (fun p => p.2 = 0) = none ∧ x.moves + 1 ≤ 4 * x.xcount) && NMap.sorted x.holds) = true := by decide +kernel
theorem test_xres : ([(id, [(0, 0, 2)], [(4, some 0), (5, some 1)]), (fun x => { x with moving := [(0, 3, 1)] }, [(0, 3, 1)], [])] :
      List ((PipeCtx → PipeCtx) × List (Nat × Nat × Nat) × List (Nat × Option Nat))).all (fun p =>
    match exec (.xres { warp with dst := .s 4, a := .s 8 }) (absent p.1) with
    | .next t => (t.ctx 0).any (fun x => decide (x.moving = p.2.1)) && decide ((t.die 0).migs.map (fun g => (g.frame, g.slot)) = p.2.2)
    | _ => false) = true := by decide +kernel
theorem test_move_over : (let i := Instr.xres { warp with dst := .s 4, a := .s 8 }
    match exec i (absent) with
    | .next t => (t.ctx 0).any (fun x => x.xres.any fun w => decide (w.slot = some (0, true) ∧ w.twin = none ∧ w.dst = .s 4 ∧ w.tid = 3)) &&
        ((t.moveDone 0 0 0).thread 3).any fun th => decide (th.regs.scal 4 = 0x80000000 ∧ th.pend = [])
    | _ => false) = true := by decide +kernel

-- CollectiveProducts: the rows of the scales are free, or owned
theorem test_scales_witness : let i := Instr.mma { product with xmod := 0 }
    let s := ready i (fun th => scal 20 0x4821924 (mats (row .e4m3 [0x38, 0x38]) th))
    let t := { s with cmds := [{ command with rows := [0] }] }
    (issuing s i (fun o e => let q := Quad.ofWords ((List.range 4).map fun j => e.th.regs.scal (o.quad + j))
      q.ok && decide (q.len ≠ 0 ∧ e.blk.badRows = [] ∧ q.offA = 0 ∧ q.offB = 0) && !s.rowOwned e.th.block 0 && t.rowOwned e.th.block 0)) = true ∧
    issuing t i = true ∧ (after t i fun _ th => decide (th.wait = .stalled ∧ th.pend = [])) = true := by decide +kernel

-- PhasesAndCacheControl: a prefetched line that is poisoned; R395's record
theorem test_refused_prefetch : let i := Instr.cachectlPf1 { Ops.blank with ty := .b32, a := .s 16, b := .v 8 }
    let s := { ready i (record 0x84 0 ∘ vec 8 [0, 1]) with poison := [((placePage + 0x80) / 64, 1)] }
    issuing s i (fun o e => match s.reachLines e.blk.core .r 0 (e.controlLines o) with
      | (some ([l], []), s1) => !s1.linesWait e.blk.core [l] && !s1.loadHit e.blk.core l.2 64 && s1.poisoned l.2
      | _ => false) = true ∧
    (after s i fun t _ => decide ((t.core 0).l1 = [] ∧ (t.die 3).lost = 1)) = true := by decide +kernel

-- LaunchesComeAndGo: the walker refuses the record, and neither it nor the memory does
theorem test_walker_refuses : let s := { queued [] with xlat := { Xlat.init with ptRoot := 0x10000 } }
    let far := s.setQueue 5 { Queue.init with base := 2 ^ 52, enable := true, tail := 1 }
    s.walkerRefuses 0x14000 = true ∧ far.walkerRefuses (2 ^ 52) = false ∧ far.refusedAt (2 ^ 52) = none ∧
    (match far.readVirt (2 ^ 52) 128 with | .error (some bad) => decide (bad = 2 ^ 52) | _ => false) = true := by decide +kernel
-- StartsAndCommands, LaunchesComeAndGo: a restart; what it finds while a launch is left; the launch ends without a completion word
theorem test_restart : (match exec (.restart (Config.startReport 0)) State.reset with
    | .next t => t.mailbox.busy && t.mailbox.restart.isSome && decide (t.launches = [] ∧ t.recs = [] ∧ t.mailbox.out = (0, 0, [])) && t.commandReady
    | _ => false) = true ∧
    (let s := { finished with mailbox := { Mailbox.init with busy := true, restart := some (Config.startReport 0) } }
     decide (s.launches ≠ []) && !s.commandReady && (s.launch 1).any (fun la => la.aborting.isNone) && (s.block 2).any fun b => decide (b.launch = 1)) = true := by
  decide +kernel
theorem test_restart_ends_witness : (let s := { idle.modLaunch 1 (fun la => { la with aborting := some 0 }) with
      mailbox := { Mailbox.init with busy := true, restart := some (Config.startReport 0) } }
    NMap.sorted s.launches && decide (s.residentOf 1 = []) && match exec (.launchCompletion 1) s with
      | .next t => decide (t.launches = [] ∧ t.host.pending = [] ∧ ofBytes (t.homeBytes (placePage + 0xC000) 8) = 0 ∧ (t.die 0).lost = 1 ∧
          t.commandReady = true ∧ t.recs = [] ∧ t.mailbox.out = (0, 0, []))
      | _ => false) = true := by decide +kernel
-- LaunchesComeAndGo: an abort drops what the warp has logged
theorem test_abort_drops : (match exec (.launchAbort 1) faulted with
    | .next t => (t.thread 3).any fun th => decide (th.log = [] ∧ th.pend = [])
    | _ => false) = true := by decide +kernel
end Sys2Proof.Tests
end

section
/-! PROOF. Finite maps: writing again what stands, and which entries a write leaves. -/

namespace Sys2Proof.NMap

theorem put_of_find {β : Type} {m : NMap β} {k : Nat} {v : β} (h : NMap.find m k = some v) : NMap.put m k v = m := by
  induction m with
  | nil => simp at h
  | cons p rest ih =>
    obtain ⟨a, w⟩ := p
    by_cases hka : k = a
    · simp_all [NMap.find, NMap.put]
    · by_cases hlt : k < a
      · simp [NMap.find, hka, hlt] at h
      · simp only [NMap.find, hka, hlt, if_false] at h
        simp [NMap.put, hka, hlt, ih h]

theorem mem_put {β : Type} {m : NMap β} {k : Nat} {v : β} {p : Nat × β} (h : p ∈ NMap.put m k v) : p = (k, v) ∨ p ∈ m := by
  induction m with
  | nil => simpa [NMap.put] using h
  | cons q rest ih =>
    obtain ⟨a, w⟩ := q
    by_cases hka : k = a
    · simp only [NMap.put, hka, if_true, List.mem_cons] at h ⊢; tauto
    · by_cases hlt : k < a
      · simp only [NMap.put, hka, hlt, if_true, if_false, List.mem_cons] at h ⊢; tauto
      · simp only [NMap.put, hka, hlt, if_false, List.mem_cons] at h ⊢
        rcases h with h | h
        · tauto
        · have := ih h; tauto

theorem mem_foldl_put {β : Type} {l m : NMap β} {p : Nat × β} (h : p ∈ l.foldl (fun m q => NMap.put m q.1 q.2) m) :
    p ∈ l ∨ p ∈ m := by
  induction l generalizing m with
  | nil => exact .inr h
  | cons q rest ih =>
    rcases ih h with h | h
    · exact .inl (List.mem_cons_of_mem _ h)
    · rcases mem_put h with rfl | h
      · exact .inl List.mem_cons_self
      · exact .inr h

end Sys2Proof.NMap
end

section
/-! PROOF. Special registers and generators (R109 to R111, R122, R256, R346): how `swrite` and `srand` change their own
thread, and what seeding and stepping do to the generators of the lanes. -/

namespace Sys2Proof.Machine

/-! ### An instruction that changes its own thread -/

theorem onlyThread_setThread (s : State) (tid : Nat) (th : Thread) : OnlyThread s (s.setThread tid th) tid :=
  ⟨fun _ hu => State.thread_setThread_other s th hu, rfl⟩

theorem modThread_congr {s : State} {tid : Nat} {th : Thread} {f g : Thread → Thread} (h : s.thread tid = some th)
    (hfg : f th = g th) : s.modThread tid f = s.modThread tid g := by
  rw [modThread_eq h, modThread_eq h, hfg]

theorem modThread_id {s : State} {tid : Nat} {th : Thread} (h : s.thread tid = some th) :
    s.modThread tid (fun th => th) = s := by
  rw [modThread_eq h, State.setThread, NMap.put_of_find h]

/-- Thread `e` has passed an instruction at `pc` that made of it `f` of what it was, and nothing else has changed. -/
def PassesWith (s : State) (i : Instr) (e : Env) (pc : Nat) (f : Thread → Thread) : Prop :=
  ∃ t th, exec i s = .next t ∧ OnlyThread s t e.tid ∧ t.thread e.tid = some th ∧ th.pc = pc ∧
    th = f { e.th with pc := th.pc, wait := .ready, clause := th.clause, region := th.region, idle := th.idle,
                       fetched := th.fetched }

/-- `f` neither reads nor changes what the advance of a completed instruction sets. -/
def Commutes (e : Env) (f : Thread → Thread) : Prop :=
  ∀ pc clause region idle fetched,
    f { e.th with pc := pc, wait := .ready, clause := clause, region := region, idle := idle, fetched := fetched } =
    { f e.th with pc := pc, wait := .ready, clause := clause, region := region, idle := idle, fetched := fetched }

/-- A fixed-latency instruction, no region boundary, that only changes its own thread. -/
theorem passesWith_of_done {s : State} {i : Instr} {o : Ops} {e : Env} {body : Env → State → Res} {f : Thread → Thread}
    (h : s.issues i o e) (hexec : exec i s = issue s i o body) (hlong : isLong i = false) (hbound : isBoundary i = false)
    (hbody : body e s = .done (s.modThread e.tid f) []) (hf : Commutes e f) :
    PassesWith s i e (s.cur.pc + 4 * o.len) f := by
  have hth : s.thread e.tid = some e.th := issues_thread h
  have hrun := issue_done h hbody
  rw [results_short hlong, advance_plain hbound, modThread_eq hth,
    modThread_eq (State.thread_setThread s e.tid _), setThread_setThread,
    modThread_eq (State.thread_setThread s e.tid _), setThread_setThread] at hrun
  refine ⟨_, _, hexec.trans hrun, onlyThread_setThread s e.tid _, State.thread_setThread s e.tid _, rfl, ?_⟩
  exact (hf _ _ _ _ _).symm

/-! ### Generators (R122) -/

@[simp] theorem Regs.genOf_setGen_same (r : Regs) (l x : Nat) : (r.setGen l x).genOf l = x % 2 ^ 32 := by
  simp [Regs.genOf, Regs.setGen]

theorem Regs.genOf_setGen_other (r : Regs) {l k : Nat} (x : Nat) (h : k ≠ l) : (r.setGen l x).genOf k = r.genOf k := by
  simp [Regs.genOf, Regs.setGen, NMap.get_put_other _ _ _ h]

theorem Regs.genOf_lt (r : Regs) (l : Nat) : r.genOf l < 2 ^ 32 := (NMap.get 0 r.gen l).isLt

/-- The registers with the generator of each of these lanes set, in turn, by `f` of the lane and of its generator. -/
def Regs.mapGens (r : Regs) (f : Nat → Nat → Nat) (lanes : List Nat) : Regs :=
  lanes.foldl (fun r l => r.setGen l (f l (r.genOf l))) r

theorem Regs.genOf_mapGens (r : Regs) (f : Nat → Nat → Nat) {lanes : List Nat} (hn : lanes.Nodup) (k : Nat) :
    (r.mapGens f lanes).genOf k = if k ∈ lanes then f k (r.genOf k) % 2 ^ 32 else r.genOf k := by
  induction lanes generalizing r with
  | nil => rfl
  | cons l rest ih =>
    obtain ⟨hl, hrest⟩ := List.nodup_cons.mp hn
    have hcons : r.mapGens f (l :: rest) = (r.setGen l (f l (r.genOf l))).mapGens f rest := rfl
    rw [hcons, ih _ hrest]
    by_cases hk : k = l
    · subst hk; simp [hl]
    · simp [hk, Regs.genOf_setGen_other]

theorem Regs.mapGens_frame (r : Regs) (f : Nat → Nat → Nat) (lanes : List Nat) :
    { r.mapGens f lanes with gen := r.gen } = r := by
  induction lanes generalizing r with
  | nil => rfl
  | cons l rest ih => exact congrArg (fun x : Regs => { x with gen := r.gen }) (ih (r.setGen l (f l (r.genOf l))))

theorem genStep_eq_rsStep {x : Nat} (h : x < 2 ^ 32) : genStep x = rsStep x := by
  simp only [genStep, rsStep, Nat.mod_eq_of_lt h]

theorem rsStep_lt {x : Nat} (h : x < 2 ^ 32) : rsStep x < 2 ^ 32 := by
  have shifted (y n : Nat) : y * 2 ^ n % 2 ^ 32 < 2 ^ 32 := Nat.mod_lt _ (by decide)
  have first := Nat.xor_lt_two_pow h (shifted x 13)
  have second := Nat.xor_lt_two_pow first (Nat.lt_of_le_of_lt (Nat.div_le_self _ (2 ^ 17)) first)
  exact Nat.xor_lt_two_pow second (shifted _ 5)

/-- R122: stepping steps the generator of each lane once. -/
theorem genOf_stepGens (r : Regs) {lanes : List Nat} (hn : lanes.Nodup) (l : Nat) :
    (stepGens r lanes).genOf l = if l ∈ lanes then rsStep (r.genOf l) else r.genOf l := by
  have step : genStep (r.genOf l) % 2 ^ 32 = rsStep (r.genOf l) := by
    rw [genStep_eq_rsStep (r.genOf_lt l), Nat.mod_eq_of_lt (rsStep_lt (r.genOf_lt l))]
  rw [← step]
  exact r.genOf_mapGens (fun _ => genStep) hn l

theorem stepGens_frame (r : Regs) (lanes : List Nat) : { stepGens r lanes with gen := r.gen } = r :=
  r.mapGens_frame (fun _ => genStep) lanes

/-- R122: the seed of a lane, as the spec writes it. -/
theorem genSeed_eq (x : Word) (l : Nat) : genSeed x.toNat l =
    if x.toNat ^^^ ((l + 1) * 0x9E3779B9 % 2 ^ 32) = 0 then 0x6D2B79F5 else x.toNat ^^^ ((l + 1) * 0x9E3779B9 % 2 ^ 32) := by
  have hlt : x.toNat ^^^ ((l + 1) * 0x9E3779B9 % 2 ^ 32) < 2 ^ 32 :=
    Nat.xor_lt_two_pow x.isLt (Nat.mod_lt _ (by decide))
  simp only [genSeed, Nat.mod_eq_of_lt hlt]

theorem genSeed_lt (seed lane : Nat) : genSeed seed lane < 2 ^ 32 := by
  simp only [genSeed]
  split
  · decide
  · exact Nat.mod_lt _ (by decide)

/-- R110, R122, R256: seeding. -/
theorem seeded_seedAll (r : Regs) (width : Nat) (x : Word) : Seeded r width x (r.seedAll width x) := by
  have gens (l : Nat) : (r.seedAll width x).genOf l = if l < width then genSeed x.toNat l else r.genOf l := by
    have h : (r.seedAll width x).genOf l =
        if l ∈ List.range width then genSeed x.toNat l % 2 ^ 32 else r.genOf l :=
      r.genOf_mapGens (fun l _ => genSeed x.toNat l) List.nodup_range l
    simpa only [Nat.mod_eq_of_lt (genSeed_lt _ _), List.mem_range] using h
  refine ⟨fun l hl => ?_, fun l hl => ?_, rfl, ?_⟩
  · rw [gens, if_pos hl]; exact genSeed_eq x l
  · rw [gens, if_neg (by omega)]
  · exact congrArg (fun y : Regs => { y with seed := r.seed })
      (r.mapGens_frame (fun l _ => genSeed x.toNat l) (List.range width))

/-! ### `srand` (R256) -/

theorem srand_passes {s : State} {e : Env} {o : Ops} (h : s.issues (.srand o) o e) :
    PassesWith s (.srand o) e (s.cur.pc + 4 * o.len) fun th =>
      { th with regs := th.regs.seedAll th.width (BitVec.ofNat 32 (e.th.regs.raw 0 .b32 0 o.a)) } :=
  passesWith_of_done h rfl rfl rfl rfl (fun _ _ _ _ _ => rfl)

/-! ### `swrite` (R346) -/

/-- What `swrite` writes: its source as wide as the special register. -/
def Env.specialSource (e : Env) (o : Ops) (n : Nat) : Nat :=
  match o.a with
  | .k k => (e.th.regs.mask k).toNat
  | d => e.th.regs.raw 0 (if wideSpecial n then .n64 else .n32) 0 d

theorem Regs.raw_scal_n32 (r : Regs) (lane d : Nat) : r.raw 0 .n32 lane (.s d) = (r.scal d).toNat := by
  have one : r.scals d 1 = (r.scal d).toNat := by simp [Regs.scals, ofWords]
  exact (congrArg (· % 2 ^ 32) one).trans (Nat.mod_eq_of_lt (r.scal d).isLt)

theorem Regs.raw_scal_n64 (r : Regs) (lane d : Nat) :
    r.raw 0 .n64 lane (.s d) = (r.scal (d + 1) ++ r.scal d).toNat := by
  have low := (r.scal d).isLt
  have high := (r.scal (d + 1)).isLt
  have pair : r.scals d 2 = (r.scal (d + 1)).toNat * 2 ^ 32 + (r.scal d).toNat := by
    simp [Regs.scals, ofWords, List.range_succ]; omega
  rw [BitVec.toNat_append, ← Nat.shiftLeft_add_eq_or_of_lt low, Nat.shiftLeft_eq, ← pair]
  exact Nat.mod_eq_of_lt (show r.scals d 2 < 2 ^ 64 by omega)

theorem Env.specialSource_narrow {e : Env} {o : Ops} {n d : Nat} (ha : o.a = .s d) (hn : wideSpecial n = false) :
    e.specialSource o n = (e.th.regs.scal d).toNat := by
  simp [Env.specialSource, ha, hn, Regs.raw_scal_n32]

/-- The 64 bits that a wide special register takes: a mask or a scalar pair. -/
def Env.specialWide (e : Env) (o : Ops) (d : Nat) : DWord :=
  if o.a = .k d then e.th.regs.mask d else e.th.regs.scal (d + 1) ++ e.th.regs.scal d

theorem Env.specialSource_wide {e : Env} {o : Ops} {n d : Nat} (ha : o.a = .s d ∨ o.a = .k d) (hn : wideSpecial n = true) :
    BitVec.ofNat 64 (e.specialSource o n) = e.specialWide o d := by
  rcases ha with ha | ha
  · simp [Env.specialSource, Env.specialWide, ha, hn, Regs.raw_scal_n64]
  · simp [Env.specialSource, Env.specialWide, ha]

/-- The answer of `swrite` when some lane passes. -/
theorem swrite_body {o : Ops} {n : Nat} (hd : o.dst = .sp n) (s : State) :
    exec (.swrite o) s = issue s (.swrite o) o fun e s =>
      if e.th.active o = 0 then .done s []
      else if n = 0x10 && !fpmodeOk (e.specialSource o n) then s.execTrap e o
      else .done (s.setSpecial e n (e.specialSource o n)) [] := by
  show execSwrite o s = _
  unfold execSwrite
  rw [hd]
  rfl

section
variable {s : State} {e : Env} {o : Ops} {n d : Nat} (h : s.issues (.swrite o) o e) (hact : e.th.active o ≠ 0)
  (hd : o.dst = .sp n)
include h hact hd

/-- `swrite` makes of its thread what setting the special register makes of it. -/
theorem swrite_passes {f : Thread → Thread} (hok : n = 0x10 → fpmodeOk (e.specialSource o n) = true)
    (hset : s.setSpecial e n (e.specialSource o n) = s.modThread e.tid f) (hf : Commutes e f) :
    PassesWith s (.swrite o) e (s.cur.pc + 4 * o.len) f := by
  refine passesWith_of_done h (swrite_body hd s) rfl rfl ?_ hf
  have taken : (decide (n = 0x10) && !fpmodeOk (e.specialSource o n)) = false := by
    by_cases hn : n = 0x10
    · simp [hn, hn ▸ hok hn]
    · simp [hn]
  simp only [hact, taken, hset]
  rfl

/-- R111: `swrite` traps as malformed on a value that `fpmode` cannot take. -/
theorem swrite_fpmode_traps (hn : n = 0x10) (hbad : fpmodeOk (e.specialSource o n) = false) :
    exec (.swrite o) s = .next (s.raise e.tid (s.trapOf 0x0002 11 (e.th.active o))) := by
  rw [swrite_body hd s]
  refine issue_trap h ?_
  have refused : (decide (n = 0x10) && !fpmodeOk (e.specialSource o n)) = true := by simp [hn, hn ▸ hbad]
  simp only [hact, refused]
  rfl

/-- A register of 32 bits takes a scalar. -/
theorem swrite_narrow (ha : o.a = .s d) (hw : wideSpecial n = false) {f : Thread → Thread}
    (hok : n = 0x10 → fpmodeOk (e.th.regs.scal d).toNat = true)
    (hset : s.setSpecial e n (e.th.regs.scal d).toNat = s.modThread e.tid f) (hf : Commutes e f) :
    PassesWith s (.swrite o) e (s.cur.pc + 4 * o.len) f := by
  have source : e.specialSource o n = (e.th.regs.scal d).toNat := Env.specialSource_narrow ha hw
  exact swrite_passes h hact hd (source ▸ hok) (source ▸ hset) hf

/-- A register of 64 bits takes a scalar pair or a mask. -/
theorem swrite_wide (ha : o.a = .s d ∨ o.a = .k d) (hw : wideSpecial n = true) {f : Thread → Thread}
    (hset : ∀ x, BitVec.ofNat 64 x = e.specialWide o d → s.setSpecial e n x = s.modThread e.tid f) (hf : Commutes e f) :
    PassesWith s (.swrite o) e (s.cur.pc + 4 * o.len) f :=
  swrite_passes h hact hd (fun hn => absurd hw (by simp [hn, wideSpecial])) (hset _ (Env.specialSource_wide ha hw)) hf

end

/-- A register that is none of those that `swrite` can set keeps its value. -/
theorem setSpecial_readOnly {n : Nat} (hn : n ∉ [0x10, 0x11, 0x30, 0x31, 0x32, 0x33, 0x34, 0x35, 0x36, 0x38])
    (s : State) (e : Env) (x : Nat) : s.setSpecial e n x = s := by
  unfold State.setSpecial
  split
  case h_11 => rfl
  all_goals exact absurd (by decide) hn

/-- Settles O13: `swrite` makes of its thread what setting the register makes of it, register by register; seeding and
stepping set the generators of the lanes one by one. -/
theorem specialWritesAndSeeds : Obligations.SpecialWritesAndSeeds := by
  refine ⟨fun s e o n d h hact hd ha => ?swrite, fun s e o h => ?srand, fun r lanes hn =>
    ⟨genOf_stepGens r hn, stepGens_frame r lanes⟩⟩
  case swrite =>
    intro x xx sets
    have hth : s.thread e.tid = some e.th := issues_thread h
    have either : o.a = .s d ∨ o.a = .k d := ha.imp_right (·.2)
    have scal (hn : n ≠ 0x36) : o.a = .s d := ha.resolve_right fun hk => hn hk.1
    have narrow {f : Thread → Thread} (hw : wideSpecial n = false) (hok : n = 0x10 → fpmodeOk x.toNat = true)
        (hset : s.setSpecial e n x.toNat = s.modThread e.tid f) (hf : Commutes e f) : sets f :=
      swrite_narrow h hact hd (scal fun hn => by simp [hn, wideSpecial] at hw) hw hok hset hf
    have wide {f : Thread → Thread} (hw : wideSpecial n = true)
        (hset : ∀ y, BitVec.ofNat 64 y = xx → s.setSpecial e n y = s.modThread e.tid f) (hf : Commutes e f) : sets f :=
      swrite_wide h hact hd either hw hset hf
    have keeps (hset : ∀ y, s.setSpecial e n y = s) (hn : n ≠ 0x10) : sets fun th => th :=
      swrite_passes h hact hd (fun h10 => absurd h10 hn) ((hset _).trans (modThread_id hth).symm) (fun _ _ _ _ _ => rfl)
    have refused (hn : n = 0x10) (hbad : fpmodeOk x.toNat = false) :
        exec (.swrite o) s = .next (s.raise e.tid (s.trapOf 0x0002 11 (e.th.active o))) := by
      have source : e.specialSource o n = x.toNat :=
        Env.specialSource_narrow (scal (by omega)) (by simp [hn, wideSpecial])
      exact swrite_fpmode_traps h hact hd hn (source ▸ hbad)
    clear_value sets
    refine ⟨?fpmode, refused, ?seed, ?pc, ?cause, ?word0, ?word1, ?word2, ?word3, ?mask, ?inject, ?readOnly⟩
    case fpmode =>
      rintro rfl hok
      refine narrow rfl (fun _ => hok) ?_ (fun _ _ _ _ _ => rfl)
      simp [State.setSpecial]
    case seed =>
      rintro rfl
      refine ⟨_, seeded_seedAll _ _ _, narrow rfl (by simp) ?_ (fun _ _ _ _ _ => rfl)⟩
      simp only [State.setSpecial, BitVec.ofNat_toNat, BitVec.setWidth_eq]
      exact modThread_congr hth rfl
    case pc =>
      rintro rfl
      refine wide rfl (fun y hy => ?_) (fun _ _ _ _ _ => rfl)
      simp only [State.setSpecial, hy]
    case mask =>
      rintro rfl
      refine wide rfl (fun y hy => ?_) (fun _ _ _ _ _ => rfl)
      simp only [State.setSpecial, hy]
      exact modThread_congr hth rfl
    case inject =>
      rintro rfl htest
      refine narrow rfl (by simp) ?_ (fun _ _ _ _ _ => rfl)
      simp only [State.setSpecial, BitVec.ofNat_toNat, BitVec.setWidth_eq, htest, if_true]
      exact modThread_congr hth rfl
    case readOnly =>
      rintro (hn | ⟨rfl, htest⟩)
      · exact keeps (setSpecial_readOnly hn s e) fun h10 => hn (by simp [h10])
      · exact keeps (fun y => by simp [State.setSpecial, htest]) (by decide)
    all_goals
      rintro rfl
      refine narrow rfl (by simp) ?_ (fun _ _ _ _ _ => rfl)
      simp [State.setSpecial]
  case srand =>
    obtain ⟨t, th, hexec, honly, hth, hpc, heq⟩ := srand_passes h
    refine ⟨t, th, hexec, honly, hth, hpc, ?_, ?_⟩
    · rw [heq]
    · rw [heq]; exact seeded_seedAll _ _ _

end Sys2Proof.Machine
end

section
/-! PROOF. What the caches do of their own accord (R154 to R156, R168 to R170): lines that leave an L2, an L1 or the
staging area write to memory only bytes that some core had stored. -/

namespace Sys2Proof.Machine

/-! ### Bytes written at their homes -/

/-- A byte after a list of writes is the byte before it or one of the list. -/
theorem homeByte_setHomes (l : List (Nat × Byte)) {s : State} (q : Nat) (h : Memory.wf s.mem = true) :
    (s.setHomes l).homeByte q = s.homeByte q ∨ (q, (s.setHomes l).homeByte q) ∈ l := by
  induction l generalizing s with
  | nil => exact .inl rfl
  | cons p rest ih =>
    obtain ⟨pa, b⟩ := p
    rw [State.setHomes]
    rcases ih (setHome_wf pa b h) with same | listed
    · by_cases hq : q = pa
      · right; rw [same, homeByte_setHome pa q b h, if_pos hq, hq]; exact List.mem_cons_self
      · left; rw [same, homeByte_setHome pa q b h, if_neg hq]
    · exact .inr (List.mem_cons_of_mem _ listed)

/-- Bytes written one after the other, the first of them with `k` before it, read back. -/
theorem homeByte_setHomes_zipIdx {s : State} (h : Memory.wf s.mem = true) (pa k : Nat) {bytes : List Byte} {i : Nat} {b : Byte}
    (hb : bytes[i]? = some b) :
    (s.setHomes ((bytes.zipIdx k).map fun p => (pa + p.2, p.1))).homeByte (pa + (k + i)) = b := by
  induction bytes generalizing s k i with
  | nil => simp at hb
  | cons x rest ih =>
    rw [List.zipIdx_cons, List.map_cons, State.setHomes]
    have wf := setHome_wf (s := s) (pa + k) x h
    cases i with
    | zero =>
      obtain rfl : x = b := by simpa using hb
      rw [homeByte_setHomes_other _ _ wf, homeByte_setHome _ _ _ h, if_pos (by omega)]
      intro p hp
      obtain ⟨q, hq, rfl⟩ := List.mem_map.mp hp
      have := List.le_snd_of_mem_zipIdx hq
      show pa + q.2 ≠ pa + (k + 0)
      omega
    | succ i =>
      have later := ih wf (k + 1) (i := i) (by simpa using hb)
      rwa [show k + 1 + i = k + (i + 1) by omega] at later

/-- Bytes written from an address on read back. -/
theorem homeByte_writeHome {s : State} (h : Memory.wf s.mem = true) (pa : Nat) {bytes : List Byte} {i : Nat} {b : Byte}
    (hb : bytes[i]? = some b) : (s.writeHome pa bytes).homeByte (pa + i) = b := by
  have read := homeByte_setHomes_zipIdx h pa 0 hb
  rwa [Nat.zero_add] at read

/-- Every other byte is as before. -/
theorem homeByte_writeHome_other {s : State} (h : Memory.wf s.mem = true) {pa a : Nat} {bytes : List Byte}
    (ha : a < pa ∨ pa + bytes.length ≤ a) : (s.writeHome pa bytes).homeByte a = s.homeByte a := by
  refine homeByte_setHomes_other _ a h fun p hp => ?_
  obtain ⟨q, hq, rfl⟩ := List.mem_map.mp hp
  have := List.snd_lt_of_mem_zipIdx hq
  show pa + q.2 ≠ a
  omega

/-- `t` is `s` but for what stands at the homes and which parts are poisoned. -/
def SameButHomes (s t : State) : Prop := t = { s with mem := t.mem, peer := t.peer, poison := t.poison }

theorem setHome_sameButHomes (s : State) (pa : Nat) (b : Byte) : SameButHomes s (s.setHome pa b) := by
  unfold State.setHome; split <;> rfl

theorem SameButHomes.trans {s t u : State} (h1 : SameButHomes s t) (h2 : SameButHomes t u) : SameButHomes s u := by
  rw [SameButHomes, h2, h1]

theorem setHomes_sameButHomes (l : List (Nat × Byte)) (s : State) : SameButHomes s (s.setHomes l) := by
  induction l generalizing s with
  | nil => rfl
  | cons p rest ih => exact (setHome_sameButHomes s p.1 p.2).trans (ih _)

theorem writeLine_sameButHomes (s : State) (line : Nat) (bytes : NMap Byte) : SameButHomes s (s.writeLine line bytes) := by
  unfold State.writeLine
  split
  · exact (setHomes_sameButHomes _ s).trans rfl
  · exact setHomes_sameButHomes _ s

theorem homeByte_congr {s t : State} (hm : t.mem = s.mem) (hp : t.peer = s.peer) (pa : Nat) : t.homeByte pa = s.homeByte pa := by
  rw [State.homeByte, State.homeByte, hm, hp]

theorem homeByte_writeLine (s : State) (line : Nat) (bytes : NMap Byte) (pa : Nat) :
    (s.writeLine line bytes).homeByte pa = (s.setHomes (bytes.map fun p => (line + p.1, p.2))).homeByte pa := by
  unfold State.writeLine
  split <;> rfl

/-! ### Spills -/

/-- No core's write-back meets an error response, and memory is canonical. -/
structure State.Accepting (s : State) : Prop where
  wf      : Memory.wf s.mem = true
  accepts : ∀ c pa, s.refused c pa = false

/-- No core holds a byte that is not yet at its home. -/
def State.Clean (s : State) : Prop := ∀ c pa b, ¬ (s.core c).unwritten pa b

/-- The caches have spilled: bytes that cores held may stand at their homes now, and no core holds a byte that it did not
hold before. -/
structure Spills (s t : State) : Prop extends t.Accepting where
  held   : ∀ c pa b, (t.core c).unwritten pa b → (s.core c).unwritten pa b
  stored : OnlyStored s t
  still  : s.Clean → t.mem = s.mem ∧ t.peer = s.peer ∧ t.poison = s.poison

theorem Spills.refl {s : State} (h : s.Accepting) : Spills s s :=
  ⟨h, fun _ _ _ => id, fun _ => .inl rfl, fun _ => ⟨rfl, rfl, rfl⟩⟩

theorem Spills.clean {s t : State} (h : Spills s t) (hs : s.Clean) : t.Clean :=
  fun c pa b hb => hs c pa b (h.held c pa b hb)

theorem Spills.trans {s t u : State} (h1 : Spills s t) (h2 : Spills t u) : Spills s u where
  toAccepting := h2.toAccepting
  held c pa b hb := h1.held c pa b (h2.held c pa b hb)
  stored pa := by
    rcases h2.stored pa with same | ⟨c, hc⟩
    · rw [same]; exact h1.stored pa
    · exact .inr ⟨c, h1.held c pa _ hc⟩
  still hs := by
    obtain ⟨m1, p1, q1⟩ := h1.still hs
    obtain ⟨m2, p2, q2⟩ := h2.still (h1.clean hs)
    exact ⟨m2.trans m1, p2.trans p1, q2.trans q1⟩

section
variable {s t : State} (h : Spills s t)
include h

/-- Neither memory nor any link changes, and no core holds more. -/
theorem Spills.homes_same {u : State} (hm : u.mem = t.mem) (hp : u.peer = t.peer) (hq : u.poison = t.poison)
    (hl : u.links = t.links) (hc : ∀ c, (u.core c).refused = (t.core c).refused ∧
      ∀ pa b, (u.core c).unwritten pa b → (s.core c).unwritten pa b) : Spills s u where
  wf := hm ▸ h.wf
  accepts c pa := by
    have ht := h.accepts c pa
    rwa [State.refused, State.linkDown, State.link, ← hl, ← (hc c).1] at ht
  held c := (hc c).2
  stored pa := by rw [homeByte_congr hm hp pa]; exact h.stored pa
  still := by rw [hm, hp, hq]; exact h.still

/-- Neither memory nor any link nor any core changes. -/
theorem Spills.cores_same {u : State} (hm : u.mem = t.mem) (hp : u.peer = t.peer) (hq : u.poison = t.poison)
    (hl : u.links = t.links) (hc : u.cores = t.cores) : Spills s u := by
  refine h.homes_same hm hp hq hl fun c => ?_
  rw [State.core, State.core, hc]
  exact ⟨rfl, h.held c⟩

/-- A core is replaced by one that holds no more unwritten bytes, and whose peers answer as before. -/
theorem Spills.setCore {n : Nat} {x : Core} (hr : x.refused = (t.core n).refused)
    (hx : ∀ pa b, x.unwritten pa b → (s.core n).unwritten pa b) : Spills s (t.setCore n x) := by
  refine h.homes_same rfl rfl rfl rfl fun c => ?_
  by_cases hc : c = n
  · subst hc; rw [State.core_setCore]; exact ⟨hr, hx⟩
  · rw [State.core_setCore_other t x hc]; exact ⟨rfl, h.held c⟩

theorem Spills.modDie (d : Nat) (g : Die → Die) : Spills s (t.modDie d g) :=
  h.cores_same (by simp) (by simp) (by simp) (by simp) (by simp)

theorem Spills.drawFrom {α : Type} (d : α) (l : List α) : Spills s (t.drawFrom d l).2 :=
  h.cores_same (by simp) (by simp) (by simp) (by simp) (by simp)

theorem Spills.foldl {α : Type} {f : State → α → State} {l : List α}
    (hf : ∀ u x, x ∈ l → Spills s u → Spills s (f u x)) : Spills s (l.foldl f t) := by
  induction l generalizing t with
  | nil => exact h
  | cons x rest ih => exact ih (hf t x List.mem_cons_self h) fun u y hy => hf u y (List.mem_cons_of_mem _ hy)

end

/-! ### Writing back a line -/

theorem writeBack_sameButHomes {s : State} {core pa : Nat} (h : s.refused core pa = false) (va : Nat) (dirty : NMap Byte)
    (bad : Bool) : SameButHomes s (s.writeBack core pa va dirty bad) := by
  unfold State.writeBack
  split
  · rfl
  · split
    · simp_all
    · split
      · exact (setHomes_sameButHomes _ s).trans rfl
      · exact writeLine_sameButHomes s _ _

theorem homeByte_writeBack {s : State} {core pa : Nat} (h : s.refused core pa = false) (va : Nat) (dirty : NMap Byte)
    (bad : Bool) (q : Nat) : (s.writeBack core pa va dirty bad).homeByte q =
      (s.setHomes (dirty.map fun p => (lineOf pa + p.1, p.2))).homeByte q := by
  unfold State.writeBack
  split
  · simp_all [State.setHomes]
  · split
    · simp_all
    · split
      · rfl
      · exact homeByte_writeLine s _ _ _

theorem writeBack_nil (s : State) (core pa va : Nat) (bad : Bool) : s.writeBack core pa va [] bad = s := rfl

theorem SameButHomes.core {s t : State} (h : SameButHomes s t) (c : Nat) : t.core c = s.core c := by rw [h]; rfl

theorem SameButHomes.refused {s t : State} (h : SameButHomes s t) (c pa : Nat) : t.refused c pa = s.refused c pa := by
  rw [h]; rfl

/-- The core holds every one of these bytes of a line, by offset, and none is at its home yet. -/
def Core.Holds (c : Core) (pa : Nat) (dirty : NMap Byte) : Prop := ∀ p ∈ dirty, c.unwritten (lineOf pa + p.1) p.2

theorem Core.holds_l1 {c : Core} {l : Line} (h : l ∈ c.l1) : c.Holds l.pa l.dirty :=
  fun p hp => .inl ⟨l, h, trivial, p.1, hp, rfl⟩

theorem Core.holds_staged {c : Core} {l : Staged} (h : l ∈ c.staged) : c.Holds l.pa l.dirty :=
  fun p hp => .inr ⟨l, h, trivial, p.1, hp, rfl⟩

theorem State.Clean.nil_of_holds {s : State} (hs : s.Clean) {c pa : Nat} {dirty : NMap Byte}
    (h : (s.core c).Holds pa dirty) : dirty = [] :=
  List.eq_nil_iff_forall_not_mem.mpr fun p hp => hs c _ _ (h p hp)

/-- Bytes that a core holds go home. -/
theorem Spills.writeBack {s t : State} (h : Spills s t) {c pa : Nat} {dirty : NMap Byte} (hd : (s.core c).Holds pa dirty)
    (core va : Nat) (bad : Bool) : Spills s (t.writeBack core pa va dirty bad) := by
  have same := writeBack_sameButHomes (h.accepts core pa) va dirty bad
  refine ⟨⟨writeBack_wf core pa va dirty bad h.wf, fun c q => (same.refused c q).trans (h.accepts c q)⟩, fun c q b hb => ?_,
    fun q => ?_, fun hs => ?_⟩
  · rw [same.core] at hb; exact h.held c q b hb
  · rw [homeByte_writeBack (h.accepts core pa)]
    rcases homeByte_setHomes (dirty.map fun p => (lineOf pa + p.1, p.2)) q h.wf with before | listed
    · rw [before]; exact h.stored q
    · obtain ⟨p, hp, heq⟩ := List.mem_map.mp listed
      obtain ⟨hpa, hb⟩ := Prod.mk.inj heq
      have holds := hd p hp
      rw [hpa, hb] at holds
      exact .inr ⟨c, holds⟩
  · rw [hs.nil_of_holds hd, writeBack_nil]; exact h.still hs

/-! ### Releases, staging and evictions -/

/-- R169: a release writes home what its core holds, and the core holds none of it any more. -/
theorem Spills.releaseCore {s t : State} (h : Spills s t) (core : Nat) (remote : Bool) :
    Spills s (t.releaseCore core remote) := by
  refine h.trans (Spills.setCore (Spills.foldl (Spills.foldl (Spills.refl h.toAccepting) ?staged) ?l1) rfl ?held)
  case staged => exact fun u l hl hu => hu.writeBack (Core.holds_staged (List.mem_filter.mp hl).1) core l.va l.bad
  case l1 => exact fun u l hl hu => hu.writeBack (Core.holds_l1 (List.mem_filter.mp hl).1) core l.va l.bad
  case held =>
    rintro pa b (⟨l, hl, -, k, hk, rfl⟩ | ⟨l, hl, -, k, hk, rfl⟩)
    · obtain ⟨x, hx, rfl⟩ := List.mem_map.mp hl
      split at hk
      · simp at hk
      · rw [if_neg (by assumption)]; exact Core.holds_l1 hx _ hk
    · exact Core.holds_staged (List.mem_filter.mp hl).1 _ hk

@[simp] theorem lineOf_lineOf (pa : Nat) : lineOf (lineOf pa) = lineOf pa := by simp [lineOf]

theorem Core.stagedLine_some {c : Core} {pa : Nat} {l : Staged} (h : c.stagedLine pa = some l) : l ∈ c.staged ∧ l.pa = lineOf pa :=
  ⟨List.mem_of_find?_eq_some h, by simpa using List.find?_some h⟩

theorem Core.line_some {c : Core} {pa : Nat} {l : Line} (h : c.line pa = some l) : l ∈ c.l1 ∧ l.pa = lineOf pa :=
  ⟨List.mem_of_find?_eq_some h, by simpa using List.find?_some h⟩

/-- R168, R170: bytes that the core held are staged; a full staging area is released first. -/
theorem Spills.stage {s t : State} (h : Spills s t) {core pa : Nat} {dirty : NMap Byte} (hd : (s.core core).Holds pa dirty)
    (va epoch : Nat) (bad : Bool) : Spills s (t.stage core pa va dirty epoch bad) := by
  unfold State.stage
  split
  · exact h
  · have room : Spills s (if ((t.core core).stagedLine pa).isNone && decide (4096 ≤ t.stagedLines core) then
        t.forcedRelease core else t) := by
      split
      · exact h.releaseCore core true
      · exact h
    refine room.setCore rfl ?_
    generalize (if ((t.core core).stagedLine pa).isNone && decide (4096 ≤ t.stagedLines core) then
        t.forcedRelease core else t) = u at room
    rintro q b (⟨l, hl, -, k, hk, rfl⟩ | ⟨l, hl, -, k, hk, rfl⟩)
    · exact room.held core _ _ (Core.holds_l1 (c := u.core core) hl _ hk)
    · rcases List.mem_cons.mp hl with rfl | hl
      · cases hold : (u.core core).stagedLine pa with
        | none =>
          rw [hold] at hk
          rcases NMap.mem_foldl_put hk with hk | hk
          · simpa [hold] using hd _ hk
          · simp at hk
        | some old =>
          rw [hold] at hk
          obtain ⟨hmem, hpa⟩ := Core.stagedLine_some hold
          rcases NMap.mem_foldl_put hk with hk | hk
          · simpa [hold, hpa] using hd _ hk
          · exact room.held core _ _ (Core.holds_staged hmem _ hk)
      · exact room.held core _ _ (Core.holds_staged (List.mem_filter.mp hl).1 _ hk)

theorem Core.unwritten_dropLine {c : Core} {line pa : Nat} {b : Byte} (h : (c.dropLine line).unwritten pa b) : c.unwritten pa b := by
  rcases h with ⟨l, hl, rest⟩ | staged
  · exact .inl ⟨l, (List.mem_filter.mp hl).1, rest⟩
  · exact .inr staged

/-- R154, R168, R170: a line leaves the L1. -/
theorem Spills.evict {s t : State} (h : Spills s t) (core pa : Nat) : Spills s (t.evict core pa) := by
  unfold State.evict
  split
  case h_1 => exact h
  case h_2 l _ =>
    have room : Spills s (if l.dirty ≠ [] ∧ (((t.core core).stagedLine pa).isNone && decide (4096 ≤ t.stagedLines core)) = true
        then t.forcedRelease core else t) := by
      split
      · exact h.releaseCore core true
      · exact h
    dsimp only
    split
    case h_1 => exact room
    case h_2 x hx =>
      obtain ⟨hmem, hpa⟩ := Core.line_some hx
      have dropped := room.setCore (n := core) (x := (State.core _ core).dropLine pa) rfl
        fun q b hb => room.held core q b (Core.unwritten_dropLine hb)
      refine dropped.stage (fun p hp => ?_) x.va x.epoch x.bad
      have held := room.held core _ _ (Core.holds_l1 hmem p hp)
      rwa [hpa, lineOf_lineOf] at held

/-- R156: the L1 copies of an L2 line are recalled. -/
theorem Spills.recall {s t : State} (h : Spills s t) (line : Nat) : Spills s (t.recall line) :=
  h.foldl fun _ _ _ hu => hu.foldl fun _ _ _ hv => hv.evict _ _

/-- R155, R156: a home slice takes a line into its L2. -/
theorem Spills.touchL2 {s t : State} (h : Spills s t) (pa hint : Nat) : Spills s (t.touchL2 pa hint) := by
  unfold State.touchL2
  split
  · exact h
  · dsimp only
    split
    · split
      · exact h
      · exact h.modDie _ _
    · refine Spills.modDie ?_ _ _
      split
      · exact ((h.drawFrom _ _).recall _).modDie _ _
      · exact h.drawFrom _ _

end Sys2Proof.Machine
end

section
/-! PROOF. The host's windows (R4, R18, R369 to R371): what a write of a plain register changes, how device memory reads
and writes through BAR2, and when a message leaves. -/

namespace Sys2Proof.Machine

/-! ### Bits of a register -/

theorem bitOf_toNat {n : Nat} (x : BitVec n) (i : Nat) : bitOf x.toNat i = x.getLsbD i := by
  rw [bitOf, BitVec.getLsbD, Nat.testBit_eq_decide_div_mod_eq]

theorem ofNat_mod_two_pow (n x : Nat) : BitVec.ofNat n (x % 2 ^ n) = BitVec.ofNat n x := by
  apply BitVec.eq_of_toNat_eq; simp

/-- The low `n` bits of a word. -/
theorem and_low_bits {n : Nat} (hn : n ≤ 32) (val : Word) :
    val &&& BitVec.ofNat 32 (2 ^ n - 1) = BitVec.ofNat 32 (val.toNat % 2 ^ n) := by
  have small : 2 ^ n - 1 < 2 ^ 32 := by
    have := Nat.pow_le_pow_right (n := 2) (by decide) hn
    omega
  apply BitVec.eq_of_toNat_eq
  rw [BitVec.toNat_and, BitVec.toNat_ofNat, Nat.mod_eq_of_lt small, Nat.and_two_pow_sub_one_eq_mod, BitVec.toNat_ofNat,
    Nat.mod_eq_of_lt (Nat.lt_of_le_of_lt (Nat.mod_le _ _) val.isLt)]

/-- The bits that `mask` names are taken from a written value, the others stay. -/
def Word.merge (old val mask : Word) : Word := old &&& ~~~mask ||| val &&& mask

theorem toNat_merge (old val mask : Word) :
    (Word.merge old val mask).toNat = (old.toNat &&& (2 ^ 32 - 1 - mask.toNat) ||| val.toNat &&& mask.toNat) := by
  simp [Word.merge]

section
variable (old : Nat) (val mask : Word)

theorem setLow_eq : setLow old val mask.toNat =
    (Word.merge (BitVec.ofNat 32 old) val mask).toNat + old / 2 ^ 32 * 2 ^ 32 := by
  rw [toNat_merge, BitVec.toNat_ofNat]
  simp [setLow, maskWrite, Nat.mod_one]

theorem setHigh_eq : setHigh old val mask.toNat =
    (Word.merge (BitVec.ofNat 32 (old / 2 ^ 32)) val mask).toNat * 2 ^ 32 + old % 2 ^ 32 + old / 2 ^ 64 * 2 ^ 64 := by
  rw [toNat_merge, BitVec.toNat_ofNat]
  rfl

theorem setLow_div : setLow old val mask.toNat / 2 ^ 32 = old / 2 ^ 32 := by
  have := (Word.merge (BitVec.ofNat 32 old) val mask).isLt
  rw [setLow_eq]; omega

theorem ofNat_setLow : BitVec.ofNat 32 (setLow old val mask.toNat) = Word.merge (BitVec.ofNat 32 old) val mask := by
  apply BitVec.eq_of_toNat_eq
  have := (Word.merge (BitVec.ofNat 32 old) val mask).isLt
  rw [setLow_eq, BitVec.toNat_ofNat]; omega

theorem setHigh_mod : setHigh old val mask.toNat % 2 ^ 32 = old % 2 ^ 32 := by
  rw [setHigh_eq]; omega

theorem ofNat_setHigh : BitVec.ofNat 32 (setHigh old val mask.toNat / 2 ^ 32) =
    Word.merge (BitVec.ofNat 32 (old / 2 ^ 32)) val mask := by
  apply BitVec.eq_of_toNat_eq
  have := (Word.merge (BitVec.ofNat 32 (old / 2 ^ 32)) val mask).isLt
  rw [setHigh_eq, BitVec.toNat_ofNat]; omega

end

/-! ### Where a register stands -/

theorem inWindow_in {base size count q o : Nat} (hq : q < count) (ho : o < size) (h4 : (base + size * q + o) % 4 = 0) :
    inWindow base size count (base + size * q + o) = some (q, o) := by
  have below : size * q + o < size * count := by
    calc size * q + o < size * (q + 1) := by rw [Nat.mul_succ]; omega
      _ ≤ size * count := Nat.mul_le_mul_left _ hq
  have offset : base + size * q + o - base = o + size * q := by omega
  rw [inWindow, if_pos ⟨by omega, by omega, h4⟩, offset, Nat.add_mul_div_left _ _ (by omega), Nat.add_mul_mod_self_left,
    Nat.div_eq_of_lt ho, Nat.mod_eq_of_lt ho, Nat.zero_add]

theorem inWindow_out {base size count off : Nat} (h : off < base ∨ base + size * count ≤ off) :
    inWindow base size count off = none := if_neg (by omega)

theorem inWindow_one {base size off a k : Nat} (h : inWindow base size 1 off = some (a, k)) : off = base + k := by
  unfold inWindow at h
  split at h
  · rename_i hin
    obtain ⟨-, rfl⟩ := Prod.mk.inj (Option.some.inj h)
    rw [Nat.mod_eq_of_lt (by omega)]; omega
  · simp at h

/-! ### Writes of plain registers (R164, R182, R448, R78) -/

/-- R4, R369: while compute is disabled BAR0 takes no write but that of W2_BASE. -/
theorem registerWrite_disabled {s : State} {off : Nat} {val : Word} (hlow : off < bar4) (hoff : off ≠ 0x10)
    (hen : s.host.computeEn = false) : exec (.registerWrite off val) s = .next s := by
  show execRegisterWrite off val s = _
  simp [execRegisterWrite, State.writeReg, Nat.ne_of_lt hlow, Nat.not_le.mpr hlow, hoff, hen]

/-- R369: a write of BAR0, other than of W2_BASE, while compute is enabled. -/
theorem registerWrite_bar0 {s : State} {off : Nat} {val : Word} (hlow : off < bar4) (hoff : off ≠ 0x10)
    (hen : s.host.computeEn = true) : exec (.registerWrite off val) s = .next (s.writeBar0 off val) := by
  show execRegisterWrite off val s = _
  simp [execRegisterWrite, State.writeReg, Nat.ne_of_lt hlow, Nat.not_le.mpr hlow, hoff, hen]

/-- The registers of the translation window stand at 0x30000. -/
structure InXlat (k : Nat) : Prop where
  size  : k < 0x300
  whole : k % 4 = 0

theorem InXlat.window {k : Nat} (h : InXlat k) : inWindow 0x30000 0x300 1 (0x30000 + k) = some (0, k) :=
  inWindow_in (q := 0) (by decide) h.size (by have := h.whole; omega)

theorem InXlat.write {k : Nat} (h : InXlat k) {s : State} (hen : s.host.computeEn = true) (val : Word) :
    exec (.registerWrite (0x30000 + k) val) s = .next (s.writeXlat k val) := by
  have := h.size
  rw [registerWrite_bar0 (by simp [bar4]; omega) (by omega) hen, State.writeBar0, inWindow_out (by omega),
    inWindow_out (by omega), h.window]

theorem InXlat.read {k : Nat} (h : InXlat k) {s : State} (hen : s.host.computeEn = true) :
    s.readReg (0x30000 + k) = BitVec.ofNat 32 (s.readXlat k) := by
  have := h.size
  rw [State.readReg, if_neg (by simp [bar4]; omega), if_neg (by omega), if_neg (by omega), if_neg (by omega),
    if_neg (by simp [hen]), State.readBar0, inWindow_out (by omega), inWindow_out (by omega), h.window]

/-- A register outside the translation window, or one that reads as before there, does not change with `xlat`. -/
theorem readReg_xlat_frame {s : State} {y : Xlat} {k : Nat}
    (h : ∀ j, j ≠ k → ({ s with xlat := y } : State).readXlat j = s.readXlat j) (o : Nat) (ho : o ≠ 0x30000 + k) :
    ({ s with xlat := y } : State).readReg o = s.readReg o := by
  have bar0 : ({ s with xlat := y } : State).readBar0 o = s.readBar0 o := by
    unfold State.readBar0
    cases hin : inWindow 0x30000 0x300 1 o with
    | none => rfl
    | some p =>
      obtain ⟨a, j⟩ := p
      have := inWindow_one hin
      simp only [h j (by omega)]
      rfl
  simp only [State.readReg, bar0]

/-- The registers `x` with the addresses of `y`. -/
def Xlat.withAddresses (x y : Xlat) : Xlat := { x with sdVa := y.sdVa, ptRoot := y.ptRoot, pfVa := y.pfVa }

/-- The registers `x` with those of `y` that are no addresses and that a write only stores. -/
def Xlat.withValues (x y : Xlat) : Xlat := { x with sdPages := y.sdPages, qfFrame := y.qfFrame, route := y.route }

/-- A write of register `off` makes it read `w`: it changes translation registers that `keep` takes, and no other register of
the part reads otherwise. -/
def StoresWord (s : State) (off : Nat) (val w : Word) (keep : Xlat → Xlat → Xlat) : Prop :=
  ∃ t, exec (.registerWrite off val) s = .next t ∧ t.readReg off = w ∧ t = { s with xlat := keep s.xlat t.xlat } ∧
    ∀ o, o ≠ off → t.readReg o = s.readReg o

/-- A write that makes `y` of the translation registers, of which register `k` alone reads otherwise. -/
theorem InXlat.written {k : Nat} (hk : InXlat k) {s : State} (hen : s.host.computeEn = true) {val w : Word} {y : Xlat}
    {keep : Xlat → Xlat → Xlat} (hkeep : keep s.xlat y = y)
    (hwrite : s.writeXlat k val = { s with xlat := y })
    (hread : BitVec.ofNat 32 (({ s with xlat := y } : State).readXlat k) = w)
    (hframe : ∀ j, j ≠ k → ({ s with xlat := y } : State).readXlat j = s.readXlat j) :
    StoresWord s (0x30000 + k) val w keep :=
  ⟨{ s with xlat := y }, hwrite ▸ hk.write hen val, (hk.read (s := { s with xlat := y }) hen).trans hread, by rw [hkeep],
    readReg_xlat_frame hframe⟩

/-- An address register of which the low half reads at `lo` of the translation window and the high half after it. -/
structure AddressPair (lo : Nat) (get : Xlat → Nat) (set : Xlat → Nat → Xlat) : Prop where
  low   : InXlat lo
  high  : InXlat (lo + 4)
  got   : ∀ x v, get (set x v) = v
  only  : ∀ x v, x.withAddresses (set x v) = set x v
  reads : ∀ s : State, s.readXlat lo = get s.xlat % 2 ^ 32 ∧ s.readXlat (lo + 4) = get s.xlat / 2 ^ 32
  frame : ∀ (s : State) v j, j ≠ lo → j ≠ lo + 4 → ({ s with xlat := set s.xlat v } : State).readXlat j = s.readXlat j

theorem addressPair_sdVa : AddressPair 0 (·.sdVa) (fun x v => { x with sdVa := v }) := by
  refine ⟨⟨by decide, by decide⟩, ⟨by decide, by decide⟩, fun _ _ => rfl, fun _ _ => rfl,
    fun _ => ⟨rfl, rfl⟩, fun s v j h1 h2 => ?_⟩
  unfold State.readXlat
  split
  case h_1 => exact absurd rfl h1
  case h_2 => exact absurd rfl h2
  all_goals rfl

theorem addressPair_ptRoot : AddressPair 0x18 (·.ptRoot) (fun x v => { x with ptRoot := v }) := by
  refine ⟨⟨by decide, by decide⟩, ⟨by decide, by decide⟩, fun _ _ => rfl, fun _ _ => rfl,
    fun _ => ⟨rfl, rfl⟩, fun s v j h1 h2 => ?_⟩
  unfold State.readXlat
  split
  case h_6 => exact absurd rfl h1
  case h_7 => exact absurd rfl h2
  all_goals rfl

theorem addressPair_pfVa : AddressPair 0x204 (·.pfVa) (fun x v => { x with pfVa := v }) := by
  refine ⟨⟨by decide, by decide⟩, ⟨by decide, by decide⟩, fun _ _ => rfl, fun _ _ => rfl,
    fun _ => ⟨rfl, rfl⟩, fun s v j h1 h2 => ?_⟩
  unfold State.readXlat
  split
  case h_15 => exact absurd rfl h1
  case h_16 => exact absurd rfl h2
  all_goals rfl

section
variable {lo : Nat} {get : Xlat → Nat} {set : Xlat → Nat → Xlat} (hp : AddressPair lo get set) {s : State}
  (hen : s.host.computeEn = true) {val : Word} (mask : Word)
include hp hen

/-- A write of the low half takes the bits of its mask, and no other register of the part reads otherwise. -/
theorem AddressPair.write_low
    (hwrite : s.writeXlat lo val = { s with xlat := set s.xlat (setLow (get s.xlat) val mask.toNat) }) :
    StoresWord s (0x30000 + lo) val (Word.merge (s.readReg (0x30000 + lo)) val mask) Xlat.withAddresses := by
  refine hp.low.written hen (hp.only _ _) hwrite ?_ fun j hj => ?_
  · rw [(hp.reads _).1, hp.got, ofNat_mod_two_pow, ofNat_setLow, hp.low.read hen, (hp.reads _).1, ofNat_mod_two_pow]
  · by_cases hhigh : j = lo + 4
    · rw [hhigh, (hp.reads _).2, (hp.reads _).2, hp.got, setLow_div]
    · exact hp.frame s _ j hj hhigh

/-- A write of the high half takes the bits of its mask, and no other register of the part reads otherwise. -/
theorem AddressPair.write_high
    (hwrite : s.writeXlat (lo + 4) val = { s with xlat := set s.xlat (setHigh (get s.xlat) val mask.toNat) }) :
    StoresWord s (0x30000 + (lo + 4)) val (Word.merge (s.readReg (0x30000 + (lo + 4))) val mask) Xlat.withAddresses := by
  refine hp.high.written hen (hp.only _ _) hwrite ?_ fun j hj => ?_
  · rw [(hp.reads _).2, hp.got, ofNat_setHigh, hp.high.read hen, (hp.reads _).2]
  · by_cases hlow : j = lo
    · rw [hlow, (hp.reads _).1, (hp.reads _).1, hp.got, setHigh_mod]
    · exact hp.frame s _ j hlow hj

end

theorem write_sdPages {s : State} (hen : s.host.computeEn = true) (val : Word) :
    StoresWord s (0x30000 + 0x08) val (val &&& 0xFFFFFFFF#32) Xlat.withValues := by
  refine InXlat.written (y := { s.xlat with sdPages := val }) ⟨by decide, by decide⟩ hen rfl rfl ?_ fun j hj => ?_
  · show BitVec.ofNat 32 val.toNat = _
    rw [show 0xFFFFFFFF#32 = BitVec.allOnes 32 from rfl, BitVec.and_allOnes, BitVec.ofNat_toNat, BitVec.setWidth_eq]
  · unfold State.readXlat
    split
    case h_3 => exact absurd rfl hj
    all_goals rfl

theorem write_qfFrame {s : State} (hen : s.host.computeEn = true) (val : Word) :
    StoresWord s (0x30000 + 0x100) val (val &&& 0x3FFFFFFF#32) Xlat.withValues := by
  refine InXlat.written (y := { s.xlat with qfFrame := bitsOf val.toNat 29 0 }) ⟨by decide, by decide⟩ hen rfl rfl ?_ fun j hj => ?_
  · show BitVec.ofNat 32 (bitsOf val.toNat 29 0) = val &&& BitVec.ofNat 32 (2 ^ 30 - 1)
    rw [and_low_bits (n := 30) (by decide), bitsOf, Nat.pow_zero, Nat.div_one]
  · unfold State.readXlat
    split
    case h_8 => exact absurd rfl hj
    all_goals rfl

theorem write_route {s : State} (hen : s.host.computeEn = true) (val : Word) :
    StoresWord s (0x30000 + 0x200) val (val &&& 1#32) Xlat.withValues := by
  refine InXlat.written (y := { s.xlat with route := bitOf val.toNat 0 }) ⟨by decide, by decide⟩ hen rfl rfl ?_ fun j hj => ?_
  · show BitVec.ofNat 32 (bitOf val.toNat 0).toNat = val &&& BitVec.ofNat 32 (2 ^ 1 - 1)
    rw [and_low_bits (n := 1) (by decide), bitOf, Nat.pow_zero, Nat.div_one]
    rcases Nat.mod_two_eq_zero_or_one val.toNat with h | h <;> simp [h]
  · unfold State.readXlat
    split
    case h_14 => exact absurd rfl hj
    all_goals rfl

/-- R78: a write of a queue's control register. -/
theorem registerWrite_queueControl {s : State} (hen : s.host.computeEn = true) {q : Nat} (hq : q < 64) (val : Word) :
    exec (.registerWrite (0x10000 + 32 * q + 8) val) s = .next (s.setQueue q { s.queue q with
      enable := val.getLsbD 31,
      size := if (s.queue q).enable = true ∨ val.toNat % 32 < 4 ∨ 16 < val.toNat % 32 then (s.queue q).size
        else val.toNat % 32 }) := by
  rw [registerWrite_bar0 (by simp [bar4]; omega) (by omega) hen, State.writeBar0,
    inWindow_in hq (show 8 < 0x20 by decide) (by omega)]
  simp [State.writeQueue, bitOf_toNat, bitsOf]

/-! ### Messages (R371) -/

theorem canSend_iff {s : State} {v : Nat} (hv : v ∈ s.host.pending) :
    s.canSend v = true ↔ s.host.pcieUp = true ∧ (NMap.get 0 s.host.msix (4 * v + 3)).getLsbD 0 = false := by
  simp [State.canSend, hv, bitOf_toNat]

/-! ### Device memory (R185, R370) -/

/-- R370: an access is local when it stays inside the window and every byte of it is in a frame. -/
theorem bar2Local_iff (s : State) (off n : Nat) : s.bar2Local off n = true ↔
    off + n ≤ 2 ^ 36 ∧ ∀ i, i < n → isLocal (s.bar2Addr off + i) = true := by
  simp only [State.bar2Local, Bool.and_eq_true, decide_eq_true_eq, List.all_eq_true, List.mem_range]
  rfl

theorem bar2Local_false_iff (s : State) (off n : Nat) : s.bar2Local off n = false ↔
    2 ^ 36 < off + n ∨ ∃ i, i < n ∧ isLocal (s.bar2Addr off + i) = false := by
  rw [← Bool.not_eq_true, bar2Local_iff, not_and_or, Nat.not_le]
  simp only [not_forall, Bool.not_eq_true, exists_prop]

theorem bar2Waits_false {s : State} {off n : Nat} (h : ∀ i, i < n → s.owned (s.bar2Addr off + i) = false) :
    s.bar2Waits off n = false := by
  have none_owned : (List.range n).any (fun i => s.owned (s.bar2Addr off + i)) = false :=
    List.any_eq_false.mpr fun i hi => by simp [h i (List.mem_range.mp hi)]
  rw [State.bar2Waits, none_owned, Bool.and_false]

theorem State.settled.accepting {s : State} (h : s.settled) : s.Accepting := ⟨h.1, h.2.1⟩

/-- The lines of an access, touched in their L2s. -/
theorem Spills.touchLines {s : State} (h : s.Accepting) (lines : List (Nat × Nat)) :
    Spills s (lines.foldl (fun (s : State) l => s.touchL2 l.1 0) s) :=
  (Spills.refl h).foldl fun _ l _ hu => hu.touchL2 l.1 0

/-- R370: a read that stays in frames and waits for no bulk command. -/
theorem bar2Read_local {s u : State} {off n : Nat} (hen : s.host.computeEn = true) (hlocal : s.bar2Local off n = true)
    (hwaits : s.bar2Waits off n = false)
    (hu : (linesIn (s.bar2Addr off) n).foldl (fun (s : State) l => s.touchL2 l.1 0) s = u) :
    s.bar2Read off n =
      { u.readDone ((List.range n).map fun i => u.hostByte (s.bar2Addr off + i)) with tick := u.tick + 1 } := by
  simp [State.bar2Read, hen, hlocal, hwaits, hu]

/-- An access inside one line. -/
theorem linesIn_one {pa n : Nat} (hn : 0 < n) (h : pa % 64 + n ≤ 64) : linesIn pa n = [(pa, n)] := by
  have count : (pa + n + 63) / 64 - pa / 64 = 1 := by omega
  have first : max pa (lineOf pa + 64 * 0) = pa := by simp [lineOf]; omega
  have length : min (pa + n) (lineOf pa + 64 * (0 + 1)) - pa = n := by simp [lineOf]; omega
  rw [linesIn, count]
  simp only [List.range_one, List.map_cons, List.map_nil, first, length]

/-- Bytes that lie in one line are written as `writeHome` writes them, after the line has entered its L2. -/
theorem homeByte_writeLines_one {s : State} {pa : Nat} {bytes : List Byte} (hne : bytes ≠ []) (hline : pa % 64 + bytes.length ≤ 64)
    (a : Nat) : (s.writeLines pa bytes).homeByte a = ((s.touchL2 pa 0).writeHome pa bytes).homeByte a := by
  have addr (k : Nat) : lineOf pa + (pa % 64 + k) = pa + k := by rw [lineOf]; omega
  rw [State.writeLines, linesIn_one (List.length_pos_iff.mpr hne) hline]
  simp only [List.foldl_cons, List.foldl_nil, homeByte_writeLine, Nat.sub_self, List.drop_zero, List.take_length,
    List.map_map, State.writeHome]
  congr 3
  funext p
  simp [addr]

theorem writeLine_nil (s : State) (line : Nat) : s.writeLine line [] = s := rfl

/-- A write of no byte only touches the L2. -/
theorem spills_writeLines_nil {s : State} (h : s.Accepting) (pa : Nat) : Spills s (s.writeLines pa []) :=
  (Spills.refl h).foldl fun _ l _ hu => by simpa [writeLine_nil] using hu.touchL2 l.1 0

/-- R370: a write that stays in frames and waits for no bulk command. -/
theorem bar2Write_local {s : State} {off : Nat} {bytes : List Byte} (hen : s.host.computeEn = true)
    (hlocal : s.bar2Local off bytes.length = true) (hwaits : s.bar2Waits off bytes.length = false) :
    s.bar2Write off bytes = s.writeLines (s.bar2Addr off) bytes := by
  simp [State.bar2Write, hen, hlocal, hwaits]

/-! ### The host's accesses -/

/-- R369, R370: while compute is disabled a read gives ones. -/
theorem bar2Read_disabled {s : State} (off n : Nat) (hen : s.host.computeEn = false) :
    s.bar2Read off n = s.readDone (List.replicate n 0xFF) := by
  simp [State.bar2Read, hen]

section
variable {s : State} {off pa : Nat} (hpa : s.bar2Addr off = pa) (hen : s.host.computeEn = true)
include hpa hen

/-- R370, R454: a read that names no frame, or reaches beyond the window, gives ones and leaves a record. -/
theorem bar2Read_outside {n : Nat} (hfar : 2 ^ 36 < off + n ∨ ∃ i, i < n ∧ isLocal (pa + i) = false) :
    s.bar2Read off n = (s.ringRecord 0 { code := 0x0203, source := 6, physical := true, addr := some pa }).readDone
      (List.replicate n 0xFF) := by
  subst hpa
  have far := (bar2Local_false_iff s off n).mpr hfar
  simp [State.bar2Read, hen, far, State.bar2Record]

/-- R370, R185: a read inside the frames returns the bytes at their homes when no core holds a newer one. -/
theorem bar2Read_inside {n : Nat} (hsize : off + n ≤ 2 ^ 36)
    (hbytes : ∀ i, i < n → isLocal (pa + i) = true ∧ s.owned (pa + i) = false) (hset : s.settled) :
    let t := s.bar2Read off n
    t.host.readData.length = n ∧ t.host.readUr = false ∧ OnlyStored s t ∧ (s.Clean → t.mem = s.mem ∧
      ∀ i, i < n → s.poisoned (pa + i) = false → t.host.readData[i]? = some (s.homeByte (pa + i))) := by
  subst hpa
  have near := (bar2Local_iff s off n).mpr ⟨hsize, fun i hi => (hbytes i hi).1⟩
  have free := bar2Waits_false fun i hi => (hbytes i hi).2
  have touched := Spills.touchLines hset.accepting (linesIn (s.bar2Addr off) n)
  obtain ⟨u, hu⟩ : ∃ u, (linesIn (s.bar2Addr off) n).foldl (fun (s : State) l => s.touchL2 l.1 0) s = u := ⟨_, rfl⟩
  rw [hu] at touched
  rw [bar2Read_local hen near free hu]
  have answered : Spills s { u.readDone ((List.range n).map fun i => u.hostByte (s.bar2Addr off + i)) with tick := u.tick + 1 } :=
    touched.cores_same rfl rfl rfl rfl rfl
  refine ⟨by simp [State.readDone], rfl, answered.stored, fun hclean => ?_⟩
  obtain ⟨hmem, hpeer, hpoison⟩ := touched.still hclean
  refine ⟨hmem, fun i hi hgood => ?_⟩
  have good : u.poisoned (s.bar2Addr off + i) = false := by rw [State.poisoned, hpoison]; exact hgood
  have byte : u.hostByte (s.bar2Addr off + i) = s.homeByte (s.bar2Addr off + i) := by
    simp [State.hostByte, good, homeByte_congr hmem hpeer]
  simp [State.readDone, hi, byte]

/-- R370, R454: a write that names no frame, or reaches beyond the window, is dropped and leaves a record. -/
theorem bar2Write_outside {bytes : List Byte}
    (hfar : 2 ^ 36 < off + bytes.length ∨ ∃ i, i < bytes.length ∧ isLocal (pa + i) = false) :
    s.bar2Write off bytes = s.ringRecord 0 { code := 0x0203, source := 6, physical := true, addr := some pa } := by
  subst hpa
  have far := (bar2Local_false_iff s off bytes.length).mpr hfar
  simp [State.bar2Write, hen, far, State.bar2Record]

/-- R370, R185: a write inside the frames puts its bytes at their homes, and every other byte is as before or one that a
core had stored. -/
theorem bar2Write_inside {bytes : List Byte} (hsize : off + bytes.length ≤ 2 ^ 36)
    (hbytes : ∀ i, i < bytes.length → isLocal (pa + i) = true ∧ s.owned (pa + i) = false) (hset : s.settled)
    (hline : pa % 64 + bytes.length ≤ 64) :
    let t := s.bar2Write off bytes
    (∀ (i : Nat) b, bytes[i]? = some b → t.homeByte (pa + i) = b) ∧
      ∀ a, a < pa ∨ pa + bytes.length ≤ a → t.homeByte a = s.homeByte a ∨ ∃ c, (s.core c).unwritten a (t.homeByte a) := by
  subst hpa
  have near := (bar2Local_iff s off bytes.length).mpr ⟨hsize, fun i hi => (hbytes i hi).1⟩
  have free := bar2Waits_false fun i hi => (hbytes i hi).2
  rw [bar2Write_local hen near free]
  generalize s.bar2Addr off = pa at hline
  by_cases hne : bytes = []
  · subst hne
    exact ⟨by simp, fun a _ => (spills_writeLines_nil hset.accepting pa).stored a⟩
  · have touched := (Spills.refl hset.accepting).touchL2 pa 0
    refine ⟨fun i b hb => ?_, fun a ha => ?_⟩
    · rw [homeByte_writeLines_one hne hline, homeByte_writeHome touched.wf pa hb]
    · rw [homeByte_writeLines_one hne hline, homeByte_writeHome_other touched.wf ha]
      exact touched.stored a

end

/-- Settles O55: register by register; device memory by what the caches can spill while a line enters its L2. -/
theorem hostAccesses : Obligations.HostAccesses := by
  refine ⟨fun s off val => registerWrite_disabled, fun s off val hen => ⟨?pairs, ?plain, ?queue⟩, fun s off n => ?read,
    fun s off bytes hen => ?write, fun s v hv => ?message, fun s watts => rfl⟩
  case pairs =>
    intro mask hmask
    simp only [List.mem_cons, Prod.mk.injEq, List.not_mem_nil, or_false] at hmask
    rcases hmask with ⟨rfl, rfl⟩ | ⟨rfl, rfl⟩ | ⟨rfl, rfl⟩ | ⟨rfl, rfl⟩ | ⟨rfl, rfl⟩ | ⟨rfl, rfl⟩
    · exact addressPair_sdVa.write_low hen 0xFFFF0000#32 rfl
    · exact addressPair_sdVa.write_high hen 0xFFFFF#32 rfl
    · exact addressPair_ptRoot.write_low hen 0xFFFF8000#32 rfl
    · exact addressPair_ptRoot.write_high hen 0xFFFF#32 rfl
    · exact addressPair_pfVa.write_low hen 0xFFFF0000#32 rfl
    · exact addressPair_pfVa.write_high hen 0xFFFFF#32 rfl
  case plain =>
    intro mask hmask
    simp only [List.mem_cons, Prod.mk.injEq, List.not_mem_nil, or_false] at hmask
    rcases hmask with ⟨rfl, rfl⟩ | ⟨rfl, rfl⟩ | ⟨rfl, rfl⟩
    · exact write_sdPages hen val
    · exact write_qfFrame hen val
    · exact write_route hen val
  case queue =>
    rintro q hq rfl
    refine ⟨_, registerWrite_queueControl hen hq val, ?_⟩
    rw [State.queue_setQueue]
    exact ⟨rfl, rfl, rfl, rfl, rfl, fun p hp => State.queue_setQueue_other s _ hp⟩
  case read =>
    refine ⟨s.bar2Read off n, rfl, bar2Read_disabled off n, fun hen hfar => ?outside,
      fun hen hsize hbytes hset => bar2Read_inside rfl hen hsize hbytes hset⟩
    rw [bar2Read_outside rfl hen hfar]
    exact ⟨rfl, _, rfl, rfl, rfl⟩
  case write =>
    refine ⟨fun hfar => congrArg _ (bar2Write_outside rfl hen hfar), fun hsize hbytes hset hline => ?_⟩
    exact ⟨s.bar2Write off bytes, rfl, bar2Write_inside rfl hen hsize hbytes hset hline⟩
  case message =>
    show execMsixSend v s = _
    have sends := canSend_iff hv
    simp only [execMsixSend, State.send, sends, ne_eq]

end Sys2Proof.Machine
end

section
/-! PROOF. What a completed instruction does to its thread (R38, R60, R61, R216, R219, R220): its results, its advance and
the region that a boundary opens change that thread alone. -/

namespace Sys2Proof.Machine

/-! ### Putting a thread -/

/-- `t` is `s` with thread `tid` replaced, and perhaps numbers used. -/
def Puts (s t : State) (tid : Nat) (th : Thread) : Prop := ∃ n, t = { s.setThread tid th with nextId := n }

theorem puts_setThread (s : State) (tid : Nat) (th : Thread) : Puts s (s.setThread tid th) tid th := ⟨s.nextId, rfl⟩

theorem puts_self {s : State} {tid : Nat} {th : Thread} (h : s.thread tid = some th) : Puts s s tid th :=
  ⟨s.nextId, by rw [State.setThread, NMap.put_of_find h]⟩

section
variable {s t u : State} {tid : Nat} {th th' : Thread} (h : Puts s t tid th)
include h

theorem Puts.thread : t.thread tid = some th := by
  obtain ⟨n, rfl⟩ := h; exact State.thread_setThread s tid th

theorem Puts.thread_other {v : Nat} (hv : v ≠ tid) : t.thread v = s.thread v := by
  obtain ⟨n, rfl⟩ := h; exact State.thread_setThread_other s th hv

theorem Puts.only : OnlyThread s t tid := ⟨fun _ hv => h.thread_other hv, by obtain ⟨n, rfl⟩ := h; rfl⟩

theorem Puts.trans (h2 : Puts t u tid th') : Puts s u tid th' := by
  obtain ⟨n, rfl⟩ := h
  obtain ⟨k, rfl⟩ := h2
  refine ⟨k, ?_⟩
  have twice := setThread_setThread s tid th th'
  simp only [State.setThread, State.mk.injEq, and_true] at twice ⊢
  exact twice

theorem Puts.modThread (f : Thread → Thread) : Puts s (t.modThread tid f) tid (f th) := by
  rw [modThread_eq h.thread]
  exact h.trans (puts_setThread _ _ _)

end

/-! ### Results (R219, R220) -/

/-- `th'` is thread `th` with the results of `i`: those of a fixed-latency instruction in the registers, those of a
variable-latency one pending. -/
structure Resulted (i : Instr) (vals : List RegVal) (th th' : Thread) : Prop where
  now   : isLong i = false → th'.regs = Regs.putAll th.width th.regs vals ∧ th'.pend = th.pend
  later : isLong i = true → isCompare i = false → th'.regs = th.regs ∧ (vals = [] → th'.pend = th.pend) ∧
            (vals ≠ [] → ∃ p, th'.pend = th.pend ++ [p] ∧ p.vals = vals ∧ p.known = true)
  frame : th' = { th with regs := th'.regs, pend := th'.pend, flags := th'.flags, clause := th'.clause }

theorem Thread.setFlag_frame (th : Thread) (flag op : Nat) :
    th.setFlag flag op = { th with flags := (th.setFlag flag op).flags, clause := (th.setFlag flag op).clause } := by
  unfold Thread.setFlag
  split <;> rfl

theorem results_nil {s : State} {i : Instr} (h : isLong i = true) (e : Env) (o : Ops) :
    s.results e i o [] = s.modThread e.tid (fun th => th.setFlag 15 0) := by
  simp [State.results, h]

/-- What a variable-latency instruction leaves pending; a comparison's results are written at once. -/
theorem results_long {s : State} {i : Instr} {vals : List RegVal} (h : isLong i = true) (hv : vals ≠ []) (e : Env) (o : Ops) :
    s.results e i o vals =
      let now := if isCompare i then vals else []
      s.fresh.2.modThread e.tid (fun th => { th.setFlag (e.headerFlag o.len) s.nextId with
        regs := Regs.putAll th.width th.regs now,
        pend := th.pend ++ [{ op := s.nextId, vals := if isCompare i then [] else vals,
                              stale := now.head?.map (fun v => (v.reg, e.th.regs.sideVal v.reg)),
                              known := true, regs := vals.map (·.reg), region := th.region.num }] }) := by
  simp only [State.results, h, hv, Bool.not_true, Bool.false_eq_true, if_false]
  rfl

theorem puts_fresh {s : State} {tid : Nat} {th : Thread} (h : s.thread tid = some th) : Puts s s.fresh.2 tid th :=
  ⟨s.nextId + 1, by rw [State.setThread, NMap.put_of_find h]; rfl⟩

theorem results_puts {s : State} {e : Env} {th : Thread} (h : s.thread e.tid = some th) (i : Instr) (o : Ops)
    (vals : List RegVal) : ∃ th', Puts s (s.results e i o vals) e.tid th' ∧ Resulted i vals th th' := by
  cases hlong : isLong i with
  | false =>
    have put := (puts_self h).modThread (fun th => { th with regs := Regs.putAll th.width th.regs vals })
    rw [← results_short (i := i) (o := o) hlong] at put
    exact ⟨_, put, fun _ => ⟨rfl, rfl⟩, by simp [hlong], rfl⟩
  | true =>
    by_cases hvals : vals = []
    · have put := (puts_self h).modThread (fun th => th.setFlag 15 0)
      rw [← results_nil hlong e o, ← hvals] at put
      rw [Thread.setFlag_frame] at put
      exact ⟨_, put, by simp [hlong], fun _ _ => ⟨rfl, fun _ => rfl, fun hne => absurd hvals hne⟩, rfl⟩
    · have put := (puts_fresh h).modThread (fun th => { th.setFlag (e.headerFlag o.len) s.nextId with
        regs := Regs.putAll th.width th.regs (if isCompare i then vals else []),
        pend := th.pend ++ [{ op := s.nextId, vals := if isCompare i then [] else vals,
                              stale := (if isCompare i then vals else []).head?.map (fun v => (v.reg, e.th.regs.sideVal v.reg)),
                              known := true, regs := vals.map (·.reg), region := th.region.num }] })
      rw [← results_long hlong hvals e o] at put
      dsimp only at put
      rw [Thread.setFlag_frame] at put
      refine ⟨_, put, by simp [hlong], fun _ hcmp => ⟨?_, fun hnil => absurd hnil hvals, fun _ => ⟨_, rfl, ?_, rfl⟩⟩, rfl⟩
      · simp [hcmp, Regs.putAll]
      · simp [hcmp]

/-! ### The advance (R38, R61, R216) -/

/-- `th'` is thread `th`, which stands at `pc` now and can go on, in the region that it was in. -/
structure Advanced (pc : Nat) (th th' : Thread) : Prop where
  stands : th'.pc = pc
  ready  : th'.wait = .ready
  frame  : th' = { th with pc := th'.pc, wait := th'.wait, clause := th'.clause, idle := th'.idle, fetched := th'.fetched,
                           region := th'.region }

/-- `th'` is thread `th`, which has passed a boundary and stands in the region that starts at `pc`. -/
structure Opened (pc : Nat) (th th' : Thread) : Prop where
  stands : th'.pc = pc
  ready  : th'.wait = .ready
  region : th'.region.num = th.region.num + 1 ∧ th'.region.start = pc ∧ th'.region.newV = 0 ∧ th'.region.newS = 0 ∧
             th'.region.newK = 0 ∧ th'.region.newM = 0
  frame  : th' = { th with pc := th'.pc, wait := th'.wait, clause := th'.clause, idle := th'.idle, fetched := th'.fetched,
                           region := th'.region, checkErr := th'.checkErr, pair := th'.pair }
  unpaired : th.pair = none → th'.pair = none

/-- The thread as it is passed, in its old region still. -/
def Thread.passed (th : Thread) (len pc idle : Nat) (wrote : List RegId) : Thread :=
  { th.passWords len with pc := pc, wait := .ready, idle := idle, fetched := th.keepBlock pc,
                          region := th.region.wrote (wrote ++ th.due) }

theorem Thread.advanced_passed (th : Thread) (len pc idle : Nat) (wrote : List RegId) :
    Advanced pc th (th.passed len pc idle wrote) := ⟨rfl, rfl, rfl⟩

section
variable {s t : State} {tid : Nat} {th : Thread} (h : Puts s t tid th) {i : Instr} (len pc : Nat) (wrote : List RegId)
include h

theorem Puts.advance_plain (hi : isBoundary i = false ∨ ∃ o, i = .region o) :
    ∃ th', Puts s (t.advance tid i len pc wrote) tid th' ∧ Advanced pc th th' := by
  have eq : t.advance tid i len pc wrote = t.modThread tid (fun th => th.passed len pc (t.stallOf tid len) wrote) := by
    rcases hi with hi | ⟨o, rfl⟩
    · exact Sys2Proof.Machine.advance_plain hi
    · rfl
  rw [eq]
  exact ⟨_, h.modThread _, th.advanced_passed _ _ _ _⟩

end

section
variable {t : State} {tid len pc : Nat} {th : Thread} {i : Instr} {wrote : List RegId} (h : t.thread tid = some th)
include h

/-- A boundary is none of a sprout's. -/
theorem advance_sprout (hw : th.isWarp = false) :
    t.advance tid i len pc wrote = t.modThread tid (fun th => th.passed len pc (t.stallOf tid len) wrote) := by
  have look : (t.modThread tid (fun th => th.passed len pc (t.stallOf tid len) wrote)).thread tid = _ :=
    (State.thread_modThread t tid _).trans (congrArg _ h)
  simp only [Thread.passed, Option.map_some] at look
  simp only [State.advance, look, h]
  split
  · rfl
  · rw [if_neg]
    · rfl
    · exact fun hif => by simp_all [Thread.passWords, Thread.isWarp]

/-- R61: an implicit boundary opens a region of a warp. -/
theorem advance_boundary (hw : th.isWarp = true) (hi : isBoundary i = true) (hr : ∀ o, i ≠ .region o) :
    t.advance tid i len pc wrote =
      (t.modThread tid (fun th => th.passed len pc (t.stallOf tid len) wrote)).boundary tid th.pc pc none := by
  have look : (t.modThread tid (fun th => th.passed len pc (t.stallOf tid len) wrote)).thread tid = _ :=
    (State.thread_modThread t tid _).trans (congrArg _ h)
  simp only [Thread.passed, Option.map_some] at look
  simp only [State.advance, look, h]
  exact if_pos (Bool.and_eq_true_iff.mpr ⟨hi, hw⟩)

end

theorem inject_of_not_test {s : State} (h : s.host.testMode = false) (tid : Nat) : s.inject tid = s := by
  unfold State.inject
  split
  · rfl
  · simp [h]

/-- R471: a checkpoint changes what a paired copy keeps, and nothing else. -/
theorem Puts.checkpoint {s t : State} {tid : Nat} {th : Thread} (h : Puts s t tid th) (addr : Nat) :
    ∃ p, Puts s (t.checkpoint tid addr) tid { th with pair := p } ∧ (th.pair = none → p = none) := by
  unfold State.checkpoint
  split
  · exact ⟨th.pair, h, id⟩
  · rename_i e he
    obtain ⟨hth, -⟩ := envOf_thread he
    rw [h.thread, Option.some.injEq] at hth
    split
    · exact ⟨th.pair, h, id⟩
    · rename_i p hp
      have paired : th.pair ≠ none := by rw [hth, hp]; simp
      dsimp only
      split
      · exact ⟨th.pair, h, id⟩
      · rw [← hth]
        exact ⟨_, h.trans (puts_setThread _ _ _), fun hn => absurd hn paired⟩

theorem Thread.openRegion_frame (th : Thread) (pc clock : Nat) (named : Option RegionMasks) :
    th.openRegion pc clock named = { th with checkErr := (th.openRegion pc clock named).checkErr,
                                             region := (th.openRegion pc clock named).region } := rfl

section
variable {s t : State} {tid : Nat} {th : Thread} (h : Puts s t tid th)
include h

theorem Puts.boundary (ht : t.host.testMode = false) (addr pc : Nat) (named : Option RegionMasks) :
    ∃ p, Puts s (t.boundary tid addr pc named) tid { th.openRegion pc t.clock.toNat named with pair := p } ∧
      (th.pair = none → p = none) := by
  obtain ⟨p, put, hp⟩ := (h.modThread (fun th => th.openRegion pc t.clock.toNat named)).checkpoint addr
  have still : ((t.modThread tid (fun th => th.openRegion pc t.clock.toNat named)).checkpoint tid addr).host.testMode = false := by
    obtain ⟨n, rfl⟩ := h
    obtain ⟨k, hk⟩ := put
    rw [hk]; exact ht
  exact ⟨p, by rw [State.boundary, inject_of_not_test still]; exact put, hp⟩

/-- R61: a boundary that a warp passes outside test mode. -/
theorem Puts.advance_boundary (hw : th.isWarp = true) {i : Instr} (hi : isBoundary i = true) (hr : ∀ o, i ≠ .region o)
    (ht : t.host.testMode = false) (len pc : Nat) (wrote : List RegId) :
    ∃ th', Puts s (t.advance tid i len pc wrote) tid th' ∧ Opened pc th th' := by
  rw [Sys2Proof.Machine.advance_boundary h.thread hw hi hr]
  obtain ⟨p, put, hp⟩ := (h.modThread (fun th => th.passed len pc (t.stallOf tid len) wrote)).boundary
    (by simpa using ht) th.pc pc none
  exact ⟨_, put, rfl, rfl, ⟨rfl, rfl, rfl, rfl, rfl, rfl⟩, rfl, hp⟩

end

/-! ### Completion outside boundaries -/

/-- The thread as `i` leaves it that completes with `vals` at `pc`. -/
structure Done (i : Instr) (vals : List RegVal) (pc : Nat) (th th' : Thread) : Prop where
  stands : th'.pc = pc
  ready  : th'.wait = .ready
  now    : isLong i = false → th'.regs = Regs.putAll th.width th.regs vals ∧ th'.pend = th.pend
  later  : isLong i = true → isCompare i = false → th'.regs = th.regs ∧ (vals = [] → th'.pend = th.pend) ∧
             (vals ≠ [] → ∃ p, th'.pend = th.pend ++ [p] ∧ p.vals = vals ∧ p.known = true)
  frame  : th' = { th with regs := th'.regs, pend := th'.pend, flags := th'.flags, clause := th'.clause, pc := th'.pc,
                           wait := th'.wait, region := th'.region, idle := th'.idle, fetched := th'.fetched }

theorem Resulted.done {i : Instr} {vals : List RegVal} {pc : Nat} {th th' th'' : Thread} (h : Resulted i vals th th')
    (h' : Advanced pc th' th'') : Done i vals pc th th'' := by
  obtain ⟨stands, ready, frame⟩ := h'
  have regs : th''.regs = th'.regs := by rw [frame]
  have pend : th''.pend = th'.pend := by rw [frame]
  refine ⟨stands, ready, ?_, ?_, ?_⟩
  · rw [regs, pend]; exact h.now
  · rw [regs, pend]; exact h.later
  · rw [frame, h.frame]

theorem Done.wrote {i : Instr} {vals : List RegVal} {pc : Nat} {e : Env} {th : Thread} (h : Done i vals pc e.th th) :
    Wrote e e.th.regs i vals pc th := by
  obtain ⟨stands, ready, now, later, frame⟩ := h
  refine ⟨stands, ready, now, fun hl hc => ?_, frame⟩
  obtain ⟨regs, -, pend⟩ := later hl hc
  exact ⟨regs, pend⟩

/-- An instruction that is no boundary completes: its thread alone has changed further. -/
theorem exec_done_puts {s s' : State} {i : Instr} {o : Ops} {e : Env} {vals : List RegVal} {body : Env → State → Res}
    {th : Thread} (h : s.issues i o e) (hexec : exec i s = issue s i o body) (hb : body e s = .done s' vals)
    (look : s'.thread e.tid = some th) (hi : isBoundary i = false ∨ ∃ o, i = .region o) :
    ∃ t th', exec i s = .next t ∧ Puts s' t e.tid th' ∧ Done i vals (s.cur.pc + 4 * o.len) th th' := by
  obtain ⟨th1, put1, res⟩ := results_puts look i o vals
  obtain ⟨th2, put2, adv⟩ := put1.advance_plain o.len (s.cur.pc + 4 * o.len) (vals.map (·.reg)) hi
  exact ⟨_, th2, hexec.trans (issue_done h hb), put2, res.done adv⟩

/-- An instruction that changes nothing but its results completes. -/
theorem completes_of_done {s : State} {i : Instr} {o : Ops} {e : Env} {vals : List RegVal} {body : Env → State → Res}
    (h : s.issues i o e) (hexec : exec i s = issue s i o body) (hb : body e s = .done s vals) (hi : isBoundary i = false) :
    Completes s i o e vals := by
  obtain ⟨t, th, hrun, put, done⟩ := exec_done_puts h hexec hb (issues_thread h) (.inl hi)
  exact ⟨t, th, hrun, put.only, put.thread, done.wrote⟩

end Sys2Proof.Machine
end

section
/-! PROOF. Special registers as `sread` gives them (R109, R112, R346), and the regions that `region` opens (R275). -/

namespace Sys2Proof.Machine

/-! ### Results of 32 and 64 bits -/

theorem destVals_scal_n32 (base d x : Nat) : destVals base .n32 (.s d) 0 x = [.s d (BitVec.ofNat 32 x)] := by
  simp only [← ofNat_mod_two_pow 32 x]
  rfl

theorem destVals_vec_n32 (base d l x : Nat) : destVals base .n32 (.v d) l x = [.v d l (BitVec.ofNat 32 x)] := by
  simp only [← ofNat_mod_two_pow 32 x]
  rfl

theorem destVals_scal_n64 (base d : Nat) (x : DWord) :
    destVals base .n64 (.s d) 0 x.toNat = [.s d (x.setWidth 32), .s (d + 1) ((x >>> 32).setWidth 32)] := by
  have whole : Ty.n64.toReg x.toNat = x.toNat := Nat.mod_eq_of_lt x.isLt
  have high : BitVec.ofNat 32 (x.toNat / 2 ^ 32) = (x >>> 32).setWidth 32 :=
    BitVec.eq_of_toNat_eq (by simp [BitVec.toNat_ushiftRight, Nat.shiftRight_eq_div_pow])
  have low : BitVec.ofNat 32 x.toNat = x.setWidth 32 := BitVec.eq_of_toNat_eq (by simp)
  rw [← high, ← low]
  simp only [destVals, regWords, whole]
  rfl

/-! ### `sread` -/

/-- What `sread` writes of a special register `n` that reads as `x`. -/
def specialVals (n : Nat) (d : Opd) (x : Nat) : List RegVal :=
  match d with
  | .k k => [.k k (BitVec.ofNat 64 x)]
  | d => destVals 0 (if wideSpecial n then .n64 else .n32) d 0 x

theorem specialVals_scal (n d x : Nat) :
    specialVals n (.s d) x = destVals 0 (if wideSpecial n then .n64 else .n32) (.s d) 0 x := rfl

/-- R109, R346: a special register that is not per lane, and whose value the spec states, moves once. -/
theorem sread_completes {s : State} {e : Env} {o : Ops} {n : Nat} (h : s.issues (.sread o) o e) (hact : e.th.active o ≠ 0)
    (ha : o.a = .sp n) (hn : n ≠ 0) (hw : n = 1 → e.th.isWarp = true) :
    Completes s (.sread o) o e (specialVals n o.dst (s.special e n)) := by
  refine completes_of_done h rfl ?_ rfl
  have stated : (decide (n = 1) && !e.th.isWarp) = false := by
    by_cases h1 : n = 1
    · simp [hw h1]
    · simp [h1]
  simp only [hact, ha, hn, stated, specialVals]
  cases o.dst <;> rfl

section
variable {s : State} {e : Env} {o : Ops} {n d : Nat} (h : s.issues (.sread o) o e) (hact : e.th.active o ≠ 0)
include h hact

/-- A register of 32 bits moves to a scalar. -/
theorem sread_word {x : Word} (hn : n ≠ 0) (hwide : wideSpecial n = false) (hw : n = 1 → e.th.isWarp = true)
    (hx : BitVec.ofNat 32 (s.special e n) = x) (ha : o.a = .sp n) (hd : o.dst = .s d) :
    Completes s (.sread o) o e [.s d x] := by
  have run := sread_completes h hact ha hn hw
  rwa [hd, specialVals_scal, hwide, if_neg Bool.false_ne_true, destVals_scal_n32, hx] at run

/-- A register of 64 bits moves to a scalar pair. -/
theorem sread_pair {x : DWord} (hwide : wideSpecial n = true) (hx : s.special e n = x.toNat) (ha : o.a = .sp n)
    (hd : o.dst = .s d) :
    Completes s (.sread o) o e [.s d (x.setWidth 32), .s (d + 1) ((x >>> 32).setWidth 32)] := by
  have hn : n ≠ 0 := by rintro rfl; simp [wideSpecial] at hwide
  have hw : n = 1 → e.th.isWarp = true := by rintro rfl; simp [wideSpecial] at hwide
  have run := sread_completes h hact ha hn hw
  rwa [hd, specialVals_scal, hwide, if_pos rfl, hx, destVals_scal_n64] at run

theorem sread_lane_id (ha : o.a = .sp 0) (hd : o.dst = .v d) :
    Completes s (.sread o) o e ((e.th.activeLanes o).map fun l => .v d l (BitVec.ofNat 32 l)) := by
  refine completes_of_done h rfl ?_ rfl
  simp only [hact, ha, hd, if_false, if_true, destVals_vec_n32, ← List.map_eq_flatMap]

/-- `warp_id` of a sprout: some value. -/
theorem sread_sprout (hs : e.th.isWarp = false) (ha : o.a = .sp 1) (hd : o.dst = .s d) :
    ∃ t th x, exec (.sread o) s = .next t ∧ t.thread e.tid = some th ∧
      Wrote e e.th.regs (.sread o) [.s d x] (s.cur.pc + 4 * o.len) th ∧ (∀ u, u ≠ e.tid → t.thread u = s.thread u) ∧
      t = { s with threads := t.threads, nextId := t.nextId, tick := t.tick } := by
  have look : (s.draw (2 ^ 32)).2.thread e.tid = some e.th := by
    rw [← issues_thread h]; exact congrArg (NMap.find · e.tid) (State.draw_threads s _)
  obtain ⟨t, th, hrun, put, done⟩ := exec_done_puts (vals := destVals 0 .n32 (.s d) 0 (s.draw (2 ^ 32)).1) h rfl
    (by simp only [hact, ha, hd, hs]; rfl) look (.inl rfl)
  rw [destVals_scal_n32] at done
  refine ⟨t, th, _, hrun, put.thread, done.wrote, fun u hu => ?_, ?_⟩
  · rw [put.thread_other hu]; exact congrArg (NMap.find · u) (State.draw_threads s _)
  · obtain ⟨n, rfl⟩ := put
    simp only [State.draw]
    split <;> rfl

end

/-- Settles O31: each register moves as its width and the model's value of it say. -/
theorem specialReads : Obligations.SpecialReads := by
  intro s e o d h
  refine ⟨fun hact => ?none, fun hact => ?some, fun j g hw hg => ?rank, fun j hj => ?noRank⟩
  case none => exact completes_of_done h rfl (by simp only [hact, if_true]) rfl
  case rank => simp [Env.setRank, hw, hg]
  case noRank =>
    rcases hj with hw | hg
    · simp [Env.setRank, hw]
    · simp [Env.setRank, hg]
  case some =>
    intro word pair
    have words {n : Nat} {x : Word} (hn : n ∉ [0x00, 0x01, 0x18, 0x30, 0x36]) (hx : BitVec.ofNat 32 (s.special e n) = x) :
        word n x := by
      simp only [List.mem_cons, List.not_mem_nil, or_false, not_or] at hn
      exact sread_word h hact hn.1 (by simp [wideSpecial, hn]) (fun h1 => absurd h1 hn.2.1) hx
    have keeps {n : Nat} {x : Word} (hn : n ∉ [0x00, 0x01, 0x18, 0x30, 0x36]) (hx : s.special e n = x.toNat) : word n x :=
      words hn (by rw [hx, BitVec.ofNat_toNat, BitVec.setWidth_eq])
    have pairs {n : Nat} {x : DWord} (hw : wideSpecial n = true) (hx : s.special e n = x.toNat) : pair n x :=
      sread_pair h hact hw hx
    refine ⟨sread_lane_id h hact, fun hw => sread_word h hact (by decide) rfl (fun _ => hw) rfl,
      fun hs => sread_sprout h hact hs, words (by decide) rfl, words (by decide) rfl, words (by decide) rfl,
      keeps (by decide) rfl, keeps (by decide) rfl, keeps (by decide) rfl, pairs rfl rfl, words (by decide) rfl,
      keeps (by decide) rfl, keeps (by decide) rfl, keeps (by decide) rfl, keeps (by decide) rfl, keeps (by decide) rfl,
      keeps (by decide) rfl, keeps (by decide) rfl, keeps (by decide) rfl, pairs rfl rfl, keeps (by decide) rfl,
      keeps (by decide) rfl, keeps (by decide) rfl, keeps (by decide) rfl, keeps (by decide) rfl, pairs rfl rfl,
      fun ha hd => ?mask, words (by decide) rfl, words (by decide) rfl, words (by decide) rfl, words (by decide) rfl,
      words (by decide) ?inject⟩
    case mask =>
      have run := sread_completes h hact ha (by decide) (by simp)
      have moved : specialVals 0x36 (.k d) (s.special e 0x36) = [.k d e.th.trap.mask] := by
        simp [specialVals, State.special]
      rwa [hd, moved] at run
    case inject =>
      simp only [State.special]
      split <;> simp_all

/-! ### `region` (R275) -/

/-- A warp of region 0 that has fetched a word at 0x10000 and owes `v0` a result of region 1, which it has not opened. -/
def owesNextRegion : State :=
  let s := (State.reset.withFetchWord 64 0x3000).modThread 3 fun th =>
    { th with pend := [{ op := 9, vals := [], stale := none, known := true, regs := [.v 0], region := 1 }] }
  { s with issueQ := [], cur := { tid := 3, pc := 0x10000, words := [] } }

/-- The fields of `region 0`. -/
def regionZero : Ops := { Ops.blank with len := 3, scope := .warp }

/-- The result that is still owed counts at once as written since the region that `region` opens began (R61). -/
theorem region_counts_owed_result : (owesNextRegion.env.any fun e =>
    decide (owesNextRegion.issues (.region regionZero) regionZero e) && decide (e.tid = 3) &&
      e.la.obj.regions[regionZero.imm.toNat]?.isSome) = true ∧
    owesNextRegion.host.testMode = false ∧
    (match exec (.region regionZero) owesNextRegion with
      | .next t => (t.thread 3).all fun th => decide (th.region.newV = 1)
      | _ => false) = true := by
  decide +kernel

/-- Refutes O24: of a thread that still owes a result of the region that `region` opens, as `owesNextRegion` does, the
registers written since that region began are not none. -/
theorem not_regionsOpen : ¬ Obligations.RegionsOpen := by
  intro h
  obtain ⟨issues, htest, run⟩ := region_counts_owed_result
  obtain ⟨e, -, he⟩ := (Option.any_eq_true _ _).mp issues
  simp only [Bool.and_eq_true, decide_eq_true_eq, Option.isSome_iff_exists] at he
  obtain ⟨⟨hissues, htid⟩, m, hm⟩ := he
  obtain ⟨t, th, hexec, -, hth, -, -, -, -, -, -, -, -, -, -, -, -, newV, -⟩ := (h _ e regionZero hissues).1 m hm htest
  simp [hexec, ← htid, hth, newV] at run

end Sys2Proof.Machine
end

section
/-! PROOF. Set and block scope (R45 to R54, R410, R411): what a rendezvous acts on, and what completing it or trapping in it
leaves. -/

namespace Sys2Proof.Machine

/-! ### Members as they stand while their rendezvous executes -/

/-- An environment as it stands in a rendezvous: the same thread, launch and block but for what the thread waits on and the
rendezvous of the block. -/
structure Env.SameIn (f g : Env) : Prop where
  tid : g.tid = f.tid
  la  : g.la = f.la
  th  : g.th = { f.th with wait := g.th.wait }
  blk : g.blk = { f.blk with rends := g.blk.rends }

/-- Every member of a lane space as `φ` has it. -/
def SetCtx.mapEnv (c : SetCtx) (φ : Env → Env) : SetCtx :=
  { c with leader := φ c.leader, members := c.members.map fun m => (m.1, φ m.2) }

section
variable {f g : Env} (h : f.SameIn g)
include h

theorem Env.SameIn.regs : g.th.regs = f.th.regs := by rw [h.th]
theorem Env.SameIn.active (o : Ops) : g.th.active o = f.th.active o := by rw [h.th]; rfl
theorem Env.SameIn.live : g.th.live = f.th.live := by rw [h.th]; rfl
theorem Env.SameIn.isWarp : g.th.isWarp = f.th.isWarp := by rw [h.th]; rfl
theorem Env.SameIn.block : g.th.block = f.th.block := by rw [h.th]
theorem Env.SameIn.checkErr : g.th.checkErr = f.th.checkErr := by rw [h.th]
theorem Env.SameIn.fp : g.fp = f.fp := by rw [Env.fp, Env.fp, h.regs]
theorem Env.SameIn.erratum (n : Nat) : g.erratum n = f.erratum n := by rw [Env.erratum, Env.erratum, h.la]
theorem Env.SameIn.flawRead (i : Instr) (base : Nat) : g.flawRead i base = f.flawRead i base := by
  rw [Env.flawRead, Env.flawRead, h.th]; rfl

end

theorem SetCtx.member_mapEnv (c : SetCtx) (φ : Env → Env) (l : Nat) : (c.mapEnv φ).member l = (c.member l).map fun p => (φ p.1, p.2) := by
  simp only [SetCtx.member, SetCtx.mapEnv, List.find?_map, Option.map_map]
  rfl

section
variable {c : SetCtx} {φ : Env → Env} (h : ∀ f : Env, f.SameIn (φ f))
include h

@[simp] theorem SetCtx.raw_mapEnv : (c.mapEnv φ).raw = c.raw := by
  funext ty d l
  have leader := (h c.leader).regs
  cases d <;> simp only [SetCtx.raw, SetCtx.member_mapEnv] <;> try (exact congrArg (fun r : Regs => r.raw c.base ty 0 _) leader)
  all_goals
    cases c.member l with
    | none => rfl
    | some p => exact congrArg (fun r : Regs => r.raw c.base ty p.2 _) (h p.1).regs

theorem SetCtx.active_mapEnv (o : Ops) : (c.mapEnv φ).active o = c.active o := by
  funext l
  simp only [SetCtx.active, SetCtx.member_mapEnv]
  cases c.member l with
  | none => rfl
  | some p => simp only [Option.map_some, (h p.1).active]

theorem SetCtx.actives_mapEnv (o : Ops) : (c.mapEnv φ).actives o = c.actives o := by
  rw [SetCtx.actives, SetCtx.active_mapEnv h]; rfl

theorem SetCtx.leaf_mapEnv (o : Ops) : (c.mapEnv φ).leaf o = c.leaf o := by
  funext l; rw [SetCtx.leaf, SetCtx.leaf, SetCtx.active_mapEnv h, SetCtx.raw_mapEnv h]

theorem SetCtx.lanesOut_mapEnv (ty : Ty) (d : Opd) (res : List (Nat × Nat)) :
    (c.mapEnv φ).lanesOut ty d res = c.lanesOut ty d res := by
  simp only [SetCtx.lanesOut, SetCtx.mapEnv, List.map_map]
  exact List.map_congr_left fun m _ => by simp only [Function.comp, (h _).tid]; rfl

theorem SetCtx.scalarOut_mapEnv (ty : Ty) (d : Opd) (x : Nat) : (c.mapEnv φ).scalarOut ty d x = c.scalarOut ty d x := by
  simp [SetCtx.scalarOut, SetCtx.mapEnv, (h _).tid]

theorem SetCtx.masks_mapEnv (o : Ops) : (c.mapEnv φ).masks o = c.masks o := by
  simp [SetCtx.masks, SetCtx.mapEnv, (h _).tid, (h _).active]

end

/-! ### The members of a set -/

theorem membersOf_setOf {e : Env} {o : Ops} {set base : Nat} {all : List Nat} (h : e.setOf o = (set, base, all))
    (hne : all ≠ []) : e.blk.membersOf e.la.obj set = all := by
  unfold Env.setOf at h
  split at h
  · obtain ⟨rfl, hrest⟩ := Prod.mk.inj h
    exact (Prod.mk.inj hrest).2
  · split at h
    · obtain ⟨rfl, hrest⟩ := Prod.mk.inj h
      exact (Prod.mk.inj hrest).2
    · exact absurd (Prod.mk.inj (Prod.mk.inj h).2).2.symm hne

theorem setCtx_some {s : State} {e : Env} {o : Ops} {c : SetCtx} {set base : Nat} {all : List Nat}
    (h : e.setOf o = (set, base, all)) (hc : s.setCtx e o = some c) :
    c.set = set ∧ c.base = base ∧ c.width = e.th.width ∧ c.size = all.length ∧
      c.members = (all.zipIdx.filterMap (fun p => (s.envOf p.1).map (fun m => (p.2, m)))).filter (fun p => p.2.th.live) ∧
      ∃ j, c.members.head? = some (j, c.leader) := by
  simp only [State.setCtx, h] at hc
  split at hc
  · exact absurd hc (by simp)
  · rename_i m _ hms
    obtain rfl := Option.some.inj hc
    exact ⟨rfl, rfl, rfl, rfl, rfl, m.1, by simp [hms]⟩

theorem mem_members {s : State} {e : Env} {o : Ops} {c : SetCtx} {set base : Nat} {all : List Nat}
    (h : e.setOf o = (set, base, all)) (hc : s.setCtx e o = some c) (j : Nat) (f : Env) :
    (j, f) ∈ c.members ↔ all[j]? = some f.tid ∧ s.envOf f.tid = some f ∧ f.th.live = true := by
  obtain ⟨-, -, -, -, members, -⟩ := setCtx_some h hc
  rw [members, List.mem_filter, List.mem_filterMap]
  constructor
  · rintro ⟨⟨⟨m, k⟩, hmem, hmap⟩, hlive⟩
    obtain ⟨g, hg, heq⟩ := Option.map_eq_some_iff.mp hmap
    obtain ⟨rfl, rfl⟩ := Prod.mk.inj heq
    obtain rfl := (envOf_thread hg).2
    exact ⟨List.mem_zipIdx_iff_getElem?.mp hmem, hg, hlive⟩
  · rintro ⟨hall, henv, hlive⟩
    exact ⟨⟨(f.tid, j), List.mem_zipIdx_iff_getElem?.mpr hall, by simp [henv]⟩, hlive⟩

/-! ### The last arrival (R52, R53) -/

/-- An environment as it stands once thread `tid` has arrived, with these rendezvous in the block. -/
def Env.inRend (tid set : Nat) (rends : List Rendezvous) (f : Env) : Env :=
  { f with th := if f.tid = tid then { f.th with wait := .rendezvous set } else f.th, blk := { f.blk with rends := rends } }

/-- The machine once thread `e` has arrived, with these rendezvous in its block. -/
def State.meets (s : State) (e : Env) (set : Nat) (rends : List Rendezvous) : State :=
  (s.setBlock e.th.block { e.blk with rends := rends }).setThread e.tid { e.th with wait := .rendezvous set }

theorem Env.sameIn_inRend (tid set : Nat) (rends : List Rendezvous) (f : Env) : f.SameIn (f.inRend tid set rends) := by
  refine ⟨rfl, rfl, ?_, rfl⟩
  simp only [Env.inRend]
  split <;> rfl

section
variable {s : State} {e : Env} {set : Nat} {rends : List Rendezvous}

theorem envOf_eq_some {t : State} {m : Nat} {f : Env} (htid : f.tid = m) (hth : t.thread m = some f.th)
    (hblk : t.block f.th.block = some f.blk) (hla : t.launch f.blk.launch = some f.la) : t.envOf m = some f := by
  subst htid
  simp [State.envOf, hth, hblk, hla]

theorem envOf_meets {m : Nat} {f : Env} (he : s.thread e.tid = some e.th) (hf : s.envOf m = some f)
    (hblock : f.th.block = e.th.block) (hblk : s.block e.th.block = some e.blk) :
    (s.meets e set rends).envOf m = some (f.inRend e.tid set rends) := by
  obtain ⟨hth, rfl⟩ := envOf_thread hf
  obtain ⟨hfblk, hfla⟩ := envOf_block hf
  have hb : f.blk = e.blk := Option.some.inj ((hblock ▸ hfblk).symm.trans hblk)
  have same := Env.sameIn_inRend e.tid set rends f
  refine envOf_eq_some rfl ?_ ?_ hfla
  · by_cases hm : f.tid = e.tid
    · have ht : f.th = e.th := Option.some.inj ((hm ▸ hth).symm.trans he)
      simp only [State.meets, hm, State.thread_setThread, Env.inRend, if_true, ht]
    · rw [State.meets, State.thread_setThread_other _ _ hm]
      exact hth.trans (by rw [Env.inRend, if_neg hm])
  · rw [same.block, hblock, Env.inRend, hb]
    exact State.block_setBlock _ _ _

/-- A thread arrives: the rendezvous of its block change, and it waits. -/
theorem modBlock_hold (he : s.thread e.tid = some e.th) (hblk : s.block e.th.block = some e.blk)
    (g : List Rendezvous → List Rendezvous) :
    (s.modBlock e.th.block (fun b => { b with rends := g b.rends })).hold e.tid (.rendezvous set) =
      s.meets e set (g e.blk.rends) := by
  rw [State.modBlock, hblk]
  exact hold_eq (s := s.setBlock e.th.block { e.blk with rends := g e.blk.rends }) (he : (s.setBlock e.th.block { e.blk with rends := g e.blk.rends }).thread e.tid = _) _

theorem liveMembers_meets (he : s.thread e.tid = some e.th) (b : Block) (ob : CodeObj) (n : Nat) :
    (s.meets e set rends).liveMembers b ob n = s.liveMembers b ob n := by
  refine List.filter_congr fun m _ => ?_
  by_cases hm : m = e.tid
  · rw [hm, he, State.meets, State.thread_setThread]; rfl
  · rw [State.meets, State.thread_setThread_other _ _ hm]; rfl

theorem rendDone_meets (he : s.thread e.tid = some e.th) (hla : s.launch e.blk.launch = some e.la) (r : Rendezvous) :
    (s.meets e set rends).rendDone e.blk r =
      (s.liveMembers e.blk e.la.obj r.set).all fun t => r.arrived.contains t := by
  have obj : (s.meets e set rends).objOf e.blk = some e.la.obj := congrArg (Option.map fun l : Launch => l.obj) hla
  simp only [State.rendDone, obj, liveMembers_meets he]

theorem issueSet_eq (h : s.env = some e) (i : Instr) (o : Ops) (body : SetCtx → State → SetRes) :
    issueSet s i o body = .next (s.issueSetAt e i o body) := by
  simp only [issueSet, h]

/-- Nothing of the thread's own holds back its arrival at a set- or block-scope instruction. -/
abbrev State.mayArrive (s : State) (e : Env) (i : Instr) (o : Ops) : Prop :=
  e.th.pend = [] ∧ e.flagHazard i o.len = false ∧ e.pairHazard i = false ∧ s.accessHold e i = false

/-- R52: the first member to arrive opens the rendezvous. -/
theorem issueSetAt_opens {i : Instr} {o : Ops} {base : Nat} {all : List Nat} (he : s.thread e.tid = some e.th)
    (hblk : s.block e.th.block = some e.blk) (hset : e.setOf o = (set, base, all)) (hmay : s.mayArrive e i o)
    (hfind : e.blk.rends.find? (fun r => r.set = set) = none) (body : SetCtx → State → SetRes) {r : Rendezvous}
    (hr : r = { set := set, addr := s.cur.pc, instr := i, words := s.cur.words, arrived := [e.tid] }) :
    s.issueSetAt e i o body =
      if (s.meets e set (e.blk.rends ++ [r])).rendDone e.blk r then
        (s.meets e set (e.blk.rends ++ [r])).execSet e i o body
      else (s.meets e set (e.blk.rends ++ [r])).checkDeadlock e.th.block := by
  obtain ⟨hpend, hflag, hpair, hhold⟩ := hmay
  rw [← modBlock_hold he hblk (· ++ [r]), hr]
  simp only [State.issueSetAt, hset, hfind, hpend, hflag, hpair, hhold]
  rfl

/-- R52, R53: a further member arrives at the address of the rendezvous. -/
theorem issueSetAt_joins {i : Instr} {o : Ops} {base : Nat} {all : List Nat} (he : s.thread e.tid = some e.th)
    (hblk : s.block e.th.block = some e.blk) (hset : e.setOf o = (set, base, all)) (hmay : s.mayArrive e i o)
    {r : Rendezvous} (hfind : e.blk.rends.find? (fun r => r.set = set) = some r) (haddr : r.addr = s.cur.pc)
    (hnew : e.tid ∉ r.arrived) (body : SetCtx → State → SetRes) {r' : Rendezvous} {rends : List Rendezvous}
    (hr : r' = { r with arrived := r.arrived ++ [e.tid] })
    (hrends : rends = e.blk.rends.map fun x => if x.set = set then r' else x) :
    s.issueSetAt e i o body =
      if (s.meets e set rends).rendDone e.blk r' then (s.meets e set rends).execSet e i o body
      else (s.meets e set rends).checkDeadlock e.th.block := by
  obtain ⟨hpend, hflag, hpair, hhold⟩ := hmay
  have notYet : r.arrived.contains e.tid = false := by simpa using hnew
  rw [hrends, ← modBlock_hold he hblk (fun l => l.map fun x => if x.set = set then r' else x), hr]
  simp only [State.issueSetAt, hset, hfind, hpend, hflag, hpair, hhold, notYet, haddr]
  rw [if_neg (by simp), if_neg (by simp)]
  rfl

theorem setCtx_meets {o : Ops} {c : SetCtx} {base : Nat} {all : List Nat} (h : e.setOf o = (set, base, all))
    (hc : s.setCtx e o = some c) (he : s.thread e.tid = some e.th) (hblk : s.block e.th.block = some e.blk)
    (hone : ∀ m ∈ all, ∃ f, s.envOf m = some f ∧ f.th.block = e.th.block) :
    (s.meets e set rends).setCtx e o = some (c.mapEnv (Env.inRend e.tid set rends)) := by
  have envs : all.zipIdx.filterMap (fun p => ((s.meets e set rends).envOf p.1).map (fun m => (p.2, m))) =
      (all.zipIdx.filterMap (fun p => (s.envOf p.1).map (fun m => (p.2, m)))).map
        fun p => (p.1, p.2.inRend e.tid set rends) := by
    rw [List.map_filterMap]
    refine List.filterMap_congr fun p hp => ?_
    obtain ⟨f, hf, hblock⟩ := hone p.1 (List.fst_mem_of_mem_zipIdx hp)
    simp [envOf_meets he hf hblock hblk, hf]
  have live : ∀ p : Nat × Env, (p.2.inRend e.tid set rends).th.live = p.2.th.live :=
    fun p => (Env.sameIn_inRend e.tid set rends p.2).live
  simp only [State.setCtx, h] at hc ⊢
  rw [envs, List.filter_map]
  simp only [Function.comp_def, live]
  split at hc
  · exact absurd hc (by simp)
  · rename_i m rest hms
    obtain rfl := Option.some.inj hc
    rw [hms]
    rfl

/-- The rendezvous of the block, once its last member has arrived, hold every live member in that of the set. -/
def Gathered (s : State) (e : Env) (set : Nat) (rends : List Rendezvous) : Prop :=
  ∀ m ∈ s.liveMembers e.blk e.la.obj set, ∃ r, rends.find? (fun r => r.arrived.contains m) = some r ∧ r.set = set

end

section
variable {s : State} {i : Instr} {o : Ops} {e : Env} {set base : Nat} {all : List Nat} (h : s.arrives i o e set base all)
include h

theorem State.arrives.thread : s.thread e.tid = some e.th := by
  have henv := h.env
  unfold State.env at henv
  obtain ⟨hth, htid⟩ := envOf_thread henv
  rw [htid]; exact hth

theorem State.arrives.block : s.block e.th.block = some e.blk := (envOf_block h.env).1

theorem State.arrives.members : e.blk.membersOf e.la.obj set = all :=
  membersOf_setOf h.named (List.ne_nil_of_mem h.live.2.1)

theorem State.arrives.all_of_live {m : Nat} (hm : m ∈ s.liveMembers e.blk e.la.obj set) : m ∈ all := by
  rw [State.liveMembers, h.members] at hm
  exact (List.mem_filter.mp hm).1

theorem State.arrives.rendDone {r : Rendezvous} (hr : r.set = set)
    (hm : ∀ m ∈ s.liveMembers e.blk e.la.obj set, m ∈ r.arrived) (rends : List Rendezvous) :
    (s.meets e set rends).rendDone e.blk r = true := by
  rw [rendDone_meets h.thread (envOf_block h.env).2, hr]
  simpa using hm

theorem State.arrives.gathered {rends : List Rendezvous}
    (hin : ∀ m ∈ s.liveMembers e.blk e.la.obj set, ∃ r ∈ rends, m ∈ r.arrived)
    (hold : ∀ r ∈ rends, r.set = set ∨ r ∈ e.blk.rends) : Gathered s e set rends := by
  intro m hm
  obtain ⟨r, hr, hmr⟩ := hin m hm
  cases hfind : rends.find? (fun r => r.arrived.contains m) with
  | none => exact absurd hmr (by simpa using List.find?_eq_none.mp hfind r hr)
  | some x =>
    refine ⟨x, rfl, ?_⟩
    have hx : m ∈ x.arrived := by simpa using List.find?_some hfind
    rcases hold x (List.mem_of_find?_eq_some hfind) with hset | hmem
    · exact hset
    · by_contra hne
      exact h.only x hmem hne m (h.all_of_live hm) hx

/-- R52, R53: the last member to arrive executes the rendezvous. -/
theorem State.arrives.executes (body : SetCtx → State → SetRes) : ∃ rends, Gathered s e set rends ∧
    issueSet s i o body = .next ((s.meets e set rends).execSet e i o body) := by
  rcases h.rest with ⟨r, hfind, haddr, hnew, hothers⟩ | ⟨hfind, hothers⟩
  · let r' := { r with arrived := r.arrived ++ [e.tid] }
    let rends := e.blk.rends.map fun x => if x.set = set then r' else x
    have hset : r.set = set := by simpa using List.find?_some hfind
    have all_here : ∀ m ∈ s.liveMembers e.blk e.la.obj set, m ∈ r'.arrived := fun m hm => by
      by_cases hme : m = e.tid
      · simp [r', hme]
      · exact List.mem_append_left _ (hothers m hm hme)
    refine ⟨rends, h.gathered (fun m hm => ⟨r', ?_, all_here m hm⟩) (fun x hx => ?_), ?_⟩
    · exact List.mem_map.mpr ⟨r, List.mem_of_find?_eq_some hfind, if_pos hset⟩
    · obtain ⟨y, hy, rfl⟩ := List.mem_map.mp hx
      by_cases hys : y.set = set
      · left; rw [if_pos hys]; exact hset
      · right; rw [if_neg hys]; exact hy
    · rw [issueSet_eq h.env, issueSetAt_joins h.thread h.block h.named h.clear hfind haddr hnew body rfl rfl,
        if_pos (h.rendDone (r := r') hset all_here rends)]
  · let r : Rendezvous := { set := set, addr := s.cur.pc, instr := i, words := s.cur.words, arrived := [e.tid] }
    have all_here : ∀ m ∈ s.liveMembers e.blk e.la.obj set, m ∈ r.arrived :=
      fun m hm => List.mem_singleton.mpr (hothers m hm)
    refine ⟨e.blk.rends ++ [r], h.gathered (fun m hm => ⟨r, by simp, all_here m hm⟩) (fun x hx => ?_), ?_⟩
    · rcases List.mem_append.mp hx with hx | hx
      · exact .inr hx
      · left; rw [List.mem_singleton.mp hx]
    · rw [issueSet_eq h.env, issueSetAt_opens h.thread h.block h.named h.clear hfind body rfl,
        if_pos (h.rendDone (r := r) rfl all_here _)]

end

/-! ### Every member goes on (R47, R53, R61) -/

/-- The thread of a member as a completed set- or block-scope instruction leaves it: in a new region at `pc`, its results
pending. -/
structure WentOn (i : Instr) (vals : List RegVal) (pc : Nat) (th th' : Thread) : Prop where
  stands : th'.pc = pc
  ready  : th'.wait = .ready
  later  : isLong i = true → isCompare i = false → th'.regs = th.regs ∧ (vals = [] → th'.pend = th.pend) ∧
             (vals ≠ [] → ∃ p, th'.pend = th.pend ++ [p] ∧ p.known = true ∧ p.vals = vals)

/-- One member takes its results and goes on. -/
def State.goOn (s : State) (i : Instr) (o : Ops) (f : Env) (vals : List RegVal) : State :=
  (s.results f i o vals).advance f.tid i o.len (s.cur.pc + 4 * o.len) (vals.map (·.reg))

theorem goOn_puts {u : State} {f : Env} {w : WaitOn} (hth : u.thread f.tid = some { f.th with wait := w })
    (hwarp : f.th.isWarp = true) (htest : u.host.testMode = false) {i : Instr} (hi : isBoundary i = true)
    (hr : ∀ o, i ≠ .region o) (o : Ops) (vals : List RegVal) :
    ∃ th, Puts u (u.goOn i o f vals) f.tid th ∧ WentOn i vals (u.cur.pc + 4 * o.len) f.th th := by
  obtain ⟨th1, put1, res⟩ := results_puts hth i o vals
  have warp1 : th1.isWarp = true := by rw [res.frame]; exact hwarp
  have test1 : (u.results f i o vals).host.testMode = false := by
    obtain ⟨n, hn⟩ := put1; rw [hn]; exact htest
  obtain ⟨th2, put2, opened⟩ := put1.advance_boundary warp1 hi hr test1 o.len (u.cur.pc + 4 * o.len) (vals.map (·.reg))
  refine ⟨th2, put2, opened.stands, opened.ready, fun hl hc => ?_⟩
  obtain ⟨regs, nil, some⟩ := res.later hl hc
  have regs2 : th2.regs = th1.regs := by rw [opened.frame]
  have pend2 : th2.pend = th1.pend := by rw [opened.frame]
  refine ⟨regs2.trans regs, fun hv => pend2.trans (nil hv), fun hv => ?_⟩
  obtain ⟨p, hp, hvals, hknown⟩ := some hv
  exact ⟨p, pend2.trans hp, hknown, hvals⟩

/-- Members that go on in turn change their own threads alone. -/
theorem foldl_goOn {i : Instr} (hi : isBoundary i = true) (hr : ∀ o, i ≠ .region o) (o : Ops)
    (mine : Env → List RegVal) (ms : List (Nat × Env)) {u : State} (hnodup : (ms.map (·.2.tid)).Nodup)
    (hth : ∀ m ∈ ms, ∃ w, u.thread m.2.tid = some { m.2.th with wait := w }) (hwarp : ∀ m ∈ ms, m.2.th.isWarp = true)
    (htest : u.host.testMode = false) :
    let t := ms.foldl (fun s m => s.goOn i o m.2 (mine m.2)) u
    t = { u with threads := t.threads, nextId := t.nextId } ∧
      (∀ v, v ∉ ms.map (·.2.tid) → t.thread v = u.thread v) ∧
      ∀ m ∈ ms, ∃ th, t.thread m.2.tid = some th ∧ WentOn i (mine m.2) (u.cur.pc + 4 * o.len) m.2.th th := by
  induction ms generalizing u with
  | nil => exact ⟨rfl, fun _ _ => rfl, by simp⟩
  | cons m rest ih =>
    obtain ⟨hm, hrest⟩ := List.nodup_cons.mp hnodup
    obtain ⟨w, hw⟩ := hth m List.mem_cons_self
    obtain ⟨th, put, went⟩ := goOn_puts hw (hwarp m List.mem_cons_self) htest hi hr o (mine m.2)
    have other : ∀ x ∈ rest, x.2.tid ≠ m.2.tid := fun x hx he => hm (List.mem_map.mpr ⟨x, hx, he⟩)
    obtain ⟨frame, others, each⟩ := ih (u := u.goOn i o m.2 (mine m.2)) hrest
      (fun x hx => by rw [put.thread_other (other x hx)]; exact hth x (List.mem_cons_of_mem _ hx))
      (fun x hx => hwarp x (List.mem_cons_of_mem _ hx)) (by obtain ⟨n, hn⟩ := put; rw [hn]; exact htest)
    refine ⟨?_, fun v hv => ?_, fun x hx => ?_⟩
    · rw [List.foldl_cons, frame]
      obtain ⟨n, hn⟩ := put
      rw [hn]
      rfl
    · rw [List.map_cons, List.mem_cons, not_or] at hv
      exact (others v hv.2).trans (put.thread_other hv.1)
    · rcases List.mem_cons.mp hx with rfl | hx
      · exact ⟨th, (others _ hm).trans put.thread, went⟩
      · have cur : (u.goOn i o m.2 (mine m.2)).cur = u.cur := by obtain ⟨n, hn⟩ := put; rw [hn]; rfl
        rw [← cur]; exact each x hx

/-! ### The rendezvous executes -/

/-- What a list of answers gives a thread. -/
def outcomeFor {α : Type} (outs : List (Nat × α)) (d : α) (tid : Nat) : α :=
  ((outs.find? (fun p => p.1 = tid)).map (·.2)).getD d

/-- Answers listed member by member, whose threads are distinct. -/
theorem outcomeFor_map {α : Type} (ms : List (Nat × Env)) (hn : (ms.map (·.2.tid)).Nodup) (g : Nat × Env → α) (d : α)
    {m : Nat × Env} (hm : m ∈ ms) : outcomeFor (ms.map fun m => (m.2.tid, g m)) d m.2.tid = g m := by
  induction ms with
  | nil => simp at hm
  | cons x rest ih =>
    obtain ⟨hx, hrest⟩ := List.nodup_cons.mp hn
    rcases List.mem_cons.mp hm with rfl | hm
    · simp [outcomeFor]
    · have hne : x.2.tid ≠ m.2.tid := fun he => hx (List.mem_map.mpr ⟨m, hm, he.symm⟩)
      simpa [outcomeFor, hne] using ih hrest hm

/-- The threads of the live members, in their order. -/
theorem tids_of_envs {s : State} {l : List Nat} (h : ∀ m ∈ l, ∃ f, s.envOf m = some f) (k : Nat) :
    (((l.zipIdx k).filterMap (fun p => (s.envOf p.1).map (fun m => (p.2, m)))).filter (fun p => p.2.th.live)).map (·.2.tid) =
      l.filter fun t => match s.thread t with | some th => th.live | none => false := by
  induction l generalizing k with
  | nil => rfl
  | cons m rest ih =>
    obtain ⟨f, hf⟩ := h m List.mem_cons_self
    obtain ⟨hth, htid⟩ := envOf_thread hf
    have later := ih (fun x hx => h x (List.mem_cons_of_mem _ hx)) (k + 1)
    simp only [List.zipIdx_cons, List.filterMap_cons, hf, Option.map_some, List.filter_cons, hth]
    cases f.th.live with
    | false => exact later
    | true => simp only [if_true, List.map_cons, later, htid]

section
variable {s : State} {i : Instr} {o : Ops} {e : Env} {set base : Nat} {all : List Nat} (h : s.arrives i o e set base all)
  {c : SetCtx} (hc : s.setCtx e o = some c)
include h hc

theorem State.arrives.mem_all {j : Nat} {f : Env} (hf : (j, f) ∈ c.members) : f.tid ∈ all :=
  List.mem_of_getElem? ((mem_members h.named hc j f).mp hf).1

theorem State.arrives.member {j : Nat} {f : Env} (hf : (j, f) ∈ c.members) : f.th.block = e.th.block ∧ f.th.isWarp = true ∧
    f.flawRead i base = none ∧ f.th.checkErr = none := by
  obtain ⟨g, hg, facts⟩ := h.one f.tid (h.mem_all hc hf)
  have hfenv := ((mem_members h.named hc j f).mp hf).2.1
  obtain rfl : f = g := Option.some.inj (hfenv.symm.trans hg)
  exact facts

theorem State.arrives.tids : c.members.map (·.2.tid) = s.liveMembers e.blk e.la.obj set := by
  obtain ⟨-, -, -, -, members, -⟩ := setCtx_some h.named hc
  rw [members, State.liveMembers, h.members]
  exact tids_of_envs (fun m hm => (h.one m hm).imp fun f hf => hf.1) 0

theorem State.arrives.nodup : (c.members.map (·.2.tid)).Nodup := by
  rw [h.tids hc, State.liveMembers, h.members]
  exact h.live.2.2.filter _

theorem State.arrives.meets_thread (rends : List Rendezvous) {j : Nat} {f : Env} (hf : (j, f) ∈ c.members) :
    ∃ w, (s.meets e set rends).thread f.tid = some { f.th with wait := w } := by
  obtain ⟨-, henv, -⟩ := (mem_members h.named hc j f).mp hf
  obtain ⟨hth, -⟩ := envOf_thread henv
  by_cases hm : f.tid = e.tid
  · have hfe : f.th = e.th := Option.some.inj ((hm ▸ hth).symm.trans h.thread)
    exact ⟨.rendezvous set, by rw [hm, hfe]; exact State.thread_setThread _ _ _⟩
  · exact ⟨f.th.wait, (State.thread_setThread_other _ _ hm).trans hth⟩

theorem State.arrives.noFlaw (rends : List Rendezvous) : (c.mapEnv (Env.inRend e.tid set rends)).members.findSome?
    (fun m => (m.2.flawRead i (c.mapEnv (Env.inRend e.tid set rends)).base).map (fun f => (m.2, f))) = none := by
  have hbase : (c.mapEnv (Env.inRend e.tid set rends)).base = base := (setCtx_some h.named hc).2.1
  refine List.findSome?_eq_none_iff.mpr fun x hx => ?_
  obtain ⟨m, hm, rfl⟩ := List.mem_map.mp hx
  rw [(Env.sameIn_inRend e.tid set rends m.2).flawRead, hbase, (h.member hc hm).2.2.1]
  rfl

/-- R47, R53, R61: a rendezvous that its instruction completes: every member goes on with its results, and nothing else of
the machine changes but what the instruction does to the block. -/
theorem State.arrives.completes (rends : List Rendezvous) {body : SetCtx → State → SetRes} {u : State}
    {outs : List (Nat × List RegVal)} (hi : isBoundary i = true) (hr : ∀ o, i ≠ .region o)
    (hbody : body (c.mapEnv (Env.inRend e.tid set rends)) (s.meets e set rends) = .done u outs)
    (hu : u = { s.meets e set rends with blocks := u.blocks }) :
    let t := (s.meets e set rends).execSet e i o body
    t = { s with threads := t.threads, nextId := t.nextId, blocks := t.blocks } ∧
      t.blocks = (u.modBlock e.th.block fun b => { b with rends := b.rends.filter (·.set ≠ set) }).blocks ∧
      (∀ v, v ∉ all → t.thread v = s.thread v) ∧
      ∀ j f, (j, f) ∈ c.members → ∃ th, t.thread f.tid = some th ∧
        WentOn i (outcomeFor outs [] f.tid) (s.cur.pc + 4 * o.len) f.th th := by
  let φ := Env.inRend e.tid set rends
  have same : ∀ f : Env, f.SameIn (φ f) := Env.sameIn_inRend e.tid set rends
  obtain ⟨hset, hbase, -⟩ := setCtx_some h.named hc
  have ctx := setCtx_meets (rends := rends) h.named hc h.thread h.block fun m hm =>
    (h.one m hm).imp fun f hf => ⟨hf.1, hf.2.1⟩
  have mapped : ∀ x ∈ (c.mapEnv φ).members, ∃ f, (x.1, f) ∈ c.members ∧ x.2 = φ f := fun x hx => by
    obtain ⟨m, hm, rfl⟩ := List.mem_map.mp hx
    exact ⟨m.2, hm, rfl⟩
  have noFlaw := h.noFlaw hc rends
  have noErr (mine : Env → List RegVal) : (c.mapEnv φ).members.filterMap
      (fun m => (m.2.checkedLane (mine m.2)).map (fun l => (m.2, l))) = [] := by
    refine List.filterMap_eq_nil_iff.mpr fun x hx => ?_
    obtain ⟨f, hf, hxf⟩ := mapped x hx
    have unarmed : x.2.th.checkErr = none := by rw [hxf, (same f).checkErr]; exact (h.member hc hf).2.2.2
    simp [Env.checkedLane, Env.armed, unarmed]
  let closed := u.modBlock e.th.block fun b => { b with rends := b.rends.filter (·.set ≠ set) }
  have closedEq : closed = { s.meets e set rends with blocks := closed.blocks } := by
    have frame : closed = { u with blocks := closed.blocks } := by
      simp only [closed, State.modBlock]; split <;> rfl
    rw [frame, hu]
  have run : (s.meets e set rends).execSet e i o body = (c.mapEnv φ).members.foldl
      (fun s' m => s'.goOn i o m.2 (outcomeFor outs [] m.2.tid)) closed := by
    unfold State.execSet
    rw [ctx]
    dsimp only
    rw [noFlaw]
    dsimp only
    rw [hbody]
    dsimp only
    refine (congrArg (fun l => State.checkedAll (e.setOf o).2.2 l (s.meets e set rends) u _)
      (noErr fun f => outcomeFor outs [] f.tid)).trans ?_
    rw [show (c.mapEnv (Env.inRend e.tid set rends)).set = set from hset, checkedAll_nil]
    rfl
  have threads (v : Nat) : closed.thread v = (s.meets e set rends).thread v := by rw [closedEq]; rfl
  have nodup : ((c.mapEnv φ).members.map (·.2.tid)).Nodup := by
    have tids : (c.mapEnv φ).members.map (·.2.tid) = c.members.map (·.2.tid) := by
      simp only [SetCtx.mapEnv, List.map_map]
      exact List.map_congr_left fun m _ => (same m.2).tid
    rw [tids]; exact h.nodup hc
  have standing : ∀ x ∈ (c.mapEnv φ).members, ∃ w, closed.thread x.2.tid = some { x.2.th with wait := w } := by
    intro x hx
    obtain ⟨f, hf, hxf⟩ := mapped x hx
    obtain ⟨w, hw⟩ := h.meets_thread hc rends hf
    refine ⟨w, ?_⟩
    rw [threads, hxf, (same f).tid, hw, (same f).th]
  have warps : ∀ x ∈ (c.mapEnv φ).members, x.2.th.isWarp = true := by
    intro x hx
    obtain ⟨f, hf, hxf⟩ := mapped x hx
    rw [hxf, (same f).isWarp]; exact (h.member hc hf).2.1
  have test : closed.host.testMode = false := by rw [closedEq]; exact h.test
  obtain ⟨frame, others, each⟩ := foldl_goOn hi hr o (fun f => outcomeFor outs [] f.tid)
    (c.mapEnv φ).members (u := closed) nodup standing warps test
  intro t
  have ht : t = _ := run
  refine ⟨?_, ?_, fun v hv => ?_, fun j f hf => ?_⟩
  · rw [ht, frame, closedEq]; rfl
  · rw [ht, frame]
  · have notMember : v ∉ (c.mapEnv φ).members.map (·.2.tid) := fun hmem => by
      obtain ⟨x, hx, rfl⟩ := List.mem_map.mp hmem
      obtain ⟨f, hf, hxf⟩ := mapped x hx
      rw [hxf, (same f).tid] at hv
      exact hv (h.mem_all hc hf)
    have hne : v ≠ e.tid := fun he => hv (he ▸ h.live.2.1)
    rw [ht, others v notMember, threads]
    exact State.thread_setThread_other _ _ hne
  · obtain ⟨th, hth, stands, ready, later⟩ := each (j, φ f) (List.mem_map.mpr ⟨(j, f), hf, rfl⟩)
    have cur : closed.cur = s.cur := by rw [closedEq]; rfl
    rw [ht]
    refine ⟨th, hth, stands.trans (by rw [cur]), ready, fun hl hcmp => ?_⟩
    have regs := (same f).regs
    have pend : (φ f).th.pend = f.th.pend := by rw [(same f).th]
    rw [← regs, ← pend]
    exact later hl hcmp

omit hc in
/-- R410, R411: the trap of a live member that has arrived. -/
theorem State.arrives.memberTrap {rends : List Rendezvous} (hg : Gathered s e set rends) {m : Nat}
    (hm : m ∈ s.liveMembers e.blk e.la.obj set) (cause detail : Nat) (mask : DWord) :
    let t := memberTrap { e.blk with rends := rends } m cause detail (some set) mask
    t.cause = cause ∧ t.detail = detail ∧ t.setwide = true ∧ t.mask = mask := by
  obtain ⟨r, hfind, rfl⟩ := hg m hm
  simp only [Sys2Proof.Machine.memberTrap, hfind, if_true, and_self]

/-- R410, R411: a rendezvous whose instruction traps, set-wide, in every live member. -/
theorem State.arrives.traps {rends : List Rendezvous} (hg : Gathered s e set rends) {body : SetCtx → State → SetRes}
    {cause detail : Nat} {masks : List (Nat × DWord)} {mask : Env → DWord}
    (hbody : body (c.mapEnv (Env.inRend e.tid set rends)) (s.meets e set rends) =
      .trap (s.meets e set rends) cause detail masks)
    (hmask : ∀ m ∈ c.members, outcomeFor masks 0 m.2.tid = mask m.2) :
    ∃ (s1 : State) (traps : List (Nat × Trap)), (s.meets e set rends).execSet e i o body = s1.setWide e.th.block traps ∧
      s1.mem = s.mem ∧ (∀ u, (s1.thread u).map (·.regs) = (s.thread u).map (·.regs)) ∧
      traps.map (·.1) = s.liveMembers e.blk e.la.obj set ∧
      ∀ p ∈ traps, p.2.cause = cause ∧ p.2.detail = detail ∧ p.2.setwide = true ∧
        ∀ f, s.envOf p.1 = some f → p.2.mask = mask f := by
  let φ := Env.inRend e.tid set rends
  have same : ∀ f : Env, f.SameIn (φ f) := Env.sameIn_inRend e.tid set rends
  have hset := (setCtx_some h.named hc).1
  have ctx := setCtx_meets (rends := rends) h.named hc h.thread h.block fun m hm =>
    (h.one m hm).imp fun f hf => ⟨hf.1, hf.2.1⟩
  have hblk : (s.meets e set rends).block e.th.block = some { e.blk with rends := rends } := State.block_setBlock s _ _
  refine ⟨s.meets e set rends, (c.mapEnv φ).members.map fun m => (m.2.tid, Sys2Proof.Machine.memberTrap
    { e.blk with rends := rends } m.2.tid cause detail (some set) (outcomeFor masks 0 m.2.tid)), ?_, rfl, fun u => ?_, ?_,
    fun p hp => ?_⟩
  · unfold State.execSet
    rw [ctx]
    dsimp only
    rw [h.noFlaw hc rends]
    dsimp only
    rw [hbody]
    dsimp only
    rw [hblk, show (c.mapEnv (Env.inRend e.tid set rends)).set = set from hset]
    rfl
  · by_cases hu : u = e.tid
    · subst hu; rw [State.meets, State.thread_setThread, h.thread]; rfl
    · rw [State.meets, State.thread_setThread_other _ _ hu]; rfl
  · rw [← h.tids hc]
    simp only [SetCtx.mapEnv, List.map_map]
    exact List.map_congr_left fun m _ => (same m.2).tid
  · obtain ⟨x, hx, rfl⟩ := List.mem_map.mp hp
    obtain ⟨m, hm, rfl⟩ := List.mem_map.mp hx
    have live : m.2.tid ∈ s.liveMembers e.blk e.la.obj set := h.tids hc ▸ List.mem_map_of_mem hm
    obtain ⟨hcause, hdetail, hwide, hmasked⟩ := h.memberTrap hg live cause detail (outcomeFor masks 0 m.2.tid)
    refine ⟨hcause, hdetail, hwide, fun f hf => ?_⟩
    have hfm : f = m.2 := Option.some.inj (hf.symm.trans ((mem_members h.named hc m.1 m.2).mp hm).2.1)
    rw [hfm, ← hmask m hm]
    exact hmasked

end

/-! ### Instructions over a lane space (R262) -/

theorem Env.sameIn_self (f : Env) : f.SameIn f := ⟨rfl, rfl, rfl, rfl⟩

section
variable {s : State} {i : Instr} {o : Ops} {e : Env} {c : SetCtx} (h : s.crosses i o e c)
  {body : SetCtx → State → SetRes} (hexec : exec i s = issueCross s i o body)
include h hexec

/-- An instruction whose results, member by member, are those of `vals` completes with them. What it does may depend on the bulk
commands under way. -/
theorem State.crosses.completes_with {vals : Nat → List RegVal} {outs : List (Nat × List RegVal)}
    (hi : isBoundary i = decide (2 ≤ o.scope.code)) (hl : isLong i = true) (hcmp : isCompare i = false)
    (hr : ∀ o, i ≠ .region o)
    (hbody : ∀ (φ : Env → Env) (u : State), (∀ f : Env, f.SameIn (φ f)) → u.cmds = s.cmds →
      body (c.mapEnv φ) u = .done u outs)
    (hwarp : o.scope = .warp → outs.flatMap (·.2) = vals 0)
    (hvals : ∀ m ∈ c.members, outcomeFor outs [] m.2.tid = vals m.1) : CrossCompletes s i o e vals := by
  rcases h with ⟨hscope, hissues, rfl⟩ | ⟨set, base, all, harr, hc⟩
  · have code : ¬ 2 ≤ o.scope.code := by rw [hscope]; decide
    refine ⟨fun _ => ?_, fun hcode => absurd hcode code⟩
    have hrun : exec i s = issue s i o fun e s => match body e.solo s with
        | .done s vals => .done s (vals.flatMap (·.2))
        | .trap s cause detail masks => .trap s (s.trapOf cause detail (((masks.head?).map (·.2)).getD 0))
        | .wait s => .wait s .stalled := hexec.trans (if_pos hscope)
    refine completes_of_done hissues hrun ?_ (by rw [hi]; simpa using code)
    have solo : body e.solo s = .done s outs := hbody id s Env.sameIn_self rfl
    simp only [solo, hwarp hscope]
  · have notWarp : o.scope ≠ .warp := fun hw => absurd harr.scope (by rw [hw]; decide)
    refine ⟨fun hw => absurd hw notWarp, fun hcode => ?_⟩
    rw [harr.named]
    obtain ⟨rends, hg, hrun⟩ := harr.executes body
    have bound : isBoundary i = true := by rw [hi]; simpa using hcode
    obtain ⟨frame, blocks, others, each⟩ := harr.completes hc rends (outs := outs) bound hr
      (hbody _ _ (Env.sameIn_inRend e.tid set rends) rfl) rfl
    generalize (s.meets e set rends).execSet e i o body = t at hrun frame blocks others each
    have mem : t.mem = s.mem ∧ t.peer = s.peer := by rw [frame]; exact ⟨rfl, rfl⟩
    refine ⟨t, ?_, mem.1, mem.2, others, fun j m f hj hf hlive => ?_, fun b hb => ?_⟩
    · rw [hexec, issueCross, if_neg notWarp, hrun]
    · obtain rfl := (envOf_thread hf).2
      have hmem := (mem_members harr.named hc j f).mpr ⟨hj, hf, hlive⟩
      obtain ⟨th, hth, stands, ready, later⟩ := each j f hmem
      obtain ⟨regs, nil, some⟩ := later hl hcmp
      rw [hvals _ hmem] at nil some
      exact ⟨th, hth, stands, ready, regs, nil, some⟩
    · have hblk : t.block e.th.block = _ := congrArg (fun m => NMap.find m e.th.block) blocks
      have closed := (hblk.trans (State.block_modBlock _ e.th.block _)).symm.trans hb
      obtain ⟨x, -, rfl⟩ := Option.map_eq_some_iff.mp closed
      exact List.find?_eq_none.mpr fun r hr => by simpa using (List.mem_filter.mp hr).2

/-- An instruction that traps does so over a warp alone, or set-wide. -/
theorem State.crosses.traps_with {cause detail : Nat} {masks : List (Nat × DWord)} {mask : Env → DWord}
    (hbody : ∀ (φ : Env → Env) (u : State), (∀ f : Env, f.SameIn (φ f)) → u.cmds = s.cmds →
      body (c.mapEnv φ) u = .trap u cause detail masks)
    (hwarp : o.scope = .warp → ((masks.head?).map (·.2)).getD 0 = mask e)
    (hmask : ∀ m ∈ c.members, outcomeFor masks 0 m.2.tid = mask m.2) : CrossTraps s i o e cause detail mask := by
  rcases h with ⟨hscope, hissues, rfl⟩ | ⟨set, base, all, harr, hc⟩
  · have code : ¬ 2 ≤ o.scope.code := by rw [hscope]; decide
    refine ⟨fun _ => ?_, fun hcode => absurd hcode code⟩
    rw [hexec, issueCross, if_pos hscope]
    refine issue_trap hissues ?_
    have solo : body e.solo s = .trap s cause detail masks := hbody id s Env.sameIn_self rfl
    simp only [solo, hwarp hscope]
  · have notWarp : o.scope ≠ .warp := fun hw => absurd harr.scope (by rw [hw]; decide)
    refine ⟨fun hw => absurd hw notWarp, fun _ => ?_⟩
    rw [harr.named]
    obtain ⟨rends, hg, hrun⟩ := harr.executes body
    obtain ⟨s1, traps, hs1, rest⟩ := harr.traps hc hg (mask := mask) (hbody _ _ (Env.sameIn_inRend e.tid set rends) rfl) hmask
    refine ⟨s1, traps, ?_, rest⟩
    rw [hexec, issueCross, if_neg notWarp, hrun, hs1]

theorem State.crosses.completes {vals : Nat → List RegVal} {outs : List (Nat × List RegVal)}
    (hi : isBoundary i = decide (2 ≤ o.scope.code)) (hl : isLong i = true) (hcmp : isCompare i = false)
    (hr : ∀ o, i ≠ .region o)
    (hbody : ∀ (φ : Env → Env) (u : State), (∀ f : Env, f.SameIn (φ f)) → body (c.mapEnv φ) u = .done u outs)
    (hwarp : o.scope = .warp → outs.flatMap (·.2) = vals 0)
    (hvals : ∀ m ∈ c.members, outcomeFor outs [] m.2.tid = vals m.1) : CrossCompletes s i o e vals :=
  h.completes_with hexec hi hl hcmp hr (fun φ u same _ => hbody φ u same) hwarp hvals

theorem State.crosses.traps {cause detail : Nat} {masks : List (Nat × DWord)} {mask : Env → DWord}
    (hbody : ∀ (φ : Env → Env) (u : State), (∀ f : Env, f.SameIn (φ f)) →
      body (c.mapEnv φ) u = .trap u cause detail masks)
    (hwarp : o.scope = .warp → ((masks.head?).map (·.2)).getD 0 = mask e)
    (hmask : ∀ m ∈ c.members, outcomeFor masks 0 m.2.tid = mask m.2) : CrossTraps s i o e cause detail mask :=
  h.traps_with hexec (fun φ u same _ => hbody φ u same) hwarp hmask

end

end Sys2Proof.Machine
end

section
/-! PROOF. Rendezvous at `sync` (R52 to R54, R276, R411, R421). -/

namespace Sys2Proof.Machine

section
variable {s : State} {i : Instr} {o : Ops} {e : Env} {set base : Nat} {all : List Nat} (h : s.arrives i o e set base all)
include h

theorem State.arrives.setCtx_some : ∃ c, s.setCtx e o = some c := by
  obtain ⟨hlive, hmem, -⟩ := h.live
  have henv : s.envOf e.tid = some e := by
    have hcur := h.env
    unfold State.env at hcur
    rwa [(envOf_thread hcur).2]
  obtain ⟨j, hj⟩ := List.getElem?_of_mem hmem
  have mem : (j, e) ∈ (all.zipIdx.filterMap (fun p => (s.envOf p.1).map (fun m => (p.2, m)))).filter (fun p => p.2.th.live) :=
    List.mem_filter.mpr ⟨List.mem_filterMap.mpr ⟨(e.tid, j), List.mem_zipIdx_iff_getElem?.mpr hj, by simp [henv]⟩, hlive⟩
  simp only [State.setCtx, h.named]
  split
  · rename_i hnil
    rw [hnil] at mem
    exact absurd mem List.not_mem_nil
  · exact ⟨_, rfl⟩

theorem State.arrives.leader {c : SetCtx} (hc : s.setCtx e o = some c) : c.leader.th.block = e.th.block ∧ c.leader.blk = e.blk := by
  obtain ⟨-, -, -, -, -, j, hj⟩ := Sys2Proof.Machine.setCtx_some h.named hc
  have mem : (j, c.leader) ∈ c.members := List.mem_of_mem_head? hj
  have hblock := (h.member hc mem).1
  have hblk := (envOf_block ((mem_members h.named hc j c.leader).mp mem).2.1).1
  exact ⟨hblock, Option.some.inj ((hblock ▸ hblk).symm.trans h.block)⟩

end

/-- R276, R421: what `sync` does at set and block scope. -/
def syncBody (o : Ops) (c : SetCtx) (s : State) : SetRes :=
  .done (s.modBlock c.leader.th.block (fun b => { b with abandoned := b.abandoned.filter (· ≠ c.set) }))
    (c.members.map (fun m => (m.2.tid, statusVals o.dst (if c.leader.blk.abandoned.contains c.set then 1 else 0))))

theorem exec_sync_set {o : Ops} (h : 2 ≤ o.scope.code) (s : State) : exec (.sync o) s = issueSet s (.sync o) o (syncBody o) :=
  if_neg (Nat.not_lt.mpr h)

/-- Settles O26: the last arrival executes the rendezvous, and every live member goes on. -/
theorem rendezvousCompletes : Obligations.RendezvousCompletes := by
  intro s e o set base all h
  obtain ⟨c, hc⟩ := h.setCtx_some
  obtain ⟨hblock, hblk⟩ := h.leader hc
  have hset : c.set = set := (setCtx_some h.named hc).1
  have bound : isBoundary (.sync o) = true := decide_eq_true h.scope
  have long : isLong (.sync o) = true := decide_eq_true h.scope
  let status := if set ∈ e.blk.abandoned then 1 else 0
  let outs := c.members.map fun m => (m.2.tid, destVals 0 .n32 o.dst 0 status)
  obtain ⟨rends, -, hrun⟩ := h.executes (syncBody o)
  let u := (s.meets e set rends).setBlock e.th.block
    { e.blk with rends := rends, abandoned := e.blk.abandoned.filter (· ≠ set) }
  have same := Env.sameIn_inRend e.tid set rends
  have hbody : syncBody o (c.mapEnv (Env.inRend e.tid set rends)) (s.meets e set rends) = .done u outs := by
    have at_ : (c.mapEnv (Env.inRend e.tid set rends)).leader.th.block = e.th.block := (same c.leader).block.trans hblock
    have marked : (c.mapEnv (Env.inRend e.tid set rends)).leader.blk.abandoned = e.blk.abandoned := by
      rw [← hblk]; rfl
    have here : (s.meets e set rends).block e.th.block = some { e.blk with rends := rends } := State.block_setBlock s _ _
    simp only [syncBody, at_, marked, State.modBlock, here, List.contains_iff_mem]
    simp only [SetCtx.mapEnv, hset, List.map_map]
    rfl
  obtain ⟨frame, blocks, others, each⟩ := h.completes hc rends bound (fun _ => by simp) hbody rfl
  have hexec := (exec_sync_set h.scope s).trans hrun
  generalize (s.meets e set rends).execSet e (.sync o) o (syncBody o) = t at frame blocks others each hexec
  have closed : t.block e.th.block = some { e.blk with
      rends := rends.filter (·.set ≠ set), abandoned := e.blk.abandoned.filter (· ≠ set) } := by
    refine (congrArg (fun m => NMap.find m e.th.block) blocks).trans ((State.block_modBlock _ e.th.block _).trans ?_)
    rw [State.block_setBlock]
    rfl
  refine ⟨⟨t, hexec, by rw [frame], by rw [frame], others, fun j m f hj hf hlive => ?_, fun b hb => ?_⟩, fun t' b ht hb n => ?_⟩
  · obtain rfl := (envOf_thread hf).2
    have hmem := (mem_members h.named hc j f).mpr ⟨hj, hf, hlive⟩
    obtain ⟨th, hth, stands, ready, later⟩ := each j f hmem
    obtain ⟨regs, nil, some⟩ := later long rfl
    have got : outcomeFor outs [] f.tid = destVals 0 .n32 o.dst 0 status :=
      outcomeFor_map c.members (h.nodup hc) (fun _ => destVals 0 .n32 o.dst 0 status) [] hmem
    rw [got] at nil some
    exact ⟨th, hth, stands, ready, regs, nil, some⟩
  · obtain rfl := Option.some.inj (closed.symm.trans hb)
    exact List.find?_eq_none.mpr fun r hr => by simpa using (List.mem_filter.mp hr).2
  · obtain rfl : t = t' := by simpa using hexec.symm.trans ht
    obtain rfl := Option.some.inj (closed.symm.trans hb)
    simp [List.mem_filter]

/-- R54, R411: the traps of a mismatch, one for each live member. -/
theorem rendMismatch_traps (s : State) (e : Env) (o : Ops) (set : Nat) : ∃ traps : List (Nat × Trap),
    traps.map (·.1) = s.liveMembers e.blk e.la.obj set ∧
    (∀ p ∈ traps, p.2.cause = 0x0009 ∧ p.2.detail = set ∧ p.2.setwide = true) ∧
    s.rendMismatch e o set = s.setWide e.th.block traps := by
  refine ⟨_, ?_, ?_, rfl⟩
  · rw [List.map_map]
    refine (List.map_congr_left fun m _ => ?_).trans (List.map_id _)
    simp only [Function.comp]
    split <;> rfl
  · intro p hp
    obtain ⟨m, -, rfl⟩ := List.mem_map.mp hp
    dsimp only
    split
    · exact ⟨rfl, rfl, rfl⟩
    · unfold memberTrap
      split <;> exact ⟨rfl, rfl, rfl⟩

/-- Settles O27: the first arrival is the one that finds no rendezvous of the set; a mismatch is an arrival elsewhere. -/
theorem rendezvousOpensOrMismatches : Obligations.RendezvousOpensOrMismatches := by
  refine ⟨fun s e o set base all henv hscope hset hpend hflag hpair hothers hfind s1 r hr hs1 => ?opens,
    fun s e o set base all r henv hscope hset hpend hflag hpair hfind haddr hnew => ?mismatches⟩
  all_goals
    have hth : s.thread e.tid = some e.th := by
      have hcur := henv
      unfold State.env at hcur
      obtain ⟨hth, htid⟩ := envOf_thread hcur
      rw [htid]; exact hth
    obtain ⟨hblk, hla⟩ := envOf_block henv
    rw [exec_sync_set hscope, issueSet_eq henv]
  case opens =>
    obtain ⟨m, hm, hne⟩ := hothers
    have waits : (s.meets e set (e.blk.rends ++ [r])).rendDone e.blk r = false := by
      rw [rendDone_meets hth hla, hr]
      exact List.all_eq_false.mpr ⟨m, hm, by simpa using hne⟩
    rw [issueSetAt_opens hth hblk hset ⟨hpend, hflag, hpair, rfl⟩ hfind (syncBody o) hr, waits, hs1]
    rfl
  case mismatches =>
    obtain ⟨traps, hmembers, hcauses, hmis⟩ := rendMismatch_traps s e o set
    refine ⟨traps, hmembers, hcauses, ?_⟩
    have notYet : r.arrived.contains e.tid = false := by simpa using hnew
    have hhold : s.accessHold e (.sync o) = false := rfl
    rw [← hmis]
    simp only [State.issueSetAt, hset, hfind, hpend, hflag, hpair, hhold, notYet]
    rw [if_neg (by simp), if_pos (by simpa using haddr)]

end Sys2Proof.Machine
end


section
/-! PROOF. Results over a lane space, and the moves across it (O16). -/

namespace Sys2Proof.Machine

section
variable {s : State} {i : Instr} {o : Ops} {e : Env} {c : SetCtx} (h : s.crosses i o e c)
include h

theorem State.crosses.nodup : (c.members.map (·.2.tid)).Nodup := by
  rcases h with ⟨-, -, rfl⟩ | ⟨set, base, all, harr, hc⟩
  · exact List.nodup_singleton _
  · exact harr.nodup hc

theorem State.crosses.solo (hw : o.scope = .warp) : c = e.solo := by
  rcases h with ⟨-, -, hc⟩ | ⟨set, base, all, harr, -⟩
  · exact hc
  · exact absurd harr.scope (by rw [hw]; decide)

section
variable {body : SetCtx → State → SetRes} (hexec : exec i s = issueCross s i o body)
  (hi : isBoundary i = decide (2 ≤ o.scope.code)) (hl : isLong i = true) (hcmp : isCompare i = false)
  (hr : ∀ o, i ≠ .region o)
include hexec hi hl hcmp hr

/-- The results that a member of a rank is given, each in a lane of the space, are written in its lanes. -/
theorem State.crosses.completes_lanes {ty : Ty} {res : List (Nat × Nat)}
    (hbody : ∀ (φ : Env → Env) (u : State), (∀ f : Env, f.SameIn (φ f)) →
      body (c.mapEnv φ) u = .done u ((c.mapEnv φ).lanesOut ty o.dst res)) :
    CrossCompletes s i o e fun j =>
      (res.filter fun p => p.1 / c.width = j).flatMap fun p => destVals c.base ty o.dst (p.1 % c.width) p.2 := by
  refine h.completes hexec (outs := c.lanesOut ty o.dst res) hi hl hcmp hr (fun φ u same => ?_) (fun hw => ?_) fun m hm =>
    outcomeFor_map c.members h.nodup _ [] hm
  · rw [hbody φ u same, SetCtx.lanesOut_mapEnv same]
  · rw [h.solo hw]
    exact List.append_nil _

/-- R57: so are results in the active lanes, -/
theorem State.crosses.completes_each {ty : Ty} {f : Nat → Nat}
    (hbody : ∀ (φ : Env → Env) (u : State), (∀ f : Env, f.SameIn (φ f)) →
      body (c.mapEnv φ) u = .done u ((c.mapEnv φ).lanesOut ty o.dst ((c.actives o).map fun l => (l, f l)))) :
    CrossCompletes s i o e (c.each o ty f) := by
  have hvals : (fun j => (((c.actives o).map fun l => (l, f l)).filter fun p => p.1 / c.width = j).flatMap fun p =>
      destVals c.base ty o.dst (p.1 % c.width) p.2) = c.each o ty f := by
    funext j
    rw [List.filter_map, List.flatMap_map]
    rfl
  exact hvals ▸ h.completes_lanes hexec hi hl hcmp hr hbody

/-- and a scalar result, the same in each member (R47). -/
theorem State.crosses.completes_scalar {ty : Ty} {x : Nat}
    (hbody : ∀ (φ : Env → Env) (u : State), (∀ f : Env, f.SameIn (φ f)) →
      body (c.mapEnv φ) u = .done u ((c.mapEnv φ).scalarOut ty o.dst x)) :
    CrossCompletes s i o e fun _ => destVals c.base ty o.dst 0 x := by
  refine h.completes hexec (outs := c.scalarOut ty o.dst x) hi hl hcmp hr (fun φ u same => ?_) (fun hw => ?_) fun m hm =>
    outcomeFor_map c.members h.nodup _ [] hm
  · rw [hbody φ u same, SetCtx.scalarOut_mapEnv same]
  · rw [h.solo hw]
    exact List.append_nil _

end
end

/-! ### The lane space of a warp, and of a set by rank -/

@[simp] theorem Env.solo_count (e : Env) : e.solo.count = e.th.width := Nat.one_mul _

theorem Env.solo_member {e : Env} {l : Nat} (hl : l < e.th.width) : e.solo.member l = some (e, l) := by
  simp [SetCtx.member, Env.solo, Nat.div_eq_of_lt hl, Nat.mod_eq_of_lt hl]

theorem Env.solo_actives (e : Env) (o : Ops) : e.solo.actives o = e.th.activeLanes o := by
  rw [SetCtx.actives, Env.solo_count, Thread.activeLanes]
  refine List.filter_congr fun l hl => ?_
  rw [SetCtx.active, Env.solo_member (List.mem_range.mp hl)]

theorem SetCtx.mem_actives {c : SetCtx} {o : Ops} {l : Nat} :
    l ∈ c.actives o ↔ l < c.count ∧ c.active o l = true := by
  rw [SetCtx.actives, List.mem_filter, List.mem_range]

section
variable {s : State} {e : Env} {o : Ops} {c : SetCtx} {set base : Nat} {all : List Nat}
  (named : e.setOf o = (set, base, all)) (hc : s.setCtx e o = some c)
include named hc

/-- The lane of a live member is found under its rank, -/
theorem SetCtx.member_of_rank {l : Nat} {f : Env} (hm : all[l / c.width]? = some f.tid) (hf : s.envOf f.tid = some f)
    (live : f.th.live = true) : c.member l = some (f, l % c.width) := by
  have hmem := (mem_members named hc (l / c.width) f).mpr ⟨hm, hf, live⟩
  rw [SetCtx.member]
  cases hfind : c.members.find? (fun m => m.1 = l / c.width) with
  | none => simpa using List.find?_eq_none.mp hfind _ hmem
  | some p =>
    obtain ⟨j, g⟩ := p
    have hj : j = l / c.width := by simpa using List.find?_some hfind
    obtain ⟨hg, henv, -⟩ := (mem_members named hc j g).mp (List.mem_of_find?_eq_some hfind)
    have tids : g.tid = f.tid := Option.some.inj ((hg.symm.trans (by rw [hj])).trans hm)
    have : g = f := Option.some.inj (henv.symm.trans (by rw [tids, hf]))
    rw [this]; rfl

/-- and no other lane is found. -/
theorem SetCtx.rank_of_member {l k : Nat} {f : Env} (h : c.member l = some (f, k)) :
    all[l / c.width]? = some f.tid ∧ s.envOf f.tid = some f ∧ f.th.live = true ∧ k = l % c.width := by
  obtain ⟨⟨j, g⟩, hfind, heq⟩ := Option.map_eq_some_iff.mp h
  obtain ⟨rfl, rfl⟩ := Prod.mk.inj heq
  have hj : j = l / c.width := by simpa using List.find?_some hfind
  obtain ⟨hg, henv, live⟩ := (mem_members named hc j g).mp (List.mem_of_find?_eq_some hfind)
  exact ⟨hj ▸ hg, henv, live, rfl⟩

theorem SetCtx.active_iff (l : Nat) : c.active o l = true ↔ ∃ m f, all[l / c.width]? = some m ∧ s.envOf m = some f ∧
    f.th.live = true ∧ (f.th.active o).getLsbD (l % c.width) = true := by
  rw [SetCtx.active]
  constructor
  · intro h
    cases hm : c.member l with
    | none => simp [hm] at h
    | some p =>
      obtain ⟨f, k⟩ := p
      obtain ⟨hall, henv, live, rfl⟩ := SetCtx.rank_of_member named hc hm
      exact ⟨f.tid, f, hall, henv, live, by simpa [hm] using h⟩
  · rintro ⟨m, f, hall, henv, live, hact⟩
    obtain rfl := (envOf_thread henv).2
    rw [SetCtx.member_of_rank named hc hall henv live]
    exact hact

/-- An active lane lies in the space. -/
theorem SetCtx.lt_count_of_active {l : Nat} (hw : 0 < e.th.width) (h : c.active o l = true) : l < c.count := by
  obtain ⟨m, f, hall, -⟩ := (SetCtx.active_iff named hc l).mp h
  obtain ⟨-, -, width, size, -⟩ := setCtx_some named hc
  have hlt : l / c.width < all.length := (List.getElem?_eq_some_iff.mp hall).1
  rw [SetCtx.count, size]
  exact (Nat.div_lt_iff_lt_mul (by rw [width]; exact hw)).mp hlt

/-- R45: the leader is the lowest live member. -/
theorem SetCtx.leader_of_find {m : Nat} {f : Env} (every : ∀ m ∈ all, ∃ f, s.envOf m = some f)
    (hm : all.find? (fun m => (s.thread m).any (·.live)) = some m) (hf : s.envOf m = some f) : c.leader = f := by
  obtain ⟨-, -, -, -, members, j, head⟩ := setCtx_some named hc
  have lives : ∀ {m : Nat} {g : Env}, s.envOf m = some g → (s.thread m).any (·.live) = g.th.live := fun hg => by
    obtain ⟨hth, rfl⟩ := envOf_thread hg
    rw [hth]; rfl
  have firsts : ∀ (l : List Nat) (k : Nat), (∀ m ∈ l, ∃ f, s.envOf m = some f) →
      l.find? (fun m => (s.thread m).any (·.live)) = some m →
      ∃ j, (((l.zipIdx k).filterMap (fun p => (s.envOf p.1).map (fun m => (p.2, m)))).filter (fun p => p.2.th.live)).head? =
        some (j, f) := by
    intro l
    induction l with
    | nil => intro k _ hfind; simp at hfind
    | cons a l ih =>
      intro k hl hfind
      obtain ⟨g, hg⟩ := hl a List.mem_cons_self
      cases hlive : g.th.live with
      | true =>
        have : a = m := by simpa [lives hg, hlive] using hfind
        subst this
        obtain rfl : g = f := Option.some.inj (hg.symm.trans hf)
        exact ⟨k, by simp [hg, hlive]⟩
      | false =>
        rw [List.find?_cons_of_neg (by simp [lives hg, hlive])] at hfind
        obtain ⟨j, hj⟩ := ih (k + 1) (fun m hm => hl m (List.mem_cons_of_mem _ hm)) hfind
        exact ⟨j, by simpa [hg, hlive] using hj⟩
  obtain ⟨j', hj'⟩ := firsts all 0 every hm
  rw [members, hj'] at head
  exact (Prod.mk.inj (Option.some.inj head)).2.symm

end

/-- The active lanes are the lanes that are active: none is outside the space. -/
theorem State.crosses.mem_actives {s : State} {i : Instr} {o : Ops} {e : Env} {c : SetCtx} (h : s.crosses i o e c)
    (hw : 0 < e.th.width) (l : Nat) : l ∈ c.actives o ↔ c.active o l = true := by
  refine ⟨fun hl => (SetCtx.mem_actives.mp hl).2, fun hl => SetCtx.mem_actives.mpr ⟨?_, hl⟩⟩
  rcases h with ⟨-, -, rfl⟩ | ⟨set, base, all, harr, hc⟩
  · have zero : l / e.th.width = 0 := by
      by_contra hne
      have none : e.solo.member l = none := by simp [SetCtx.member, Env.solo, Ne.symm hne]
      simp [SetCtx.active, none] at hl
    rw [Env.solo_count]
    exact (Nat.div_eq_zero_iff_lt hw).mp zero
  · exact SetCtx.lt_count_of_active harr.named hc hw hl

/-! ### Shuffles and broadcasts -/

/-- Settles O16: both give each active lane, or the scalar, a value that the lane space alone decides. -/
theorem crossLaneMoves : Obligations.CrossLaneMoves := by
  intro s e o i c h hw _ n a b act
  have lanes := h.mem_actives hw
  refine ⟨fun hwarp => ?_, fun set base all hscope named => ?_, fun m hi => ?_, fun hi => ⟨fun hd => ?_, fun k hd => ?_⟩⟩
  · have hc := h.solo hwarp
    subst hc
    refine ⟨e.solo_count, e.solo_actives o, fun ty l hl => ⟨fun k => ?_, fun k => rfl, fun x => rfl⟩⟩
    have hl' : l < e.th.width := by simpa [n] using hl
    simp only [SetCtx.raw, Env.solo_member hl']
    rfl
  · rcases h with ⟨hwarp, -, -⟩ | ⟨set', base', all', harr, hc⟩
    · exact absurd hwarp hscope
    · obtain ⟨rfl, hrest⟩ := Prod.mk.inj (harr.named.symm.trans named)
      obtain ⟨rfl, rfl⟩ := Prod.mk.inj hrest
      obtain ⟨-, hbase, width, size, -⟩ := setCtx_some named hc
      refine ⟨width, hbase, by rw [← size]; rfl, fun l => ?_, fun l m f hall henv live ty k => ?_,
        fun m f hfind henv ty l k => ?_⟩
      · exact (lanes l).trans (SetCtx.active_iff named hc l)
      · obtain rfl := (envOf_thread henv).2
        have found := SetCtx.member_of_rank named hc hall henv live
        simp only [SetCtx.raw, found, hbase]
        exact ⟨rfl, rfl⟩
      · have leader := SetCtx.leader_of_find named hc (fun m hm => (harr.one m hm).imp fun f hf => hf.1) hfind henv
        simp only [SetCtx.raw, leader]
        rfl
  · subst hi
    refine h.completes_each rfl rfl rfl rfl (by simp) fun φ u same => ?_
    simp only [SetCtx.actives_mapEnv same, SetCtx.raw_mapEnv same, SetCtx.active_mapEnv same]
    simp only [← lanes]
    cases m <;> rfl
  all_goals
    subst hi
    have reads : ∀ (φ : Env → Env), (∀ f : Env, f.SameIn (φ f)) → (let j := (c.mapEnv φ).raw .b32 o.b 0
        if j < (c.mapEnv φ).count ∧ (c.mapEnv φ).active o j then (c.mapEnv φ).raw o.ty o.a j else 0) =
          if b 0 < n ∧ act (b 0) then a (b 0) else 0 := fun φ same => by
      simp only [SetCtx.raw_mapEnv same, SetCtx.active_mapEnv same, ← lanes]
      rfl
  · refine h.completes_each rfl rfl rfl rfl (by simp) fun φ u same => ?_
    simp only [reads φ same, SetCtx.actives_mapEnv same]
  · by_cases hnone : c.leader.la.obj.errata.getLsbD 9 = true ∧ c.actives o = []
    · simp only [if_pos hnone]
      refine h.completes (outs := []) rfl rfl rfl rfl (by simp) (fun φ u same => ?_) (fun _ => rfl) fun _ _ => rfl
      have err : (c.mapEnv φ).leader.erratum 9 = true := ((same c.leader).erratum 9).trans hnone.1
      simp only [hd, err, SetCtx.actives_mapEnv same, hnone.2, decide_true, Bool.and_self, if_true]
    · simp only [if_neg hnone]
      rw [← hd]
      refine h.completes_scalar rfl rfl rfl rfl (by simp) fun φ u same => ?_
      have err : (c.mapEnv φ).leader.erratum 9 = c.leader.la.obj.errata.getLsbD 9 := (same c.leader).erratum 9
      have writes : (c.leader.la.obj.errata.getLsbD 9 && decide (c.actives o = [])) = false := by
        rw [Bool.eq_false_iff]; simpa using hnone
      simp only [hd, reads φ same, err, SetCtx.actives_mapEnv same, writes]
      rfl

end Sys2Proof.Machine
end


section
/-! PROOF. The order of float values (R117, R130, R268): every value has a key in a linear order. -/

namespace Sys2Proof

/-! ### Exact values as rationals -/

/-- The rational that an exact value is. -/
def Exact.val (x : Exact) : ℚ := x.n * 2 ^ x.e

/-- An exact value in units of a lower power of two. -/
theorem Exact.val_eq {x : Exact} {e : Int} (h : e ≤ x.e) : x.val = ((x.n * (2 ^ (x.e - e).toNat : Nat) : Int) : ℚ) * 2 ^ e := by
  have split : (2 : ℚ) ^ x.e = 2 ^ (x.e - e).toNat * 2 ^ e := by
    rw [← zpow_natCast, Int.toNat_of_nonneg (by omega), ← zpow_add₀ (by norm_num)]
    congr 1; omega
  rw [Exact.val, split]
  push_cast
  ring

theorem Exact.cmp_eq (x y : Exact) : x.cmp y = compare x.val y.val := by
  have pos : (0 : ℚ) < 2 ^ min x.e y.e := by positivity
  rw [Exact.cmp, Exact.val_eq (min_le_left x.e y.e), Exact.val_eq (min_le_right x.e y.e)]
  generalize x.n * (2 ^ (x.e - min x.e y.e).toNat : Nat) = a
  generalize y.n * (2 ^ (y.e - min x.e y.e).toNat : Nat) = b
  have lt : ∀ a b : Int, (a : ℚ) * 2 ^ min x.e y.e < b * 2 ^ min x.e y.e ↔ a < b := fun a b => by
    rw [mul_lt_mul_iff_left₀ pos, Int.cast_lt]
  rcases lt_trichotomy a b with hab | hab | hab
  · rw [compare_lt_iff_lt.mpr hab, compare_lt_iff_lt.mpr ((lt a b).mpr hab)]
  · rw [hab, compare_eq_iff_eq.mpr rfl, compare_eq_iff_eq.mpr rfl]
  · rw [compare_gt_iff_gt.mpr hab, compare_gt_iff_gt.mpr ((lt b a).mpr hab)]

/-! ### Keys -/

/-- R130, R268: what orders float values: NaN, −∞, the numbers, +∞; numbers by value, and −0 below +0. -/
def FpVal.key : FpVal → Nat ×ₗ ℚ ×ₗ Nat
  | .nan .. => toLex (0, toLex (0, 0))
  | .inf neg => toLex (if neg then 1 else 3, toLex (0, 0))
  | .fin neg m e => toLex (2, toLex ((FpVal.fin neg m e).exact.val, if m = 0 ∧ neg = false then 1 else 0))

theorem FpVal.exact_val (neg : Bool) (m : Nat) (e : Int) :
    (FpVal.fin neg m e).exact.val = if neg then -(m * 2 ^ e : ℚ) else m * 2 ^ e := by
  cases neg <;> simp [FpVal.exact, Exact.val]

theorem FpVal.exact_val_eq_zero (neg : Bool) (m : Nat) (e : Int) : (FpVal.fin neg m e).exact.val = 0 ↔ m = 0 := by
  have : (2 : ℚ) ^ e ≠ 0 := by positivity
  rw [FpVal.exact_val]
  cases neg <;> simp [this]

theorem compare_lex {i j a b : Nat} {p q : ℚ} : compare (toLex (i, toLex (p, a)) : Nat ×ₗ ℚ ×ₗ Nat) (toLex (j, toLex (q, b))) =
    (compare i j).then ((compare p q).then (compare a b)) := rfl

/-- R130: the order of values that are no NaN is that of their keys. -/
theorem FpVal.order_eq {x y : FpVal} (hx : x.isNan = false) (hy : y.isNan = false) : x.order y = compare x.key y.key := by
  have zero : compare (0 : ℚ) 0 = .eq := compare_eq_iff_eq.mpr rfl
  cases x with
  | nan => simp [FpVal.isNan] at hx
  | inf a =>
    cases y with
    | nan => simp [FpVal.isNan] at hy
    | inf b => cases a <;> cases b <;> simp only [FpVal.key, compare_lex, zero] <;> rfl
    | fin b m e => cases a <;> rfl
  | fin a m e =>
    cases y with
    | nan => simp [FpVal.isNan] at hy
    | inf b => cases b <;> rfl
    | fin b k f =>
      have two : compare 2 2 = Ordering.eq := rfl
      simp only [FpVal.key, compare_lex, two, Ordering.then]
      have step : (FpVal.fin a m e).cmp (.fin b k f) =
          compare (FpVal.fin a m e).exact.val (FpVal.fin b k f).exact.val := Exact.cmp_eq _ _
      rw [FpVal.order, step]
      cases hcmp : compare (FpVal.fin a m e).exact.val (FpVal.fin b k f).exact.val with
      | lt => rfl
      | gt => rfl
      | eq =>
        have hzero : m = 0 ↔ k = 0 := by
          rw [← FpVal.exact_val_eq_zero a m e, ← FpVal.exact_val_eq_zero b k f, compare_eq_iff_eq.mp hcmp]
        by_cases hm : m = 0
        · obtain rfl := hm
          obtain rfl := hzero.mp rfl
          cases a <;> cases b <;> rfl
        · have hk : k ≠ 0 := fun h => hm (hzero.mpr h)
          simp [FpVal.isZero, hm, hk]

/-! ### Codes -/

/-- The sign and the value of a finite number. -/
def FpVal.number : FpVal → Option (Bool × ℚ)
  | .fin neg m e => some (neg, (FpVal.fin neg m e).exact.val)
  | _ => none

section
variable {t : Ty} (ht : t ∈ tysArith)
include ht

theorem arith_signed : t.signed = true ∧ t.ieee = true ∧ t.flushes = true ∧ t.isFloat = true ∧ t ≠ .e8m0 ∧ t ≠ .e4m3 := by
  simp only [tysArith, List.mem_cons, List.not_mem_nil, or_false] at ht
  rcases ht with rfl | rfl | rfl | rfl <;> decide

/-- R117: what a code of such a format is. -/
theorem fpVal_arith (x : Nat) : fpVal t x =
    let neg := t.negOf x
    let mag := t.magOf x
    let man := mag % 2 ^ t.mbits
    if mag > t.maxCode then if man = 0 then .inf neg else .nan neg man (decide (2 ^ (t.mbits - 1) ≤ man))
    else if mag / 2 ^ t.mbits = 0 then .fin neg man (t.emin - t.mbits)
    else .fin neg (2 ^ t.mbits + man) ((mag / 2 ^ t.mbits : Nat) - (t.bias : Int) - t.mbits) := by
  obtain ⟨-, ieee, -, -, notE8, notE4⟩ := arith_signed ht
  simp only [fpVal, notE8, notE4, ieee, if_false, true_and, false_and]

theorem magOf_arith (x : Nat) : t.magOf x = x % 2 ^ (t.bits - 1) := by
  rw [Ty.magOf, (arith_signed ht).1, if_pos rfl]

theorem negOf_arith (x : Nat) : t.negOf x = decide (x / 2 ^ (t.bits - 1) % 2 = 1) := by
  rw [Ty.negOf, (arith_signed ht).1]; rfl

/-- The number of a code is that of its value. -/
theorem number_fpVal (x : Nat) : t.number false x = (fpVal t x).number := by
  obtain ⟨-, -, -, -, notE8, -⟩ := arith_signed ht
  rw [fpVal_arith ht, Ty.number, magOf_arith ht, negOf_arith ht]
  dsimp only
  generalize x % 2 ^ (t.bits - 1) = m
  generalize decide (x / 2 ^ (t.bits - 1) % 2 = 1) = neg
  by_cases hmax : t.maxCode < m
  · rw [if_pos hmax, if_pos hmax]
    split <;> rfl
  · rw [if_neg hmax, if_neg hmax]
    simp only [Bool.false_eq_true, false_and, if_false]
    by_cases he : m / 2 ^ t.mbits = 0
    · rw [if_pos he, FpVal.number, FpVal.exact_val, Ty.grid, if_neg notE8, if_pos he]
      rfl
    · rw [if_neg he, FpVal.number, FpVal.exact_val, Ty.grid, if_neg notE8, if_neg he]
      push_cast
      rfl

theorem arith_bits : t.bits = (t.bits - 1) + 1 := by
  simp only [tysArith, List.mem_cons, List.not_mem_nil, or_false] at ht
  rcases ht with rfl | rfl | rfl | rfl <;> rfl

/-- The bits above a format's do not count. -/
theorem fpVal_mod (x : Nat) : fpVal t (x % 2 ^ t.bits) = fpVal t x := by
  have low : x % 2 ^ t.bits % 2 ^ (t.bits - 1) = x % 2 ^ (t.bits - 1) :=
    Nat.mod_mod_of_dvd x (Nat.pow_dvd_pow 2 (Nat.sub_le _ _))
  have top : x % 2 ^ t.bits / 2 ^ (t.bits - 1) % 2 = x / 2 ^ (t.bits - 1) % 2 := by
    rw [arith_bits ht, Nat.add_sub_cancel, Nat.pow_succ, Nat.mod_mul_right_div_self, Nat.mod_mod]
  simp only [fpVal_arith ht, magOf_arith ht, negOf_arith ht, low, top]

/-- R127: a subnormal number that is flushed is a zero of its sign. -/
theorem fpVal_signBit (neg : Bool) : fpVal t (t.signBit neg) = .fin neg 0 (t.emin - t.mbits) := by
  simp only [tysArith, List.mem_cons, List.not_mem_nil, or_false] at ht
  rcases ht with rfl | rfl | rfl | rfl <;> cases neg <;> rfl

/-- R127: a source is what its code is, but for a subnormal number under DAZ. -/
theorem fpVal_source (env : FpEnv) (x : Nat) : fpVal t (env.source t x) =
    if env.daz = true ∧ isSubnormal t x = true then .fin (t.negOf x) 0 (t.emin - t.mbits) else fpVal t x := by
  rw [FpEnv.source, (arith_signed ht).2.2.1]
  simp only [Bool.and_true, Bool.and_eq_true]
  split
  · exact fpVal_signBit ht _
  · exact fpVal_mod ht x

theorem mantissa_le_maxCode : 2 ^ t.mbits ≤ t.maxCode := by
  simp only [tysArith, List.mem_cons, List.not_mem_nil, or_false] at ht
  rcases ht with rfl | rfl | rfl | rfl <;> decide

/-- The value of a subnormal number, or of a zero. -/
theorem fpVal_small {x : Nat} (h : t.magOf x < 2 ^ t.mbits) : fpVal t x = .fin (t.negOf x) (t.magOf x) (t.emin - t.mbits) := by
  have notMore := Nat.not_lt.mpr (Nat.le_trans (Nat.le_of_lt h) (mantissa_le_maxCode ht))
  simp only [fpVal_arith ht, gt_iff_lt, if_neg notMore, Nat.div_eq_of_lt h, if_true, Nat.mod_eq_of_lt h]

theorem isSubnormal_arith (x : Nat) : isSubnormal t x = true ↔ t.magOf x < 2 ^ t.mbits ∧ t.magOf x ≠ 0 := by
  simp [isSubnormal, Nat.div_eq_zero_iff, (arith_signed ht).2.2.2.2.1]

/-- A source is a NaN or an infinity when its code is one. -/
theorem source_special (env : FpEnv) (x : Nat) : (fpVal t (env.source t x)).isNan = (fpVal t x).isNan ∧
    ∀ neg, fpVal t (env.source t x) = .inf neg ↔ fpVal t x = .inf neg := by
  rw [fpVal_source ht]
  split
  · rename_i hsub
    rw [fpVal_small ht ((isSubnormal_arith ht x).mp hsub.2).1]
    exact ⟨rfl, fun _ => iff_of_false nofun nofun⟩
  · exact ⟨rfl, fun _ => Iff.rfl⟩

/-- R127: the number that a source is. -/
theorem number_source (env : FpEnv) (x : Nat) : t.number env.daz x = (fpVal t (env.source t x)).number := by
  rw [fpVal_source ht]
  by_cases hdaz : env.daz = true
  · by_cases small : t.magOf x < 2 ^ t.mbits
    · have num : t.number env.daz x = some (t.negOf x, 0) := by
        have notMore := Nat.not_lt.mpr (Nat.le_trans (Nat.le_of_lt small) (mantissa_le_maxCode ht))
        rw [magOf_arith ht] at small notMore
        simp only [Ty.number, if_neg notMore, hdaz, (arith_signed ht).2.2.1, small, and_self, if_true, negOf_arith ht]
      have zero : ∀ e, (FpVal.fin (t.negOf x) 0 e).number = some (t.negOf x, 0) := fun e => by
        rw [FpVal.number, (FpVal.exact_val_eq_zero _ 0 e).mpr rfl]
      rw [num]
      split
      · exact (zero _).symm
      · rename_i hsub
        have hm : t.magOf x = 0 := by
          by_contra hne
          exact hsub ⟨hdaz, (isSubnormal_arith ht x).mpr ⟨small, hne⟩⟩
        rw [fpVal_small ht small, hm, zero]
    · rw [if_neg fun h => small ((isSubnormal_arith ht x).mp h.2).1, ← number_fpVal ht]
      rw [magOf_arith ht] at small
      simp only [Ty.number, small, and_false, if_false]
  · rw [if_neg fun h => hdaz h.1, ← number_fpVal ht, Bool.eq_false_iff.mpr hdaz]

end

/-! ### What the order of keys says -/

/-- The key of a number of a sign and a value. -/
def numberKey (p : Bool × ℚ) : Nat ×ₗ ℚ ×ₗ Nat := toLex (2, toLex (p.2, if p.2 = 0 ∧ p.1 = false then 1 else 0))

theorem key_of_number {x : FpVal} {p : Bool × ℚ} (h : x.number = some p) : x.key = numberKey p := by
  cases x with
  | nan | inf => simp [FpVal.number] at h
  | fin neg m e =>
    obtain rfl := Option.some.inj h
    simp only [FpVal.key, numberKey, FpVal.exact_val_eq_zero]

/-- A value that is no NaN is an infinity or a number. -/
theorem number_or_inf {x : FpVal} (h : x.isNan = false) : x = .inf true ∨ x = .inf false ∨ ∃ p, x.number = some p := by
  cases x with
  | nan => simp [FpVal.isNan] at h
  | inf neg => cases neg <;> simp
  | fin neg m e => exact .inr (.inr ⟨_, rfl⟩)

theorem key_inf_lt : (FpVal.inf true).key < (FpVal.inf false).key := by decide

theorem key_inf_lt_number (p : Bool × ℚ) : (FpVal.inf true).key < numberKey p := by
  simp [FpVal.key, numberKey, Prod.Lex.toLex_lt_toLex]

theorem numberKey_lt_inf (p : Bool × ℚ) : numberKey p < (FpVal.inf false).key := by
  simp [FpVal.key, numberKey, Prod.Lex.toLex_lt_toLex]

/-- R130: numbers are ordered by value, and −0 lies below +0. -/
theorem numberKey_lt {p q : Bool × ℚ} : numberKey p < numberKey q ↔
    p.2 < q.2 ∨ (p.2 = q.2 ∧ q.2 = 0 ∧ q.1 = false ∧ p.1 = true) := by
  obtain ⟨a, u⟩ := p
  obtain ⟨b, v⟩ := q
  simp only [numberKey, Prod.Lex.toLex_lt_toLex, lt_irrefl, false_or, true_and]
  refine or_congr_right (and_congr_right fun huv => ?_)
  subst huv
  by_cases hu : u = 0 <;> cases a <;> cases b <;> simp [hu]

theorem numberKey_eq {p q : Bool × ℚ} : numberKey p = numberKey q ↔ p.2 = q.2 ∧ (p.2 = 0 → p.1 = q.1) := by
  obtain ⟨a, u⟩ := p
  obtain ⟨b, v⟩ := q
  simp only [numberKey, EmbeddingLike.apply_eq_iff_eq, Prod.mk.injEq, true_and]
  refine and_congr_right fun huv => ?_
  subst huv
  by_cases hu : u = 0 <;> cases a <;> cases b <;> simp [hu]

/-- R130: what it says that one value does not lie above another. -/
theorem key_le {x y : FpVal} (hx : x.isNan = false) (hy : y.isNan = false) (h : x.key ≤ y.key) :
    x = .inf true ∨ y = .inf false ∨ ∃ p q, x.number = some p ∧ y.number = some q ∧
      (p.2 < q.2 ∨ (p.2 = q.2 ∧ (p.2 = 0 → p.1 = true ∨ q.1 = false))) := by
  rcases number_or_inf hx with rfl | rfl | ⟨p, hp⟩
  · exact .inl rfl
  · rcases number_or_inf hy with rfl | rfl | ⟨q, hq⟩
    · exact absurd h (not_le.mpr key_inf_lt)
    · exact .inr (.inl rfl)
    · exact absurd h (not_le.mpr (key_of_number hq ▸ numberKey_lt_inf q))
  · rcases number_or_inf hy with rfl | rfl | ⟨q, hq⟩
    · exact absurd h (not_le.mpr (key_of_number hp ▸ key_inf_lt_number p))
    · exact .inr (.inl rfl)
    · rw [key_of_number hp, key_of_number hq] at h
      refine .inr (.inr ⟨p, q, hp, hq, ?_⟩)
      rcases lt_or_eq_of_le h with hlt | heq
      · exact (numberKey_lt.mp hlt).imp_right fun ⟨h, _, _, hn⟩ => ⟨h, fun _ => .inl hn⟩
      · obtain ⟨hv, hs⟩ := numberKey_eq.mp heq
        refine .inr ⟨hv, fun hz => ?_⟩
        rw [hs hz]
        cases q.1 <;> simp

/-- R268: what it says that one value ranks before another, or beside it with a lower lane (`low`). -/
theorem key_before {x y : FpVal} (hx : x.isNan = false) (hy : y.isNan = false) {low : Prop}
    (h : y.key < x.key ∨ (x.key = y.key ∧ low)) :
    (x = .inf false ∧ (y = .inf false → low)) ∨ (y = .inf true ∧ (x = .inf true → low)) ∨
      ∃ p q, x.number = some p ∧ y.number = some q ∧ (q.2 < p.2 ∨ (p.2 = q.2 ∧
        ((p.2 = 0 ∧ p.1 = false ∧ q.1 = true) ∨ ((p.2 = 0 → p.1 = q.1) ∧ low)))) := by
  have le : y.key ≤ x.key := h.elim le_of_lt fun h => le_of_eq h.1.symm
  have tie : x = y → low := fun heq => h.elim (fun hlt => absurd hlt (heq ▸ lt_irrefl _)) And.right
  rcases number_or_inf hx with rfl | rfl | ⟨p, hp⟩
  · rcases number_or_inf hy with rfl | rfl | ⟨q, hq⟩
    · exact .inr (.inl ⟨rfl, tie⟩)
    · exact absurd le (not_le.mpr key_inf_lt)
    · exact absurd le (not_le.mpr (key_of_number hq ▸ key_inf_lt_number q))
  · exact .inl ⟨rfl, fun hy => tie hy.symm⟩
  · rcases number_or_inf hy with rfl | rfl | ⟨q, hq⟩
    · exact .inr (.inl ⟨rfl, fun hx => tie hx⟩)
    · exact absurd le (not_le.mpr (key_of_number hp ▸ numberKey_lt_inf p))
    · rw [key_of_number hp, key_of_number hq, numberKey_lt, numberKey_eq] at h
      refine .inr (.inr ⟨p, q, hp, hq, ?_⟩)
      rcases h with (hlt | ⟨hv, hz, hn, hm⟩) | ⟨⟨hv, hs⟩, hlow⟩
      · exact .inl hlt
      · exact .inr ⟨hv.symm, .inl ⟨hz, hn, hm⟩⟩
      · exact .inr ⟨hv, .inr ⟨hs, hlow⟩⟩

theorem key_nan_lt {x y : FpVal} (hx : x.isNan = true) (hy : y.isNan = false) : x.key < y.key := by
  cases x <;> simp [FpVal.isNan] at hx
  rcases number_or_inf hy with rfl | rfl | ⟨q, hq⟩
  · simp [FpVal.key, Prod.Lex.toLex_lt_toLex]
  · simp [FpVal.key, Prod.Lex.toLex_lt_toLex]
  · rw [key_of_number hq]
    simp [FpVal.key, numberKey, Prod.Lex.toLex_lt_toLex]

theorem key_nan_eq {x y : FpVal} (hx : x.isNan = true) (hy : y.isNan = true) : x.key = y.key := by
  cases x <;> simp [FpVal.isNan] at hx
  cases y <;> simp [FpVal.isNan] at hy
  rfl

end Sys2Proof
end


section
/-! PROOF. Ranked lanes (O18). -/

namespace Sys2Proof.Machine

/-! ### The ranking of two lanes -/

/-- Two lanes, each with its value, in the order of a key: the greater one first, and ties to the lower lane. -/
def Ranks {κ : Type} [LT κ] (key : Nat → κ) (x y : Nat × Nat) : Prop :=
  key y.2 < key x.2 ∨ (key x.2 = key y.2 ∧ x.1 < y.1)

/-- R268: what ranks a float value. -/
def floatKey (env : FpEnv) (t : Ty) (x : Nat) : Nat ×ₗ ℚ ×ₗ Nat := (fpVal t (env.source t x)).key

theorem ranks_iff_compare {κ : Type} [LinearOrder κ] (key : Nat → κ) (x y : Nat × Nat) :
    (match compare (key x.2) (key y.2) with | .gt => true | .lt => false | .eq => decide (x.1 < y.1)) = true ↔
      Ranks key x y := by
  rw [Ranks]
  rcases lt_trichotomy (key x.2) (key y.2) with h | h | h
  · simp [compare_lt_iff_lt.mpr h, not_lt_of_gt h, ne_of_lt h]
  · simp [h]
  · simp [compare_gt_iff_gt.mpr h, h]

theorem ranksBefore_float {t : Ty} (ht : t.isFloat = true) (env : FpEnv) (x y : Nat × Nat) :
    ranksBefore env t x y = true ↔ Ranks (floatKey env t) x y := by
  rw [← ranks_iff_compare, ranksBefore, if_pos ht, floatKey, floatKey]
  generalize fpVal t (env.source t x.2) = v
  generalize fpVal t (env.source t y.2) = w
  cases v with
  | nan =>
    cases w with
    | nan => rw [compare_eq_iff_eq.mpr (key_nan_eq rfl rfl)]
    | inf => rw [compare_lt_iff_lt.mpr (key_nan_lt rfl rfl)]
    | fin => rw [compare_lt_iff_lt.mpr (key_nan_lt rfl rfl)]
  | inf =>
    cases w with
    | nan => rw [compare_gt_iff_gt.mpr (key_nan_lt rfl rfl)]
    | inf => rw [← FpVal.order_eq rfl rfl] <;> exact Iff.rfl
    | fin => rw [← FpVal.order_eq rfl rfl] <;> exact Iff.rfl
  | fin =>
    cases w with
    | nan => rw [compare_gt_iff_gt.mpr (key_nan_lt rfl rfl)]
    | inf => rw [← FpVal.order_eq rfl rfl] <;> exact Iff.rfl
    | fin => rw [← FpVal.order_eq rfl rfl] <;> exact Iff.rfl

theorem ranksBefore_int {t : Ty} (ht : t.isFloat = false) (env : FpEnv) (x y : Nat × Nat) :
    ranksBefore env t x y = true ↔ Ranks t.value x y := by
  rw [← ranks_iff_compare, ranksBefore, ht]
  exact Iff.rfl

/-! ### Insertion -/

theorem rankInsert_perm (before : Nat × Nat → Nat × Nat → Bool) (x : Nat × Nat) (l : List (Nat × Nat)) :
    (rankInsert before x l).Perm (x :: l) := by
  induction l with
  | nil => exact .refl _
  | cons y l ih =>
    rw [rankInsert]
    split
    · exact .refl _
    · exact (ih.cons y).trans (.swap x y l)

theorem rankSort_perm (before : Nat × Nat → Nat × Nat → Bool) (l : List (Nat × Nat)) :
    (l.foldr (rankInsert before) []).Perm l := by
  induction l with
  | nil => exact .refl _
  | cons y l ih => exact (rankInsert_perm before y _).trans (ih.cons y)

section
variable {κ : Type} [LinearOrder κ] {key : Nat → κ} {before : Nat × Nat → Nat × Nat → Bool}
  (hb : ∀ x y, before x y = true ↔ Ranks key x y)
include hb

theorem rankInsert_pairwise {x : Nat × Nat} {l : List (Nat × Nat)} (hne : ∀ y ∈ l, y.1 ≠ x.1) (h : l.Pairwise (Ranks key)) :
    (rankInsert before x l).Pairwise (Ranks key) := by
  induction l with
  | nil => exact List.pairwise_singleton _ _
  | cons y l ih =>
    obtain ⟨hy, hl⟩ := List.pairwise_cons.mp h
    rw [rankInsert]
    split
    · rename_i hxy
      have first : Ranks key x y := (hb x y).mp hxy
      refine List.pairwise_cons.mpr ⟨fun z hz => ?_, h⟩
      rcases List.mem_cons.mp hz with rfl | hz
      · exact first
      · rcases first with hxy | ⟨hxy, lxy⟩ <;> rcases hy z hz with hyz | ⟨hyz, lyz⟩
        · exact .inl (hyz.trans hxy)
        · exact .inl (hyz ▸ hxy)
        · exact .inl (hxy ▸ hyz)
        · exact .inr ⟨hxy.trans hyz, lxy.trans lyz⟩
    · rename_i hxy
      have second : Ranks key y x := by
        have hno : ¬ Ranks key x y := fun h => hxy ((hb x y).mpr h)
        simp only [Ranks, not_or, not_and, not_lt] at hno
        obtain ⟨hle, htie⟩ := hno
        rcases lt_or_eq_of_le hle with hlt | heq
        · exact .inl hlt
        · exact .inr ⟨heq.symm, lt_of_le_of_ne (htie heq) (hne y List.mem_cons_self)⟩
      refine List.pairwise_cons.mpr ⟨fun z hz => ?_, ih (fun z hz => hne z (List.mem_cons_of_mem _ hz)) hl⟩
      rcases List.mem_cons.mp ((rankInsert_perm before x l).mem_iff.mp hz) with rfl | hz
      · exact second
      · exact hy z hz

theorem rankSort_pairwise {l : List (Nat × Nat)} (hn : (l.map (·.1)).Nodup) :
    (l.foldr (rankInsert before) []).Pairwise (Ranks key) := by
  induction l with
  | nil => exact .nil
  | cons y l ih =>
    obtain ⟨hy, hl⟩ := List.nodup_cons.mp hn
    refine rankInsert_pairwise hb (fun z hz heq => hy ?_) (ih hl)
    exact List.mem_map.mpr ⟨z, (rankSort_perm before l).mem_iff.mp hz, heq⟩

end

/-! ### The ranked lanes of a space -/

/-- R268: the active lanes as `topk` ranks them. -/
def SetCtx.ranked (c : SetCtx) (o : Ops) : List Nat :=
  (((c.actives o).map fun l => (l, c.raw o.ty o.a l)).foldr (rankInsert (ranksBefore c.leader.fp o.ty)) []).map (·.1)

theorem SetCtx.ranked_perm (c : SetCtx) (o : Ops) : (c.ranked o).Perm (c.actives o) := by
  have h := (rankSort_perm (ranksBefore c.leader.fp o.ty) ((c.actives o).map fun l => (l, c.raw o.ty o.a l))).map (·.1)
  rwa [List.map_map, show ((·.1) ∘ fun l => (l, c.raw o.ty o.a l) : Nat → Nat) = id from rfl, List.map_id] at h

theorem SetCtx.ranked_pairwise {c : SetCtx} {o : Ops} {κ : Type} [LinearOrder κ] {key : Nat → κ}
    (hb : ∀ x y, ranksBefore c.leader.fp o.ty x y = true ↔ Ranks key x y) :
    (c.ranked o).Pairwise fun x y => Ranks key (x, c.raw o.ty o.a x) (y, c.raw o.ty o.a y) := by
  have nodup : (((c.actives o).map fun l => (l, c.raw o.ty o.a l)).map (·.1)).Nodup := by
    rw [List.map_map]
    exact (List.map_id _).symm ▸ List.nodup_range.filter _
  refine List.pairwise_map.mpr ((rankSort_pairwise hb nodup).imp_of_mem fun {x y} hx hy h => ?_)
  have valued : ∀ {z : Nat × Nat}, z ∈ ((c.actives o).map fun l => (l, c.raw o.ty o.a l)).foldr
      (rankInsert (ranksBefore c.leader.fp o.ty)) [] → (z.1, c.raw o.ty o.a z.1) = z := fun hz => by
    obtain ⟨l, -, rfl⟩ := List.mem_map.mp ((rankSort_perm _ _).mem_iff.mp hz)
    rfl
  rw [valued hx, valued hy]
  exact h

/-- Settles O18: insertion in the order of a key ranks the lanes, and the key of a float value is that of R268. -/
theorem rankedLanes : Obligations.RankedLanes := by
  intro s e o c h _ _ lanes a num
  refine ⟨c.ranked o, c.ranked_perm o, fun hint => ?_, fun harith => ?_, ?_⟩
  · exact SetCtx.ranked_pairwise (ranksBefore_int hint c.leader.fp)
  · have float := (arith_signed harith).2.2.2.1
    refine (SetCtx.ranked_pairwise (ranksBefore_float float c.leader.fp)).imp fun {x y} hxy => ?_
    obtain ⟨nanX, infX⟩ := source_special harith c.leader.fp (a x)
    obtain ⟨nanY, infY⟩ := source_special harith c.leader.fp (a y)
    have numX : num x = (fpVal o.ty (c.leader.fp.source o.ty (a x))).number := number_source harith _ _
    have numY : num y = (fpVal o.ty (c.leader.fp.source o.ty (a y))).number := number_source harith _ _
    simp only [← nanX, ← nanY, ← infX, ← infY, numX, numY]
    have hkey : (fpVal o.ty (c.leader.fp.source o.ty (a y))).key < (fpVal o.ty (c.leader.fp.source o.ty (a x))).key ∨
        ((fpVal o.ty (c.leader.fp.source o.ty (a x))).key = (fpVal o.ty (c.leader.fp.source o.ty (a y))).key ∧ x < y) := hxy
    generalize fpVal o.ty (c.leader.fp.source o.ty (a x)) = v at hkey
    generalize fpVal o.ty (c.leader.fp.source o.ty (a y)) = w at hkey
    refine ⟨fun hw => ?_, fun hv => ?_, fun hv hw => key_before hv hw hkey⟩
    · cases hv : v.isNan with
      | false => exact .inl rfl
      | true => exact .inr (hkey.elim (fun hlt => absurd hlt (by rw [key_nan_eq hv hw]; exact lt_irrefl _)) And.right)
    · by_contra hw
      have hlt := key_nan_lt hv (Bool.eq_false_iff.mpr hw)
      exact hkey.elim (fun h => lt_asymm h hlt) fun h => ne_of_lt hlt h.1
  · refine h.completes_each rfl rfl rfl rfl (by simp) fun φ u same => ?_
    have count : lanes.length ≤ c.count := by
      have := List.length_filter_le (c.active o) (List.range c.count)
      rwa [List.length_range] at this
    have least : min (min (c.raw .b32 o.b 0) c.count) lanes.length = min (c.raw .b32 o.b 0) lanes.length := by omega
    have leader : (c.mapEnv φ).leader.fp = c.leader.fp := (same c.leader).fp
    have length : (((c.actives o).map fun l => (l, c.raw o.ty o.a l)).foldr
        (rankInsert (ranksBefore c.leader.fp o.ty)) []).length = lanes.length := by
      rw [(rankSort_perm _ _).length_eq, List.length_map]
    simp only [SetCtx.raw_mapEnv same, SetCtx.actives_mapEnv same, leader, length]
    rw [show (c.mapEnv φ).count = c.count from rfl, least]
    rfl

end Sys2Proof.Machine
end


section
/-! PROOF. The tree of R138: its height, its nodes and its maximal nodes in a range. -/

namespace Sys2Proof

/-! ### The height -/

theorem le_two_pow_treeHeight (n : Nat) : n ≤ 2 ^ treeHeight n := by
  rw [treeHeight]
  split
  · assumption
  · have := Nat.lt_log2_self (n := n - 1)
    omega

theorem treeHeight_le {n k : Nat} (h : n ≤ 2 ^ k) : treeHeight n ≤ k := by
  rw [treeHeight]
  split
  · exact Nat.zero_le _
  · rename_i hn
    exact (Nat.log2_lt (by omega)).mpr (by omega)

/-! ### The maximal nodes in a range -/

/-- Where the lanes of a node's two halves begin and end. -/
theorem node_halves (j m : Nat) : 2 * m * 2 ^ j = m * 2 ^ (j + 1) ∧ (2 * m + 1) * 2 ^ j = m * 2 ^ (j + 1) + 2 ^ j ∧
    (2 * m + 1 + 1) * 2 ^ j = (m + 1) * 2 ^ (j + 1) ∧ (m + 1) * 2 ^ (j + 1) = m * 2 ^ (j + 1) + 2 ^ j + 2 ^ j := by
  refine ⟨?_, ?_, ?_, ?_⟩ <;> rw [Nat.pow_succ] <;> ring

/-- The lanes of a node lie in a range. -/
def InRange (lo hi : Nat) (p : Nat × Nat) : Prop := lo ≤ p.2 * 2 ^ p.1 ∧ (p.2 + 1) * 2 ^ p.1 ≤ hi + 1

/-- The maximal nodes of R138 under a node, by level and index. -/
def coverNodes (lo hi : Nat) : Nat → Nat → List (Nat × Nat)
  | 0, m => if lo ≤ m ∧ m ≤ hi then [(0, m)] else []
  | j + 1, m =>
    if lo ≤ m * 2 ^ (j + 1) ∧ (m + 1) * 2 ^ (j + 1) ≤ hi + 1 then [(j + 1, m)]
    else if (m + 1) * 2 ^ (j + 1) ≤ lo ∨ hi < m * 2 ^ (j + 1) then []
    else coverNodes lo hi j (2 * m) ++ coverNodes lo hi j (2 * m + 1)

theorem treeCover_eq (f : Nat → Nat → Nat) (leaf : Nat → Option Nat) (lo hi j m : Nat) :
    treeCover f leaf lo hi j m = (coverNodes lo hi j m).map fun p => treeNode f leaf p.1 p.2 := by
  induction j generalizing m with
  | zero =>
    rw [treeCover, coverNodes]
    split <;> rfl
  | succ j ih =>
    rw [treeCover, coverNodes, ih, ih]
    split
    · rfl
    · split
      · rfl
      · rw [List.map_append]

/-- The nodes that the cover of a node holds lie under it. -/
theorem coverNodes_under {lo hi j m : Nat} {p : Nat × Nat} (h : p ∈ coverNodes lo hi j m) :
    p.1 ≤ j ∧ m * 2 ^ j ≤ p.2 * 2 ^ p.1 ∧ (p.2 + 1) * 2 ^ p.1 ≤ (m + 1) * 2 ^ j ∧ InRange lo hi p := by
  induction j generalizing m with
  | zero =>
    rw [coverNodes] at h
    split at h
    · obtain rfl := List.mem_singleton.mp h
      simp only [InRange]
      omega
    · exact absurd h List.not_mem_nil
  | succ j ih =>
    rw [coverNodes] at h
    split at h
    · obtain rfl := List.mem_singleton.mp h
      exact ⟨le_rfl, le_rfl, le_rfl, ‹_›⟩
    · split at h
      · exact absurd h List.not_mem_nil
      · obtain ⟨left, mid, right, size⟩ := node_halves j m
        rcases List.mem_append.mp h with h | h
        · obtain ⟨level, low, high, inside⟩ := ih h
          exact ⟨by omega, by omega, by omega, inside⟩
        · obtain ⟨level, low, high, inside⟩ := ih h
          exact ⟨by omega, by omega, by omega, inside⟩

/-- They stand from left to right, -/
theorem coverNodes_pairwise (lo hi j m : Nat) :
    (coverNodes lo hi j m).Pairwise fun p q => (p.2 + 1) * 2 ^ p.1 ≤ q.2 * 2 ^ q.1 := by
  induction j generalizing m with
  | zero =>
    rw [coverNodes]
    split
    · exact List.pairwise_singleton _ _
    · exact .nil
  | succ j ih =>
    rw [coverNodes]
    split
    · exact List.pairwise_singleton _ _
    · split
      · exact .nil
      · refine List.pairwise_append.mpr ⟨ih _, ih _, fun p hp q hq => ?_⟩
        exact (coverNodes_under hp).2.2.1.trans (coverNodes_under hq).2.1

/-- hold every lane of the range, -/
theorem exists_coverNode {lo hi j m l : Nat} (hlo : lo ≤ l) (hhi : l ≤ hi) (low : m * 2 ^ j ≤ l) (high : l < (m + 1) * 2 ^ j) :
    ∃ p ∈ coverNodes lo hi j m, p.2 * 2 ^ p.1 ≤ l ∧ l < (p.2 + 1) * 2 ^ p.1 := by
  induction j generalizing m with
  | zero =>
    have : lo ≤ m ∧ m ≤ hi := by omega
    exact ⟨(0, m), by simp [coverNodes, this], low, high⟩
  | succ j ih =>
    rw [coverNodes]
    split
    · exact ⟨(j + 1, m), List.mem_singleton.mpr rfl, low, high⟩
    · rw [if_neg (by omega)]
      obtain ⟨left, mid, right, size⟩ := node_halves j m
      rcases Nat.lt_or_ge l ((2 * m + 1) * 2 ^ j) with hl | hl
      · obtain ⟨p, hp, within⟩ := ih (m := 2 * m) (by omega) hl
        exact ⟨p, List.mem_append_left _ hp, within⟩
      · obtain ⟨p, hp, within⟩ := ih (m := 2 * m + 1) hl (by omega)
        exact ⟨p, List.mem_append_right _ hp, within⟩

/-- and no node above one of them lies in the range. -/
theorem coverNodes_maximal {lo hi j m h : Nat} (top : j < h → ¬ InRange lo hi (j + 1, m / 2)) {p : Nat × Nat}
    (hp : p ∈ coverNodes lo hi j m) (hlt : p.1 < h) : ¬ InRange lo hi (p.1 + 1, p.2 / 2) := by
  induction j generalizing m with
  | zero =>
    rw [coverNodes] at hp
    split at hp
    · obtain rfl := List.mem_singleton.mp hp
      exact top hlt
    · exact absurd hp List.not_mem_nil
  | succ j ih =>
    rw [coverNodes] at hp
    split at hp
    · obtain rfl := List.mem_singleton.mp hp
      exact top hlt
    · rename_i outside
      split at hp
      · exact absurd hp List.not_mem_nil
      · have even : 2 * m / 2 = m := by omega
        have odd : (2 * m + 1) / 2 = m := by omega
        rcases List.mem_append.mp hp with hp | hp
        · exact ih (fun _ => even.symm ▸ outside) hp
        · exact ih (fun _ => odd.symm ▸ outside) hp

/-! ### Combinations -/

/-- An optional value stands for a list of leaves: none for no leaf, and else one that is in the relation `R` to them. -/
def Stands (R : List Nat → Nat → Prop) (xs : List Nat) : Option Nat → Prop
  | none => xs = []
  | some v => xs ≠ [] ∧ R xs v

/-- The leaves of the lanes of a node. -/
def leavesOf (leaf : Nat → Option Nat) (j m : Nat) : List Nat := (List.range' (m * 2 ^ j) (2 ^ j)).filterMap leaf

theorem leavesOf_succ (leaf : Nat → Option Nat) (j m : Nat) :
    leavesOf leaf (j + 1) m = leavesOf leaf j (2 * m) ++ leavesOf leaf j (2 * m + 1) := by
  obtain ⟨left, mid, -, -⟩ := node_halves j m
  have size : 2 ^ (j + 1) = 2 ^ j + 2 ^ j := by rw [Nat.pow_succ]; ring
  rw [leavesOf, leavesOf, leavesOf, ← List.filterMap_append, left, mid, size, List.range'_append_1]

theorem exists_of_mem_leavesOf {leaf : Nat → Option Nat} {j m z : Nat} (h : z ∈ leavesOf leaf j m) :
    ∃ l, leaf l = some z := by
  obtain ⟨l, -, hl⟩ := List.mem_filterMap.mp h
  exact ⟨l, hl⟩

/-- The leaves of the topmost node are those of all lanes. -/
theorem leavesOf_top {leaf : Nat → Option Nat} {n j : Nat} (hn : n ≤ 2 ^ j) (none : ∀ l, n ≤ l → leaf l = none) :
    leavesOf leaf j 0 = (List.range n).filterMap leaf := by
  obtain ⟨k, hk⟩ := Nat.exists_eq_add_of_le hn
  have rest : (List.range' n k).filterMap leaf = [] :=
    List.filterMap_eq_nil_iff.mpr fun l hl => none l (List.mem_range'_1.mp hl).1
  have all : List.range' 0 (n + k) = List.range' 0 n ++ List.range' n k := by
    rw [← List.range'_append_1, Nat.zero_add]
  rw [leavesOf, Nat.zero_mul, hk, all, List.filterMap_append, rest, List.append_nil, List.range_eq_range']

theorem treeNode_congr {f : Nat → Nat → Nat} {leaf leaf' : Nat → Option Nat} {j m : Nat}
    (h : ∀ l, m * 2 ^ j ≤ l → l < (m + 1) * 2 ^ j → leaf l = leaf' l) : treeNode f leaf j m = treeNode f leaf' j m := by
  induction j generalizing m with
  | zero => exact h m (by omega) (by omega)
  | succ j ih =>
    obtain ⟨left, mid, right, size⟩ := node_halves j m
    rw [treeNode, treeNode, ih fun l low high => h l (by omega) (by omega), ih fun l low high => h l (by omega) (by omega)]

/-- The leaves outside a range do not count in its cover. -/
theorem treeCover_congr {f : Nat → Nat → Nat} {leaf leaf' : Nat → Option Nat} {lo hi : Nat}
    (h : ∀ l, lo ≤ l → l ≤ hi → leaf l = leaf' l) (j m : Nat) : treeCover f leaf lo hi j m = treeCover f leaf' lo hi j m := by
  rw [treeCover_eq, treeCover_eq]
  refine List.map_congr_left fun p hp => treeNode_congr fun l low high => ?_
  obtain ⟨hlo, hhi⟩ := (coverNodes_under hp).2.2.2
  exact h l (by omega) (by omega)

section
variable {R : List Nat → Nat → Prop} {f : Nat → Nat → Nat} {leaf : Nat → Option Nat}
  (hjoin : ∀ {xs ys : List Nat} {v w : Nat}, (∀ z ∈ xs ++ ys, ∃ l, leaf l = some z) → xs ≠ [] → ys ≠ [] → R xs v → R ys w →
    R (xs ++ ys) (f v w))
include hjoin

theorem Stands.join {xs ys : List Nat} {v w : Option Nat} (leaves : ∀ z ∈ xs ++ ys, ∃ l, leaf l = some z)
    (hv : Stands R xs v) (hw : Stands R ys w) : Stands R (xs ++ ys) (joinOpt f v w) := by
  cases v with
  | none =>
    obtain rfl : xs = [] := hv
    exact hw
  | some v =>
    cases w with
    | none =>
      obtain rfl : ys = [] := hw
      rw [List.append_nil]
      exact hv
    | some w => exact ⟨by simp [hv.1], hjoin leaves hv.1 hw.1 hv.2 hw.2⟩

variable (hone : ∀ l x, leaf l = some x → R [x] x)
include hone

/-- A node stands for the leaves of its lanes, -/
theorem stands_treeNode (j m : Nat) : Stands R (leavesOf leaf j m) (treeNode f leaf j m) := by
  induction j generalizing m with
  | zero =>
    rw [treeNode, leavesOf]
    cases hl : leaf m with
    | none => simp [Stands, hl]
    | some x => simp [Stands, hl, hone m x hl]
  | succ j ih =>
    rw [leavesOf_succ, treeNode]
    refine Stands.join hjoin (fun z hz => ?_) (ih _) (ih _)
    exact (List.mem_append.mp hz).elim exists_of_mem_leavesOf exists_of_mem_leavesOf

/-- and so do the maximal nodes in a range that holds every leaf, joined in turn. -/
theorem stands_treeCover {lo hi : Nat} (outside : ∀ l, ¬ (lo ≤ l ∧ l ≤ hi) → leaf l = none) (j m : Nat) {xs : List Nat}
    {acc : Option Nat} (leaves : ∀ z ∈ xs, ∃ l, leaf l = some z) (hacc : Stands R xs acc) :
    Stands R (xs ++ leavesOf leaf j m) ((treeCover f leaf lo hi j m).foldl (joinOpt f) acc) := by
  have node : ∀ j m, Stands R (xs ++ leavesOf leaf j m) ([treeNode f leaf j m].foldl (joinOpt f) acc) := fun j m =>
    Stands.join hjoin (fun z hz => (List.mem_append.mp hz).elim (leaves z) exists_of_mem_leavesOf) hacc
      (stands_treeNode hjoin hone j m)
  induction j generalizing m xs acc with
  | zero =>
    rw [treeCover]
    split
    · exact node 0 m
    · rename_i hout
      have : leavesOf leaf 0 m = [] := by simp [leavesOf, outside m hout]
      rw [this, List.append_nil]
      exact hacc
  | succ j ih =>
    rw [treeCover]
    split
    · exact node (j + 1) m
    · split
      · rename_i hout
        have : leavesOf leaf (j + 1) m = [] := List.filterMap_eq_nil_iff.mpr fun l hl => by
          have size : (m + 1) * 2 ^ (j + 1) = m * 2 ^ (j + 1) + 2 ^ (j + 1) := by rw [Nat.add_mul, Nat.one_mul]
          have := List.mem_range'_1.mp hl
          exact outside l (by omega)
        rw [this, List.append_nil]
        exact hacc
      · rw [List.foldl_append, leavesOf_succ, ← List.append_assoc]
        have first := ih (2 * m) leaves hacc node
        have leaves' : ∀ z ∈ xs ++ leavesOf leaf j (2 * m), ∃ l, leaf l = some z :=
          fun z hz => (List.mem_append.mp hz).elim (leaves z) exists_of_mem_leavesOf
        exact ih (2 * m + 1) leaves' first fun j m => Stands.join hjoin
          (fun z hz => (List.mem_append.mp hz).elim (leaves' z) exists_of_mem_leavesOf) first (stands_treeNode hjoin hone j m)

end

end Sys2Proof
end


section
/-! PROOF. What reductions of integers and of float values combine to (R138, R265). -/

namespace Sys2Proof

/-- The leaves of a range. -/
def leafIn (leaf : Nat → Option Nat) (lo hi l : Nat) : Option Nat := if lo ≤ l ∧ l ≤ hi then leaf l else none

/-! ### Integers -/

/-- A fold by a choice keeps an element that no other one precedes. -/
theorem foldl_choice {r : Int → Int → Prop} {choose : Int → Int → Int} (trans : ∀ {a b c}, r a b → r b c → r a c)
    (hc : ∀ a b, (choose a b = a ∧ r a a ∧ r a b) ∨ (choose a b = b ∧ r b a ∧ r b b)) (val : Nat → Int) (x : Nat)
    (rest : List Nat) (refl : r (val x) (val x)) : ∃ y ∈ x :: rest, (rest.map val).foldl choose (val x) = val y ∧
      ∀ z ∈ x :: rest, r (val y) (val z) := by
  induction rest generalizing x with
  | nil => exact ⟨x, List.mem_cons_self, rfl, fun z hz => (List.mem_singleton.mp hz) ▸ refl⟩
  | cons w rest ih =>
    rw [List.map_cons, List.foldl_cons]
    rcases hc (val x) (val w) with ⟨heq, hx, hxw⟩ | ⟨heq, hwx, hw⟩ <;> rw [heq]
    · obtain ⟨y, hy, hfold, least⟩ := ih x hx
      refine ⟨y, ?_, hfold, fun z hz => ?_⟩
      · rcases List.mem_cons.mp hy with rfl | hy <;> simp [*]
      · rcases List.mem_cons.mp hz with rfl | hz
        · exact least _ List.mem_cons_self
        · rcases List.mem_cons.mp hz with rfl | hz
          · exact trans (least x List.mem_cons_self) hxw
          · exact least z (List.mem_cons_of_mem _ hz)
    · obtain ⟨y, hy, hfold, least⟩ := ih w hw
      refine ⟨y, List.mem_cons_of_mem _ hy, hfold, fun z hz => ?_⟩
      rcases List.mem_cons.mp hz with rfl | hz
      · exact trans (least w List.mem_cons_self) hwx
      · exact least z hz

theorem testBit_foldl_and (rest : List Nat) (x b : Nat) :
    (rest.foldl (· &&& ·) x).testBit b = true ↔ ∀ y ∈ x :: rest, y.testBit b = true := by
  induction rest generalizing x with
  | nil => simp
  | cons w rest ih => simp [ih, Nat.testBit_and, and_assoc]

theorem testBit_foldl_or (rest : List Nat) (x b : Nat) :
    (rest.foldl (· ||| ·) x).testBit b = true ↔ ∃ y ∈ x :: rest, y.testBit b = true := by
  induction rest generalizing x with
  | nil => simp
  | cons w rest ih => simp [ih, Nat.testBit_or, or_assoc]

theorem testBit_foldl_xor (rest : List Nat) (x b : Nat) :
    (rest.foldl (· ^^^ ·) x).testBit b = decide (((x :: rest).filter (·.testBit b)).length % 2 = 1) := by
  induction rest generalizing x with
  | nil => cases h : x.testBit b <;> simp [h]
  | cons w rest ih =>
    rw [List.foldl_cons, ih]
    cases hx : x.testBit b <;> cases hw : w.testBit b <;> simp [Nat.testBit_xor, hx, hw]
    omega

/-- The range of a full reduction is all lanes. -/
theorem filterMap_leafIn (leaf : Nat → Option Nat) {n hi : Nat} (h : hi + 1 = n) :
    (List.range n).filterMap (leafIn leaf 0 hi) = (List.range n).filterMap leaf :=
  List.filterMap_congr fun l hl => if_pos ⟨Nat.zero_le _, by have := List.mem_range.mp hl; omega⟩

section
variable {env : FpEnv} {ty : Ty} {sat : Bool} {r : RedOp} {leaf : Nat → Option Nat} {n lo hi whole : Nat}
  (hwhole : (lo ≤ hi ∧ hi < n ∧ whole = r.over env ty sat n leaf lo hi) ∨
    (lo = 0 ∧ hi + 1 = n ∧ whole = r.root env ty sat n leaf))
include hwhole

theorem whole_int (hty : ty.isFloat = false) : whole = r.int ty sat ((List.range n).filterMap (leafIn leaf lo hi)) := by
  rcases hwhole with ⟨-, -, rfl⟩ | ⟨rfl, hn, rfl⟩
  · rw [RedOp.over, hty]; rfl
  · rw [RedOp.root, hty, filterMap_leafIn leaf hn]; rfl

/-- A float reduction of a range, or of all lanes, stands for the sources of its lanes. -/
theorem whole_float (hty : ty.isFloat = true) {R : List Nat → Nat → Prop}
    (hjoin : ∀ {xs ys : List Nat} {v w : Nat}, (∀ z ∈ xs ++ ys, ∃ l, (leafIn leaf lo hi l).map (env.source ty) = some z) →
      xs ≠ [] → ys ≠ [] → R xs v → R ys w → R (xs ++ ys) (r.fp env ty v w))
    (hone : ∀ l x, (leafIn leaf lo hi l).map (env.source ty) = some x → R [x] x) :
    ∃ v, whole = v.getD (r.identity ty) ∧ Stands R (((List.range n).filterMap (leafIn leaf lo hi)).map (env.source ty)) v := by
  have outside : ∀ l, ¬ (lo ≤ l ∧ l ≤ hi) → (leafIn leaf lo hi l).map (env.source ty) = none := fun l hl => by
    rw [leafIn, if_neg hl]; rfl
  have above : ∀ l, n ≤ l → (leafIn leaf lo hi l).map (env.source ty) = none := fun l hl => outside l (by
    rcases hwhole with ⟨-, hn, -⟩ | ⟨-, hn, -⟩ <;> omega)
  have top := leavesOf_top (le_two_pow_treeHeight n) above
  rw [List.map_filterMap, ← top]
  rcases hwhole with ⟨-, -, rfl⟩ | ⟨rfl, hn, rfl⟩
  · refine ⟨treeRange (r.fp env ty) (fun l => (leaf l).map (env.source ty)) n lo hi, by rw [RedOp.over, if_pos hty], ?_⟩
    rw [treeRange, treeCover_congr (leaf' := fun l => (leafIn leaf lo hi l).map (env.source ty)) fun l hlo hhi => by
      rw [leafIn, if_pos ⟨hlo, hhi⟩]]
    exact stands_treeCover hjoin hone outside (treeHeight n) 0 (xs := []) (fun z hz => absurd hz List.not_mem_nil) rfl
  · refine ⟨treeNode (r.fp env ty) (fun l => if l < n then (leaf l).map (env.source ty) else none) (treeHeight n) 0,
      by rw [RedOp.root, if_pos hty], ?_⟩
    rw [treeNode_congr (leaf' := fun l => (leafIn leaf 0 hi l).map (env.source ty)) fun l _ _ => ?_]
    · exact stands_treeNode hjoin hone (treeHeight n) 0
    · by_cases hl : l < n
      · rw [if_pos hl, leafIn, if_pos ⟨Nat.zero_le _, by omega⟩]
      · rw [if_neg hl, above l (by omega)]

end

/-! ### Minima and maxima of float values -/

/-- R265: value `x` is chosen before `y`: the lesser one, or the greater one for the maximum. -/
def Chosen (ty : Ty) (isMax : Bool) (x y : Nat) : Prop :=
  if isMax then (fpVal ty y).key ≤ (fpVal ty x).key else (fpVal ty x).key ≤ (fpVal ty y).key

theorem Chosen.trans {ty : Ty} {isMax : Bool} {x y z : Nat} (h : Chosen ty isMax x y) (h' : Chosen ty isMax y z) :
    Chosen ty isMax x z := by
  cases isMax
  · exact le_trans (α := Nat ×ₗ ℚ ×ₗ Nat) h h'
  · exact le_trans (α := Nat ×ₗ ℚ ×ₗ Nat) h' h

theorem Chosen.refl (ty : Ty) (isMax : Bool) (x : Nat) : Chosen ty isMax x x := by
  cases isMax <;> exact le_refl (fpVal ty x).key

/-- R130: NaN when all are NaN; else the first choice among those that are not. -/
def ChosenOf (ty : Ty) (isMax : Bool) (xs : List Nat) (v : Nat) : Prop :=
  ((∀ x ∈ xs, (fpVal ty x).isNan = true) ∧ (fpVal ty v).isNan = true) ∨
    (v ∈ xs ∧ (fpVal ty v).isNan = false ∧ ∀ y ∈ xs, (fpVal ty y).isNan = false → Chosen ty isMax v y)

section
variable {ty : Ty} (ht : ty ∈ tysArith)
include ht

theorem arith_layout : ty.maxCode + 1 + 2 ^ ty.mbits = 2 ^ (ty.bits - 1) ∧ (ty.maxCode + 1) % 2 ^ ty.mbits = 0 ∧
    ty.mbits = ty.mbits - 1 + 1 := by
  simp only [tysArith, List.mem_cons, List.not_mem_nil, or_false] at ht
  rcases ht with rfl | rfl | rfl | rfl <;> decide

/-- R129: a NaN quieted is a NaN. -/
theorem quietNan_isNan (neg : Bool) {man : Nat} (hman : man < 2 ^ ty.mbits) :
    (fpVal ty (quietNan ty ty neg man)).isNan = true := by
  obtain ⟨fits, aligned, mant⟩ := arith_layout ht
  have quiet : 2 ^ (ty.mbits - 1) < 2 ^ ty.mbits := Nat.pow_lt_pow_right (by decide) (by omega)
  have low := Nat.or_lt_two_pow hman quiet
  have high : 0 < man ||| 2 ^ (ty.mbits - 1) := Nat.lt_of_lt_of_le (Nat.two_pow_pos _) Nat.right_le_or
  have code : quietNan ty ty neg man = ty.signBit neg + (ty.maxCode + 1) + (man ||| 2 ^ (ty.mbits - 1)) := by
    rw [quietNan, (arith_signed ht).2.1]
    simp
  generalize man ||| 2 ^ (ty.mbits - 1) = m at low high code
  have mag : ty.magOf (quietNan ty ty neg man) = ty.maxCode + 1 + m := by
    rw [magOf_arith ht, code, Ty.signBit, (arith_signed ht).1, Nat.add_assoc]
    cases neg
    · simp only [Bool.false_and, Bool.false_eq_true, if_false, Nat.zero_add]
      exact Nat.mod_eq_of_lt (by omega)
    · simp only [Bool.and_self, if_true, Nat.add_mod_left]
      exact Nat.mod_eq_of_lt (by omega)
  have man' : (ty.maxCode + 1 + m) % 2 ^ ty.mbits = m := by
    rw [Nat.add_mod, aligned, Nat.zero_add, Nat.mod_mod, Nat.mod_eq_of_lt low]
  simp only [fpVal_arith ht, mag, man']
  rw [if_pos (by omega), if_neg (by omega)]
  rfl

theorem canonNan_isNan : (fpVal ty ty.canonNan).isNan = true := by
  simp only [tysArith, List.mem_cons, List.not_mem_nil, or_false] at ht
  rcases ht with rfl | rfl | rfl | rfl <;> decide

theorem nan_mantissa {x man : Nat} {neg quiet : Bool} (h : fpVal ty x = .nan neg man quiet) : man < 2 ^ ty.mbits := by
  rw [fpVal_arith ht] at h
  dsimp only at h
  split at h
  · split at h
    · exact absurd h nofun
    · obtain ⟨-, rfl, -⟩ := FpVal.nan.inj h
      exact Nat.mod_lt _ (Nat.two_pow_pos _)
  · split at h <;> exact absurd h nofun

theorem firstNan_isNan (l : List Nat) : ∀ v ∈ firstNan ty (l.map (ty, ·)), (fpVal ty v).isNan = true := by
  induction l with
  | nil => exact fun v hv => absurd hv nofun
  | cons x l ih =>
    intro v hv
    rw [List.map_cons, firstNan] at hv
    cases hx : fpVal ty x with
    | nan neg man quiet =>
      simp only [hx, Option.mem_def, Option.some.injEq] at hv
      exact hv ▸ quietNan_isNan ht neg (nan_mantissa ht hx)
    | inf => exact ih v (by simpa only [hx] using hv)
    | fin => exact ih v (by simpa only [hx] using hv)

/-- R129: the NaN that two sources give is one. -/
theorem nan_isNan (env : FpEnv) (a b : Nat) : (fpVal ty (env.nan ty [(ty, a), (ty, b)])).isNan = true := by
  have pick : ∀ l : List Nat, (fpVal ty ((firstNan ty (l.map (ty, ·))).getD ty.canonNan)).isNan = true := fun l => by
    cases hl : firstNan ty (l.map (ty, ·)) with
    | none => exact canonNan_isNan ht
    | some v => exact firstNan_isNan ht l v hl
  have order : ∃ l : List Nat, env.nan ty [(ty, a), (ty, b)] = (firstNan ty (l.map (ty, ·))).getD ty.canonNan := by
    unfold FpEnv.nan
    match env.nanOut with
    | 0 => exact ⟨[], rfl⟩
    | 1 => exact ⟨[a, b], rfl⟩
    | 2 => exact ⟨[b, a], rfl⟩
    | n + 3 => exact ⟨[], rfl⟩
  obtain ⟨l, hl⟩ := order
  exact hl ▸ pick l

section
variable {env : FpEnv} (hdaz : env.daz = false)
include hdaz

theorem source_fpVal (x : Nat) : fpVal ty (env.source ty x) = fpVal ty x := by
  rw [fpVal_source ht, hdaz]; rfl

omit ht in
theorem source_lt {x : Nat} (hx : x < 2 ^ ty.bits) : env.source ty x = x := by
  rw [FpEnv.source, hdaz]; exact Nat.mod_eq_of_lt hx

variable (hnan : env.minmaxNan = false)
include hnan

/-- R130: the minimum or maximum of two values. -/
theorem fpMinMax_cases (isMax : Bool) (a b : Nat) :
    ((fpVal ty a).isNan = true ∧ (fpVal ty b).isNan = true ∧ (fpVal ty (fpMinMax env ty isMax false a b).bits).isNan = true) ∨
    ((fpVal ty b).isNan = false ∧ (fpMinMax env ty isMax false a b).bits = env.source ty b ∧
      ((fpVal ty a).isNan = false → Chosen ty isMax b a)) ∨
    ((fpVal ty a).isNan = false ∧ (fpMinMax env ty isMax false a b).bits = env.source ty a ∧
      ((fpVal ty b).isNan = false → Chosen ty isMax a b)) := by
  rw [fpMinMax]
  simp only [source_fpVal ht hdaz, hnan, Bool.and_false, Bool.or_false]
  cases ha : (fpVal ty a).isNan <;> cases hb : (fpVal ty b).isNan
  · simp only [Bool.and_false, Bool.false_eq_true, if_false, FpVal.order_eq ha hb]
    rcases lt_trichotomy (fpVal ty a).key (fpVal ty b).key with h | h | h
    · rw [compare_lt_iff_lt.mpr h]
      cases isMax
      · exact .inr (.inr ⟨trivial, rfl, fun _ => le_of_lt h⟩)
      · exact .inr (.inl ⟨trivial, rfl, fun _ => le_of_lt h⟩)
    · rw [compare_eq_iff_eq.mpr h]
      refine .inr (.inr ⟨trivial, rfl, fun _ => ?_⟩)
      cases isMax
      · exact le_of_eq h
      · exact le_of_eq h.symm
    · rw [compare_gt_iff_gt.mpr h]
      cases isMax
      · exact .inr (.inl ⟨trivial, rfl, fun _ => le_of_lt h⟩)
      · exact .inr (.inr ⟨trivial, rfl, fun _ => le_of_lt h⟩)
  · exact .inr (.inr ⟨rfl, rfl, nofun⟩)
  · exact .inr (.inl ⟨rfl, rfl, nofun⟩)
  · exact .inl ⟨rfl, rfl, nan_isNan ht env _ _⟩

/-- R265: so is the first choice of two lists that of both. -/
theorem chosenOf_join (isMax : Bool) {xs ys : List Nat} {v w : Nat} (small : ∀ z ∈ xs ++ ys, z < 2 ^ ty.bits)
    (hv : ChosenOf ty isMax xs v) (hw : ChosenOf ty isMax ys w) :
    ChosenOf ty isMax (xs ++ ys) (fpMinMax env ty isMax false v w).bits := by
  have nanV : (fpVal ty v).isNan = true → ∀ x ∈ xs, (fpVal ty x).isNan = true := fun h =>
    hv.elim And.left fun hv => absurd hv.2.1 (by simp [h])
  have nanW : (fpVal ty w).isNan = true → ∀ x ∈ ys, (fpVal ty x).isNan = true := fun h =>
    hw.elim And.left fun hw => absurd hw.2.1 (by simp [h])
  have valV : (fpVal ty v).isNan = false → v ∈ xs ∧ ∀ y ∈ xs, (fpVal ty y).isNan = false → Chosen ty isMax v y := fun h =>
    hv.elim (fun hv => absurd hv.2 (by simp [h])) fun hv => ⟨hv.1, hv.2.2⟩
  have valW : (fpVal ty w).isNan = false → w ∈ ys ∧ ∀ y ∈ ys, (fpVal ty y).isNan = false → Chosen ty isMax w y := fun h =>
    hw.elim (fun hw => absurd hw.2 (by simp [h])) fun hw => ⟨hw.1, hw.2.2⟩
  rcases fpMinMax_cases ht hdaz hnan isMax v w with ⟨nv, nw, res⟩ | ⟨nw, res, first⟩ | ⟨nv, res, first⟩
  · exact .inl ⟨fun x hx => (List.mem_append.mp hx).elim (nanV nv x) (nanW nw x), res⟩
  · obtain ⟨mem, least⟩ := valW nw
    have mem' := List.mem_append_right xs mem
    rw [res, source_lt hdaz (small w mem')]
    refine .inr ⟨mem', nw, fun y hy ny => ?_⟩
    rcases List.mem_append.mp hy with hy | hy
    · cases nv : (fpVal ty v).isNan with
      | true => exact absurd (nanV nv y hy) (by simp [ny])
      | false => exact (first nv).trans ((valV nv).2 y hy ny)
    · exact least y hy ny
  · obtain ⟨mem, least⟩ := valV nv
    have mem' := List.mem_append_left ys mem
    rw [res, source_lt hdaz (small v mem')]
    refine .inr ⟨mem', nv, fun y hy ny => ?_⟩
    rcases List.mem_append.mp hy with hy | hy
    · exact least y hy ny
    · cases nw : (fpVal ty w).isNan with
      | true => exact absurd (nanW nw y hy) (by simp [ny])
      | false => exact (first nw).trans ((valW nw).2 y hy ny)

end
end

end Sys2Proof
end


section
/-! PROOF. Reductions, scans and segmented reductions (O17). -/

namespace Sys2Proof.Machine

/-! ### Segments (R267) -/

/-- The last number below a bound that has a property is the greatest. -/
theorem getLast_filter_range {p : Nat → Bool} {n : Nat} (h : ∃ k < n, p k = true) :
    ∃ k, ((List.range n).filter p).getLast? = some k ∧ k < n ∧ p k = true ∧ ∀ j, j < n → p j = true → j ≤ k := by
  induction n with
  | zero => obtain ⟨k, hk, -⟩ := h; omega
  | succ n ih =>
    rw [List.range_succ, List.filter_append]
    by_cases hp : p n = true
    · exact ⟨n, by simp [hp], by omega, hp, fun j hj _ => by omega⟩
    · obtain ⟨k, hk, hpk⟩ := h
      have below : ∀ {j}, j < n + 1 → p j = true → j < n := fun hj hpj => by
        rcases Nat.lt_succ_iff_lt_or_eq.mp hj with h | rfl
        · exact h
        · exact absurd hpj hp
      obtain ⟨m, hm, lt, hpm, most⟩ := ih ⟨k, below hk hpk, hpk⟩
      exact ⟨m, by simp [hp, hm], by omega, hpm, fun j hj hpj => most j (below hj hpj) hpj⟩

section
variable (c : SetCtx) (d : Opd) {l : Nat}

theorem SetCtx.headOf_spec : c.head d (c.headOf d l) = true ∧ c.headOf d l ≤ l ∧
    ∀ h, c.head d h = true → h ≤ l → h ≤ c.headOf d l := by
  obtain ⟨k, hk, lt, head, most⟩ := getLast_filter_range (p := c.head d) (n := l + 1) ⟨0, by omega, by simp [SetCtx.head]⟩
  rw [SetCtx.headOf, hk]
  exact ⟨head, by simpa using Nat.lt_succ_iff.mp lt, fun h hh hl => most h (by omega) hh⟩

theorem SetCtx.tailOf_spec (hl : l < c.count) : l ≤ c.tailOf d l ∧ c.tailOf d l < c.count ∧
    (∀ h, c.head d h = true → l < h → h < c.count → c.tailOf d l < h) ∧
    (c.tailOf d l + 1 = c.count ∨ c.head d (c.tailOf d l + 1) = true) := by
  rw [SetCtx.tailOf]
  cases hfind : (List.range c.count).find? (fun h => decide (l < h) && c.head d h) with
  | none =>
    have none : ∀ h, h < c.count → l < h → c.head d h = false := by simpa using hfind
    refine ⟨by dsimp only; omega, by dsimp only; omega, fun h head low high => ?_, .inl (by dsimp only; omega)⟩
    exact absurd head (by simp [none h high low])
  | some h =>
    obtain ⟨hh, hmem, first⟩ := List.find?_range_eq_some.mp hfind
    obtain ⟨low, head⟩ : l < h ∧ c.head d h = true := by simpa using hh
    have high : h < c.count := by simpa using hmem
    have next : h - 1 + 1 = h := by omega
    refine ⟨by dsimp only; omega, by dsimp only; omega, fun k hk lk kc => ?_, .inr (by dsimp only; rw [next]; exact head)⟩
    have : ¬ k < h := fun hlt => absurd (first k hlt) (by simp [lk, hk])
    dsimp only; omega

end

theorem SetCtx.head_iff (c : SetCtx) (kb l : Nat) : c.head (.k kb) l = true ↔
    l = 0 ∨ ∃ m f, c.members.find? (fun p => p.1 = l / c.width) = some (m, f) ∧
      (f.th.regs.mask kb).getLsbD (l % c.width) = true := by
  simp only [SetCtx.head, SetCtx.member, Bool.or_eq_true, decide_eq_true_eq]
  cases hfind : c.members.find? (fun p => p.1 = l / c.width) with
  | none => simp
  | some p => simp [Prod.ext_iff]

section
variable {c : SetCtx} {φ : Env → Env} (same : ∀ f : Env, f.SameIn (φ f))
include same

theorem SetCtx.head_mapEnv : (c.mapEnv φ).head = c.head := by
  funext d l
  simp only [SetCtx.head, SetCtx.member_mapEnv]
  cases c.member l with
  | none => rfl
  | some p => cases d <;> simp only [Option.map_some, (same p.1).regs]

theorem SetCtx.fp_mapEnv : (c.mapEnv φ).leader.fp = c.leader.fp := (same c.leader).fp

omit same in
theorem SetCtx.count_mapEnv : (c.mapEnv φ).count = c.count := rfl

theorem SetCtx.segment_mapEnv : (c.mapEnv φ).segment = c.segment := by
  funext d sel l
  simp only [SetCtx.segment, SetCtx.headOf, SetCtx.tailOf, SetCtx.head_mapEnv same]
  rfl

end

/-- The results of the lanes that receive one. -/
theorem flatMap_received {α : Type} (lanes : List Nat) (q : Nat → Bool) (res : Nat → Option Nat) (g : Nat × Nat → List α) :
    ((lanes.filterMap fun l => (res l).map fun x => (l, x)).filter fun p => q p.1).flatMap g =
      (lanes.filter q).flatMap fun l => ((res l).map fun x => g (l, x)).getD [] := by
  induction lanes with
  | nil => rfl
  | cons l lanes ih =>
    cases hq : q l <;> cases hr : res l <;> simp [hq, hr, ih]

/-- R267: what an active lane receives, if it is written. -/
def SetCtx.received (c : SetCtx) (r : RedOp) (o : Ops) (l : Nat) : Option Nat :=
  (c.segment o.b (c.raw .b32 o.c 0) l).map fun p => r.over c.leader.fp o.ty o.sat c.count (c.leaf o) p.1 p.2

/-! ### The three instructions -/

section
variable {s : State} {e : Env} {o : Ops} {i : Instr} {c : SetCtx} (r : RedOp) (h : s.crosses i o e c) (hw : 0 < e.th.width)
include h

/-- The leaves of the statement are those that the instructions read. -/
theorem leaf_eq (hw : 0 < e.th.width) : (fun l => if l ∈ c.actives o then some (c.raw o.ty o.a l) else none) = c.leaf o := by
  funext l
  simp only [h.mem_actives hw, SetCtx.leaf]

theorem red_completes (hi : i = .red r o) :
    CrossCompletes s i o e fun _ => destVals c.base o.ty o.dst 0 (r.root c.leader.fp o.ty o.sat c.count (c.leaf o)) := by
  subst hi
  refine h.completes_scalar rfl rfl rfl rfl (by simp) fun φ u same => ?_
  simp only [SetCtx.fp_mapEnv same, SetCtx.leaf_mapEnv same, SetCtx.count_mapEnv]

theorem scan_completes (hi : i = .scan r o) : CrossCompletes s i o e
    (c.each o o.ty fun l => r.over c.leader.fp o.ty o.sat c.count (c.leaf o) 0 l) := by
  subst hi
  refine h.completes_each rfl rfl rfl rfl (by simp) fun φ u same => ?_
  simp only [SetCtx.fp_mapEnv same, SetCtx.leaf_mapEnv same, SetCtx.count_mapEnv, SetCtx.actives_mapEnv same]

theorem sred_completes (hi : i = .sred r o) (hsel : c.raw .b32 o.c 0 ≤ 2) : CrossCompletes s i o e fun j =>
    ((c.actives o).filter fun l => l / c.width = j).flatMap fun l =>
      ((c.received r o l).map fun x => destVals c.base o.ty o.dst (l % c.width) x).getD [] := by
  subst hi
  have body := h.completes_lanes (ty := o.ty) (res := (c.actives o).filterMap fun l => (c.received r o l).map fun x => (l, x))
    rfl rfl rfl rfl (by simp) fun φ u same => by
      simp only [SetCtx.received, Option.map_map, SetCtx.segment_mapEnv same, SetCtx.fp_mapEnv same,
        SetCtx.leaf_mapEnv same, SetCtx.actives_mapEnv same, SetCtx.raw_mapEnv same, SetCtx.count_mapEnv,
        if_neg (Nat.not_lt.mpr hsel)]
      rfl
  have vals := fun j => flatMap_received (c.actives o) (fun l => l / c.width = j) (c.received r o) fun p =>
    destVals c.base o.ty o.dst (p.1 % c.width) p.2
  exact (funext vals) ▸ body

theorem sred_traps (hi : i = .sred r o) (hsel : 2 < c.raw .b32 o.c 0) :
    CrossTraps s i o e 0x0002 11 fun f => f.th.active o := by
  subst hi
  refine h.traps (masks := c.masks o) rfl (fun φ u same => ?_) (fun hwarp => ?_) fun m hm => ?_
  · rw [← SetCtx.raw_mapEnv same] at hsel
    simp only [if_pos hsel, SetCtx.masks_mapEnv same]
  · rw [h.solo hwarp]; rfl
  · exact outcomeFor_map c.members h.nodup (fun m => m.2.th.active o) 0 hm

end

/-! ### What a reduction of integers gives -/

section
variable (ty : Ty) (sat : Bool) (xs : List Nat)

theorem int_sum : RedOp.sum.int ty sat xs = wrapTo ty.bits
    (if sat = true ∧ xs ≠ [] then max ty.minInt (min ty.maxInt (xs.map ty.value).sum) else (xs.map ty.value).sum) := by
  cases xs with
  | nil => simp [RedOp.int, RedOp.identity, wrapTo]
  | cons x rest =>
    simp only [RedOp.int, Ty.fit, Ty.clamp, ne_eq, reduceCtorEq, not_false_eq_true, and_true]

theorem int_or (b : Nat) : (RedOp.or.int ty sat xs).testBit b = true ↔ ∃ x ∈ xs, x.testBit b = true := by
  cases xs with
  | nil => simp [RedOp.int, RedOp.identity]
  | cons x rest => exact testBit_foldl_or rest x b

theorem int_xor (b : Nat) :
    (RedOp.xor.int ty sat xs).testBit b = decide ((xs.filter (·.testBit b)).length % 2 = 1) := by
  cases xs with
  | nil => simp [RedOp.int, RedOp.identity]
  | cons x rest => exact testBit_foldl_xor rest x b

variable {xs} (hne : xs ≠ [])
include hne

theorem int_and (b : Nat) : (RedOp.and.int ty sat xs).testBit b = true ↔ ∀ x ∈ xs, x.testBit b = true := by
  cases xs with
  | nil => exact absurd rfl hne
  | cons x rest => exact testBit_foldl_and rest x b

theorem int_min : ∃ x ∈ xs, RedOp.min.int ty sat xs = wrapTo ty.bits (ty.value x) ∧ ∀ y ∈ xs, ty.value x ≤ ty.value y := by
  cases xs with
  | nil => exact absurd rfl hne
  | cons x rest =>
    obtain ⟨y, hy, hfold, least⟩ := foldl_choice (r := (· ≤ ·)) (choose := fun a b => if a ≤ b then a else b) le_trans
      (fun a b => by split <;> simp [*]; omega) ty.value x rest le_rfl
    exact ⟨y, hy, congrArg (wrapTo ty.bits) hfold, least⟩

theorem int_max : ∃ x ∈ xs, RedOp.max.int ty sat xs = wrapTo ty.bits (ty.value x) ∧ ∀ y ∈ xs, ty.value y ≤ ty.value x := by
  cases xs with
  | nil => exact absurd rfl hne
  | cons x rest =>
    obtain ⟨y, hy, hfold, greatest⟩ := foldl_choice (r := (· ≥ ·)) (choose := fun a b => if a ≤ b then b else a)
      (fun h h' => le_trans h' h) (fun a b => by split <;> simp [*]; omega) ty.value x rest le_rfl
    exact ⟨y, hy, congrArg (wrapTo ty.bits) hfold, greatest⟩

end

theorem int_none {ty : Ty} (hty : ty.isFloat = false) (sat : Bool) (r : RedOp) : r.int ty sat [] = match r with
    | .min => wrapTo ty.bits ty.maxInt | .max => wrapTo ty.bits ty.minInt | .and => 2 ^ ty.bits - 1
    | .sum | .or | .xor => 0 := by
  cases r <;> simp [RedOp.int, RedOp.identity, hty]

/-! ### What a reduction of float values gives -/

theorem identity_float {ty : Ty} (ht : ty ∈ tysArith) {r : RedOp} : r ∈ [RedOp.sum, .min, .max] → r.identity ty = match r with
      | .min => ty.maxCode + 1 | .max => 2 ^ (ty.bits - 1) + ty.maxCode + 1 | _ => 0 := by
  intro hr
  obtain ⟨signed, ieee, -, float, -⟩ := arith_signed ht
  simp only [List.mem_cons, List.not_mem_nil, or_false] at hr
  rcases hr with rfl | rfl | rfl <;> simp [RedOp.identity, float, Ty.infCode, Ty.signBit, signed, ieee, Nat.add_assoc]

/-- R130, R265: the minimum, or the maximum, beside a number is the first choice among the values. -/
theorem whole_chosen {env : FpEnv} {ty : Ty} {sat : Bool} {r : RedOp} {leaf : Nat → Option Nat} {n lo hi whole : Nat}
    (hwhole : (lo ≤ hi ∧ hi < n ∧ whole = r.over env ty sat n leaf lo hi) ∨
      (lo = 0 ∧ hi + 1 = n ∧ whole = r.root env ty sat n leaf)) (ht : ty ∈ tysArith) (hdaz : env.daz = false)
    (hnan : env.minmaxNan = false) (hr : r = .min ∨ r = .max)
    (small : ∀ x ∈ (List.range n).filterMap (leafIn leaf lo hi), x < 2 ^ ty.bits)
    (hsome : ∃ x ∈ (List.range n).filterMap (leafIn leaf lo hi), (fpVal ty x).isNan = false) :
    whole ∈ (List.range n).filterMap (leafIn leaf lo hi) ∧ (fpVal ty whole).isNan = false ∧
      ∀ y ∈ (List.range n).filterMap (leafIn leaf lo hi), (fpVal ty y).isNan = false →
        Chosen ty (decide (r = .max)) whole y := by
  have inside : ∀ l x, leafIn leaf lo hi l = some x → x ∈ (List.range n).filterMap (leafIn leaf lo hi) := fun l x hl => by
    refine List.mem_filterMap.mpr ⟨l, List.mem_range.mpr ?_, hl⟩
    by_contra hge
    rw [leafIn, if_neg (by rcases hwhole with ⟨-, hn, -⟩ | ⟨-, hn, -⟩ <;> omega)] at hl
    exact absurd hl nofun
  have fp : ∀ v w, r.fp env ty v w = (fpMinMax env ty (decide (r = .max)) false v w).bits := fun v w => by
    have same : { env with daz := false } = env := by rw [← hdaz]
    rcases hr with rfl | rfl <;> simp only [RedOp.fp, same] <;> rfl
  have srcLt : ∀ z, (∃ l, (leafIn leaf lo hi l).map (env.source ty) = some z) → z < 2 ^ ty.bits := fun z ⟨l, hl⟩ => by
    obtain ⟨x, hx, rfl⟩ := Option.map_eq_some_iff.mp hl
    rw [source_lt hdaz (small x (inside l x hx))]
    exact small x (inside l x hx)
  obtain ⟨v, hv, stands⟩ := whole_float hwhole (arith_signed ht).2.2.2.1 (R := ChosenOf ty (decide (r = .max)))
    (fun leaves _ _ hv hw => fp _ _ ▸ chosenOf_join ht hdaz hnan _ (fun z hz => srcLt z (leaves z hz)) hv hw)
    fun l x _ => by
      cases hx : (fpVal ty x).isNan with
      | true => exact .inl ⟨fun y hy => List.mem_singleton.mp hy ▸ hx, hx⟩
      | false => exact .inr ⟨List.mem_singleton.mpr rfl, hx, fun y hy _ => by
        rw [List.mem_singleton.mp hy]; exact Chosen.refl ty _ x⟩
  have sources : ((List.range n).filterMap (leafIn leaf lo hi)).map (env.source ty) =
      (List.range n).filterMap (leafIn leaf lo hi) :=
    (List.map_congr_left fun x hx => source_lt hdaz (small x hx)).trans (List.map_id _)
  rw [sources] at stands
  obtain ⟨x, hx, hnx⟩ := hsome
  cases v with
  | none => exact absurd (stands ▸ hx) List.not_mem_nil
  | some v =>
    rw [hv]
    exact stands.2.resolve_left fun hall => absurd (hall.1 x hx) (by simp [hnx])

/-- Settles O17: the instructions write what `RedOp.root` and `RedOp.over` give; these combine the leaves of a range, and for
float values the maximal nodes of the tree. -/
theorem reductions : Obligations.Reductions := by
  refine ⟨?instructions, ?values, ?tree⟩
  case instructions =>
    intro s e o i c r h hw _ n env leaf part
    have leaves : leaf = c.leaf o := leaf_eq h hw
    refine ⟨fun hi => ?_, fun hi => ?_, fun kb hi hb => ?_⟩
    · rw [leaves]; exact red_completes r h hi
    · simp only [part, leaves]; exact scan_completes r h hi
    · intro head sel
      refine ⟨fun hsel => sred_traps r h hi hsel, fun hsel => ?_⟩
      refine ⟨c.headOf (.k kb), c.tailOf (.k kb), fun l _ => ?_, fun l hl => ?_, ?_⟩
      · obtain ⟨first, le, greatest⟩ := c.headOf_spec (.k kb) (l := l)
        exact ⟨(c.head_iff kb _).mp first, le, fun k hk => greatest k ((c.head_iff kb k).mpr hk)⟩
      · obtain ⟨le, lt, none, next⟩ := c.tailOf_spec (.k kb) hl
        exact ⟨le, lt, fun k hk => none k ((c.head_iff kb k).mpr hk), next.imp_right (c.head_iff kb _).mp⟩
      · have completes := sred_completes r h hi hsel
        have each : ∀ l, ((c.received r o l).map fun x => destVals c.base o.ty o.dst (l % c.width) x).getD [] =
            let vals := destVals c.base o.ty o.dst (l % c.width)
            if sel = 0 then vals (part (c.headOf (.k kb) l) (c.tailOf (.k kb) l))
            else if sel = 1 then vals (part (c.headOf (.k kb) l) l)
            else if c.headOf (.k kb) l = l then vals (part l (c.tailOf (.k kb) l)) else [] := fun l => by
          simp only [SetCtx.received, SetCtx.segment, hb, part, leaves]
          split
          · rfl
          · split
            · rfl
            · split <;> rfl
        simpa only [each] using completes
  case values =>
    intro env ty sat r leaf n lo hi whole _ hwhole xs val
    refine ⟨fun hint => ?_, fun harith => ⟨fun hnone hr => ?_, fun hdaz hnan hr small hsome => ?_⟩⟩
    · have int : whole = r.int ty sat xs := whole_int hwhole hint
      rw [int]
      exact ⟨fun hr => hr ▸ int_sum ty sat xs, fun hnone => hnone ▸ int_none hint sat r, fun hne hr => hr ▸ int_min ty sat hne,
        fun hne hr => hr ▸ int_max ty sat hne, fun hne hr => hr ▸ int_and ty sat hne, fun hr => hr ▸ int_or ty sat xs,
        fun hr => hr ▸ int_xor ty sat xs⟩
    · obtain ⟨v, hv, stands⟩ := whole_float hwhole (arith_signed harith).2.2.2.1 (R := fun _ _ => True)
        (fun _ _ _ _ _ => trivial) fun _ _ _ => trivial
      cases v with
      | none => rw [hv]; exact identity_float harith hr
      | some v => exact absurd (congrArg (List.map (env.source ty)) hnone) stands.1
    · obtain ⟨hmem, hval, least⟩ := whole_chosen hwhole harith hdaz hnan hr small hsome
      refine ⟨hmem, hval, fun y hy hny => ?_⟩
      have chosen := least y hy hny
      simp only [number_fpVal harith]
      rcases hr with rfl | rfl
      · exact key_le hval hny chosen
      · exact key_le hny hval chosen
  case tree =>
    intro env ty sat r leaf n lo hi hfloat hle hn f h read join
    have joins : join = joinOpt f := by
      funext x y
      cases x <;> cases y <;> rfl
    refine ⟨le_two_pow_treeHeight n, fun k => treeHeight_le, fun lf m j => ⟨rfl, ?_⟩, fun hr x y => ?_, ?_,
      coverNodes lo hi h 0, fun p hp => ?_, coverNodes_pairwise lo hi h 0, fun l hlo hhi => ?_, ?_⟩
    · rw [joins]; rfl
    · subst hr; rfl
    · rw [RedOp.root, if_pos hfloat]
    · obtain ⟨level, -, -, inside⟩ := coverNodes_under hp
      exact ⟨level, inside.1, inside.2, coverNodes_maximal (fun hlt => absurd hlt (lt_irrefl _)) hp⟩
    · have : n ≤ 2 ^ h := le_two_pow_treeHeight n
      exact exists_coverNode hlo hhi (by omega) (by omega)
    · rw [RedOp.over, if_pos hfloat, treeRange, treeCover_eq, joins]

end Sys2Proof.Machine
end


section
/-! PROOF. The issue choice of a cycle, results that arrive, traps held back (O49). -/

namespace Sys2Proof.NMap

/-- What a sorted map lists it finds. -/
theorem find_of_mem {β : Type} {m : NMap β} (h : sorted m = true) {p : Nat × β} (hp : p ∈ m) : find m p.1 = some p.2 := by
  induction m with
  | nil => exact absurd hp List.not_mem_nil
  | cons q rest ih =>
    obtain ⟨a, w⟩ := q
    have habove : above a rest = true := h
    have hsorted : sorted rest = true := by
      cases rest with
      | nil => rfl
      | cons r rest => exact (Bool.and_eq_true_iff.mp habove).2
    rcases List.mem_cons.mp hp with rfl | hp
    · simp [find]
    · have found := ih hsorted hp
      have lt : a < p.1 := by
        by_contra hle
        rw [find_above rest habove (by omega)] at found
        exact absurd found nofun
      rw [find, if_neg (by omega), if_neg (by omega), found]

theorem mem_of_find {β : Type} {m : NMap β} {k : Nat} {v : β} (h : find m k = some v) : (k, v) ∈ m := by
  induction m with
  | nil => simp at h
  | cons q rest ih =>
    obtain ⟨a, w⟩ := q
    rw [find] at h
    split at h
    · rename_i hk
      obtain rfl := Option.some.inj h
      exact hk ▸ List.mem_cons_self
    · split at h
      · exact absurd h nofun
      · exact List.mem_cons_of_mem _ (ih h)

theorem find_map {β γ : Type} (f : β → γ) (m : NMap β) (k : Nat) :
    find (m.map fun p => (p.1, f p.2) : NMap γ) k = (find m k).map f := by
  induction m with
  | nil => rfl
  | cons q rest ih =>
    rw [List.map_cons, find, find]
    split
    · rfl
    · split
      · rfl
      · exact ih

theorem above_keys {β : Type} {m : NMap β} {lo : Nat} (h : above lo m = true) : ∀ p ∈ m, lo < p.1 := by
  induction m generalizing lo with
  | nil => exact fun p hp => absurd hp List.not_mem_nil
  | cons q rest ih =>
    simp only [above, Bool.and_eq_true, decide_eq_true_eq] at h
    intro p hp
    rcases List.mem_cons.mp hp with rfl | hp
    · exact h.1
    · exact h.1.trans (ih h.2 p hp)

/-- The keys of a sorted map are distinct. -/
theorem keys_nodup {β : Type} {m : NMap β} (h : sorted m = true) : (m.map (·.1)).Nodup := by
  induction m with
  | nil => exact .nil
  | cons q rest ih =>
    have habove : above q.1 rest = true := h
    have hsorted : sorted rest = true := by
      cases rest with
      | nil => rfl
      | cons r rest => exact (Bool.and_eq_true_iff.mp habove).2
    refine List.nodup_cons.mpr ⟨fun hmem => ?_, ih hsorted⟩
    obtain ⟨p, hp, heq⟩ := List.mem_map.mp hmem
    exact absurd (above_keys habove p hp) (by rw [show p.1 = q.1 from heq]; omega)

end Sys2Proof.NMap

namespace Sys2Proof.Machine

/-! ### The order of bidders (R92) -/

theorem keysBefore_irrefl (a : List Nat) : keysBefore a a = false := by
  induction a with
  | nil => rfl
  | cons x a ih => simp [keysBefore, ih]

/-- Of keys of one length, the first bidder's do not come after the second's when the second's come before a third's and the
third's not before the first's. -/
theorem keysBefore_trans {a b c : List Nat} (hab : a.length = b.length) (hbc : b.length = c.length)
    (h : keysBefore b a = false) (h' : keysBefore c b = false) : keysBefore c a = false := by
  induction a generalizing b c with
  | nil => cases c <;> rfl
  | cons x a ih =>
    obtain ⟨y, b, rfl⟩ := List.exists_cons_of_length_eq_add_one hab.symm
    obtain ⟨z, c, rfl⟩ := List.exists_cons_of_length_eq_add_one hbc.symm
    simp only [List.length_cons, Nat.add_right_cancel_iff] at hab hbc
    simp only [keysBefore, Bool.or_eq_false_iff, Bool.and_eq_false_imp, decide_eq_false_iff_not, decide_eq_true_eq, not_lt] at h h' ⊢
    exact ⟨by omega, fun hzx => ih hab hbc (h.2 (by omega)) (h'.2 (by omega))⟩

theorem keysBefore_asymm {a b : List Nat} (h : keysBefore a b = true) : keysBefore b a = false := by
  induction a generalizing b with
  | nil => simp [keysBefore] at h
  | cons x a ih =>
    cases b with
    | nil => rfl
    | cons y b =>
      simp only [keysBefore, Bool.or_eq_true, Bool.and_eq_true, decide_eq_true_eq] at h
      simp only [keysBefore, Bool.or_eq_false_iff, Bool.and_eq_false_imp, decide_eq_false_iff_not, decide_eq_true_eq, not_lt]
      rcases h with hlt | ⟨rfl, hk⟩
      · exact ⟨by omega, fun _ => by omega⟩
      · exact ⟨le_rfl, fun _ => ih hk⟩

theorem bidInsert_perm (b : Bidder) (l : List Bidder) : (bidInsert b l).Perm (b :: l) := by
  induction l with
  | nil => exact .refl _
  | cons c l ih =>
    rw [bidInsert]
    split
    · exact .refl _
    · exact (ih.cons c).trans (.swap b c l)

/-- The bidders stand in the order of R92: none after one that it comes before. -/
def InOrder (l : List Bidder) : Prop := l.Pairwise fun b c => keysBefore c.keys b.keys = false

theorem bidInsert_inOrder {b : Bidder} {l : List Bidder} (hlen : ∀ c ∈ l, c.keys.length = b.keys.length) (h : InOrder l) :
    InOrder (bidInsert b l) := by
  induction l with
  | nil => exact List.pairwise_singleton _ _
  | cons c l ih =>
    obtain ⟨hc, hl⟩ := List.pairwise_cons.mp h
    have clen := hlen c List.mem_cons_self
    rw [bidInsert]
    split
    · rename_i hbc
      refine List.pairwise_cons.mpr ⟨fun d hd => ?_, h⟩
      have first := keysBefore_asymm hbc
      rcases List.mem_cons.mp hd with rfl | hd
      · exact first
      · exact keysBefore_trans clen.symm (clen.trans (hlen d (List.mem_cons_of_mem _ hd)).symm) first (hc d hd)
    · rename_i hbc
      refine List.pairwise_cons.mpr ⟨fun d hd => ?_, ih (fun d hd => hlen d (List.mem_cons_of_mem _ hd)) hl⟩
      rcases List.mem_cons.mp ((bidInsert_perm b l).mem_iff.mp hd) with rfl | hd
      · exact Bool.eq_false_iff.mpr hbc
      · exact hc d hd

theorem bidSort_perm (bs l : List Bidder) : (bs.foldl (fun l b => bidInsert b l) l).Perm (bs ++ l) := by
  induction bs generalizing l with
  | nil => exact .refl _
  | cons b bs ih =>
    refine (ih _).trans (((bidInsert_perm b l).append_left bs).trans ?_)
    exact List.perm_middle

theorem bidSort_inOrder {bs l : List Bidder} {n : Nat} (hbs : ∀ b ∈ bs, b.keys.length = n) (hl : ∀ b ∈ l, b.keys.length = n)
    (h : InOrder l) : InOrder (bs.foldl (fun l b => bidInsert b l) l) := by
  induction bs generalizing l with
  | nil => exact h
  | cons b bs ih =>
    have hb := hbs b List.mem_cons_self
    refine ih (fun c hc => hbs c (List.mem_cons_of_mem _ hc)) (fun c hc => ?_)
      (bidInsert_inOrder (fun c hc => (hl c hc).trans hb.symm) h)
    rcases List.mem_cons.mp ((bidInsert_perm b l).mem_iff.mp hc) with rfl | hc
    · exact hb
    · exact hl c hc

/-- The threads that bid, in some order. -/
def State.bids (s : State) : List Env := (s.threads.filterMap (fun p => s.envOf p.1)).filter Env.bids

theorem bidders_perm (s : State) : s.bidders.Perm (s.bids.map (·.tid)) := by
  have h := (bidSort_perm (s.bids.map Env.bid) []).map (·.tid)
  rw [List.append_nil, List.map_map] at h
  exact h

theorem mem_bidders (s : State) (u : Nat) : u ∈ s.bidders ↔ ∃ e, s.envOf u = some e ∧ e.bids = true := by
  rw [(bidders_perm s).mem_iff, List.mem_map]
  constructor
  · rintro ⟨e, he, rfl⟩
    obtain ⟨hmem, hbids⟩ := List.mem_filter.mp he
    obtain ⟨p, -, hp⟩ := List.mem_filterMap.mp hmem
    exact ⟨e, by rw [(envOf_thread hp).2]; exact hp, hbids⟩
  · rintro ⟨e, he, hbids⟩
    obtain ⟨hth, htid⟩ := envOf_thread he
    exact ⟨e, List.mem_filter.mpr ⟨List.mem_filterMap.mpr ⟨(u, e.th), NMap.mem_of_find hth, he⟩, hbids⟩, htid⟩

theorem bidders_nodup {s : State} (h : NMap.sorted s.threads = true) : s.bidders.Nodup := by
  refine (bidders_perm s).nodup_iff.mpr ?_
  have tids : ∀ l : List (Nat × Thread), ((l.filterMap (fun p => s.envOf p.1)).map (·.tid)).Sublist (l.map (·.1)) := by
    intro l
    induction l with
    | nil => exact .refl _
    | cons p l ih =>
      cases hp : s.envOf p.1 with
      | none => simpa [hp] using ih.cons p.1
      | some e =>
        have := (envOf_thread hp).2
        simpa [hp, this] using ih
  exact ((tids s.threads).nodup (NMap.keys_nodup h)).sublist (List.filter_sublist.map _)

theorem bidders_inOrder (s : State) : s.bidders.Pairwise fun u v => ∀ e f, s.envOf u = some e → s.envOf v = some f →
    keysBefore f.bid.keys e.bid.keys = false := by
  have lengths : ∀ b ∈ s.bids.map Env.bid, b.keys.length = 5 := fun b hb => by
    obtain ⟨e, -, rfl⟩ := List.mem_map.mp hb
    rfl
  have order := bidSort_inOrder lengths (l := []) (fun b hb => absurd hb List.not_mem_nil) .nil
  refine List.pairwise_map.mpr (order.imp_of_mem fun {b c} hb hc h => ?_)
  have isBid : ∀ {b : Bidder}, b ∈ (s.bids.map Env.bid).foldl (fun l b => bidInsert b l) [] →
      ∀ e, s.envOf b.tid = some e → e.bid = b := fun {b} hb e he => by
    have hb := (bidSort_perm _ []).mem_iff.mp hb
    rw [List.append_nil] at hb
    obtain ⟨g, hg, rfl⟩ := List.mem_map.mp hb
    obtain ⟨p, -, hp⟩ := List.mem_filterMap.mp (List.mem_filter.mp hg).1
    rw [← (envOf_thread hp).2] at hp
    exact congrArg Env.bid (Option.some.inj (he.symm.trans hp))
  intro e f he hf
  rw [isBid hb e he, isBid hc f hf]
  exact h

/-! ### A cycle that nothing disturbs -/

theorem foldl_stays {α β : Type} {f : α → β → α} {a : α} {l : List β} (h : ∀ x ∈ l, f a x = a) : l.foldl f a = a := by
  induction l with
  | nil => rfl
  | cons x l ih =>
    rw [List.foldl_cons, h x List.mem_cons_self]
    exact ih fun y hy => h y (List.mem_cons_of_mem _ hy)

section
variable {s : State} (h : s.undisturbed)
include h

theorem State.undisturbed.found {tid : Nat} {th : Thread} (hth : s.thread tid = some th) :
    th.log = [] ∧ th.phase = none ∧ th.restarts = false ∧ th.leaving = none :=
  h.2.1 (tid, th) (NMap.mem_of_find hth)

theorem State.undisturbed.replayAll : s.replayAll = s := by
  have noCommand : ((s.cmds.map (·.op)).foldl (fun (s : State) op => s.replayBulk op) s).recapture = s := by
    simp only [h.2.2.1, List.map_nil, List.foldl_nil, State.recapture]
  rw [State.replayAll, noCommand]
  refine foldl_stays fun p _ => ?_
  unfold State.replayThread
  cases hth : s.thread p.1 with
  | none => rfl
  | some th =>
    obtain ⟨log, -, -, leaving⟩ := State.undisturbed.found h hth
    simp only [log, List.map_nil, List.foldl_nil, List.length_nil, State.runHeld, State.leave, hth, leaving]

theorem State.undisturbed.flushRecs : s.flushRecs = s := by
  obtain ⟨-, -, -, recs, -⟩ := h
  have same : { s with recs := [] } = s := by rw [← recs]
  rw [State.flushRecs, recs, same, List.foldl_nil]

theorem State.undisturbed.settles (tid : Nat) : (s.settlePhase tid).settleRestart tid = s := by
  have phase : s.settlePhase tid = s := by
    unfold State.settlePhase
    cases he : s.envOf tid with
    | none => rfl
    | some e => simp only [(State.undisturbed.found h (envOf_thread he).1).2.1]
  rw [phase]
  unfold State.settleRestart
  cases hth : s.thread tid with
  | none => rfl
  | some th => simp [(State.undisturbed.found h hth).2.2.1]

theorem State.undisturbed.rends {id : Nat} {b : Block} (hb : s.block id = some b) : b.rends = [] :=
  h.2.2.2.2.2 (id, b) (NMap.mem_of_find hb)

theorem State.undisturbed.noDeadlock (id : Nat) : s.checkDeadlock id = s := by
  unfold State.checkDeadlock
  cases hb : s.block id with
  | none => rfl
  | some b =>
    have none : s.deadlocked b = false := by
      rw [State.deadlocked, State.undisturbed.rends h hb]
      cases hlive : b.warps.filter (fun t => match s.thread t with | some th => th.live | none => false) with
      | nil => simp
      | cons t rest => cases hth : s.thread t <;> simp [hth]
    simp [none]

theorem State.undisturbed.retried : s.retried = [] :=
  List.flatMap_eq_nil_iff.mpr fun p hp => by simp [h.2.2.2.2.2 p hp]

/-- What a cycle then does: it asks the bidders, lets an idle cycle of each thread pass, and counts itself. -/
theorem State.undisturbed.issueChoice (hen : s.host.computeEn = true) : ∃ due ctxs, s.issueChoice =
    { s with threads := s.threads.map fun p => (p.1, { p.2 with idle := p.2.idle - 1 }), clock := s.clock + 1, ctxs := ctxs,
             issueQ := s.issueQ ++ s.bidders, taken := [], due := due } := by
  have settled : s.threads.foldl (fun (s : State) p => (s.settlePhase p.1).settleRestart p.1) s = s :=
    foldl_stays fun p _ => h.settles p.1
  have noDeadlock : s.blocks.foldl (fun (s : State) p => s.checkDeadlock p.1) s = s := foldl_stays fun p _ => h.noDeadlock p.1
  rw [State.issueChoice, hen]
  simp only [Bool.not_true, Bool.false_eq_true, if_false, h.replayAll, h.flushRecs, settled, noDeadlock, h.retried,
    List.append_nil]
  exact ⟨_, _, rfl⟩

end

/-! ### Consumers are judged first (R88) -/

/-- `u` is `s` but for how launches with nothing left to place are to end. -/
structure Judged (s u : State) : Prop where
  frame    : u = { s with launches := u.launches }
  waiting  : ∀ p ∈ u.launches, p.2.waiting = []
  launches : ∀ l, ∃ end_ : Option Launch → Option Launch, (∀ la, ((end_ la).map (·.recd)) = la.map (·.recd)) ∧
               u.launch l = end_ (s.launch l)

theorem Judged.refl {s : State} (h : ∀ p ∈ s.launches, p.2.waiting = []) : Judged s s :=
  ⟨rfl, h, fun _ => ⟨id, fun _ => rfl, rfl⟩⟩

theorem Judged.ends {s u : State} (h : Judged s u) (l : Nat) (x : Nat × Nat) :
    Judged s (u.modLaunch l fun la => { la with ending := some x, waiting := [] }) := by
  unfold State.modLaunch
  cases hl : u.launch l with
  | none => exact h
  | some la =>
    dsimp only
    refine ⟨by rw [h.frame]; rfl, fun p hp => ?_, fun k => ?_⟩
    · rcases NMap.mem_put hp with rfl | hp
      · rfl
      · exact h.waiting p hp
    · obtain ⟨end_, keeps, hend⟩ := h.launches k
      by_cases hk : k = l
      · subst hk
        refine ⟨fun o => (end_ o).map fun la => { la with ending := some x, waiting := [] }, fun o => ?_, ?_⟩
        · rw [Option.map_map]; exact keeps o
        · dsimp only
          rw [← hend, hl]
          exact NMap.find_put_same _ _ _
      · exact ⟨end_, keeps, (NMap.find_put_other _ _ hk).trans hend⟩

theorem Judged.one {s u : State} (h : Judged s u) (l : Nat) : Judged s (u.judgeOne l) := by
  unfold State.judgeOne
  cases hl : u.launch l with
  | none => exact h
  | some la =>
    have placed : la.waiting = [] := h.waiting (l, la) (NMap.mem_of_find hl)
    simp only [placed, List.findSome?_nil]
    split
    · exact h
    · split
      · exact h.ends l _
      · split
        · exact h.ends l _
        · exact h
      · exact h

theorem State.undisturbed.judged {s : State} (h : s.undisturbed) : Judged s s.judge := by
  have all : ∀ (l : List (Nat × Launch)) (u : State), Judged s u → Judged s (l.foldl (fun (s : State) p => s.judgeOne p.1) u) := by
    intro l
    induction l with
    | nil => exact fun u hu => hu
    | cons p l ih => exact fun u hu => ih _ (hu.one p.1)
  exact all _ s (Judged.refl h.2.2.2.2.1)

section
variable {s u : State} (h : Judged s u)
include h

theorem Judged.thread (tid : Nat) : u.thread tid = s.thread tid := by rw [h.frame]; rfl

theorem Judged.undisturbed (hs : s.undisturbed) : u.undisturbed := by
  obtain ⟨sorted, threads, cmds, recs, -, blocks⟩ := hs
  rw [h.frame]
  exact ⟨sorted, threads, cmds, recs, h.waiting, blocks⟩

/-- A thread bids as it would have before. -/
theorem Judged.envOf {tid : Nat} {e : Env} (he : u.envOf tid = some e) :
    ∃ f, s.envOf tid = some f ∧ f.th = e.th ∧ f.blk = e.blk ∧ f.bid = e.bid := by
  obtain ⟨hth, htid⟩ := envOf_thread he
  obtain ⟨hblk, hla⟩ := envOf_block he
  obtain ⟨end_, keeps, hend⟩ := h.launches e.blk.launch
  rw [hla] at hend
  have recd := keeps (s.launch e.blk.launch)
  rw [← hend] at recd
  cases hl : s.launch e.blk.launch with
  | none => rw [hl] at recd; exact absurd recd nofun
  | some la =>
    rw [hl] at recd
    have hrecd : e.la.recd = la.recd := Option.some.inj recd
    rw [h.thread, ] at hth
    have hblk' : s.block e.th.block = some e.blk := by
      rw [← hblk, h.frame]; rfl
    refine ⟨{ tid := tid, th := e.th, blk := e.blk, la := la }, ?_, rfl, rfl, ?_⟩
    · simp only [State.envOf, hth, hblk', hl]
    · rw [Env.bid, Env.bid, htid, hrecd]

theorem Judged.symm_envOf {tid : Nat} {f : Env} (hf : s.envOf tid = some f) :
    ∃ e, u.envOf tid = some e ∧ f.th = e.th ∧ f.blk = e.blk ∧ f.bid = e.bid := by
  obtain ⟨hth, htid⟩ := envOf_thread hf
  obtain ⟨hblk, hla⟩ := envOf_block hf
  obtain ⟨end_, keeps, hend⟩ := h.launches f.blk.launch
  have recd := keeps (s.launch f.blk.launch)
  rw [← hend, hla] at recd
  obtain ⟨la, hl, hrecd⟩ := Option.map_eq_some_iff.mp recd
  have hblk' : u.block f.th.block = some f.blk := by rw [h.frame]; exact hblk
  have found : u.envOf tid = some { tid := tid, th := f.th, blk := f.blk, la := la } := by
    simp only [State.envOf, h.thread, hth, hblk', hl]
  exact ⟨_, found, rfl, rfl, by rw [Env.bid, Env.bid, htid, hrecd]⟩

end

theorem bids_iff (e : Env) : e.bids = true ↔ e.th.live = true ∧ ¬ (e.blk.stopping = true ∧ e.th.isWarp = true) ∧
    e.th.held = none ∧ e.th.restarts = false ∧ e.th.exited = false ∧ e.th.fetchWait = none ∧ e.th.spillWait = none ∧
    e.th.idle = 0 ∧ ∀ n, e.th.wait ≠ .rendezvous n := by
  simp only [Env.bids, Env.resident, Env.mayIssue, Bool.and_eq_true, decide_eq_true_eq, Option.isNone_iff_eq_none,
    Bool.not_eq_true', and_assoc, Bool.and_eq_false_imp, not_and, Bool.not_eq_true]
  cases e.th.wait <;> simp

/-! ### Results and traps -/

theorem Thread.patchChecks_frame (th : Thread) (region : Nat) (vals : List RegVal) :
    th.patchChecks region vals = { th with pair := (th.patchChecks region vals).pair } ∧
      (th.pair = none → (th.patchChecks region vals).pair = none) := by
  cases hp : th.pair with
  | none =>
    have same : th.patchChecks region vals = th := by simp only [Thread.patchChecks, hp]
    rw [same]
    exact ⟨rfl, fun _ => hp⟩
  | some p =>
    simp only [Thread.patchChecks, hp]
    exact ⟨trivial, nofun⟩

/-- R400: what `trap_cause` holds. -/
theorem causeWord_fields (r : Trap) (h : r.cause < 2 ^ 16) : r.causeWord.toNat % 2 ^ 16 = r.cause ∧
    r.causeWord.toNat / 2 ^ 16 % 2 ^ 10 = r.detail % 2 ^ 10 ∧ r.causeWord.toNat / 2 ^ 26 % 2 ^ 5 = 0 ∧
    r.causeWord.getLsbD 31 = r.setwide := by
  have wide : r.setwide.toNat ≤ 1 := Bool.toNat_le r.setwide
  have value : r.causeWord.toNat = r.setwide.toNat * 2 ^ 31 + r.detail % 1024 * 2 ^ 16 + r.cause := by
    rw [Trap.causeWord, BitVec.toNat_ofNat, Nat.mod_eq_of_lt]
    omega
  refine ⟨by omega, by omega, by omega, ?_⟩
  have bit : r.causeWord.toNat / 2 ^ 31 = r.setwide.toNat := by omega
  rw [BitVec.getLsbD, Nat.testBit_eq_decide_div_mod_eq, bit]
  cases r.setwide <;> rfl

/-- R402: a warp that enters its handler for a trap. -/
theorem entered_enter (e : Env) (r : Trap) (pc : Nat) (h : r.cause < 2 ^ 16) : Entered e r pc (e.th.enter r pc) where
  entry := rfl
  mode := rfl
  back := ⟨rfl, rfl⟩
  words := ⟨rfl, rfl, rfl, rfl⟩
  cause := causeWord_fields r h
  frame := by
    unfold Thread.enter
    cases hf : r.flag with
    | none => simp
    | some f =>
      congr 1
      refine List.filter_congr fun x _ => ?_
      simp [eq_comm]

/-- Settles O49: a cycle in which nothing is held back, a result that may be written, and a trap whose thread has drained. -/
theorem issueChoicesAndResults : Obligations.IssueChoicesAndResults := by
  refine ⟨fun s hen h => ?choice, fun s tid idx th p hth hp hknown hfirst => ?result,
    fun s tid pc e r he hwarp hhandler hheld hpend hlog hflags hrestarts hnext hfind hcause => ?trap⟩
  case choice =>
    have judged := h.judged
    have calm := judged.undisturbed h
    have hen' : s.judge.host.computeEn = true := by rw [judged.frame]; exact hen
    obtain ⟨due, ctxs, hrun⟩ := calm.issueChoice hen'
    have hexec : exec .issueChoice s = .next s.judge.issueChoice := by
      show execIssueChoice s = _
      rw [execIssueChoice, if_pos hen]
    refine ⟨_, s.judge.bidders, hexec.trans (congrArg Host.Outcome.next hrun), ?_, ?_, ?_, rfl, ?_, fun u => ?_,
      bidders_nodup calm.1, (bidders_inOrder s.judge).imp fun {u v} order e f he hf => ?_, fun u => ?_⟩
    · rw [judged.frame]
    · rw [judged.frame]
    · rw [judged.frame]
    · rw [judged.frame]
    · rw [mem_bidders]
      constructor
      · rintro ⟨e, he, hbids⟩
        obtain ⟨f, hf, hth, hblk, -⟩ := judged.envOf he
        refine ⟨f, hf, ?_⟩
        rw [hth, hblk]
        exact (bids_iff e).mp hbids
      · rintro ⟨f, hf, hbids⟩
        obtain ⟨e, he, hth, hblk, -⟩ := judged.symm_envOf hf
        rw [hth, hblk] at hbids
        exact ⟨e, he, (bids_iff e).mpr hbids⟩
    · obtain ⟨e', he', -, -, hbid⟩ := judged.symm_envOf he
      obtain ⟨f', hf', -, -, hbid'⟩ := judged.symm_envOf hf
      rw [hbid, hbid']
      exact order e' f' he' hf'
    · rw [← judged.thread u]
      exact NMap.find_map (fun th : Thread => { th with idle := th.idle - 1 }) s.judge.threads u
  case result =>
    have ready : th.resultReady idx = true := by
      simp only [Thread.resultReady, hp, hknown, Bool.true_and, Bool.not_eq_true', List.any_eq_false]
      exact fun q hq hany => by
        obtain ⟨x, hx, hxp⟩ := List.any_eq_true.mp hany
        exact hfirst q hq x hx (by simpa using hxp)
    have hrun : exec (.resultWrite tid idx) s = .next (s.setThread tid (th.writeResult idx)) := by
      show execResultWrite tid idx s = _
      rw [execResultWrite, hth]
      simp only [ready, if_true]
    obtain ⟨frame, unpaired⟩ := Thread.patchChecks_frame { th with regs := Regs.putAll th.width th.regs p.vals } p.region p.vals
    have hwrite : th.writeResult idx = { th with
        regs := Regs.putAll th.width th.regs p.vals, pend := th.pend.filter (fun q => q.op ≠ p.op),
        flags := th.flags.filter (fun f => f.2 ≠ p.op),
        pair := (Thread.patchChecks { th with regs := Regs.putAll th.width th.regs p.vals } p.region p.vals).pair } := by
      simp only [Thread.writeResult, hp]
      rw [frame]
    refine ⟨_, _, hrun, onlyThread_setThread _ _ _, State.thread_setThread _ _ _, ?_⟩
    rw [hwrite]
    exact ⟨rfl, fun q => by simp, fun f => by simp, rfl, unpaired⟩
  case trap =>
    have clear : e.th.clear = true := by simp [Thread.clear, Thread.drained, hpend, hlog, hflags]
    have hrun : exec (.trapEntry tid) s = .next (s.setThread tid (e.th.enter r pc)) := by
      show Host.Outcome.next (s.deliverTrap tid) = _
      have handler : e.la.obj.handlerFor r.cause = some pc := hfind
      simp [State.deliverTrap, he, hheld, clear, hrestarts, State.resolveTrap, hnext, State.takeTrap, hwarp, hhandler, handler]
    exact ⟨_, _, hrun, onlyThread_setThread _ _ _, State.thread_setThread _ _ _, entered_enter e r pc hcause⟩

end Sys2Proof.Machine
end


section
/-! PROOF. The end of threads (O23). -/

namespace Sys2Proof.Machine

/-- A burst of no bytes, of which a line waits on the host. -/
def waitingBurst : Burst :=
  { row := 0, col := 0, last := false, bytes := [], state := .running,
    waits := [{ line := 0, va := 0, write := false, cause := 0x15, gen := 0, told := false }] }

/-- A `bread` of warp 4 with two such bursts. -/
def waitingBread : Bread :=
  { tid := 4, block := 2, core := 0, op := 9, pc := 0x10000, flag := 0, handler := 0x10000, bursts := [waitingBurst, waitingBurst],
    params := [], fpmode := 0, seed := 0, quad := 0, slot := 0, hint := 0, failed := none, epoch := 0, region := 0, done := [],
    left := [] }

/-- A sprout of the first of these bursts, as thread 3, beside the warp 4 whose `bread` it is. -/
def sproutOfWaiting : State :=
  let s := State.reset.withFetchWord 64 0x3000
  let s := match s.thread 3 with
    | some th => (s.setThread 3 { th with role := .sprout 5 0 }).setThread 4 th
    | none => s
  { s with breads := [(5, waitingBread)], issueQ := [], cur := { tid := 3, pc := 0x10000, words := [] } }

/-- R437: a burst that retires waits on nothing more. -/
theorem exit_drops_waits : (sproutOfWaiting.env.any fun e =>
      decide (sproutOfWaiting.issues (.exit Ops.blank) Ops.blank e) && decide (e.tid = 3) && decide (e.th.pair = none) &&
        decide (e.th.role = .sprout 5 0) && sproutOfWaiting.performed e) = true ∧
    NMap.sorted sproutOfWaiting.threads = true ∧ ((sproutOfWaiting.thread 4).any fun th => decide (th.pair = none)) = true ∧
    (match exec (.exit Ops.blank) sproutOfWaiting with
      | .next t => (t.bread 5).all fun br => br.bursts.head?.any fun b => decide (b.waits = [])
      | _ => false) = true := by
  decide +kernel

/-- Refutes O23: a sprout ends whose burst, as that of `sproutOfWaiting`, still waits on the host; the burst is marked, and
waits no more. -/
theorem not_threadsEnd : ¬ Obligations.ThreadsEnd := by
  intro h
  obtain ⟨issues, sorted, warp, run⟩ := exit_drops_waits
  obtain ⟨e, -, he⟩ := (Option.any_eq_true _ _).mp issues
  simp only [Bool.and_eq_true, decide_eq_true_eq] at he
  obtain ⟨⟨⟨⟨hissues, htid⟩, unpaired⟩, role⟩, performed⟩ := he
  obtain ⟨th, hth, hpair⟩ := (Option.any_eq_true _ _).mp warp
  have ends := (h sproutOfWaiting e Ops.blank unpaired).2.2 (.exit Ops.blank) 5 0 waitingBread th (.inl rfl) hissues role sorted
    rfl rfl (by decide) hth (by rw [htid]; decide) (of_decide_eq_true hpair)
  obtain ⟨t, hexec, -, -, -, stays, -⟩ := ends.2 performed
  have notLast : ¬ ∀ (j : Nat) b, waitingBread.bursts[j]? = some b → j ≠ 0 → b.state = .retired :=
    fun hlast => absurd (hlast 1 waitingBurst rfl (by decide)) (by decide)
  obtain ⟨-, -, br, hbr, -, bursts⟩ := stays (.inl notLast)
  have first : br.bursts.head? = some { waitingBurst with state := .retired } := by
    rw [List.head?_eq_getElem?, bursts 0]; rfl
  simp [hexec, hbr, first, waitingBurst] at run

end Sys2Proof.Machine
end


section
/-! PROOF. Calls and returns (O21). -/

namespace Sys2Proof.Machine

/-- A core is one that is listed, or as at its start. -/
theorem core_of_all {s : State} {p : Nat → Core → Bool} (h : s.cores.all (fun x => p x.1 x.2) = true) (c : Nat)
    (hinit : p c .init = true) : p c (s.core c) = true := by
  rw [State.core, NMap.get]
  cases hc : NMap.find s.cores c with
  | none => exact hinit
  | some x => exact List.all_eq_true.mp h (c, x) (NMap.mem_of_find hc)

/-- The physical address of the spill slot at 0x10100. -/
def staleSlot : Nat := placePage + 0x100

/-- A warp at depth 16 of a core that has no cache way left, and whose L1 still holds the line of the warp's spill slot, filled
with 0xEE at its first byte. -/
def callWithoutWays : State :=
  let s := State.reset.withFetchWord 64 0x3000
  let s := s.modThread 3 fun th => { th with regs := { th.regs with depth := 16, ras := List.replicate 16 0x10000 } }
  let s := s.modBlock 2 fun b => { b with windows := 24 }
  let s := s.modLaunch 1 fun la => { la with recd := { la.recd with spill := 0x10100, spillStride := 8 } }
  let line : Line := { pa := staleSlot, va := 0x10100, filled := [(0, 0xEE)], dirty := [], hint := 0, epoch := 0 }
  { s.modCore 0 (fun c => { c with l1 := [line] }) with issueQ := [], cur := { tid := 3, pc := 0x10000, words := [] } }

/-- The bytes of the oldest entry, for its slot of the spill area. -/
def spilledEntry : Access :=
  { lane := 0, elem := 0, va := some 0x10100, w := 8, data := bytesOf 8 ((List.replicate 16 (0x10000 : DWord)).getD 15 0).toNat,
    bit := 0 }

/-- The state once the slot has been translated. -/
def callTranslated : State := (callWithoutWays.reachLines 0 .w 0 [0x10100]).2

theorem spill_translates : (callWithoutWays.reachLines 0 .w 0 [0x10100]).1 = some ([(0x10100, staleSlot)], []) ∧
    callTranslated.linesWait 0 [(0x10100, staleSlot)] = false ∧ callTranslated.atomAhead 3 staleSlot = false := by
  decide +kernel

theorem spill_settled : Memory.wf callTranslated.mem = true ∧ callTranslated.links = [] ∧
    callTranslated.cores.all (fun p => decide (p.2.refused = []) && (p.2.l1.all (!·.bad) && p.2.staged.all (!·.bad)) &&
      (decide (p.1 = 0) || decide (p.2.l1 = [] ∧ p.2.staged = []))) = true := by
  decide +kernel

theorem callTranslated_core (c : Nat) : (callTranslated.core c).refused = [] ∧ ((callTranslated.core c).l1.all (!·.bad) = true ∧
    (callTranslated.core c).staged.all (!·.bad) = true) ∧
    (c ≠ 0 → (callTranslated.core c).l1 = [] ∧ (callTranslated.core c).staged = []) := by
  have h := core_of_all (p := fun c x => decide (x.refused = []) && (x.l1.all (!·.bad) && x.staged.all (!·.bad)) &&
    (decide (c = 0) || decide (x.l1 = [] ∧ x.staged = []))) spill_settled.2.2 c (by simp [Core.init])
  simp only [Bool.and_eq_true, Bool.or_eq_true, decide_eq_true_eq] at h
  obtain ⟨⟨refused, good⟩, others⟩ := h
  exact ⟨refused, good, fun hc => others.resolve_left hc⟩

theorem callTranslated_settled : callTranslated.settled := by
  refine ⟨spill_settled.1, fun c pa => ?_, fun c => (callTranslated_core c).2.1⟩
  have up : (callTranslated.link (remoteLink pa)).up = true := by
    rw [State.link, spill_settled.2.1]; rfl
  rw [State.refused, State.linkDown, up, (callTranslated_core c).1]
  simp

/-- The core then reads its stale byte where it has stored another one. -/
theorem call_reads_stale : (callWithoutWays.env.any fun e =>
      decide (callWithoutWays.issues (.call Ops.blank) Ops.blank e) && decide (e.tid = 3) && decide (e.th.pair = none) &&
        decide (e.th.log = []) && decide (e.th.regs.depth = 16) && decide (e.th.regs.ras = List.replicate 16 0x10000) &&
        decide (e.blk.core = 0) && decide (e.la.recd.spillStride = 8) && decide (e.spillAt 0 = 0x10100)) = true ∧
    codeOk (callWithoutWays.target Ops.blank) = true ∧ callWithoutWays.host.testMode = false ∧
    (match exec (.call Ops.blank) callWithoutWays with
      | .next t => decide (t.seenByte 0 staleSlot = 0xEE)
      | _ => false) = true := by
  decide +kernel

/-- Refutes O21: in `callWithoutWays` the pushed entry's bytes are staged, and the L1, which has no way and yet a line, hides
them from the core. -/
theorem not_callsAndReturns : ¬ Obligations.CallsAndReturns := by
  intro h
  obtain ⟨issues, target, test, run⟩ := call_reads_stale
  obtain ⟨e, -, he⟩ := (Option.any_eq_true _ _).mp issues
  simp only [Bool.and_eq_true, decide_eq_true_eq] at he
  obtain ⟨⟨⟨⟨⟨⟨⟨⟨hissues, htid⟩, unpaired⟩, log⟩, depth⟩, ras⟩, core⟩, stride⟩, slot⟩ := he
  obtain ⟨translates, room, free⟩ := spill_translates
  have pushes := ((h callWithoutWays e Ops.blank).1 hissues target).2 callTranslated [(0x10100, staleSlot)]
  simp only [Env.spillAt, stride] at slot
  simp only [depth, ras, stride, Nat.sub_self, slot] at pushes
  have reaches : callWithoutWays.reachesTo callTranslated e true [spilledEntry] [(0x10100, staleSlot)] := by
    refine ⟨?_, log, unpaired, fun l hl => ?_, by rw [core]; exact room, nofun⟩
    · rw [core]; exact Prod.ext translates rfl
    · obtain rfl := List.mem_singleton.mp hl
      rw [htid]; exact free
  obtain ⟨t, th, hexec, -, -, -, -, -, stored, -⟩ := pushes (by decide) (by decide) (by decide) (by decide) test reaches
  rw [core] at stored
  have local_ : ∀ b ∈ storeBytesOf [(0x10100, staleSlot)] [spilledEntry], isRemote b.2.1 = false := by decide +kernel
  have others : ∀ (c : Nat) pa v, c ≠ 0 → ¬ (callTranslated.core c).unwritten pa v := fun c pa v hc hu => by
    obtain ⟨l1, staged⟩ := (callTranslated_core c).2.2 hc
    rcases hu with ⟨l, hl, -⟩ | ⟨l, hl, -⟩
    · rw [l1] at hl; exact absurd hl List.not_mem_nil
    · rw [staged] at hl; exact absurd hl List.not_mem_nil
  have first : (0x10100, staleSlot, 0) ∈ storeBytesOf [(0x10100, staleSlot)] [spilledEntry] := by decide +kernel
  have last : (((storeBytesOf [(0x10100, staleSlot)] [spilledEntry]).reverse.find? (fun b => b.2.1 = staleSlot)).map (·.2.2)) =
      some 0 := by decide +kernel
  have seen := stored.2.2.1 callTranslated_settled (fun b hb => ⟨local_ b hb, fun c v hc => others c _ v hc⟩) _ first
  have zero : t.seenByte 0 staleSlot = 0 := Option.some.inj (seen.trans last)
  rw [hexec] at run
  simp [zero] at run

end Sys2Proof.Machine
end


section
/-! PROOF. Silent errors and commits (O57). -/

namespace Sys2Proof.Machine

/-- A store of one byte, in a line of its own, as the entry of a region. -/
def storeEntry (region : Nat) : Entry :=
  { num := 0, region := region, pa := 0x40 * region, sig := 7, work := .store 0x10040 [(3, 9)], epoch := 0 }

/-- Two copies of a warp, threads 3 and 5, that have closed region 0 and are in region 1, each with an entry of both regions: the
two entries bear one number. -/
def doubleNumber : State :=
  let s := State.reset.withFetchWord 64 0x3000
  match s.thread 3, s.block 2 with
  | some th, some b =>
    let next := { th.region with num := 1 }
    let pair (peer : Nat) (leading : Bool) : PairState :=
      { peer := peer, leading := leading, entries := [storeEntry 0, storeEntry 1], nextEntry := 1, settled := 0, after := 0,
        bytes := [], checks := [⟨th.region, th.regs, 1, 0⟩, ⟨next, th.regs, 2, 1⟩], rollbacks := 0, exit := none }
    let copy (blk peer : Nat) (leading : Bool) : Thread :=
      { th with block := blk, region := next, pair := some (pair peer leading) }
    let s := (s.setThread 3 (copy 2 5 true)).setThread 5 (copy 4 3 false)
    (s.setBlock 2 { b with copy := .leading, other := some 4 }).setBlock 4
      { b with copy := .trailing, other := some 2, core := 1, warps := [5] }
  | _, _ => s

theorem doubleNumber_settled : doubleNumber.settled := by
  have facts : Memory.wf doubleNumber.mem = true ∧ doubleNumber.links = [] ∧
      doubleNumber.cores.all (fun p => decide (p.2.refused = [] ∧ p.2.l1 = [] ∧ p.2.staged = [])) = true := by
    decide +kernel
  have core (c : Nat) := core_of_all (p := fun _ x => decide (x.refused = [] ∧ x.l1 = [] ∧ x.staged = [])) facts.2.2 c
    (by simp [Core.init])
  simp only [decide_eq_true_eq] at core
  refine ⟨facts.1, fun c pa => ?_, fun c => ?_⟩
  · have up : (doubleNumber.link (remoteLink pa)).up = true := by
      rw [State.link, facts.2.1]; rfl
    rw [State.refused, State.linkDown, up, (core c).1]
    simp
  · rw [(core c).2.1, (core c).2.2]
    simp

/-- Region 0 commits, and the entry of region 1 goes with it. -/
theorem commit_drops_number : ((doubleNumber.copiesIn 2 0).any fun c =>
      decide (doubleNumber.verdict c = .commit) && decide (c.p.oldest = some 0) && decide (c.lead.tid = 3) &&
        decide (c.trail.tid = 5) && decide (c.p.entries = [storeEntry 0, storeEntry 1]) &&
        decide (c.q.entries = [storeEntry 0, storeEntry 1]) && decide (doubleNumber.breadOf c.lead.tid 0 = none) &&
        decide (doubleNumber.breadOf c.trail.tid 0 = none)) = true ∧
    (match exec (.regionCommit 2 0) doubleNumber with
      | .next t => (t.thread 3).all fun th => th.pair.all fun p => decide (p.entries = [])
      | _ => false) = true := by
  decide +kernel

/-- Refutes O57: in `doubleNumber` the commit of region 0 drops the entries by number, and so that of region 1 too. -/
theorem not_silentErrorsAndCommits : ¬ Obligations.SilentErrorsAndCommits := by
  intro h
  obtain ⟨copies, run⟩ := commit_drops_number
  obtain ⟨c, hc, facts⟩ := (Option.any_eq_true _ _).mp copies
  simp only [Bool.and_eq_true, decide_eq_true_eq] at facts
  obtain ⟨⟨⟨⟨⟨⟨⟨commits, oldest⟩, lead⟩, trail⟩, pEntries⟩, qEntries⟩, noLead⟩, noTrail⟩ := facts
  obtain ⟨-, -, commit, -, -⟩ := h
  obtain ⟨t, a, -, p, -, hexec, ha, hp, -, -, entries, -⟩ := commit doubleNumber 2 0 0 0x10040 c (storeEntry 0) [(3, 9)]
    doubleNumber_settled hc commits oldest (by rw [lead, trail]; decide) (by rw [pEntries]; decide) rfl (by decide) rfl
    (by rw [qEntries]; decide) (by decide) (by decide) (by decide) noLead noTrail
  rw [pEntries] at entries
  rw [lead] at ha
  simp [hexec, ha, hp, entries, storeEntry] at run

end Sys2Proof.Machine
end


section
/-! PROOF. The placement of blocks (O51). -/

namespace Sys2Proof.Machine

/-- A launch of one block that is not placed yet, whose record prefers die 5; every core of the four dies is spared. -/
def hintedAway : State :=
  let s := State.reset.withFetchWord 64 0x3000
  let s := s.modLaunch 1 fun la => { la with waiting := [1], recd := { la.recd with dieHint := 5 } }
  { s with cores := (List.range 400).map fun c => (c, { Core.init with spared := true }) }

theorem hintedAway_spared : ∀ c, c < 400 → (hintedAway.core c).spared = true := by
  decide +kernel

/-- R89: no block fits on a core that is spared. -/
theorem fits_of_spared {s : State} {c : Nat} (h : (s.core c).spared = true) (o : CodeObj) (b : Block) : s.fits c o b = none := by
  rw [State.fits, State.fitsWith, if_pos (.inl h)]

/-- The block is placed on a core of die 5. -/
theorem placed_on_die5 : ((hintedAway.launch 1).any fun la => decide (la.paired = false) && decide (la.saved = [])) = true ∧
    (match exec (.blockPlacement 1 1) hintedAway with
      | .next t => decide (t.blocks.length ≠ hintedAway.blocks.length)
      | _ => false) = true := by
  decide +kernel

/-- Refutes O51: in `hintedAway` the block fits on no core of the package, and yet placing it leaves the state changed. -/
theorem not_blocksComeAndGo : ¬ Obligations.BlocksComeAndGo := by
  intro h
  obtain ⟨launches, run⟩ := placed_on_die5
  obtain ⟨la, hla, facts⟩ := (Option.any_eq_true _ _).mp launches
  simp only [Bool.and_eq_true, decide_eq_true_eq] at facts
  obtain ⟨unpaired, unsaved⟩ := facts
  have stays := h.2.1 hintedAway 1 1 la hla unpaired (by rw [unsaved]; exact fun v hv => absurd hv List.not_mem_nil)
    (.inr fun c hc hfits => by rw [fits_of_spared (hintedAway_spared c hc)] at hfits; cases hfits)
  simp [stays] at run

end Sys2Proof.Machine
end


section
/-! PROOF. Exact sums of products (R137): values that are numbers, and a rounding that changes nothing. -/

namespace Sys2Proof

/-! ### Values that are numbers -/

/-- A value that is the number `y`. -/
def FpVal.Is (x : FpVal) (y : ℚ) : Prop := ∃ neg, x.number = some (neg, y)

theorem FpVal.Is.fin {x : FpVal} {y : ℚ} (h : x.Is y) : ∃ neg m e, x = .fin neg m e ∧ (FpVal.fin neg m e).exact.val = y := by
  obtain ⟨neg, h⟩ := h
  cases x with
  | nan | inf => simp [FpVal.number] at h
  | fin neg m e => exact ⟨neg, m, e, rfl, (Prod.mk.inj (Option.some.inj h)).2⟩

theorem FpVal.is_fin (neg : Bool) (m : Nat) (e : Int) : (FpVal.fin neg m e).Is (FpVal.fin neg m e).exact.val := ⟨neg, rfl⟩

theorem FpVal.Is.not_nan {x : FpVal} {y : ℚ} (h : x.Is y) : x.isNan = false := by
  obtain ⟨neg, m, e, rfl, -⟩ := h.fin
  rfl

/-- R117: a code up to that of the largest magnitude is the number of its grid, with its sign. -/
theorem fpVal_is {t : Ty} {x : Nat} (h : t.magOf x ≤ t.maxCode) :
    (fpVal t x).Is (if t.negOf x then -t.grid (t.magOf x) else t.grid (t.magOf x)) := by
  have notMore : ¬ (t.ieee = true ∧ t.magOf x > t.maxCode) := fun hx => absurd hx.2 (Nat.not_lt.mpr h)
  have notNan : ¬ (t = .e4m3 ∧ t.magOf x = 0x7F) := fun ⟨ht, hx⟩ => by
    rw [hx, ht] at h
    exact absurd h (by decide)
  unfold fpVal
  dsimp only
  by_cases he8 : t = .e8m0
  · subst he8
    have notTop : Ty.e8m0.magOf x ≠ 0xFF := fun hx => by
      rw [hx] at h
      exact absurd h (by decide)
    have unsigned : Ty.e8m0.negOf x = false := rfl
    rw [if_pos rfl, if_neg notTop, unsigned, Ty.grid, if_pos rfl]
    exact ⟨false, by simp [FpVal.number, FpVal.exact_val]⟩
  · rw [if_neg he8, if_neg notMore, if_neg notNan, Ty.grid, if_neg he8]
    by_cases he : t.magOf x / 2 ^ t.mbits = 0
    · rw [if_pos he, if_pos he]
      refine ⟨t.negOf x, ?_⟩
      rw [FpVal.number, FpVal.exact_val]
      rfl
    · rw [if_neg he, if_neg he]
      refine ⟨t.negOf x, ?_⟩
      rw [FpVal.number, FpVal.exact_val]
      push_cast
      rfl

/-- The signed formats that a factor of a product can have (R134). -/
def factorTypes : List Ty := [.f32, .f16, .bf16, .e4m3, .e5m2, .e2m1]

section
variable {t : Ty} (ht : t ∈ factorTypes)
include ht

theorem factor_signed : t.signed = true ∧ t.bits = (t.bits - 1) + 1 ∧ t ≠ .e8m0 ∧ 2 ^ t.mbits ≤ t.maxCode := by
  simp only [factorTypes, List.mem_cons, List.not_mem_nil, or_false] at ht
  rcases ht with rfl | rfl | rfl | rfl | rfl | rfl <;> decide

theorem factor_mag (x : Nat) : t.magOf x = x % 2 ^ (t.bits - 1) := by
  rw [Ty.magOf, (factor_signed ht).1, if_pos rfl]

theorem factor_neg (x : Nat) : t.negOf x = decide (x / 2 ^ (t.bits - 1) % 2 = 1) := by
  rw [Ty.negOf, (factor_signed ht).1]; rfl

theorem factor_mod (x : Nat) : t.magOf (x % 2 ^ t.bits) = t.magOf x ∧ t.negOf (x % 2 ^ t.bits) = t.negOf x := by
  have bits := (factor_signed ht).2.1
  generalize t.bits - 1 = n at bits
  rw [factor_mag ht, factor_mag ht, factor_neg ht, factor_neg ht, bits, Nat.add_sub_cancel]
  have low : x % 2 ^ (n + 1) % 2 ^ n = x % 2 ^ n := Nat.mod_mod_of_dvd x ⟨2, by ring⟩
  have high : x % 2 ^ (n + 1) / 2 ^ n % 2 = x / 2 ^ n % 2 := by
    rw [Nat.pow_succ, Nat.mod_mul_right_div_self, Nat.mod_mod]
  rw [low, high]
  exact ⟨rfl, rfl⟩

theorem factor_signBit (neg : Bool) : t.magOf (t.signBit neg) = 0 ∧ t.negOf (t.signBit neg) = neg := by
  simp only [factorTypes, List.mem_cons, List.not_mem_nil, or_false] at ht
  cases neg <;> rcases ht with rfl | rfl | rfl | rfl | rfl | rfl <;> decide

/-- R127: a source whose code is that of a number is that number, which DAZ has made zero when it is subnormal. -/
theorem mmaSource_is {env : FpEnv} {x : Nat} {y : ℚ} (h : ∃ neg, t.number env.daz x = some (neg, y)) :
    (mmaSource env t x).Is y := by
  obtain ⟨neg, h⟩ := h
  have small : t.magOf x ≤ t.maxCode := by
    rw [factor_mag ht]
    by_contra hmore
    simp [Ty.number, Nat.lt_of_not_le hmore] at h
  have value : y = if env.daz = true ∧ t.flushes = true ∧ t.magOf x < 2 ^ t.mbits then 0
      else if t.negOf x then -t.grid (t.magOf x) else t.grid (t.magOf x) := by
    rw [Ty.number, if_neg (by rw [← factor_mag ht]; exact Nat.not_lt.mpr small), ← factor_mag ht, ← factor_neg ht] at h
    exact (Prod.mk.inj (Option.some.inj h)).2.symm
  have source : (fpVal t (env.source t x)).Is y := by
    have zero : t.grid 0 = 0 := by
      rw [Ty.grid, if_neg (factor_signed ht).2.2.1, if_pos (Nat.zero_div _), Nat.zero_mod, Nat.cast_zero, zero_mul]
    rw [FpEnv.source]
    split
    case isTrue hsub =>
      have hdaz : env.daz = true ∧ t.flushes = true ∧ isSubnormal t x = true := by simpa [and_assoc] using hsub
      obtain ⟨daz, flushes, sub⟩ := hdaz
      have tiny : t.magOf x < 2 ^ t.mbits := by
        simp only [isSubnormal, Bool.and_eq_true, decide_eq_true_eq] at sub
        exact (Nat.div_eq_zero_iff_lt (by positivity)).mp sub.1.1
      obtain ⟨mag, sign⟩ := factor_signBit ht (t.negOf x)
      have is := fpVal_is (t := t) (x := t.signBit (t.negOf x)) (by rw [mag]; exact Nat.zero_le _)
      rw [value, if_pos ⟨daz, flushes, tiny⟩]
      rwa [mag, zero, neg_zero, ite_self] at is
    case isFalse hsub =>
      obtain ⟨mag, sign⟩ := factor_mod ht x
      have is := fpVal_is (t := t) (x := x % 2 ^ t.bits) (by rw [mag]; exact small)
      rw [mag, sign] at is
      by_cases hflush : env.daz = true ∧ t.flushes = true ∧ t.magOf x < 2 ^ t.mbits
      · have none : t.magOf x = 0 := by
          by_contra hne
          refine hsub ?_
          simp [isSubnormal, hflush, hne, (factor_signed ht).2.2.1, Nat.div_eq_of_lt hflush.2.2]
        rw [value, if_pos hflush]
        rwa [none, zero, neg_zero, ite_self] at is
      · rwa [value, if_neg hflush]
  obtain ⟨neg, m, e, hfin, hval⟩ := source.fin
  rw [mmaSource]
  simp only [hfin]
  rw [← hval]
  exact FpVal.is_fin neg m e

end

/-- R135: a block scale up to the largest code of its format is the number of its grid. -/
theorem mmaSource_scale {env : FpEnv} {t : Ty} (ht : t = .e3m5 ∨ t = .e8m0) {x : Nat} (hx : x ≤ t.maxCode) :
    (mmaSource env t x).Is (t.grid x) := by
  have facts : t.flushes = false ∧ t.signed = false ∧ t.maxCode < 2 ^ t.bits := by rcases ht with rfl | rfl <;> decide
  obtain ⟨noFlush, unsigned, fits⟩ := facts
  have code : x % 2 ^ t.bits = x := Nat.mod_eq_of_lt (Nat.lt_of_le_of_lt hx fits)
  have mag : t.magOf x = x := by simp [Ty.magOf, unsigned, code]
  have is := fpVal_is (t := t) (x := x) (by rw [mag]; exact hx)
  rw [mag, Ty.negOf, unsigned, Bool.false_and, if_neg Bool.false_ne_true] at is
  obtain ⟨neg, m, e, hfin, hval⟩ := is.fin
  rw [mmaSource]
  simp only [FpEnv.source, noFlush, Bool.and_false, Bool.false_and, if_neg Bool.false_ne_true, code, hfin]
  rw [← hval]
  exact FpVal.is_fin neg m e

end Sys2Proof
end


section
/-! PROOF. Exact sums of products (R137): what is representable is kept by rounding, so that an element is the exact sum. -/

namespace Sys2Proof

/-! ### Rounding of a value that the format has -/

/-- R119: a magnitude that is a whole number of units is kept. -/
theorem quantize_exact {m K : Nat} {e q : Int} (h : (m : ℚ) * 2 ^ e = K * 2 ^ q) (neg : Bool) :
    quantize 0 0 neg ⟨m, e, false⟩ q = (K, false) := by
  have none : ∀ kept sh, goesUp 0 0 neg false kept 0 sh = false := fun kept sh => by
    simp [goesUp, (Nat.two_pow_pos sh).ne]
  have two : (2 : ℚ) ≠ 0 := by norm_num
  by_cases hq : q ≤ e
  · have units : m * 2 ^ (e - q).toNat = K := by
      have split : (2 : ℚ) ^ e = 2 ^ (e - q).toNat * 2 ^ q := by
        rw [← zpow_natCast, Int.toNat_of_nonneg (by omega), ← zpow_add₀ two]; congr 1; omega
      rw [split, ← mul_assoc] at h
      exact_mod_cast mul_right_cancel₀ (zpow_ne_zero q two) h
    rw [quantize, if_pos hq, none, units]
    rfl
  · have units : m = K * 2 ^ (q - e).toNat := by
      have split : (2 : ℚ) ^ q = 2 ^ (q - e).toNat * 2 ^ e := by
        rw [← zpow_natCast, Int.toNat_of_nonneg (by omega), ← zpow_add₀ two]; congr 1; omega
      rw [split, ← mul_assoc] at h
      exact_mod_cast mul_right_cancel₀ (zpow_ne_zero e two) h
    have pos : 0 < 2 ^ (q - e).toNat := Nat.two_pow_pos _
    rw [quantize, if_neg hq]
    simp only [units, Nat.mul_div_cancel _ pos, Nat.mul_mod_left, none]
    rfl

/-- The exponent of a magnitude. -/
theorem magnitude_bounds {m : Nat} (hm : m ≠ 0) (e : Int) :
    (2 : ℚ) ^ (e + m.log2) ≤ m * 2 ^ e ∧ (m : ℚ) * 2 ^ e < 2 ^ (e + m.log2 + 1) := by
  have two : (2 : ℚ) ≠ 0 := by norm_num
  have pos : (0 : ℚ) < 2 ^ e := by positivity
  have low : (2 : ℚ) ^ m.log2 ≤ m := by exact_mod_cast Nat.log2_self_le hm
  have high : (m : ℚ) < 2 ^ (m.log2 + 1) := by exact_mod_cast Nat.lt_log2_self
  constructor
  · rw [zpow_add₀ two, mul_comm, zpow_natCast]
    exact mul_le_mul_of_nonneg_right low pos.le
  · rw [add_assoc, zpow_add₀ two, mul_comm ((2 : ℚ) ^ e)]
    exact mul_lt_mul_of_pos_right (by exact_mod_cast high) pos

/-- R117: a number of `.f32` in units of its last place: of the least place below 2^23, else of that of its binade. -/
theorem grid_units (c : Nat) : Ty.f32.grid c = if c < 2 ^ 23 then (c : ℚ) * 2 ^ (-149 : Int)
    else (2 ^ 23 + c % 2 ^ 23 : Nat) * 2 ^ ((c / 2 ^ 23 : Nat) - 150 : Int) := by
  have mantissa : Ty.f32.mbits = 23 := rfl
  rw [Ty.grid, if_neg (by decide), mantissa]
  by_cases hc : c < 2 ^ 23
  · rw [if_pos hc, if_pos (Nat.div_eq_of_lt hc), Nat.mod_eq_of_lt hc]
    rfl
  · rw [if_neg hc, if_neg (by omega)]
    have place : ((c / 2 ^ 23 : Nat) : Int) - Ty.f32.bias - (23 : Nat) = (c / 2 ^ 23 : Nat) - 150 := by
      simp only [Ty.bias]; omega
    rw [place]
    push_cast
    rfl

/-- R119, R128: a value that `.f32` has is rounded to itself. -/
theorem roundFp_exact {env : FpEnv} (hftz : env.ftz = false) {m c : Nat} {e : Int} (hm : m ≠ 0) (hc : c ≤ Ty.f32.maxCode)
    (h : (m : ℚ) * 2 ^ e = Ty.f32.grid c) (neg : Bool) :
    (roundFp env .f32 0 0 false neg ⟨m, e, false⟩).bits = Ty.f32.signBit neg + c := by
  obtain ⟨low, high⟩ := magnitude_bounds hm e
  have one : (1 : ℚ) < 2 := by norm_num
  have exponents : ∃ K : Nat, ∃ q : Int, (m : ℚ) * 2 ^ e = K * 2 ^ q ∧ max (e + m.log2) Ty.f32.emin - Ty.mbits .f32 = q ∧
      (e + m.log2 - Ty.f32.emin).toNat * 2 ^ Ty.mbits .f32 + K = c := by
    rw [h, grid_units] at low high
    rw [h, grid_units]
    simp only [Ty.emin, Ty.bias, Ty.mbits]
    by_cases hsub : c < 2 ^ 23
    · rw [if_pos hsub] at low high ⊢
      have below : (c : ℚ) * 2 ^ (-149 : Int) < 2 ^ (-126 : Int) := by
        calc (c : ℚ) * 2 ^ (-149 : Int) < 2 ^ 23 * 2 ^ (-149 : Int) :=
              mul_lt_mul_of_pos_right (by exact_mod_cast hsub) (by positivity)
          _ = 2 ^ (-126 : Int) := by norm_num
      have small := (zpow_lt_zpow_iff_right₀ one).mp (lt_of_le_of_lt low below)
      exact ⟨c, -149, rfl, by omega, by omega⟩
    · rw [if_neg hsub] at low high ⊢
      generalize hq : ((c / 2 ^ 23 : Nat) - 150 : Int) = q at low high ⊢
      have lead : (2 : ℚ) ^ 23 ≤ (2 ^ 23 + c % 2 ^ 23 : Nat) ∧ ((2 ^ 23 + c % 2 ^ 23 : Nat) : ℚ) < 2 ^ 24 := by
        constructor
        · exact_mod_cast Nat.le_add_right _ _
        · have : 2 ^ 23 + c % 2 ^ 23 < 2 ^ 24 := by omega
          exact_mod_cast this
      have pos : (0 : ℚ) < 2 ^ q := by positivity
      have above : (2 : ℚ) ^ (q + 23) ≤ (2 ^ 23 + c % 2 ^ 23 : Nat) * 2 ^ q := by
        rw [zpow_add₀ (by norm_num), mul_comm]
        exact mul_le_mul_of_nonneg_right lead.1 pos.le
      have under : ((2 ^ 23 + c % 2 ^ 23 : Nat) : ℚ) * 2 ^ q < 2 ^ (q + 24) := by
        rw [zpow_add₀ (by norm_num), mul_comm ((2 : ℚ) ^ q)]
        exact mul_lt_mul_of_pos_right lead.2 pos
      have h1 := (zpow_lt_zpow_iff_right₀ one).mp (lt_of_le_of_lt low under)
      have h2 := (zpow_lt_zpow_iff_right₀ one).mp (lt_of_le_of_lt above high)
      exact ⟨2 ^ 23 + c % 2 ^ 23, q, rfl, by omega, by omega⟩
  obtain ⟨K, q, units, place, code⟩ := exponents
  rw [roundFp, if_neg (by decide), if_neg hm, if_neg (by simp [Ty.signed])]
  simp only [place, quantize_exact units, code]
  rw [if_neg (Nat.not_lt.mpr hc)]
  simp [hftz]

/-- R137: a value that `.f32` has is kept by the rounding of the accumulator. -/
theorem mmaRound_is {env : FpEnv} (hftz : env.ftz = false) {v : FpVal} {y : ℚ} (hv : v.Is y)
    (held : ∃ x neg, Ty.f32.number false x = some (neg, y)) : (fpVal .f32 (mmaRound env v)).Is y := by
  have f32 : Ty.f32 ∈ factorTypes := by decide
  obtain ⟨neg, m, e, rfl, hval⟩ := hv.fin
  obtain ⟨x, sign, hx⟩ := held
  rw [FpVal.exact_val] at hval
  rw [mmaRound]
  by_cases hm : m = 0
  · have zero : y = 0 := by rw [← hval, hm]; simp
    have bits : (roundFp env .f32 0 0 false neg ⟨m, e, false⟩).bits = Ty.f32.signBit neg := by
      rw [roundFp, if_neg (by decide), if_pos hm]
    rw [bits, zero]
    exact ⟨neg, by rw [fpVal_signBit (by decide), FpVal.number, (FpVal.exact_val_eq_zero _ 0 _).mpr rfl]⟩
  · have top : Ty.f32.bits - 1 = 31 := rfl
    rw [Ty.number, top] at hx
    have small : x % 2 ^ 31 ≤ Ty.f32.maxCode := by
      by_contra hmore
      rw [if_pos (Nat.lt_of_not_le hmore)] at hx
      cases hx
    have value : y = Ty.f32.grid (x % 2 ^ 31) ∨ y = -Ty.f32.grid (x % 2 ^ 31) := by
      rw [if_neg (Nat.not_lt.mpr small)] at hx
      have := (Prod.mk.inj (Option.some.inj hx)).2
      simp only [Bool.false_eq_true, false_and, if_false] at this
      split at this
      · exact .inr this.symm
      · exact .inl this.symm
    generalize x % 2 ^ 31 = c at small value
    have nonneg : 0 ≤ Ty.f32.grid c := by
      rw [grid_units]
      split <;> positivity
    have magPos : (0 : ℚ) < m * 2 ^ e := by
      have : (0 : ℚ) < m := by exact_mod_cast Nat.pos_of_ne_zero hm
      positivity
    have mag : (m : ℚ) * 2 ^ e = Ty.f32.grid c := by
      cases neg
      · rw [if_neg Bool.false_ne_true] at hval
        rcases value with h | h <;> linarith
      · rw [if_pos rfl] at hval
        rcases value with h | h <;> linarith
    rw [roundFp_exact hftz hm small mag neg]
    have layout : Ty.f32.magOf (Ty.f32.signBit neg + c) = c ∧ Ty.f32.negOf (Ty.f32.signBit neg + c) = neg := by
      have hc : c < 2 ^ 31 := Nat.lt_of_le_of_lt small (by decide)
      rw [factor_mag f32, factor_neg f32]
      cases neg
      · simp only [Ty.signBit, Ty.bits, Bool.false_and, Bool.false_eq_true, if_false]
        exact ⟨by omega, by rw [decide_eq_false_iff_not]; omega⟩
      · simp only [Ty.signBit, Ty.signed, Ty.bits, Bool.and_self, if_true]
        exact ⟨by omega, by rw [decide_eq_true_eq]; omega⟩
    have is := fpVal_is (t := .f32) (x := Ty.f32.signBit neg + c) (by rw [layout.1]; exact small)
    rw [layout.1, layout.2, ← mag, hval] at is
    exact is

/-! ### Sums and products -/

theorem is_of_mem {vs : List FpVal} {ys : List ℚ} (h : List.Forall₂ FpVal.Is vs ys) {v : FpVal} (hv : v ∈ vs) :
    ∃ y, v.Is y := by
  induction h with
  | nil => exact absurd hv List.not_mem_nil
  | cons hx _ ih =>
    rcases List.mem_cons.mp hv with rfl | hv
    · exact ⟨_, hx⟩
    · exact ih hv

theorem find_nan_none {vs : List FpVal} {ys : List ℚ} (h : List.Forall₂ FpVal.Is vs ys) : vs.find? (·.isNan) = none :=
  List.find?_eq_none.mpr fun v hv => by
    obtain ⟨y, is⟩ := is_of_mem h hv
    rw [is.not_nan]; exact Bool.false_ne_true

theorem Exact.val_add (x y : Exact) : (x.add y).val = x.val + y.val := by
  rw [Exact.val_eq (min_le_left x.e y.e), Exact.val_eq (min_le_right x.e y.e), Exact.add, Exact.val]
  push_cast
  ring

theorem foldl_exact {vs : List FpVal} {ys : List ℚ} (h : List.Forall₂ FpVal.Is vs ys) (x : Exact) :
    (vs.foldl (fun (x : Exact) v => x.add v.exact) x).val = x.val + ys.sum := by
  induction h generalizing x with
  | nil => simp
  | cons hv _ ih =>
    obtain ⟨neg, m, e, rfl, hval⟩ := hv.fin
    rw [List.foldl_cons, ih, Exact.val_add, hval, List.sum_cons, add_assoc]

/-- R137: the sum of numbers is exact. -/
theorem mmaSum_is {vs : List FpVal} {ys : List ℚ} (h : List.Forall₂ FpVal.Is vs ys) : (mmaSum vs).Is ys.sum := by
  rw [mmaSum, find_nan_none h]
  dsimp only
  split
  next v tail heq =>
    obtain ⟨hv, hinf⟩ := List.mem_filter.mp (heq ▸ List.mem_cons_self : v ∈ vs.filter _)
    obtain ⟨y, is⟩ := is_of_mem h hv
    obtain ⟨neg, m, e, rfl, -⟩ := is.fin
    exact absurd hinf Bool.false_ne_true
  have exact := foldl_exact h ⟨0, 0⟩
  generalize vs.foldl (fun (x : Exact) v => x.add v.exact) ⟨0, 0⟩ = x at exact ⊢
  have zero : Exact.val ⟨0, 0⟩ = 0 := by simp [Exact.val]
  rw [zero, zero_add] at exact
  rw [← exact]
  have value : ∀ neg, (x.n ≠ 0 → neg = decide (x.n < 0)) → (FpVal.fin neg x.n.natAbs x.e).exact.val = x.val := fun neg hneg => by
    rw [FpVal.exact_val, Exact.val]
    by_cases hn : x.n = 0
    · simp [hn]
    · rw [hneg hn]
      by_cases hlt : x.n < 0
      · have : ((x.n.natAbs : Nat) : ℚ) = -(x.n : ℚ) := by
          rw [Nat.cast_natAbs, abs_of_neg hlt]; push_cast; rfl
        simp [hlt, this]
      · have : ((x.n.natAbs : Nat) : ℚ) = (x.n : ℚ) := by
          rw [Nat.cast_natAbs, abs_of_nonneg (Int.not_lt.mp hlt)]
        simp [hlt, this]
  rw [← value _ fun hn => if_neg hn]
  exact FpVal.is_fin _ _ _

theorem prodVal_is {x y : FpVal} {a b : ℚ} (hx : x.Is a) (hy : y.Is b) : ∃ v, prodVal x y = some v ∧ v.Is (a * b) := by
  obtain ⟨n, m, e, rfl, rfl⟩ := hx.fin
  obtain ⟨k, p, f, rfl, rfl⟩ := hy.fin
  refine ⟨.fin (n != k) (m * p) (e + f), rfl, ?_⟩
  have value : (FpVal.fin (n != k) (m * p) (e + f)).exact.val = (FpVal.fin n m e).exact.val * (FpVal.fin k p f).exact.val := by
    simp only [FpVal.exact_val]
    rw [zpow_add₀ (by norm_num)]
    push_cast
    cases n <;> cases k <;> simp <;> ring
  rw [← value]
  exact FpVal.is_fin _ _ _

/-- R137: the product of numbers is exact. -/
theorem mmaProd_is {env : FpEnv} {a b : FpVal} {scales : List FpVal} {x y : ℚ} {us : List ℚ} (ha : a.Is x) (hb : b.Is y)
    (hs : List.Forall₂ FpVal.Is scales us) : (mmaProd env a b scales).Is (x * y * us.prod) := by
  have factors : List.Forall₂ FpVal.Is (b :: scales) (y :: us) := .cons hb hs
  have noNan : (if env.nanOut = 2 then b :: a :: scales else a :: b :: scales).find? (·.isNan) = none := by
    split
    · exact find_nan_none (.cons hb (.cons ha hs))
    · exact find_nan_none (.cons ha factors)
  rw [mmaProd, noNan]
  dsimp only [List.tail_cons]
  rw [mul_assoc, ← List.prod_cons]
  clear noNan
  generalize b :: scales = vs at factors
  generalize y :: us = ys at factors
  induction factors generalizing a x with
  | nil => simpa using ha
  | cons hv _ ih =>
    obtain ⟨v, hprod, is⟩ := prodVal_is ha hv
    rw [List.foldl_cons, ha.not_nan, if_neg Bool.false_ne_true, hprod, List.prod_cons, ← mul_assoc]
    exact ih is

/-! ### The product of two rows -/

/-- `.f32` has the number `y`. -/
def Held (y : ℚ) : Prop := ∃ x neg, Ty.f32.number false x = some (neg, y)

/-- R137: the groups' sums, when `.f32` has each sum on the way. -/
theorem foldl_groups_is {env : FpEnv} (hftz : env.ftz = false) {g : Nat} (hg : 0 < g) (fuel : Nat) {vs : List FpVal} {ys : List ℚ}
    (hfuel : vs.length ≤ fuel) (h : List.Forall₂ FpVal.Is vs ys) {acc : FpVal} {a : ℚ} (hacc : acc.Is a)
    (held : ∀ t, Held (a + (ys.take (t * g)).sum)) :
    ((groupsOf g fuel vs).foldl (fun acc ps => fpVal .f32 (mmaRound env (mmaSum [acc, mmaSum ps]))) acc).Is (a + ys.sum) := by
  induction fuel generalizing vs ys acc a with
  | zero =>
    obtain rfl := List.length_eq_zero_iff.mp (Nat.le_zero.mp hfuel)
    cases h
    simpa [groupsOf] using hacc
  | succ n ih =>
    cases vs with
    | nil =>
      cases h
      simpa [groupsOf] using hacc
    | cons v rest =>
      rw [groupsOf]
      · have first := mmaSum_is (List.Forall₂.cons hacc (.cons (mmaSum_is (List.forall₂_take g h)) .nil))
        simp only [List.sum_cons, List.sum_nil, add_zero] at first
        have kept := mmaRound_is hftz first (one_mul g ▸ held 1)
        have shorter : ((v :: rest).drop g).length ≤ n := by
          rw [List.length_drop]
          simp only [List.length_cons] at hfuel ⊢
          omega
        rw [List.foldl_cons]
        have later := ih shorter (List.forall₂_drop g h) kept fun t => by
          have sum : a + (ys.take g).sum + ((ys.drop g).take (t * g)).sum = a + (ys.take ((t + 1) * g)).sum := by
            rw [Nat.succ_mul, Nat.add_comm (t * g) g, List.take_add, List.sum_append, add_assoc]
          rw [sum]
          exact held (t + 1)
        rwa [add_assoc, List.sum_take_add_sum_drop] at later
      · exact fun h => nomatch h

/-- R137: an element is the exact sum of its products, times the band scales, plus c, when `.f32` has every sum on the way. -/
theorem mmaDot_is {env : FpEnv} (hftz : env.ftz = false) {g : Nat} (hg : 0 < g) {vs : List FpVal} {ys : List ℚ}
    (h : List.Forall₂ FpVal.Is vs ys) {bandA bandB c : FpVal} {p q z : ℚ} (hp : bandA.Is p) (hq : bandB.Is q) (hc : c.Is z)
    (sums : ∀ t, Held (ys.take (t * g)).sum) (scaled : Held (ys.sum * p * q)) (last : Held (ys.sum * p * q + z)) :
    (fpVal .f32 (mmaDot env g vs bandA bandB c)).Is (ys.sum * p * q + z) := by
  have zero : (FpVal.fin false 0 0).Is 0 := ⟨false, by simp [FpVal.number, FpVal.exact_val]⟩
  have acc := foldl_groups_is hftz hg vs.length le_rfl h zero (by simpa using sums)
  rw [zero_add] at acc
  have prod := mmaProd_is (env := env) acc hp (.cons hq .nil)
  rw [List.prod_cons, List.prod_nil, mul_one] at prod
  have sum := mmaSum_is (List.Forall₂.cons (mmaRound_is hftz prod scaled) (.cons hc .nil))
  rw [List.sum_cons, List.sum_cons, List.sum_nil, add_zero] at sum
  exact mmaRound_is hftz sum last

end Sys2Proof
end


section
/-! PROOF. The collective product (R303 to R306): what `mma` does over a lane space, and O38. -/

namespace Sys2Proof.Machine

/-! ### What `mma` does, as a function of its lane space -/

/-- What `mma` does over a lane space. -/
def mmaBody (o : Ops) (c : SetCtx) (s : State) : SetRes :=
  let q := c.quad o
  let k := c.rowLen o
  let lanes := c.actives o
  if !q.ok || (o.sat && decide (q.a ≠ .i8)) then .trap s 0x02 11 (c.masks o)
  else if lanes = [] then .done s []
  else if c.scalesOver q k then .trap s 0x02 11 (c.masks o)
  else if c.scalesOwned s q k then .wait s
  else if c.scalesBad q k then .trap s 0x18 3 (c.masks o)
  else
    let bad := lanes.map (fun l => (l, c.mmaFault o q k l))
    let m6 := faultLanes bad .mismatch
    let m7 := faultLanes bad .overflow
    if m6 ≠ [] then .trap s 0x06 0 (c.split m6)
    else if m7 ≠ [] then .trap s 0x07 0 (c.split m7)
    else .done s (c.members.map (fun m => (m.2.tid,
      (lanes.filter (fun l => l / c.width = m.1)).flatMap (fun l => c.mmaLane o q k l))))

theorem exec_mma (o : Ops) (s : State) : exec (.mma o) s = issueCross s (.mma o) o (mmaBody o) := rfl

theorem Env.SameIn.mat {f g : Env} (h : f.SameIn g) (d : Opd) (l : Nat) : g.mat d l = f.mat d l := by
  rw [Env.mat, Env.mat, h.regs]

section
variable {c : SetCtx} {φ : Env → Env} (same : ∀ f : Env, f.SameIn (φ f))
include same

theorem SetCtx.quad_mapEnv (o : Ops) : (c.mapEnv φ).quad o = c.quad o := by
  have regs : (c.mapEnv φ).leader.th.regs = c.leader.th.regs := (same c.leader).regs
  rw [SetCtx.quad, SetCtx.quad, regs]

theorem SetCtx.rowLen_mapEnv (o : Ops) : (c.mapEnv φ).rowLen o = c.rowLen o := by
  rw [SetCtx.rowLen, SetCtx.rowLen, SetCtx.actives_mapEnv same]
  cases (c.actives o).head? with
  | none => rfl
  | some l =>
    simp only [SetCtx.member_mapEnv]
    cases c.member l with
    | none => rfl
    | some p => simp only [Option.map_some, (same p.1).mat]

theorem SetCtx.leaderBlk_mapEnv : (c.mapEnv φ).leader.blk = { c.leader.blk with rends := (c.mapEnv φ).leader.blk.rends } :=
  (same c.leader).blk

theorem SetCtx.scalesOver_mapEnv (q : Quad) (k : Nat) : (c.mapEnv φ).scalesOver q k = c.scalesOver q k := by
  have la : (c.mapEnv φ).leader.la = c.leader.la := (same c.leader).la
  rw [SetCtx.scalesOver, SetCtx.scalesOver, SetCtx.leaderBlk_mapEnv same, la]
  rfl

theorem SetCtx.scalesBad_mapEnv (q : Quad) (k : Nat) : (c.mapEnv φ).scalesBad q k = c.scalesBad q k := by
  rw [SetCtx.scalesBad, SetCtx.scalesBad, SetCtx.leaderBlk_mapEnv same]
  rfl

theorem SetCtx.scalesOwned_mapEnv (s : State) (q : Quad) (k : Nat) :
    (c.mapEnv φ).scalesOwned s q k = c.scalesOwned s q k := by
  have block : (c.mapEnv φ).leader.th.block = c.leader.th.block := (same c.leader).block
  rw [SetCtx.scalesOwned, SetCtx.scalesOwned, block]
  rfl

theorem SetCtx.mmaFault_mapEnv (o : Ops) (q : Quad) (k l : Nat) :
    (c.mapEnv φ).mmaFault o q k l = c.mmaFault o q k l := by
  rw [SetCtx.mmaFault, SetCtx.mmaFault, SetCtx.member_mapEnv]
  cases c.member l with
  | none => rfl
  | some p =>
    simp only [Option.map_some, (same p.1).mat, (same p.1).regs, (same p.1).la]
    rfl

theorem SetCtx.mmaEl_mapEnv (o : Ops) (q : Quad) (k i j c0 : Nat) :
    (c.mapEnv φ).mmaEl o q k i j c0 = c.mmaEl o q k i j c0 := by
  have scales : (c.mapEnv φ).rowScales = c.rowScales := by
    funext env q k off i
    rw [SetCtx.rowScales, SetCtx.rowScales, SetCtx.leaderBlk_mapEnv same]
  have fp : (c.mapEnv φ).leader.fp = c.leader.fp := (same c.leader).fp
  rw [SetCtx.mmaEl, SetCtx.mmaEl, SetCtx.active_mapEnv same, SetCtx.member_mapEnv, SetCtx.member_mapEnv, scales, fp]
  cases c.member i with
  | none => rfl
  | some p =>
    cases c.member j with
    | none => rfl
    | some r => simp only [Option.map_some, (same p.1).mat, (same r.1).mat]

theorem SetCtx.mmaLane_mapEnv (o : Ops) (q : Quad) (k i : Nat) : (c.mapEnv φ).mmaLane o q k i = c.mmaLane o q k i := by
  rw [SetCtx.mmaLane, SetCtx.mmaLane, SetCtx.member_mapEnv]
  cases c.member i with
  | none => rfl
  | some p =>
    simp only [Option.map_some, (same p.1).regs, SetCtx.mmaEl_mapEnv same]
    rfl

theorem SetCtx.split_mapEnv (lanes : List Nat) : (c.mapEnv φ).split lanes = c.split lanes := by
  rw [SetCtx.split, SetCtx.split, SetCtx.mapEnv, List.map_map]
  exact List.map_congr_left fun m _ => by simp only [Function.comp, (same m.2).tid]

/-- What `mma` does is the same while the rendezvous executes. -/
theorem mmaBody_mapEnv (o : Ops) (s : State) : mmaBody o (c.mapEnv φ) s = mmaBody o c s := by
  have members : ∀ g : Nat × Env → List RegVal, (∀ j f, g (j, φ f) = g (j, f)) →
      (c.mapEnv φ).members.map (fun m => (m.2.tid, g m)) = c.members.map fun m => (m.2.tid, g m) := fun g hg => by
    rw [SetCtx.mapEnv, List.map_map]
    exact List.map_congr_left fun m _ => by simp only [Function.comp, (same m.2).tid, hg]
  have lanes := members (fun m => ((c.actives o).filter (fun l => l / c.width = m.1)).flatMap fun l =>
    c.mmaLane o (c.quad o) (c.rowLen o) l) fun _ _ => rfl
  simp only [mmaBody, SetCtx.quad_mapEnv same, SetCtx.rowLen_mapEnv same, SetCtx.actives_mapEnv same,
    SetCtx.masks_mapEnv same, SetCtx.scalesOver_mapEnv same, SetCtx.scalesOwned_mapEnv same,
    SetCtx.scalesBad_mapEnv same, SetCtx.mmaFault_mapEnv same, SetCtx.mmaLane_mapEnv same, SetCtx.split_mapEnv same]
  simp only [← lanes]
  rfl

end

/-! ### The space of the product -/

theorem SetCtx.member_of_active {c : SetCtx} {o : Ops} {l : Nat} (h : c.active o l = true) : ∃ m x, c.member l = some (m, x) := by
  rw [SetCtx.active] at h
  cases hm : c.member l with
  | none => simp [hm] at h
  | some p => exact ⟨p.1, p.2, rfl⟩

section
variable {s : State} {i : Instr} {o : Ops} {e : Env} {c : SetCtx} (h : s.crosses i o e c)
include h

theorem State.crosses.width : c.width = e.th.width := by
  rcases h with ⟨-, -, rfl⟩ | ⟨set, base, all, harr, hc⟩
  · rfl
  · exact (setCtx_some harr.named hc).2.2.1

/-- Every member belongs to one launch. -/
theorem State.crosses.member_la {l x : Nat} {m : Env} (hm : c.member l = some (m, x)) : m.la = c.leader.la := by
  rcases h with ⟨-, -, rfl⟩ | ⟨set, base, all, harr, hc⟩
  · obtain ⟨p, hp, heq⟩ := Option.map_eq_some_iff.mp hm
    have : p = (0, e) := List.mem_singleton.mp (List.mem_of_find?_eq_some hp)
    rw [← (Prod.mk.inj heq).1, this]
    rfl
  · obtain ⟨hall, henv, live, -⟩ := SetCtx.rank_of_member harr.named hc hm
    obtain ⟨-, -, -, -, -, j, head⟩ := setCtx_some harr.named hc
    have lead := harr.member hc (List.mem_of_mem_head? head)
    have mem := harr.member hc ((mem_members harr.named hc _ m).mpr ⟨hall, henv, live⟩)
    have leadEnv := ((mem_members harr.named hc j c.leader).mp (List.mem_of_mem_head? head)).2.1
    obtain ⟨blk, la⟩ := envOf_block henv
    obtain ⟨blk', la'⟩ := envOf_block leadEnv
    rw [mem.1] at blk
    rw [lead.1, blk] at blk'
    rw [← Option.some.inj blk', la] at la'
    exact Option.some.inj la'

end

/-- A lane is in a mask when it is one of its lanes. -/
theorem getLsbD_maskOf (lanes : List Nat) {x : Nat} (hx : x < 64) : (maskOf lanes).getLsbD x = decide (x ∈ lanes) := by
  have bits : ∀ (l : List Nat) (m : Nat), (l.foldl (fun m l => m ||| 2 ^ l) m).testBit x = (m.testBit x || decide (x ∈ l)) := by
    intro l
    induction l with
    | nil => simp
    | cons y rest ih =>
      intro m
      rw [List.foldl_cons, ih, Nat.testBit_or, Nat.testBit_two_pow]
      by_cases hxy : x = y <;> simp [hxy, eq_comm]
  rw [maskOf, BitVec.getLsbD_ofNat, bits]
  simp [hx]

/-- The mask of a member in a split of lanes of the space. -/
theorem SetCtx.getLsbD_split {c : SetCtx} (hn : (c.members.map (·.2.tid)).Nodup) (lanes : List Nat) {j x : Nat} {m : Env}
    (hm : (j, m) ∈ c.members) (hw : 0 < c.width) (hx : x < 64) : (outcomeFor (c.split lanes) 0 m.tid).getLsbD x = true ↔
      x < c.width ∧ j * c.width + x ∈ lanes := by
  have mine := outcomeFor_map c.members hn
    (fun m => maskOf ((lanes.filter (fun l => l / c.width = m.1)).map (· % c.width))) 0 hm
  rw [SetCtx.split, mine, getLsbD_maskOf _ hx, decide_eq_true_eq, List.mem_map]
  constructor
  · rintro ⟨l, hl, rfl⟩
    obtain ⟨hl, hj⟩ := List.mem_filter.mp hl
    refine ⟨Nat.mod_lt _ hw, ?_⟩
    have rank : l / c.width = j := of_decide_eq_true hj
    rw [← rank, Nat.mul_comm, Nat.div_add_mod]
    exact hl
  · rintro ⟨hlt, hl⟩
    refine ⟨_, List.mem_filter.mpr ⟨hl, ?_⟩, ?_⟩
    · rw [decide_eq_true_eq, Nat.mul_comm, Nat.mul_add_div hw, Nat.div_eq_of_lt hlt, Nat.add_zero]
    · rw [Nat.mul_comm, Nat.mul_add_mod, Nat.mod_eq_of_lt hlt]

/-! ### Faults of a lane (R304) -/

/-- A row of `n` elements of a type. -/
def IsRow (m : Mat) (n : Nat) (t : Ty) : Prop := m.rows = 1 ∧ m.cols = n ∧ m.ty = t

theorem laneFault_mismatch (a b : Bool) : laneFault a b = some .mismatch ↔ a = true := by cases a <;> cases b <;> decide
theorem laneFault_overflow (a b : Bool) : laneFault a b = some .overflow ↔ ¬ a = true ∧ b = true := by
  cases a <;> cases b <;> decide

/-- The rows of the lane are as the product wants them. -/
def RowsMatch (c : SetCtx) (o : Ops) (q : Quad) (k : Nat) (m : Env) (x : Nat) : Prop :=
  IsRow (m.mat o.a x) k q.a ∧ IsRow (m.mat o.b x) k q.b ∧
    (o.xmod % 2 = 1 → ∀ t, t < c.size → IsRow (m.th.regs.matrix (matNo o.dst + t) x) c.width q.acc)

/-- The result of a lane does not fit. -/
def RowSmall (c : SetCtx) (o : Ops) (m : Env) : Prop := ∃ t, t < c.size ∧ m.la.obj.caps.getD (matNo o.dst + t) 0 < c.width

section
variable {c : SetCtx} {o : Ops} {q : Quad} {k l x : Nat} {m : Env} (hm : c.member l = some (m, x))

theorem rowsMatch_iff : (!(decide ((m.mat o.a x).rows = 1) && decide ((m.mat o.a x).cols = k) && decide ((m.mat o.a x).ty = q.a)) ||
      !(decide ((m.mat o.b x).rows = 1) && decide ((m.mat o.b x).cols = k) && decide ((m.mat o.b x).ty = q.b)) ||
      (decide (o.xmod % 2 = 1) && !(List.range c.size).all fun t =>
        decide ((m.th.regs.matrix (matNo o.dst + t) x).rows = 1) && decide ((m.th.regs.matrix (matNo o.dst + t) x).cols = c.width) &&
          decide ((m.th.regs.matrix (matNo o.dst + t) x).ty = q.acc))) = true ↔ ¬ RowsMatch c o q k m x := by
  have isRow : ∀ (r : Mat) (t : Ty) (n : Nat), (decide (r.rows = 1) && decide (r.cols = n) && decide (r.ty = t)) = true ↔
      IsRow r n t := fun r t n => by simp [IsRow, and_assoc]
  simp only [Bool.or_eq_true, Bool.not_eq_true', Bool.and_eq_true (a := decide (o.xmod % 2 = 1)), decide_eq_true_eq,
    ← Bool.not_eq_true, isRow, List.all_eq_true, List.mem_range, RowsMatch]
  tauto

include hm

theorem mmaFault_mismatch : c.mmaFault o q k l = some .mismatch ↔ ¬ RowsMatch c o q k m x := by
  rw [← rowsMatch_iff, SetCtx.mmaFault, hm]
  exact laneFault_mismatch _ _

theorem mmaFault_overflow : c.mmaFault o q k l = some .overflow ↔ RowsMatch c o q k m x ∧ RowSmall c o m := by
  have small : ((List.range c.size).any fun t => decide (m.la.obj.caps.getD (matNo o.dst + t) 0 < c.width)) = true ↔
      RowSmall c o m := by
    simp only [List.any_eq_true, List.mem_range, decide_eq_true_eq, RowSmall]
  rw [← small, ← not_not (a := RowsMatch c o q k m x), ← rowsMatch_iff, SetCtx.mmaFault, hm]
  exact laneFault_overflow _ _

end

end Sys2Proof.Machine
end


section
/-! PROOF. The elements of the collective product (R305, R137), and O38. -/

namespace Sys2Proof

/-! ### Integer elements -/

/-- R116: a wrapped value counts as the value that it stands for. -/
theorem wrapTo_value_add (z y : Int) : wrapTo 32 (Ty.i32.value (wrapTo 32 z) + y) = wrapTo 32 (z + y) := by
  have value : ∃ k : Int, Ty.i32.value (wrapTo 32 z) = z + 2 ^ 32 * k := by
    have signed : Ty.i32.value (wrapTo 32 z) = signedOf 32 (wrapTo 32 z) := rfl
    have low : ((wrapTo 32 z % 2 ^ 32 : Nat) : Int) = z + 2 ^ 32 * -(z / 2 ^ 32) := by
      rw [wrapTo]; omega
    rw [signed, signedOf, low]
    by_cases h : wrapTo 32 z % 2 ^ 32 < 2 ^ (32 - 1)
    · exact ⟨_, if_pos h⟩
    · exact ⟨-(z / 2 ^ 32) - 1, by rw [if_neg h]; push_cast; ring⟩
  obtain ⟨k, hk⟩ := value
  rw [hk, wrapTo, wrapTo]
  omega

theorem foldl_wrap {g : Nat} (hg : 0 < g) (fuel : Nat) {prods : List Int} (hfuel : prods.length ≤ fuel) (z : Int) :
    (groupsOf g fuel prods).foldl (fun acc ps => wrapTo 32 (Ty.i32.value acc + ps.sum)) (wrapTo 32 z) =
      wrapTo 32 (z + prods.sum) := by
  induction fuel generalizing prods z with
  | zero =>
    obtain rfl := List.length_eq_zero_iff.mp (Nat.le_zero.mp hfuel)
    simp [groupsOf]
  | succ n ih =>
    cases prods with
    | nil => simp [groupsOf]
    | cons x rest =>
      rw [groupsOf]
      · have shorter : ((x :: rest).drop g).length ≤ n := by
          rw [List.length_drop]
          simp only [List.length_cons] at hfuel ⊢
          omega
        rw [List.foldl_cons, wrapTo_value_add, ih shorter, add_assoc, List.sum_take_add_sum_drop]
      · exact fun h => nomatch h

/-- R137: an `.i8` element without `.sat` is the exact sum, wrapped. -/
theorem mmaDotInt_wrap (prods : List Int) (c : Nat) : mmaDotInt false prods c = wrapTo 32 (prods.sum + Ty.i32.value c) := by
  have sums := foldl_wrap (g := 8) (by decide) prods.length le_rfl 0
  rw [zero_add] at sums
  have start : wrapTo 32 0 = 0 := by decide
  rw [start] at sums
  have fit : ∀ e, Ty.i32.fit false e = wrapTo 32 e := fun _ => rfl
  simp only [mmaDotInt, fit, sums, wrapTo_value_add]

/-! ### Float elements -/

/-- R134: the factors of a float product are of signed formats, and its groups hold something. -/
theorem Quad.ok_factors {q : Quad} (hok : q.ok = true) (ha : q.a ≠ .i8) : q.a ∈ factorTypes ∧ q.b ∈ factorTypes := by
  simp only [Quad.ok, ha, false_and, if_false, Bool.and_eq_true, Bool.or_eq_true, decide_eq_true_eq] at hok
  obtain ⟨-, -, hok⟩ := hok
  split at hok
  case isTrue hfp8 =>
    obtain ⟨h1, h2⟩ := hfp8
    rcases h1 with h1 | h1 <;> rcases h2 with h2 | h2 <;> rw [h1, h2] <;> decide
  case isFalse =>
    split at hok
    case isTrue => exact absurd hok Bool.false_ne_true
    case isFalse heq =>
      have heq := not_not.mp heq
      rw [← heq]
      split at hok
      case h_5 => exact absurd hok Bool.false_ne_true
      all_goals
        rename_i hty
        rw [hty]
        decide

theorem Quad.group_pos (q : Quad) : 0 < q.group := by
  rw [Quad.group]
  split
  · exact Nat.pos_of_ne_zero (by assumption)
  · split <;> decide

/-- R137: the scaled products of two rows are the numbers of `v`. -/
theorem terms_is {env : FpEnv} {q : Quad} {k : Nat} {as bs : List Nat} (ha : as.length = k) (hb : bs.length = k)
    {scaleA scaleB : Nat → FpVal} {v : Nat → ℚ}
    (h : ∀ p, p < k → ∃ x y u w, (mmaSource env q.a (as.getD p 0)).Is x ∧ (mmaSource env q.b (bs.getD p 0)).Is y ∧
      (q.len = 0 → u = 1 ∧ w = 1) ∧ (q.len ≠ 0 → (scaleA p).Is u ∧ (scaleB p).Is w) ∧ v p = x * y * u * w) :
    List.Forall₂ FpVal.Is ((as.zip bs).zipIdx.map fun p => mmaProd env (mmaSource env q.a p.1.1) (mmaSource env q.b p.1.2)
      (if q.len = 0 then [] else [scaleA p.2, scaleB p.2])) ((List.range k).map v) := by
  refine List.forall₂_iff_get.mpr ⟨by simp [ha, hb], fun p h1 h2 => ?_⟩
  have hp : p < k := by simpa using h2
  obtain ⟨x, y, u, w, hx, hy, plain, scaled, hv⟩ := h p hp
  have entryA : as.getD p 0 = as[p] := List.getD_eq_getElem _ _ (by omega)
  have entryB : bs.getD p 0 = bs[p] := List.getD_eq_getElem _ _ (by omega)
  rw [entryA] at hx
  rw [entryB] at hy
  simp only [List.get_eq_getElem, List.getElem_map, List.getElem_zipIdx, List.getElem_zip, List.getElem_range, Nat.zero_add]
  by_cases hlen : q.len = 0
  · obtain ⟨rfl, rfl⟩ := plain hlen
    have prod := mmaProd_is (env := env) hx hy .nil
    rw [if_pos hlen, hv, mul_one, mul_one]
    simpa using prod
  · obtain ⟨hu, hw⟩ := scaled hlen
    have prod := mmaProd_is (env := env) hx hy (.cons hu (.cons hw .nil))
    rw [List.prod_cons, List.prod_cons, List.prod_nil, mul_one, ← mul_assoc] at prod
    rwa [if_neg hlen, hv]

namespace Machine

/-- A row holds as many elements as it has columns. -/
theorem IsRow.length {r : Regs} {n l k : Nat} {t : Ty} (h : IsRow (r.matrix n l) k t) : (r.matrix n l).els.length = k := by
  have size : (r.matrix n l).els.length = (r.matrix n l).rows * (r.matrix n l).cols := by simp [Regs.matrix]
  rw [size, h.1, h.2.1, Nat.one_mul]

/-- R135: the scale of element `p` of row `i` of an operand. -/
def SetCtx.mmaScale (c : SetCtx) (q : Quad) (k off i p : Nat) : FpVal :=
  mmaSource c.leader.fp (if q.scale = 1 then .e3m5 else .e8m0)
    (NMap.get 0 c.leader.blk.scratch (off + i * Quad.perRow q k + p / q.len)).toNat

theorem getD_rowScales (c : SetCtx) {q : Quad} (hlen : q.len ≠ 0) {k p : Nat} (hp : p < k) (off i : Nat) :
    (c.rowScales c.leader.fp q k off i).getD (p / q.len) mmaNan = c.mmaScale q k off i p := by
  have inside : p / q.len < Quad.perRow q k := by
    rw [Quad.perRow, if_neg hlen]
    calc p / q.len < p / q.len + 1 := Nat.lt_succ_self _
      _ = (p + q.len) / q.len := (Nat.add_div_right p (Nat.pos_of_ne_zero hlen)).symm
      _ ≤ (k + q.len - 1) / q.len := Nat.div_le_div_right (by omega)
  rw [SetCtx.rowScales, List.getD_eq_getElem _ _ (by simpa using inside)]
  simp only [List.getElem_map, List.getElem_range]
  rfl

section
variable {c : SetCtx} {o : Ops} {q : Quad} {k i j x y : Nat} {m n : Env} (hi : c.member i = some (m, x))
  (hj : c.member j = some (n, y)) (hact : c.active o j = true) (c0 : Nat)
include hi hj hact

theorem mmaEl_int (hq : q.a = .i8) : c.mmaEl o q k i j c0 = mmaDotInt o.sat
    (((m.mat o.a x).els.zip (n.mat o.b y).els).map fun p => Ty.i8.value p.1 * Ty.i8.value p.2) c0 := by
  rw [SetCtx.mmaEl, hact, hi, hj]
  simp only [Bool.not_true, Bool.false_eq_true, if_false, if_pos hq]

theorem mmaEl_float (hq : q.a ≠ .i8) (hrow : (m.mat o.a x).els.length = k) : c.mmaEl o q k i j c0 = mmaDot c.leader.fp q.group
    (((m.mat o.a x).els.zip (n.mat o.b y).els).zipIdx.map fun p => mmaProd c.leader.fp (mmaSource c.leader.fp q.a p.1.1)
      (mmaSource c.leader.fp q.b p.1.2) (if q.len = 0 then [] else [c.mmaScale q k q.offA i p.2, c.mmaScale q k q.offB j p.2]))
    (mmaSource c.leader.fp.inner .bf16 q.bandA) (mmaSource c.leader.fp.inner .bf16 q.bandB) (mmaSource c.leader.fp .f32 c0) := by
  rw [SetCtx.mmaEl, hact, hi, hj]
  simp only [Bool.not_true, Bool.false_eq_true, if_false, if_neg hq]
  refine congrArg (fun l => mmaDot _ _ l _ _ _) (List.map_congr_left fun p hp => ?_)
  have inside : p.2 < k := by
    have := List.snd_lt_of_mem_zipIdx hp
    rw [List.length_zip, hrow] at this
    omega
  by_cases hlen : q.len = 0
  · simp only [if_pos hlen]
  · simp only [if_neg hlen, getD_rowScales c hlen inside]

end

end Machine
end Sys2Proof
end


section
/-! PROOF. The collective product (O38). -/

namespace Sys2Proof.Machine

section
variable {s : State} {o : Ops} {e : Env} {c : SetCtx} (h : s.crosses (.mma o) o e c)
include h

theorem mma_traps {cause detail : Nat} {masks : List (Nat × DWord)} {mask : Env → DWord}
    (hbody : ∀ u : State, u.cmds = s.cmds → mmaBody o c u = .trap u cause detail masks)
    (hwarp : o.scope = .warp → ((masks.head?).map (·.2)).getD 0 = mask e)
    (hmask : ∀ m ∈ c.members, outcomeFor masks 0 m.2.tid = mask m.2) : CrossTraps s (.mma o) o e cause detail mask :=
  h.traps_with (exec_mma o s) (fun _ u same hu => (mmaBody_mapEnv same o u).trans (hbody u hu)) hwarp hmask

/-- R408: a malformed `mma` traps in every active lane. -/
theorem mma_traps_all {cause detail : Nat} (hbody : ∀ u : State, u.cmds = s.cmds → mmaBody o c u = .trap u cause detail (c.masks o)) :
    CrossTraps s (.mma o) o e cause detail fun f => f.th.active o := by
  refine mma_traps h hbody (fun hwarp => ?_) fun m hm => ?_
  · rw [h.solo hwarp]; rfl
  · exact outcomeFor_map c.members h.nodup (fun m => m.2.th.active o) 0 hm

/-- R304: a faulting `mma` traps in these lanes of the space. -/
theorem mma_traps_lanes (hw : 0 < e.th.width) {cause : Nat} {lanes : List Nat}
    (hbody : ∀ u : State, u.cmds = s.cmds → mmaBody o c u = .trap u cause 0 (c.split lanes)) :
    ∃ mask : Env → DWord, CrossTraps s (.mma o) o e cause 0 mask ∧ ∀ j m, (j, m) ∈ c.members → ∀ x, x < 64 →
      ((mask m).getLsbD x = true ↔ x < e.th.width ∧ j * e.th.width + x ∈ lanes) := by
  refine ⟨fun f => outcomeFor (c.split lanes) 0 f.tid, mma_traps h hbody (fun hwarp => ?_) fun _ _ => rfl,
    fun j m hm x hx => ?_⟩
  · have solo := h.solo hwarp
    have mine := outcomeFor_map c.members h.nodup
      (fun m => maskOf ((lanes.filter (fun l => l / c.width = m.1)).map (· % c.width))) 0 (m := (0, e))
      (by rw [solo]; exact List.mem_singleton_self _)
    rw [SetCtx.split, mine, solo]
    rfl
  · rw [← h.width]
    exact SetCtx.getLsbD_split h.nodup lanes hm (by rw [h.width]; exact hw) hx

/-- R305: the results of an `mma`, lane by lane. -/
theorem mma_completes {vals : Nat → List RegVal} {outs : List (Nat × List RegVal)}
    (hbody : ∀ u : State, u.cmds = s.cmds → mmaBody o c u = .done u outs)
    (hwarp : o.scope = .warp → outs.flatMap (·.2) = vals 0)
    (hvals : ∀ m ∈ c.members, outcomeFor outs [] m.2.tid = vals m.1) : CrossCompletes s (.mma o) o e vals :=
  h.completes_with (exec_mma o s) rfl rfl rfl (by simp) (fun _ u same hu => (mmaBody_mapEnv same o u).trans (hbody u hu))
    hwarp hvals

theorem mma_completes_lanes {k : Nat} (hbody : ∀ u : State, u.cmds = s.cmds → mmaBody o c u = .done u
      (c.members.map fun m => (m.2.tid, ((c.actives o).filter (fun l => l / c.width = m.1)).flatMap fun l =>
        c.mmaLane o (c.quad o) k l))) : CrossCompletes s (.mma o) o e fun j =>
      ((c.actives o).filter (fun l => l / c.width = j)).flatMap fun l => c.mmaLane o (c.quad o) k l := by
  refine mma_completes h hbody (fun hwarp => ?_) fun m hm => outcomeFor_map c.members h.nodup _ [] hm
  rw [h.solo hwarp]
  exact List.append_nil _

/-- R179: an `mma` of a warp whose scales lie in a row that a bulk command owns waits. -/
theorem mma_waits (hwarp : o.scope = .warp) (hbody : mmaBody o c s = .wait s) :
    exec (.mma o) s = .next (s.setThread e.tid { e.th with wait := .stalled }) := by
  have solo := h.solo hwarp
  rcases h with ⟨-, hissues, -⟩ | ⟨set, base, all, harr, -⟩
  · rw [exec_mma, issueCross, if_pos hwarp, issue_wait (s' := s) (w := .stalled) hissues (by rw [← solo, hbody]),
      hold_eq (issues_thread hissues)]
  · exact absurd harr.scope (by rw [hwarp]; decide)

end

/-! ### What decides between the outcomes -/

section
variable {o : Ops} {c : SetCtx} {u : State}

theorem mmaBody_illegal (h : ¬ ((c.quad o).ok = true ∧ (o.sat = true → (c.quad o).a = .i8))) :
    mmaBody o c u = .trap u 0x02 11 (c.masks o) := by
  refine if_pos ?_
  cases hok : (c.quad o).ok <;> cases hsat : o.sat <;> simp_all

variable (legal : (c.quad o).ok = true ∧ (o.sat = true → (c.quad o).a = .i8))
include legal

theorem mmaBody_legal : (!(c.quad o).ok || (o.sat && decide ((c.quad o).a ≠ .i8))) = false := by
  obtain ⟨hok, hsat⟩ := legal
  cases h : o.sat <;> simp_all

theorem mmaBody_idle (h : c.actives o = []) : mmaBody o c u = .done u [] := by
  simp only [mmaBody, mmaBody_legal legal, h, Bool.false_eq_true, if_false, if_true]

variable (busy : c.actives o ≠ [])
include busy

theorem mmaBody_over (h : c.scalesOver (c.quad o) (c.rowLen o) = true) : mmaBody o c u = .trap u 0x02 11 (c.masks o) := by
  simp only [mmaBody, mmaBody_legal legal, busy, h, Bool.false_eq_true, if_false, if_true]

variable (inside : c.scalesOver (c.quad o) (c.rowLen o) = false)
include inside

theorem mmaBody_owned (h : c.scalesOwned u (c.quad o) (c.rowLen o) = true) : mmaBody o c u = .wait u := by
  simp only [mmaBody, mmaBody_legal legal, busy, inside, h, Bool.false_eq_true, if_false, if_true]

variable (free : c.scalesOwned u (c.quad o) (c.rowLen o) = false) (sound : c.scalesBad (c.quad o) (c.rowLen o) = false)
include free sound

theorem mmaBody_mismatch {lanes : List Nat}
    (h6 : faultLanes ((c.actives o).map fun l => (l, c.mmaFault o (c.quad o) (c.rowLen o) l)) .mismatch = lanes)
    (h : lanes ≠ []) : mmaBody o c u = .trap u 0x06 0 (c.split lanes) := by
  simp only [mmaBody, mmaBody_legal legal, busy, inside, free, sound, h6, h, Bool.false_eq_true, if_false, ne_eq,
    not_false_eq_true, if_true]

variable (h6 : faultLanes ((c.actives o).map fun l => (l, c.mmaFault o (c.quad o) (c.rowLen o) l)) .mismatch = [])
include h6

theorem mmaBody_overflow {lanes : List Nat}
    (h7 : faultLanes ((c.actives o).map fun l => (l, c.mmaFault o (c.quad o) (c.rowLen o) l)) .overflow = lanes)
    (h : lanes ≠ []) : mmaBody o c u = .trap u 0x07 0 (c.split lanes) := by
  simp only [mmaBody, mmaBody_legal legal, busy, inside, free, sound, h6, h7, h, Bool.false_eq_true, if_false, ne_eq,
    not_false_eq_true, not_true_eq_false, if_true]

theorem mmaBody_runs
    (h7 : faultLanes ((c.actives o).map fun l => (l, c.mmaFault o (c.quad o) (c.rowLen o) l)) .overflow = []) :
    mmaBody o c u = .done u (c.members.map fun m => (m.2.tid,
      ((c.actives o).filter (fun l => l / c.width = m.1)).flatMap fun l => c.mmaLane o (c.quad o) (c.rowLen o) l)) := by
  simp only [mmaBody, mmaBody_legal legal, busy, inside, free, sound, h6, h7, Bool.false_eq_true, if_false, ne_eq,
    not_true_eq_false]

end

theorem mem_faultLanes {lanes : List Nat} {f : Nat → Option LaneFault} {x : LaneFault} {l : Nat} :
    l ∈ faultLanes (lanes.map fun l => (l, f l)) x ↔ l ∈ lanes ∧ f l = some x := by
  simp [faultLanes]

end Sys2Proof.Machine
end


section
/-! PROOF. The collective product (O38). -/

namespace Sys2Proof.Machine

section
variable {s : State} {o : Ops} {e : Env} {c : SetCtx}

/-- R304: K is what the lowest active lane has it. -/
theorem rowLen_eq {l k x : Nat} {m : Env} (hl : (c.actives o).head? = some l) (hm : c.member l = some (m, x))
    (hk : (m.mat o.a x).cols = k) : c.rowLen o = k := by
  rw [SetCtx.rowLen, hl]
  simp only [hm]
  exact hk

/-- R303: the scales lie inside the scratch. -/
theorem scalesOver_iff (c : SetCtx) (q : Quad) (k : Nat) : c.scalesOver q k = false ↔ (q.len ≠ 0 → ∀ off ∈ [q.offA, q.offB],
    off + c.count * Quad.perRow q k ≤ scratchSize c.leader.la.obj c.leader.blk) := by
  simp only [SetCtx.scalesOver, Bool.and_eq_false_iff, Bool.or_eq_false_iff, decide_eq_false_iff_not, Nat.not_lt,
    List.mem_cons, List.not_mem_nil, or_false, forall_eq_or_imp, forall_eq]
  tauto

/-- R179: no bulk command owns a row of the scales. -/
theorem scalesOwned_iff (c : SetCtx) (s : State) (q : Quad) (k : Nat) : c.scalesOwned s q k = false ↔
    (q.len ≠ 0 → ∀ off ∈ [q.offA, q.offB], ∀ i, i < c.count * Quad.perRow q k → s.rowOwned c.leader.th.block (off + i) = false) := by
  simp only [SetCtx.scalesOwned, List.any_eq_false, List.mem_range, Bool.not_eq_true, Bool.or_eq_false_iff,
    List.mem_cons, List.not_mem_nil, or_false, forall_eq_or_imp, forall_eq]
  by_cases hlen : q.len = 0
  · have none : c.count * Quad.perRow q k = 0 := by rw [Quad.perRow, if_pos hlen, Nat.mul_zero]
    simp [none, hlen]
  · exact ⟨fun h _ => ⟨fun i hi => (h i hi).1, fun i hi => (h i hi).2⟩, fun h i hi => ⟨(h hlen).1 i hi, (h hlen).2 i hi⟩⟩

theorem scalesOwned_cmds {u : State} (hu : u.cmds = s.cmds) (q : Quad) (k : Nat) : c.scalesOwned u q k = c.scalesOwned s q k := by
  simp only [SetCtx.scalesOwned, State.rowOwned, hu]

end

theorem member_lane {c : SetCtx} {l x : Nat} {m : Env} (hm : c.member l = some (m, x)) : x = l % c.width := by
  obtain ⟨p, -, heq⟩ := Option.map_eq_some_iff.mp hm
  exact (Prod.mk.inj heq).2.symm

/-- R305: the results of a lane, register by register. -/
theorem mmaLane_eq {c : SetCtx} {o : Ops} {q : Quad} {k i x : Nat} {m : Env} (hm : c.member i = some (m, x)) :
    c.mmaLane o q k i = (List.range c.size).map fun t => Mat.val ⟨1, c.width, q.acc, (List.range c.width).map fun y =>
      c.mmaEl o q k i (t * c.width + y) (if o.xmod % 2 = 1 then (m.th.regs.matrix (matNo o.dst + t) x).els.getD y 0 else 0)⟩
      (matNo o.dst + t) x := by
  rw [SetCtx.mmaLane, hm]

/-- Settles O38: the cases of `mmaBody`, whose elements are sums that R137 rounds only where `.f32` lacks them. -/
theorem collectiveProducts : Obligations.CollectiveProducts := by
  intro s e o c k h hw _ w lanes env q reg ma mb row acc old pairs scale terms legal inside free least differ small lanesTrap
  have width : c.width = w := h.width
  have active : ∀ l ∈ lanes, c.active o l = true := fun l hl => (h.mem_actives hw l).mp hl
  have found : ∀ l ∈ lanes, ∃ m x, c.member l = some (m, x) := fun l hl => SetCtx.member_of_active (active l hl)
  have reads : ∀ {l m x}, c.member l = some (m, x) → ∀ n, reg n l = m.th.regs.matrix n x := fun hm n => by
    simp only [reg, hm, Option.elim]
  have busy : least → lanes ≠ [] := fun ⟨l, hl, _⟩ hnil => by
    simp only [hnil, List.head?_nil, reduceCtorEq] at hl
  have len : least → c.rowLen o = k := fun ⟨l, hl, hk⟩ => by
    obtain ⟨m, x, hm⟩ := found l (List.mem_of_mem_head? hl)
    exact rowLen_eq hl hm (by rw [← hk]; exact congrArg Mat.cols (reads hm _).symm)
  have within : least → (c.scalesOver q (c.rowLen o) = false ↔ inside) := fun hl => by
    rw [len hl]; exact scalesOver_iff c q k
  have unowned : least → (c.scalesOwned s q (c.rowLen o) = false ↔ free) := fun hl => by
    rw [len hl]; exact scalesOwned_iff c s q k
  refine ⟨fun hill => mma_traps_all h fun u _ => mmaBody_illegal hill, fun hleg hidle => ?_, fun hleg hl hin => ?_,
    fun hleg hl hin hfree hwarp => ?_, fun hleg hl hin hfree hsound => ?_⟩
  · exact mma_completes h (outs := []) (fun u _ => mmaBody_idle hleg hidle) (fun _ => rfl) fun _ _ => rfl
  · exact mma_traps_all h fun u _ => mmaBody_over hleg (busy hl) (Bool.not_eq_false _ ▸ fun hf => hin ((within hl).mp hf))
  · exact mma_waits h hwarp (mmaBody_owned hleg (busy hl) ((within hl).mpr hin)
      (Bool.not_eq_false _ ▸ fun hf => hfree ((unowned hl).mp hf)))
  · have sound : c.scalesBad q (c.rowLen o) = false := by simp [SetCtx.scalesBad, hsound]
    have owned : ∀ u : State, u.cmds = s.cmds → c.scalesOwned u q (c.rowLen o) = false := fun u hu => by
      rw [scalesOwned_cmds hu]; exact (unowned hl).mpr hfree
    have fits := (within hl).mpr hin
    have bad6 : ∀ l ∈ lanes, c.mmaFault o q (c.rowLen o) l = some .mismatch ↔ differ l := fun l hlane => by
      obtain ⟨m, x, hm⟩ := found l hlane
      rw [mmaFault_mismatch hm, len hl]
      simp only [differ, ma, mb, reads hm, row, ← width]
      rfl
    have bad7 : (∀ l ∈ lanes, ¬ differ l) → ∀ l ∈ lanes, c.mmaFault o q (c.rowLen o) l = some .overflow ↔ small :=
      fun hsame l hlane => by
        obtain ⟨m, x, hm⟩ := found l hlane
        have rows : RowsMatch c o q (c.rowLen o) m x :=
          not_not.mp fun hno => hsame l hlane ((bad6 l hlane).mp ((mmaFault_mismatch hm).mpr hno))
        rw [mmaFault_overflow hm, RowSmall, h.member_la hm, width]
        exact and_iff_right rows
    have lanes6 : (∀ l ∈ lanes, ¬ differ l) →
        faultLanes (lanes.map fun l => (l, c.mmaFault o q (c.rowLen o) l)) .mismatch = [] := fun hsame =>
      List.eq_nil_iff_forall_not_mem.mpr fun l hmem => by
        obtain ⟨hlane, hf⟩ := mem_faultLanes.mp hmem
        exact hsame l hlane ((bad6 l hlane).mp hf)
    refine ⟨fun ⟨l, hlane, hdiff⟩ => ?_, fun hsame hsmall => ?_, fun hsame hfits => ?_⟩
    · obtain ⟨mask, traps, bits⟩ := mma_traps_lanes h hw fun u hu => mmaBody_mismatch hleg (busy hl) fits (owned u hu) sound rfl
        (List.ne_nil_of_mem (mem_faultLanes.mpr ⟨hlane, (bad6 l hlane).mpr hdiff⟩))
      refine ⟨mask, traps, fun j m hm x hx => (bits j m hm x hx).trans (and_congr_right fun _ => ?_)⟩
      rw [mem_faultLanes]
      exact and_congr_right fun hin => bad6 _ hin
    · obtain ⟨l, hlane⟩ := List.exists_mem_of_ne_nil _ (busy hl)
      obtain ⟨mask, traps, bits⟩ := mma_traps_lanes h hw fun u hu => mmaBody_overflow hleg (busy hl) fits (owned u hu) sound
        (lanes6 hsame) rfl (List.ne_nil_of_mem (mem_faultLanes.mpr ⟨hlane, (bad7 hsame l hlane).mpr hsmall⟩))
      refine ⟨mask, traps, fun j m hm x hx => (bits j m hm x hx).trans (and_congr_right fun _ => ?_)⟩
      rw [mem_faultLanes]
      exact and_congr_right fun hin => iff_of_true ((bad7 hsame _ hin).mpr hsmall) trivial
    · have lanes7 : faultLanes (lanes.map fun l => (l, c.mmaFault o q (c.rowLen o) l)) .overflow = [] :=
        List.eq_nil_iff_forall_not_mem.mpr fun l hmem => by
          obtain ⟨hlane, hf⟩ := mem_faultLanes.mp hmem
          exact hfits ((bad7 hsame l hlane).mp hf)
      have rowsOf : ∀ l ∈ lanes, (ma l).els.length = k ∧ (mb l).els.length = k := fun l hlane => by
        obtain ⟨m, x, hm⟩ := found l hlane
        have rows := not_not.mp (hsame l hlane)
        simp only [ma, mb, reads hm] at rows ⊢
        exact ⟨IsRow.length rows.1, IsRow.length rows.2.1⟩
      have element : q.a ≠ .i8 → ∀ i ∈ lanes, ∀ j ∈ lanes, c.mmaEl o q k i j (old i j) = mmaDot env q.group (terms i j)
          (mmaSource env.inner .bf16 q.bandA) (mmaSource env.inner .bf16 q.bandB) (mmaSource env .f32 (old i j)) := by
        intro hfloat i hi j hj
        obtain ⟨m, x, hm⟩ := found i hi
        obtain ⟨n, y, hn⟩ := found j hj
        have size := (rowsOf i hi).1
        simp only [terms, pairs, ma, mb, reads hm, reads hn] at size ⊢
        exact mmaEl_float hm hn (active j hj) (old i j) hfloat size
      have products : q.a = .i8 → ∀ i ∈ lanes, ∀ j ∈ lanes, c.mmaEl o q k i j (old i j) =
          mmaDotInt o.sat ((pairs i j).map fun p => Ty.i8.value p.1 * Ty.i8.value p.2) (old i j) := by
        intro hint i hi j hj
        obtain ⟨m, x, hm⟩ := found i hi
        obtain ⟨n, y, hn⟩ := found j hj
        simp only [pairs, ma, mb, reads hm, reads hn]
        exact mmaEl_int hm hn (active j hj) (old i j) hint
      refine ⟨fun i j => c.mmaEl o q k i j (old i j), fun i _ j hj => ?_, fun hint hsat i hi j hj => ?_,
        fun hint hsat i hi j hj => ?_, element, ?_, ?_⟩
      · show c.mmaEl o q k i j (old i j) = _
        have idle : c.active o j = false := Bool.eq_false_iff.mpr fun hact => hj ((h.mem_actives hw j).mpr hact)
        rw [SetCtx.mmaEl, idle]
        rfl
      · show c.mmaEl o q k i j (old i j) = _
        rw [products hint i hi j hj, hsat, mmaDotInt_wrap]
      · show c.mmaEl o q k i j (old i j) = _
        rw [products hint i hi j hj, hsat]
      · intro hfloat hftz i hi j hj v bandA bandB z num st scaled hv hA hB hz sum held sums bands last
        show num .f32 false (c.mmaEl o q k i j (old i j)) _
        rw [element hfloat i hi j hj]
        obtain ⟨typeA, typeB⟩ := Quad.ok_factors hleg.1 hfloat
        have are := terms_is (env := env) (q := q) (rowsOf i hi).1 (rowsOf j hj).2 (scaleA := scale q.offA i)
          (scaleB := scale q.offB j) (v := v) fun p hp => by
            obtain ⟨x, y, u, w', hx, hy, hu, hw', hprod⟩ := hv p hp
            have scales : ∀ {off i y}, scaled off i p y → (q.len = 0 → y = 1) ∧ (q.len ≠ 0 → (scale off i p).Is y) :=
              fun hs => by
                refine ⟨fun hlen => by simpa only [scaled, if_pos hlen] using hs, fun hlen => ?_⟩
                simp only [scaled, if_neg hlen] at hs
                obtain ⟨small, value⟩ := hs
                rw [value]
                exact mmaSource_scale (t := st) (by simp only [st]; split <;> simp) small
            exact ⟨x, y, u, w', mmaSource_is typeA hx, mmaSource_is typeB hy,
              fun hlen => ⟨(scales hu).1 hlen, (scales hw').1 hlen⟩, fun hlen => ⟨(scales hu).2 hlen, (scales hw').2 hlen⟩, hprod⟩
        have prefixes : ∀ n, (((List.range k).map v).take n).sum = sum n := fun n => by
          rw [← List.map_take, List.take_range]
        have whole : ((List.range k).map v).sum = sum k := by
          simp only [sum, Nat.min_self]
        have exact' := mmaDot_is hftz (Quad.group_pos q) are (mmaSource_is (env := env.inner) (by decide) hA)
          (mmaSource_is (env := env.inner) (by decide) hB) (mmaSource_is (by decide) hz)
          (fun t => by rw [prefixes]; exact sums t) (by rw [whole]; exact bands) (by rw [whole]; exact last)
        obtain ⟨neg, hnum⟩ := exact'
        exact ⟨neg, by rw [number_fpVal (by decide), ← whole]; exact hnum⟩
      · have results := mma_completes_lanes h (k := c.rowLen o) fun u hu =>
          mmaBody_runs hleg (busy hl) fits (owned u hu) sound (lanes6 hsame) lanes7
        refine cast (congrArg (CrossCompletes s (.mma o) o e) (funext fun j => ?_)) results
        rw [width]
        refine List.flatMap_congr fun l hlane => ?_
        obtain ⟨m, x, hm⟩ := found l (List.mem_filter.mp hlane).1
        rw [mmaLane_eq hm, len hl, width]
        refine List.map_congr_left fun t ht => ?_
        have lane : x = l % w := by rw [member_lane hm, width]
        rw [lane]
        refine congrArg (fun els => Mat.val ⟨1, w, q.acc, els⟩ _ _) (List.map_congr_left fun y hy => ?_)
        have hy : y < w := List.mem_range.mp hy
        have column : (t * w + y) / w = t ∧ (t * w + y) % w = y := by
          rw [Nat.mul_comm, Nat.mul_add_div hw, Nat.mul_add_mod, Nat.div_eq_of_lt hy, Nat.mod_eq_of_lt hy]
          exact ⟨rfl, rfl⟩
        simp only [old, column.1, column.2, reads hm, lane]
        rfl

end Sys2Proof.Machine
end


section
/-! PROOF. What the caches and translation leave of the part's units: threads and bursts (R154 to R156, R160, R168 to R170). -/

namespace Sys2Proof.Machine

/-- The threads and the `bread`s under way. -/
def State.units (s : State) : NMap Thread × NMap Bread := (s.threads, s.breads)

theorem foldl_units {α : Type} {f : State → α → State} (h : ∀ s x, (f s x).units = s.units) (l : List α) (s : State) :
    (l.foldl f s).units = s.units := by
  induction l generalizing s with
  | nil => rfl
  | cons x rest ih => rw [List.foldl_cons, ih, h]

theorem SameButHomes.units {s t : State} (h : SameButHomes s t) : t.units = s.units := by rw [h]; rfl

@[simp] theorem modCore_units (s : State) (c : Nat) (g : Core → Core) : (s.modCore c g).units = s.units := rfl
@[simp] theorem setCore_units (s : State) (c : Nat) (x : Core) : (s.setCore c x).units = s.units := rfl
@[simp] theorem modDie_units (s : State) (d : Nat) (g : Die → Die) : (s.modDie d g).units = s.units := rfl
@[simp] theorem draw_units (s : State) (n : Nat) : (s.draw n).2.units = s.units := by simp [State.units]
@[simp] theorem drawFrom_units {α : Type} (s : State) (d : α) (l : List α) : (s.drawFrom d l).2.units = s.units := by
  simp [State.units]

@[simp] theorem ringRecord_units (s : State) (die : Nat) (r : ErrRec) : (s.ringRecord die r).units = s.units := by
  have bytes : ∀ pa, (s.ringBytes pa r).units = s.units := fun pa => by
    unfold State.ringBytes
    split
    · exact (setHomes_sameButHomes _ s).units
    · rfl
  have signals : ∀ (u : State) v, (u.signal v).units = u.units := fun u v => by simp [State.units]
  unfold State.ringRecord
  split
  · rfl
  · split
    · rfl
    · rw [signals, modDie_units, bytes]

@[simp] theorem writeBack_units (s : State) (core pa va : Nat) (dirty : NMap Byte) (bad : Bool) :
    (s.writeBack core pa va dirty bad).units = s.units := by
  unfold State.writeBack
  split
  · rfl
  · split
    · rw [ringRecord_units, modCore_units]
    · split
      · exact (setHomes_sameButHomes _ s).units
      · exact (writeLine_sameButHomes s _ _).units

@[simp] theorem releaseCore_units (s : State) (core : Nat) (remote : Bool) : (s.releaseCore core remote).units = s.units := by
  unfold State.releaseCore
  dsimp only
  rw [setCore_units, foldl_units (fun _ _ => writeBack_units _ _ _ _ _ _), foldl_units fun _ _ => writeBack_units _ _ _ _ _ _]

@[simp] theorem forcedRelease_units (s : State) (core : Nat) : (s.forcedRelease core).units = s.units := releaseCore_units s core true

@[simp] theorem stage_units (s : State) (core pa va : Nat) (dirty : NMap Byte) (epoch : Nat) (bad : Bool) :
    (s.stage core pa va dirty epoch bad).units = s.units := by
  unfold State.stage
  split
  · rfl
  · rw [setCore_units]
    split
    · exact forcedRelease_units s core
    · rfl

@[simp] theorem evict_units (s : State) (core pa : Nat) : (s.evict core pa).units = s.units := by
  have room : ∀ b : Prop, [Decidable b] → (if b then s.forcedRelease core else s).units = s.units := fun b _ => by
    split
    · exact forcedRelease_units s core
    · rfl
  unfold State.evict
  split
  · rfl
  · dsimp only
    split
    · exact room _
    · rw [stage_units, modCore_units, room]

@[simp] theorem recall_units (s : State) (line : Nat) : (s.recall line).units = s.units :=
  foldl_units (fun _ _ => foldl_units (fun _ _ => evict_units _ _ _) _ _) _ _

@[simp] theorem touchL2_units (s : State) (pa hint : Nat) : (s.touchL2 pa hint).units = s.units := by
  unfold State.touchL2
  split
  · rfl
  · dsimp only
    split
    · split <;> rfl
    · rw [modDie_units]
      split
      · rw [State.l2Evict, modDie_units, recall_units, drawFrom_units]
      · exact drawFrom_units s _ _

theorem units_peer (s : State) (m : NMap Byte) : ({ s with peer := m } : State).units = s.units := rfl

@[simp] theorem peerTurn_units (s : State) (pa : Nat) : (s.peerTurn pa).units = s.units := by
  unfold State.peerTurn
  split
  · rfl
  · have drawn := draw_units s 2
    generalize s.draw 2 = d at drawn ⊢
    obtain ⟨i, u⟩ := d
    dsimp only
    split
    · exact drawn
    · exact (units_peer u _).trans drawn

@[simp] theorem makeRoom_units (s : State) (core pa ways : Nat) : (s.makeRoom core pa ways).units = s.units := by
  unfold State.makeRoom
  dsimp only
  split
  · rfl
  · rw [evict_units, drawFrom_units]

@[simp] theorem allocate_units (s : State) (core pa hint : Nat) : (s.allocate core pa hint).2.units = s.units := by
  unfold State.allocate
  split
  · rfl
  · rw [makeRoom_units, touchL2_units]

@[simp] theorem fill_units (s : State) (core pa hint : Nat) : (s.fill core pa hint).units = s.units := by
  unfold State.fill
  dsimp only
  split
  · rw [peerTurn_units, touchL2_units]
  · rw [modCore_units, allocate_units, peerTurn_units, touchL2_units]

@[simp] theorem loadBytes_units (s : State) (core hint pa n : Nat) : (s.loadBytes core hint pa n).2.units = s.units := by
  unfold State.loadBytes
  dsimp only
  split
  · exact fill_units s core pa hint
  · split <;> rfl

/-! ### Translation -/

/-- What translation leaves: the part but for its TLBs. -/
structure SameButTlbs (s t : State) : Prop where
  units : t.units = s.units
  mem   : t.mem = s.mem
  peer  : t.peer = s.peer

theorem SameButTlbs.refl (s : State) : SameButTlbs s s := ⟨rfl, rfl, rfl⟩

theorem SameButTlbs.trans {s t u : State} (h : SameButTlbs s t) (h' : SameButTlbs t u) : SameButTlbs s u :=
  ⟨h'.units.trans h.units, h'.mem.trans h.mem, h'.peer.trans h.peer⟩

theorem walkFor_ok {s : State} {core va pa : Nat} {need : Need} (h : (s.walkFor core va need).1 = .ok pa) :
    SameButTlbs s (s.walkFor core va need).2 := by
  unfold State.walkFor at h ⊢
  split
  · exact .refl s
  · rename_i hw
    simp [hw] at h
  · exact ⟨rfl, rfl, rfl⟩

/-- R162: a translation that succeeds changes nothing but the TLBs. -/
theorem translate_ok {s : State} {core va since pa : Nat} {need : Need} (h : (s.translate core va need since).1 = .ok pa) :
    SameButTlbs s (s.translate core va need since).2 := by
  have draws : ∀ n, SameButTlbs s (s.draw n).2 := fun n => ⟨draw_units s n, by simp, by simp⟩
  have kept : ∀ (e : TlbEntry) (n : Nat), let out : Trans × State :=
        if (s.draw n).1 = 0 then (.ok (e.addr va), (s.draw n).2) else (s.draw n).2.walkFor core va need
      out.1 = .ok pa → SameButTlbs s out.2 := by
    intro e n
    dsimp only
    split
    · exact fun _ => draws n
    · exact fun hw => (draws n).trans (walkFor_ok hw)
  unfold State.translate at h ⊢
  dsimp only at h ⊢
  generalize ((s.core core).tlb.find? _).orElse _ = hit at h ⊢
  cases hit with
  | none => exact walkFor_ok h
  | some e =>
    dsimp only at h ⊢
    by_cases hgrant : e.grants need = true
    · rw [if_pos hgrant] at h ⊢
      exact kept e _ h
    · rw [if_neg hgrant] at h ⊢
      refine SameButTlbs.trans ?_ (walkFor_ok h)
      exact ⟨by rw [modDie_units, modCore_units], by simp, by simp⟩

theorem reachLines_ok {core since : Nat} {need : Need} {vlines : List Nat} {s t : State} {lines : List (Nat × Nat)}
    (h : s.reachLines core need since vlines = (some (lines, []), t)) : SameButTlbs s t := by
  induction vlines generalizing s lines with
  | nil => exact (Prod.mk.inj h).2 ▸ .refl s
  | cons l rest ih =>
    rw [State.reachLines] at h
    have first := @translate_ok s core l since
    cases htr : s.translate core l need since with
    | mk res u =>
      rw [htr] at h
      cases res with
      | wait => simp at h
      | ok pa =>
        have step : SameButTlbs s u := by simpa [htr] using first (pa := pa) (need := need) (by rw [htr])
        dsimp only at h
        cases hr : u.reachLines core need since rest with
        | mk out v =>
          rw [hr] at h
          cases out with
          | none => simp at h
          | some p =>
            obtain ⟨oks, bad⟩ := p
            simp only [Prod.mk.injEq, Option.some.injEq] at h
            obtain ⟨⟨-, rfl⟩, rfl⟩ := h
            exact step.trans (ih hr)
      | fault f =>
        dsimp only at h
        cases hr : u.reachLines core need since rest with
        | mk out v =>
          rw [hr] at h
          cases out with
          | none => simp at h
          | some p => simp at h

end Sys2Proof.Machine
end


section
/-! PROOF. Loads of a core (R154 to R156, R168): which bytes they read, and which bytes of memory may have changed since. -/

namespace Sys2Proof.Machine

/-! ### Bytes of a line -/

theorem find_zipIdx {α : Type} (l : List α) (n k : Nat) :
    NMap.find ((l.zipIdx n).map fun p => (p.2, p.1)) (n + k) = l[k]? := by
  induction l generalizing n k with
  | nil => rfl
  | cons x rest ih =>
    rw [List.zipIdx_cons, List.map_cons, NMap.find]
    cases k with
    | zero => simp
    | succ k =>
      rw [if_neg (by omega), if_neg (by omega), List.getElem?_cons_succ, ← ih (n + 1) k]
      congr 1
      omega

theorem getElem?_homeBytes (s : State) (n : Nat) {pa k : Nat} (hk : k < n) : (s.homeBytes pa n)[k]? = some (s.homeByte (pa + k)) := by
  induction n generalizing pa k with
  | zero => omega
  | succ n ih =>
    rw [State.homeBytes]
    cases k with
    | zero => rfl
    | succ k => rw [List.getElem?_cons_succ, ih (by omega), Nat.add_right_comm]; rfl

theorem lineOf_add {line k : Nat} (hline : line % 64 = 0) (hk : k < 64) : lineOf (line + k) = line ∧ (line + k) % 64 = k := by
  rw [lineOf]; omega

theorem isRemote_add {line k : Nat} (hline : line % 64 = 0) (hk : k < 64) : isRemote (line + k) = isRemote line := by
  have high : (line + k) / 2 ^ 45 = line / 2 ^ 45 := by omega
  rw [isRemote, isRemote, bitOf, bitOf, high]

/-! ### Loads that hit -/

/-- Two cores that hold the same bytes, in their L1 and in their staging area. -/
structure SameBytes (c d : Core) : Prop where
  l1    : d.inL1 = c.inL1
  holds : d.holds = c.holds

theorem keepLine_sameBytes (c : Core) (pa : Nat) : SameBytes c (c.keepLine pa) := by
  have line : ∀ q, (c.keepLine pa).line q = (c.line q).map fun l => if l.pa = lineOf pa then { l with hint := 3 } else l := by
    intro q
    rw [Core.line, Core.keepLine, List.find?_map]
    have pas : ((fun l : Line => decide (l.pa = lineOf q)) ∘ fun l => if l.pa = lineOf pa then { l with hint := 3 } else l) =
        fun l => decide (l.pa = lineOf q) := by
      funext l
      simp only [Function.comp]
      split <;> rfl
    rw [pas]
    rfl
  have l1 : (c.keepLine pa).inL1 = c.inL1 := by
    funext q
    rw [Core.inL1, Core.inL1, line]
    cases c.line q with
    | none => rfl
    | some l =>
      simp only [Option.map_some, Option.bind_some]
      split <;> rfl
  refine ⟨l1, ?_⟩
  funext q
  rw [Core.holds, Core.holds, l1]
  rfl

/-- The state `u` reads as `s` does at core `core`. -/
structure ReadsAs (s u : State) (core : Nat) : Prop where
  bytes : SameBytes (s.core core) (u.core core)
  mem   : u.mem = s.mem
  peer  : u.peer = s.peer
  block : u.blocks = s.blocks

theorem ReadsAs.refl (s : State) (core : Nat) : ReadsAs s s core := ⟨⟨rfl, rfl⟩, rfl, rfl, rfl⟩

theorem ReadsAs.trans {s t u : State} {core : Nat} (h : ReadsAs s t core) (h' : ReadsAs t u core) : ReadsAs s u core :=
  ⟨⟨h'.bytes.l1.trans h.bytes.l1, h'.bytes.holds.trans h.bytes.holds⟩, h'.mem.trans h.mem, h'.peer.trans h.peer, h'.block.trans h.block⟩

theorem ReadsAs.seen {s u : State} {core : Nat} (h : ReadsAs s u core) (pa : Nat) : u.seenByte core pa = s.seenByte core pa := by
  rw [State.seenByte, State.seenByte, h.bytes.holds, homeByte_congr h.mem h.peer]

theorem ReadsAs.loadHit {s u : State} {core : Nat} (h : ReadsAs s u core) (pa n : Nat) :
    u.loadHit core pa n = s.loadHit core pa n := by
  have ways : u.ways core = s.ways core := by rw [State.ways, State.ways, State.blocksOn, State.blocksOn, h.block]
  simp only [State.loadHit, ways, h.bytes.holds, h.bytes.l1]

/-- R154, R155: a load that hits reads what the core sees, and leaves everything but a mark of `.keep`. -/
theorem loadBytes_hit {u : State} {core hint pa : Nat} (hit : u.loadHit core pa 1 = true) :
    (u.loadBytes core hint pa 1).1 = [u.seenByte core pa] ∧ ReadsAs u (u.loadBytes core hint pa 1).2 core ∧
      (hint ≠ 3 → (u.loadBytes core hint pa 1).2 = u) := by
  have out : (u.loadBytes core hint pa 1).2 = if hint = 3 then u.modCore core (·.keepLine pa) else u := by
    simp [State.loadBytes, hit]
  have reads : ReadsAs u (u.loadBytes core hint pa 1).2 core := by
    rw [out]
    split
    · refine ⟨?_, rfl, rfl, rfl⟩
      rw [State.modCore, State.core_setCore]
      exact keepLine_sameBytes _ pa
    · exact .refl u core
  refine ⟨?_, reads, fun hne => by rw [out, if_neg hne]⟩
  have bytes : (u.loadBytes core hint pa 1).1 = [(u.loadBytes core hint pa 1).2.seenByte core pa] := by
    simp [State.loadBytes]
  rw [bytes, reads.seen]

/-! ### Spills of loads -/

/-- The caches have spilled, as `Spills` says, where it is of this package's memory; a peer's may have changed by itself (R375). -/
structure LocalSpills (s t : State) : Prop extends t.Accepting where
  held   : ∀ c pa b, (t.core c).unwritten pa b → (s.core c).unwritten pa b
  stored : ∀ pa, isRemote pa = false → t.homeByte pa = s.homeByte pa ∨ ∃ c, (s.core c).unwritten pa (t.homeByte pa)

theorem LocalSpills.refl {s : State} (h : s.Accepting) : LocalSpills s s := ⟨h, fun _ _ _ => id, fun _ _ => .inl rfl⟩

theorem LocalSpills.then {s t u : State} (h : LocalSpills s t) (h' : Spills t u) : LocalSpills s u where
  toAccepting := h'.toAccepting
  held c pa b hb := h.held c pa b (h'.held c pa b hb)
  stored pa hpa := by
    rcases h'.stored pa with same | ⟨c, hc⟩
    · rw [same]; exact h.stored pa hpa
    · exact .inr ⟨c, h.held c pa _ hc⟩

theorem Spills.makeRoom {s t : State} (h : Spills s t) (core pa ways : Nat) : Spills s (t.makeRoom core pa ways) := by
  unfold State.makeRoom
  dsimp only
  split
  · exact h
  · exact (h.drawFrom _ _).evict _ _

/-- R154: the line that a miss fills has no dirty byte but those that the core holds. -/
theorem allocate_line {s t : State} (h : Spills s t) (core pa hint : Nat) : Spills s (t.allocate core pa hint).2 ∧
    (t.allocate core pa hint).1.pa = lineOf pa ∧ (t.core core).Holds (t.allocate core pa hint).1.pa (t.allocate core pa hint).1.dirty := by
  unfold State.allocate
  cases hl : (t.core core).line pa with
  | none => exact ⟨(h.touchL2 pa hint).makeRoom core pa _, rfl, fun p hp => absurd hp List.not_mem_nil⟩
  | some l =>
    obtain ⟨hmem, hpa⟩ := Core.line_some hl
    dsimp only
    exact ⟨h, hpa, Core.holds_l1 hmem⟩

/-- What a core holds once a line has been put. -/
theorem Core.unwritten_putLine {c : Core} {l : Line} {pa : Nat} {b : Byte} (h : (c.putLine l).unwritten pa b) :
    c.unwritten pa b ∨ ∃ k, (k, b) ∈ l.dirty ∧ lineOf l.pa + k = pa := by
  rcases h with ⟨x, hx, -, k, hk, heq⟩ | ⟨x, hx, rest⟩
  · rcases List.mem_cons.mp hx with rfl | hx
    · exact .inr ⟨k, hk, heq⟩
    · exact .inl (.inl ⟨x, (List.mem_filter.mp hx).1, trivial, k, hk, heq⟩)
  · exact .inl (.inr ⟨x, hx, rest⟩)

theorem LocalSpills.peerTurn {s t : State} (h : LocalSpills s t) (pa : Nat) : LocalSpills s (t.peerTurn pa) := by
  have same : (t.peerTurn pa).mem = t.mem ∧ (t.peerTurn pa).cores = t.cores ∧ (t.peerTurn pa).links = t.links := by
    unfold State.peerTurn
    split
    · exact ⟨rfl, rfl, rfl⟩
    · have drawn : (t.draw 2).2.mem = t.mem ∧ (t.draw 2).2.cores = t.cores ∧ (t.draw 2).2.links = t.links := by simp
      generalize t.draw 2 = d at drawn ⊢
      obtain ⟨i, u⟩ := d
      dsimp only
      split
      · exact drawn
      · exact drawn
  obtain ⟨mem, cores, links⟩ := same
  have core : ∀ c, (t.peerTurn pa).core c = t.core c := fun c => by rw [State.core, State.core, cores]
  refine ⟨⟨by rw [mem]; exact h.wf, fun c q => ?_⟩, fun c q b hb => h.held c q b (by rwa [core] at hb), fun q hq => ?_⟩
  · have ht := h.accepts c q
    rwa [State.refused, State.linkDown, State.link, ← links, ← core] at ht
  · have home : (t.peerTurn pa).homeByte q = t.homeByte q := by
      rw [State.homeByte, State.homeByte, hq, mem]; rfl
    rw [home]; exact h.stored q hq

theorem LocalSpills.fill {s t : State} (h : LocalSpills s t) (core pa hint : Nat) : LocalSpills s (t.fill core pa hint) := by
  have came : LocalSpills s ((t.touchL2 pa hint).peerTurn pa) :=
    (h.then ((Spills.refl h.toAccepting).touchL2 pa hint)).peerTurn pa
  unfold State.fill
  dsimp only
  generalize (t.touchL2 pa hint).peerTurn pa = u at came ⊢
  split
  · exact came
  · obtain ⟨spills, -, holds⟩ := allocate_line (Spills.refl came.toAccepting) core pa hint
    refine came.then (spills.setCore rfl fun q b hb => ?_)
    rcases Core.unwritten_putLine hb with hb | ⟨k, hk, rfl⟩
    · exact spills.held core q b hb
    · exact holds (k, b) hk

theorem LocalSpills.loadBytes {s t : State} (h : LocalSpills s t) (core hint pa n : Nat) :
    LocalSpills s (t.loadBytes core hint pa n).2 := by
  unfold State.loadBytes
  dsimp only
  split
  · exact h.fill core pa hint
  · split
    · refine h.then ((Spills.refl h.toAccepting).setCore rfl fun q b hb => ?_)
      rcases hb with ⟨l, hl, -, k, hk, rfl⟩ | staged
      · obtain ⟨x, hx, rfl⟩ := List.mem_map.mp hl
        split at hk
        · rw [if_pos (by assumption)]; exact Core.holds_l1 hx (k, b) hk
        · rw [if_neg (by assumption)]; exact Core.holds_l1 hx (k, b) hk
      · exact .inr staged
    · exact h

end Sys2Proof.Machine
end


section
/-! PROOF. Lines that are at home only (R154 to R156, R168 to R170): whatever is evicted for a load, it reads their bytes. -/

namespace Sys2Proof.Machine

/-- What core `core` holds of a line are the bytes at its home: no dirty byte and no staged one. -/
structure Core.Tidy (c : Core) (home : Nat → Byte) (line : Nat) : Prop where
  clean  : ∀ l ∈ c.l1, l.pa = line → l.dirty = [] ∧ ∀ p ∈ l.filled, p.1 < 64 → p.2 = home (line + p.1)
  staged : ∀ l ∈ c.staged, l.pa ≠ line

theorem Core.Tidy.dropLine {c : Core} {home : Nat → Byte} {line : Nat} (h : c.Tidy home line) (pa : Nat) :
    (c.dropLine pa).Tidy home line :=
  ⟨fun l hl => h.clean l (List.mem_filter.mp hl).1, h.staged⟩

theorem Core.Tidy.keepLine {c : Core} {home : Nat → Byte} {line : Nat} (h : c.Tidy home line) (pa : Nat) :
    (c.keepLine pa).Tidy home line := by
  refine ⟨fun l hl => ?_, h.staged⟩
  obtain ⟨x, hx, rfl⟩ := List.mem_map.mp hl
  split
  · exact h.clean x hx
  · exact h.clean x hx

/-- The caches have spilled, and core `core` holds no byte of the line but those at its home. -/
structure Holding (s : State) (core line : Nat) (u : State) : Prop extends Spills s u where
  tidy : (u.core core).Tidy s.homeByte line

section
variable {s u : State} {core line : Nat} (h : Holding s core line u)
include h

/-- The core is as it was. -/
theorem Holding.core_same {v : State} (hv : Spills s v) (hc : v.core core = u.core core) : Holding s core line v := by
  refine ⟨hv, ?_⟩
  rw [hc]
  exact h.tidy

theorem Holding.modDie (d : Nat) (g : Die → Die) : Holding s core line (u.modDie d g) :=
  h.core_same (h.toSpills.modDie d g) rfl

theorem Holding.drawFrom {α : Type} (d : α) (l : List α) : Holding s core line (u.drawFrom d l).2 :=
  h.core_same (h.toSpills.drawFrom d l) (by rw [State.core, State.core]; simp)

theorem Holding.foldl {α : Type} {f : State → α → State} {l : List α}
    (hf : ∀ v x, x ∈ l → Holding s core line v → Holding s core line (f v x)) : Holding s core line (l.foldl f u) := by
  induction l generalizing u with
  | nil => exact h
  | cons x rest ih => exact ih (hf u x List.mem_cons_self h) fun v y hy => hf v y (List.mem_cons_of_mem _ hy)

end

/-! ### Releases, staging and evictions -/

theorem foldl_writeBack_sameButHomes {s : State} (h : ∀ c pa, s.refused c pa = false) {α : Type} (l : List α) (core : Nat)
    (pa va : α → Nat) (dirty : α → NMap Byte) (bad : α → Bool) :
    SameButHomes s (l.foldl (fun s x => s.writeBack core (pa x) (va x) (dirty x) (bad x)) s) := by
  induction l generalizing s with
  | nil => rfl
  | cons x rest ih =>
    have first := writeBack_sameButHomes (h core (pa x)) (va x) (dirty x) (bad x)
    exact first.trans (ih fun c q => (first.refused c q).trans (h c q))

section
variable {s u : State} {core line : Nat} (h : Holding s core line u)
include h

theorem Holding.releaseCore (c : Nat) (remote : Bool) : Holding s core line (u.releaseCore c remote) := by
  have spills := h.toSpills.releaseCore c remote
  refine ⟨spills, ?_⟩
  unfold State.releaseCore
  dsimp only
  by_cases hc : core = c
  · subst hc
    rw [State.core_setCore]
    refine ⟨fun l hl => ?_, fun l hl => h.tidy.staged l (List.mem_filter.mp hl).1⟩
    obtain ⟨x, hx, rfl⟩ := List.mem_map.mp hl
    split
    · intro hpa
      obtain ⟨clean, filled⟩ := h.tidy.clean x hx hpa
      exact ⟨rfl, by rw [clean]; exact filled⟩
    · exact h.tidy.clean x hx
  · rw [State.core_setCore_other _ _ hc]
    have staged := foldl_writeBack_sameButHomes h.accepts
      ((u.core c).staged.filter fun l => (remote || !isRemote l.pa) && !u.owned l.pa) c Staged.pa Staged.va Staged.dirty Staged.bad
    have l1 := foldl_writeBack_sameButHomes (fun c q => (staged.refused c q).trans (h.accepts c q))
      ((u.core c).l1.filter fun l => (remote || !isRemote l.pa) && !u.owned l.pa) c Line.pa Line.va Line.dirty Line.bad
    rw [(staged.trans l1).core]
    exact h.tidy

theorem Holding.stage {c pa : Nat} {dirty : NMap Byte} (hd : (s.core c).Holds pa dirty) (clean : core = c → lineOf pa = line → dirty = [])
    (va epoch : Nat) (bad : Bool) : Holding s core line (u.stage c pa va dirty epoch bad) := by
  refine ⟨h.toSpills.stage hd va epoch bad, ?_⟩
  unfold State.stage
  split
  · exact h.tidy
  · rename_i dirt
    have room : Holding s core line (if ((u.core c).stagedLine pa).isNone && decide (4096 ≤ u.stagedLines c) then
        u.forcedRelease c else u) := by
      split
      · exact h.releaseCore c true
      · exact h
    dsimp only
    generalize (if ((u.core c).stagedLine pa).isNone && decide (4096 ≤ u.stagedLines c) then
        u.forcedRelease c else u) = v at room ⊢
    by_cases hc : core = c
    · subst hc
      have away : lineOf pa ≠ line := fun hpa => dirt (clean rfl hpa)
      rw [State.core_setCore]
      refine ⟨room.tidy.clean, fun l hl => ?_⟩
      rcases List.mem_cons.mp hl with rfl | hl
      · cases hold : (v.core core).stagedLine pa with
        | none => exact away
        | some old =>
          rw [← (Core.stagedLine_some hold).2] at away
          exact away
      · exact room.tidy.staged l (List.mem_filter.mp hl).1
    · rw [State.core_setCore_other _ _ hc]
      exact room.tidy

theorem Holding.evict (c pa : Nat) : Holding s core line (u.evict c pa) := by
  unfold State.evict
  split
  case h_1 => exact h
  case h_2 l _ =>
    have room : Holding s core line (if l.dirty ≠ [] ∧ (((u.core c).stagedLine pa).isNone && decide (4096 ≤ u.stagedLines c)) = true
        then u.forcedRelease c else u) := by
      split
      · exact h.releaseCore c true
      · exact h
    dsimp only
    split
    case h_1 => exact room
    case h_2 x hx =>
      obtain ⟨hmem, hpa⟩ := Core.line_some hx
      generalize (if l.dirty ≠ [] ∧ (((u.core c).stagedLine pa).isNone && decide (4096 ≤ u.stagedLines c)) = true
        then u.forcedRelease c else u) = v at room hx hmem ⊢
      have dropped : Holding s core line (v.modCore c (·.dropLine pa)) := by
        refine ⟨room.toSpills.setCore (n := c) (x := (v.core c).dropLine pa) rfl
          fun q b hb => room.held c q b (Core.unwritten_dropLine hb), ?_⟩
        rw [State.modCore]
        by_cases hc : core = c
        · subst hc
          rw [State.core_setCore]
          exact room.tidy.dropLine pa
        · rw [State.core_setCore_other _ _ hc]
          exact room.tidy
      refine dropped.stage (fun p hp => ?_) (fun hc hline => ?_) x.va x.epoch x.bad
      · have held := room.held c _ _ (Core.holds_l1 hmem p hp)
        rwa [hpa, lineOf_lineOf] at held
      · subst hc
        exact (room.tidy.clean x hmem (hpa.trans hline)).1

theorem Holding.recall (l : Nat) : Holding s core line (u.recall l) :=
  h.foldl fun _ _ _ hu => hu.foldl fun _ _ _ hv => hv.evict _ _

theorem Holding.touchL2 (pa hint : Nat) : Holding s core line (u.touchL2 pa hint) := by
  unfold State.touchL2
  split
  · exact h
  · dsimp only
    split
    · split
      · exact h
      · exact h.modDie _ _
    · refine Holding.modDie ?_ _ _
      split
      · exact ((h.drawFrom _ _).recall _).modDie _ _
      · exact h.drawFrom _ _

theorem Holding.makeRoom (pa ways : Nat) : Holding s core line (u.makeRoom core pa ways) := by
  unfold State.makeRoom
  dsimp only
  split
  · exact h
  · exact (h.drawFrom _ _).evict _ _

end

/-! ### Loads -/

/-- A line that is at home only is not one that a core has changed. -/
theorem Holding.home {s u : State} {core line : Nat} (h : Holding s core line u) (only : s.onlyHome core line) {k : Nat} (hk : k < 64) :
    u.homeByte (line + k) = s.homeByte (line + k) := by
  obtain ⟨-, unheld, -, -⟩ := only
  rcases h.stored (line + k) with same | ⟨c, hc⟩
  · exact same
  · exact absurd hc (unheld c _ k hk)

theorem onlyHome_holding {s : State} (hs : s.Accepting) {core line : Nat} (only : s.onlyHome core line) (hline : line % 64 = 0) :
    Holding s core line s := by
  obtain ⟨-, -, noLine, noStaged⟩ := only
  have self : lineOf line = line := (lineOf_add hline (k := 0) (by omega)).1
  refine ⟨.refl hs, fun l hl hpa => ?_, fun l hl hpa => ?_⟩
  · have := List.find?_eq_none.mp noLine l hl
    simp [self, hpa] at this
  · have := List.find?_eq_none.mp noStaged l hl
    simp [self, hpa] at this

/-- A tidy core sees the home's bytes. -/
theorem Core.Tidy.holds {c : Core} {home : Nat → Byte} {line : Nat} (h : c.Tidy home line) (hline : line % 64 = 0) {k : Nat} (hk : k < 64) :
    ∀ b, c.holds (line + k) = some b → b = home (line + k) := by
  intro b hb
  obtain ⟨self, off⟩ := lineOf_add hline hk
  have unstaged : c.stagedLine (line + k) = none := by
    refine List.find?_eq_none.mpr fun l hl => ?_
    simpa [self] using h.staged l hl
  rw [Core.holds, unstaged, Core.inL1] at hb
  cases hl : c.line (line + k) with
  | none => simp [hl] at hb
  | some l =>
    obtain ⟨hmem, hpa⟩ := Core.line_some hl
    obtain ⟨clean, filled⟩ := h.clean l hmem (hpa.trans self)
    rw [hl, Option.bind_some, clean, off] at hb
    have found : NMap.find l.filled k = some b := by
      cases hf : NMap.find l.filled k with
      | none => simp [hf, NMap.find] at hb
      | some x => simpa [hf, NMap.find] using hb
    exact filled (k, b) (NMap.mem_of_find found) hk

end Sys2Proof.Machine
end


section
/-! PROOF. Loads of lines that are at home only, and of lines that hit or find room (R154 to R156, R168). -/

namespace Sys2Proof.Machine

theorem peerTurn_local (s : State) {pa : Nat} (h : isRemote pa = false) : s.peerTurn pa = s := by
  rw [State.peerTurn, h]
  rfl

theorem lineBytes_unstaged {s : State} {core pa : Nat} (h : (s.core core).stagedLine pa = none) :
    s.lineBytes core pa = s.homeBytes (lineOf pa) 64 := by
  have same : (fun p : Byte × Nat => (NMap.find ([] : NMap Byte) p.2).getD p.1) = Prod.fst := rfl
  rw [State.lineBytes, h]
  show ((s.homeBytes (lineOf pa) 64).zipIdx.map fun p : Byte × Nat => (NMap.find ([] : NMap Byte) p.2).getD p.1) = _
  rw [same, List.zipIdx_map_fst]

theorem length_homeBytes (s : State) (pa n : Nat) : (s.homeBytes pa n).length = n := by
  induction n generalizing pa with
  | zero => rfl
  | succ n ih => rw [State.homeBytes, List.length_cons, ih]

/-- The bytes of a line from its home, of a core that has staged none. -/
theorem mem_lineBytes {s : State} {core pa : Nat} (h : (s.core core).stagedLine pa = none) {p : Nat × Byte}
    (hp : p ∈ (s.lineBytes core pa).zipIdx.map fun p => (p.2, p.1)) : p.2 = s.homeByte (lineOf pa + p.1) ∧ p.1 < 64 := by
  obtain ⟨q, hq, rfl⟩ := List.mem_map.mp hp
  rw [lineBytes_unstaged h] at hq
  obtain ⟨x, k⟩ := q
  have hat := List.mem_zipIdx_iff_getElem?.mp hq
  have hk : k < 64 := by
    by_contra hk
    rw [List.getElem?_eq_none (by rw [length_homeBytes]; omega)] at hat
    exact nomatch hat
  rw [getElem?_homeBytes s 64 hk] at hat
  exact ⟨(Option.some.inj hat).symm, hk⟩

section
variable {s u : State} {core line : Nat} (h : Holding s core line u)
include h

theorem Holding.allocate (pa hint : Nat) : Holding s core line (u.allocate core pa hint).2 ∧
    (lineOf pa = line → (u.allocate core pa hint).1.dirty = []) := by
  unfold State.allocate
  cases hl : (u.core core).line pa with
  | none => exact ⟨(h.touchL2 pa hint).makeRoom pa _, fun _ => rfl⟩
  | some l =>
    obtain ⟨hmem, hpa⟩ := Core.line_some hl
    exact ⟨h, fun hline => (h.tidy.clean l hmem (hpa.trans hline)).1⟩

theorem Holding.fill (only : s.onlyHome core line) {pa : Nat} (hpa : isRemote pa = false) (hint : Nat) :
    Holding s core line (u.fill core pa hint) := by
  unfold State.fill
  dsimp only
  rw [peerTurn_local _ hpa]
  have came := h.touchL2 pa hint
  generalize u.touchL2 pa hint = v at came ⊢
  split
  · exact came
  · obtain ⟨-, linePa, holds⟩ := allocate_line came.toSpills core pa hint
    obtain ⟨alloc, dirty⟩ := came.allocate pa hint
    refine ⟨alloc.toSpills.setCore rfl fun q b hb => ?_, ?_⟩
    · rcases Core.unwritten_putLine hb with hb | ⟨k, hk, rfl⟩
      · exact alloc.held core q b hb
      · exact came.held core _ _ (holds (k, b) hk)
    · rw [State.modCore, State.core_setCore]
      refine ⟨fun l hl hlpa => ?_, alloc.tidy.staged⟩
      rcases List.mem_cons.mp hl with rfl | hl
      · have self : lineOf pa = line := linePa.symm.trans hlpa
        refine ⟨dirty self, fun p hp hk => ?_⟩
        have unstaged : ((v.allocate core pa hint).2.core core).stagedLine pa = none :=
          List.find?_eq_none.mpr fun x hx => by simpa [self] using alloc.tidy.staged x hx
        rw [(mem_lineBytes unstaged (List.mem_filter.mp hp).1).1, self, alloc.home only hk]
      · exact (alloc.tidy.dropLine _).clean l hl hlpa

theorem Holding.loadBytes (only : s.onlyHome core line) {pa : Nat} (hpa : isRemote pa = false) (hint n : Nat) :
    Holding s core line (u.loadBytes core hint pa n).2 := by
  unfold State.loadBytes
  dsimp only
  split
  · exact h.fill only hpa hint
  · split
    · refine ⟨h.toSpills.setCore rfl fun q b hb => ?_, ?_⟩
      · rcases hb with ⟨l, hl, -, k, hk, rfl⟩ | staged
        · obtain ⟨x, hx, rfl⟩ := List.mem_map.mp hl
          split at hk
          · rw [if_pos (by assumption)]; exact h.held core _ _ (Core.holds_l1 hx (k, b) hk)
          · rw [if_neg (by assumption)]; exact h.held core _ _ (Core.holds_l1 hx (k, b) hk)
        · exact h.held core _ _ (.inr staged)
      · rw [State.modCore, State.core_setCore]
        exact h.tidy.keepLine pa
    · exact h

/-- Such a line reads as it does at its home. -/
theorem Holding.seen (only : s.onlyHome core line) (hline : line % 64 = 0) {k : Nat} (hk : k < 64) :
    u.seenByte core (line + k) = s.homeByte (line + k) := by
  rw [State.seenByte]
  cases hh : (u.core core).holds (line + k) with
  | none => exact h.home only hk
  | some b => exact h.tidy.holds hline hk b hh

end

theorem onlyHome_seen {s : State} (hs : s.Accepting) {core line : Nat} (only : s.onlyHome core line) (hline : line % 64 = 0) {k : Nat}
    (hk : k < 64) : s.seenByte core (line + k) = s.homeByte (line + k) :=
  (onlyHome_holding hs only hline).seen only hline hk

theorem loadBytes_one (s : State) (core hint pa : Nat) :
    (s.loadBytes core hint pa 1).1 = [(s.loadBytes core hint pa 1).2.seenByte core pa] := by
  simp [State.loadBytes]

end Sys2Proof.Machine
end


section
/-! PROOF. Loads of lines that hit, or that enter the L1 where there is room for them (R154 to R156, R168): nothing leaves the L1. -/

namespace Sys2Proof.Machine

/-! ### Lines of a core -/

theorem Core.line_putLine (c : Core) {l : Line} (hl : lineOf l.pa = l.pa) (pa : Nat) :
    (c.putLine l).line pa = if l.pa = lineOf pa then some l else c.line pa := by
  rw [Core.line, Core.putLine]
  dsimp only
  rw [List.find?_cons]
  by_cases h : l.pa = lineOf pa
  · simp [h]
  · simp only [h, decide_false, if_false, Core.dropLine, List.find?_filter]
    refine congrArg (List.find? · c.l1) (funext fun x => ?_)
    by_cases hx : x.pa = lineOf pa
    · simp [hx, hl, Ne.symm h]
    · simp [hx]

/-- The lines of a set in the L1. -/
def Core.linesInSet (c : Core) (set : Nat) : Nat := (c.l1.filter (fun x => setOf x.pa = set)).length

theorem Core.linesInSet_putLine (c : Core) (l : Line) (set : Nat) : (c.putLine l).linesInSet set ≤ c.linesInSet set + 1 := by
  have rest : ((c.l1.filter fun x => x.pa ≠ lineOf l.pa).filter fun x => setOf x.pa = set).length ≤ c.linesInSet set :=
    (List.filter_sublist.filter _).length_le
  rw [Core.linesInSet, Core.putLine]
  dsimp only [Core.dropLine]
  rw [List.filter_cons]
  split
  · exact Nat.succ_le_succ rest
  · exact rest.trans (Nat.le_succ _)

theorem keepLine_line_none (c : Core) (pa q : Nat) : (c.keepLine pa).line q = none ↔ c.line q = none := by
  have pas : ∀ x : Line, (if x.pa = lineOf pa then { x with hint := 3 } else x).pa = x.pa := fun x => by split <;> rfl
  simp [Core.line, Core.keepLine, List.find?_eq_none, pas]

theorem keepLine_linesInSet (c : Core) (pa set : Nat) : (c.keepLine pa).linesInSet set = c.linesInSet set := by
  have pas : ((fun x : Line => decide (setOf x.pa = set)) ∘ fun x => if x.pa = lineOf pa then { x with hint := 3 } else x) =
      fun x => decide (setOf x.pa = set) := by
    funext x
    simp only [Function.comp]
    split <;> rfl
  rw [Core.linesInSet, Core.linesInSet, Core.keepLine]
  dsimp only
  rw [List.filter_map, List.length_map, pas]

/-! ### Room -/

/-- A local line at home only, aligned, for which the L1 has room beside `n - 1` others. -/
def State.roomFor (s : State) (core n p : Nat) : Prop := p % 64 = 0 ∧ s.freshLine core n p

/-- Of the lines `ps` those in `extra` have entered the L1 of core `core`, and nothing has left it: the core sees the same bytes. -/
structure Roomy (s : State) (core : Nat) (ps extra : List Nat) (u : State) : Prop where
  mem    : u.mem = s.mem
  peer   : u.peer = s.peer
  blocks : u.blocks = s.blocks
  staged : (u.core core).staged = (s.core core).staged
  inL2   : ∀ pa, s.inL2 pa → u.inL2 pa
  seen   : ∀ pa, (u.core core).holds pa = (s.core core).holds pa ∨ (s.core core).holds pa = none ∧ (u.core core).holds pa = some (s.homeByte pa)
  l1     : ∀ pa, ((s.core core).inL1 pa).isSome → ((u.core core).inL1 pa).isSome
  count  : ∀ set, (u.core core).linesInSet set ≤ (s.core core).linesInSet set + extra.length
  nodup  : extra.Nodup
  sub    : ∀ p ∈ extra, p ∈ ps
  there  : ∀ p ∈ extra, (u.core core).line p ≠ none
  full   : ∀ p, s.roomFor core ps.length p → (u.core core).line p = none ∨ ∀ k, k < 64 → ((u.core core).inL1 (p + k)).isSome

theorem Roomy.refl (s : State) (core : Nat) (ps : List Nat) : Roomy s core ps [] s :=
  ⟨rfl, rfl, rfl, rfl, fun _ => id, fun _ => .inl rfl, fun _ => id, fun _ => by simp, .nil, fun _ h => absurd h List.not_mem_nil,
    fun _ h => absurd h List.not_mem_nil, fun _ ⟨_, only, _⟩ => .inl only.2.2.1⟩

section
variable {s u : State} {core : Nat} {ps extra : List Nat} (h : Roomy s core ps extra u)
include h

theorem Roomy.seenByte (pa : Nat) : u.seenByte core pa = s.seenByte core pa := by
  rw [State.seenByte, State.seenByte, homeByte_congr h.mem h.peer]
  rcases h.seen pa with same | ⟨none, home⟩
  · rw [same]
  · rw [none, home]; rfl

theorem Roomy.ways : u.ways core = s.ways core := by
  rw [State.ways, State.ways, State.blocksOn, State.blocksOn, h.blocks]

theorem Roomy.loadHit {pa : Nat} (hit : s.loadHit core pa 1 = true) : u.loadHit core pa 1 = true := by
  simp only [State.loadHit, h.ways, List.range_one, List.all_cons, List.all_nil, Bool.and_true, Nat.add_zero] at hit ⊢
  by_cases noWays : s.ways core = 0
  · rw [if_pos noWays] at hit ⊢
    rcases h.seen pa with same | ⟨-, home⟩
    · rwa [same]
    · rw [home]; rfl
  · rw [if_neg noWays] at hit ⊢
    exact h.l1 pa hit

/-- Only the L2, and the marks of the L1's lines, have changed. -/
theorem Roomy.core_sameBytes {v : State} (hm : v.mem = u.mem) (hp : v.peer = u.peer) (hb : v.blocks = u.blocks)
    (hl : ∀ pa, u.inL2 pa → v.inL2 pa) (same : SameBytes (u.core core) (v.core core))
    (staged : (v.core core).staged = (u.core core).staged) (count : ∀ set, (v.core core).linesInSet set = (u.core core).linesInSet set)
    (none : ∀ q, (v.core core).line q = none ↔ (u.core core).line q = none) : Roomy s core ps extra v where
  mem := hm.trans h.mem
  peer := hp.trans h.peer
  blocks := hb.trans h.blocks
  staged := staged.trans h.staged
  inL2 pa := fun hpa => hl pa (h.inL2 pa hpa)
  seen := by rw [same.holds]; exact h.seen
  l1 := by rw [same.l1]; exact h.l1
  count set := by rw [count]; exact h.count set
  nodup := h.nodup
  sub := h.sub
  there p hp := fun hn => h.there p hp ((none p).mp hn)
  full p hp := by rw [same.l1, none]; exact h.full p hp

theorem Roomy.keepLine (pa : Nat) : Roomy s core ps extra (u.modCore core (·.keepLine pa)) := by
  have core' : (u.modCore core (·.keepLine pa)).core core = (u.core core).keepLine pa := by rw [State.modCore, State.core_setCore]
  refine h.core_sameBytes rfl rfl rfl (fun _ => id) ?_ ?_ ?_ ?_
  · rw [core']; exact keepLine_sameBytes _ pa
  · rw [core']; rfl
  · rw [core']; exact keepLine_linesInSet _ pa
  · rw [core']; exact keepLine_line_none _ pa

end

/-- R155, R156: a line that stands in the L2 evicts nothing. -/
theorem touchL2_inL2 {s : State} {pa : Nat} (h : s.inL2 pa) (hint : Nat) : ∃ g : Die → Die,
    s.touchL2 pa hint = s.modDie (homeDie pa) g ∧ (∀ d, (g d).l2.map (·.1) = d.l2.map (·.1)) ∨ s.touchL2 pa hint = s := by
  unfold State.touchL2
  split
  · exact ⟨id, .inr rfl⟩
  · rename_i hlocal
    dsimp only
    split
    · split
      · exact ⟨id, .inr rfl⟩
      · refine ⟨_, .inl ⟨rfl, fun d => ?_⟩⟩
        rw [List.map_map]
        refine List.map_congr_left fun q _ => ?_
        simp only [Function.comp]
        split
        · exact (by assumption : q.1 = pa / 256).symm
        · rfl
    · rename_i hnone
      rcases h with remote | ⟨p, hp, hpa⟩
      · exact absurd remote hlocal
      · have := List.find?_eq_none.mp hnone p hp
        simp [hpa] at this

theorem touchL2_core {s : State} {pa : Nat} (h : s.inL2 pa) (hint c : Nat) : (s.touchL2 pa hint).core c = s.core c := by
  obtain ⟨g, ⟨modified, -⟩ | same⟩ := touchL2_inL2 h hint
  · rw [modified]; rfl
  · rw [same]

theorem Roomy.touchL2 {s u : State} {core : Nat} {ps extra : List Nat} (h : Roomy s core ps extra u) {pa : Nat} (hl2 : s.inL2 pa)
    (hint : Nat) : Roomy s core ps extra (u.touchL2 pa hint) := by
  obtain ⟨g, ⟨modified, keys⟩ | same⟩ := touchL2_inL2 (h.inL2 pa hl2) hint
  · rw [modified]
    refine h.core_sameBytes rfl rfl rfl (fun q hq => ?_) ⟨rfl, rfl⟩ rfl (fun _ => rfl) (fun _ => .rfl)
    rcases hq with remote | ⟨p, hp, hpa⟩
    · exact .inl remote
    · right
      by_cases hd : homeDie q = homeDie pa
      · have key : p.1 ∈ ((g (u.die (homeDie pa))).l2).map (·.1) := by
          rw [keys, ← hd]; exact List.mem_map_of_mem hp
        obtain ⟨p', hp', heq⟩ := List.mem_map.mp key
        refine ⟨p', ?_, heq.trans hpa⟩
        rw [hd, State.die_modDie]
        exact hp'
      · refine ⟨p, ?_, hpa⟩
        rw [State.die_modDie_other _ _ hd]
        exact hp
  · rw [same]; exact h

end Sys2Proof.Machine
end


section
/-! PROOF. A line that finds room enters the L1 (R154 to R156). -/

namespace Sys2Proof.Machine

theorem inL2_add {s : State} {line k : Nat} (hline : line % 64 = 0) (hk : k < 64) (h : s.inL2 line) : s.inL2 (line + k) := by
  rcases h with remote | ⟨p, hp, hpa⟩
  · exact .inl ((isRemote_add hline hk).trans remote)
  · have die : homeDie (line + k) = homeDie line := by
      have high : (line + k) / 2 ^ 46 = line / 2 ^ 46 := by omega
      rw [homeDie, homeDie, bitsOf, bitsOf, high]
    refine .inr ⟨p, by rwa [die], ?_⟩
    omega

/-- The line of a miss as it enters the L1. -/
def missLine (s : State) (core pa hint : Nat) : Line :=
  { pa := lineOf pa, va := 0, dirty := [], hint := hint, epoch := 0,
    filled := (s.lineBytes core pa).zipIdx.map fun p => (p.2, p.1) }

theorem find_missLine {s : State} {core pa : Nat} (h : (s.core core).stagedLine pa = none) (hint : Nat) {k : Nat} (hk : k < 64) :
    NMap.find (missLine s core pa hint).filled k = some (s.homeByte (lineOf pa + k)) := by
  have home : s.lineBytes core pa = s.homeBytes (lineOf pa) 64 := lineBytes_unstaged h
  have found := find_zipIdx (s.homeBytes (lineOf pa) 64) 0 k
  rw [Nat.zero_add, getElem?_homeBytes s 64 hk] at found
  rw [missLine, home]
  exact found

/-- R154: a fill of a missing line, where the L1 has room for it. -/
theorem fill_room {s : State} {core pa hint : Nat} (hlocal : isRemote pa = false) (none : (s.core core).line pa = none)
    (touch : ∀ u, u = s.touchL2 pa hint ∨ u = (s.touchL2 pa hint).touchL2 pa hint → (u.core core).line pa = (s.core core).line pa ∧
      (u.core core).linesInSet (setOf pa) < u.ways core ∧ u.ways core = s.ways core) :
    s.fill core pa hint = s.touchL2 pa hint ∨
      ∃ u, u = (s.touchL2 pa hint).touchL2 pa hint ∧ s.fill core pa hint = u.modCore core (·.putLine (missLine u core pa hint)) := by
  obtain ⟨line1, -, ways1⟩ := touch _ (.inl rfl)
  obtain ⟨line2, room, ways2⟩ := touch _ (.inr rfl)
  unfold State.fill
  dsimp only
  rw [peerTurn_local _ hlocal]
  split
  · exact .inl rfl
  · refine .inr ⟨_, rfl, ?_⟩
    have alloc : (s.touchL2 pa hint).allocate core pa hint =
        ({ pa := lineOf pa, va := 0, filled := [], dirty := [], hint := hint, epoch := 0 }, (s.touchL2 pa hint).touchL2 pa hint) := by
      rw [State.allocate, line1, none]
      dsimp only
      rw [State.makeRoom]
      dsimp only
      rw [if_pos (by rw [ways1, ← ways2]; exact room)]
    rw [alloc]
    dsimp only
    rw [missLine]
    congr 3

section
variable {s u : State} {core : Nat} {ps extra : List Nat} (h : Roomy s core ps extra u)
include h

/-- There is room for a line that has not entered. -/
theorem Roomy.room {p : Nat} (hp : p ∈ ps) (hroom : s.roomFor core ps.length p) (none : (u.core core).line p = none) :
    (u.core core).linesInSet (setOf p) < u.ways core := by
  obtain ⟨-, -, -, room⟩ := hroom
  have out : p ∉ extra := fun hmem => h.there p hmem none
  have fits : (p :: extra).length ≤ ps.length :=
    ((List.nodup_cons.mpr ⟨out, h.nodup⟩).subperm fun q hq => by
      rcases List.mem_cons.mp hq with rfl | hq
      · exact hp
      · exact h.sub q hq).length_le
  have count := h.count (setOf p)
  rw [h.ways]
  rw [List.length_cons] at fits
  have free : (s.core core).linesInSet (setOf p) + ps.length ≤ s.ways core := room
  omega

/-- Such a line enters. -/
theorem Roomy.putLine {p : Nat} (hp : p ∈ ps) (hroom : s.roomFor core ps.length p) (none : (u.core core).line p = none) {k : Nat}
    (hk : k < 64) (hint : Nat) :
    Roomy s core ps (p :: extra) (u.modCore core (·.putLine (missLine u core (p + k) hint))) := by
  obtain ⟨aligned, only, -, -⟩ := hroom
  obtain ⟨self, -⟩ := lineOf_add aligned hk
  have fixed : lineOf p = p := (lineOf_add aligned (k := 0) (by omega)).1
  have unstaged : ∀ q, lineOf q = p → (u.core core).stagedLine q = Option.none := fun q hq => by
    have := only.2.2.2
    rw [Core.stagedLine, fixed] at this
    rw [Core.stagedLine, hq, h.staged]
    exact this
  have lines : ∀ q, ((u.core core).putLine (missLine u core (p + k) hint)).line q =
      if p = lineOf q then some (missLine u core (p + k) hint) else (u.core core).line q := fun q => by
    rw [Core.line_putLine _ (by simp [missLine])]
    simp only [missLine, self]
  have filled : ∀ q, p = lineOf q → ((u.core core).putLine (missLine u core (p + k) hint)).inL1 q = some (s.homeByte q) := fun q hq => by
    have byte := find_missLine (unstaged (p + k) self) hint (k := q % 64) (by omega)
    have hat : p + q % 64 = q := by rw [hq, lineOf]; omega
    rw [self, hat, homeByte_congr h.mem h.peer] at byte
    rw [Core.inL1, lines, if_pos hq, Option.bind_some, byte]
    rfl
  have others : ∀ q, p ≠ lineOf q → ((u.core core).putLine (missLine u core (p + k) hint)).inL1 q = (u.core core).inL1 q := fun q hq => by
    rw [Core.inL1, Core.inL1, lines, if_neg hq]
  have core' : (u.modCore core (·.putLine (missLine u core (p + k) hint))).core core =
      (u.core core).putLine (missLine u core (p + k) hint) := by rw [State.modCore, State.core_setCore]
  refine ⟨h.mem, h.peer, h.blocks, ?_, h.inL2, fun q => ?_, fun q hq => ?_, fun set => ?_, ?_, ?_, ?_, ?_⟩
  · rw [core']; exact h.staged
  · rw [core']
    by_cases hq : p = lineOf q
    · right
      have before : (u.core core).holds q = Option.none := by
        have : (u.core core).line q = Option.none := by rw [Core.line, ← hq, ← fixed]; exact none
        rw [Core.holds, Core.inL1, this, unstaged q hq.symm]
        rfl
      refine ⟨?_, ?_⟩
      · rcases h.seen q with same | ⟨-, home⟩
        · rw [← same]; exact before
        · rw [before] at home; exact nomatch home
      · rw [Core.holds, filled q hq]; rfl
    · have same : ((u.core core).putLine (missLine u core (p + k) hint)).holds q = (u.core core).holds q := by
        rw [Core.holds, Core.holds, others q hq]
        rfl
      rw [same]
      exact h.seen q
  · rw [core']
    by_cases hq' : p = lineOf q
    · rw [filled q hq']; rfl
    · rw [others q hq']; exact h.l1 q hq
  · rw [core']
    exact (Core.linesInSet_putLine _ _ set).trans (by have := h.count set; rw [List.length_cons]; omega)
  · exact List.nodup_cons.mpr ⟨fun hmem => h.there p hmem none, h.nodup⟩
  · intro q hq
    rcases List.mem_cons.mp hq with rfl | hq
    · exact hp
    · exact h.sub q hq
  · intro q hq
    rw [core', lines]
    split
    · exact Option.some_ne_none _
    · rcases List.mem_cons.mp hq with rfl | hq
      · exact absurd fixed.symm (by assumption)
      · exact h.there q hq
  · intro q hq
    rw [core']
    by_cases same : p = q
    · subst same
      exact .inr fun j hj => by rw [filled (p + j) (lineOf_add aligned hj).1.symm]; rfl
    · have selfq : ∀ j, j < 64 → p ≠ lineOf (q + j) := fun j hj heq => same (heq.trans (lineOf_add hq.1 hj).1)
      rcases h.full q hq with hnone | hfull
      · left
        rw [lines, if_neg (by simpa using selfq 0 (by omega))]
        exact hnone
      · exact .inr fun j hj => by rw [others _ (selfq j hj)]; exact hfull j hj

/-- A byte that hits, or that finds room: it is read as before, and nothing leaves the L1. -/
theorem Roomy.loadBytes {p : Nat} (hp : p ∈ ps) {k : Nat} (hk : k < 64)
    (ok : s.loadHit core (p + k) 1 = true ∨ s.roomFor core ps.length p) (hint : Nat) :
    ∃ extra', Roomy s core ps extra' (u.loadBytes core hint (p + k) 1).2 := by
  unfold State.loadBytes
  dsimp only
  split
  case isFalse hit =>
    split
    · exact ⟨extra, h.keepLine _⟩
    · exact ⟨extra, h⟩
  case isTrue miss =>
    have hroom : s.roomFor core ps.length p := ok.resolve_left fun hit => by simp [h.loadHit hit] at miss
    obtain ⟨aligned, only, hl2, room⟩ := id hroom
    have self : lineOf (p + k) = p := (lineOf_add aligned hk).1
    have fixed : lineOf p = p := (lineOf_add aligned (k := 0) (by omega)).1
    have sameLine : ∀ c : Core, c.line (p + k) = c.line p := fun c => by rw [Core.line, Core.line, self, fixed]
    have sameSet : setOf (p + k) = setOf p := by rw [setOf, setOf]; congr 1; omega
    have hl2' := inL2_add aligned hk hl2
    have hways : u.ways core ≠ 0 := by
      rw [h.ways]
      have := List.length_pos_of_mem hp
      omega
    have none : (u.core core).line p = Option.none := (h.full p hroom).resolve_right fun full => by
      simp [State.loadHit, hways, full k hk] at miss
    have once := h.touchL2 hl2' hint
    have twice := once.touchL2 hl2' hint
    have line1 := touchL2_core (h.inL2 _ hl2') hint core
    have line2 := touchL2_core (once.inL2 _ hl2') hint core
    have fills := fill_room (core := core) (hint := hint) ((isRemote_add aligned hk).trans only.1) ((sameLine _).trans none) fun v hv => by
      rcases hv with rfl | rfl
      · refine ⟨by rw [line1], ?_, once.ways.trans h.ways.symm⟩
        rw [sameSet]
        exact once.room hp hroom (by rw [line1]; exact none)
      · refine ⟨by rw [line2, line1], ?_, twice.ways.trans h.ways.symm⟩
        rw [sameSet]
        exact twice.room hp hroom (by rw [line2, line1]; exact none)
    rcases fills with same | ⟨v, rfl, filled⟩
    · exact ⟨extra, by rw [same]; exact once⟩
    · refine ⟨p :: extra, ?_⟩
      rw [filled]
      exact twice.putLine hp hroom (by rw [line2, line1]; exact none) hk hint

end

end Sys2Proof.Machine
end


section
/-! PROOF. Bursts that arrive (R67, R180, R336, R437, R441). -/

namespace Sys2Proof.Machine

theorem exec_burstArrival (id i : Nat) (s : State) : exec (.burstArrival id i) s = .next ((s.readBurst id i).getD s) := rfl

/-! ### Loads of a thread -/

theorem threadLoad_unpaired {u : State} {tid : Nat} {th : Thread} (hth : u.thread tid = some th) (hp : th.pair = none) (core hint pa : Nat) :
    u.threadLoad tid core hint pa 1 = u.loadBytes core hint pa 1 := by
  have thread : (u.loadBytes core hint pa 1).2.thread tid = some th := by
    have threads : (u.loadBytes core hint pa 1).2.threads = u.threads := congrArg Prod.fst (loadBytes_units u core hint pa 1)
    rw [← hth, State.thread, State.thread, threads]
  rw [State.threadLoad]
  dsimp only
  rw [thread]
  refine Prod.ext ?_ rfl
  dsimp only
  rw [loadBytes_one]
  simp [Thread.pending, hp]

theorem length_threadLoad (u : State) (tid core hint pa : Nat) : (u.threadLoad tid core hint pa 1).1.length = 1 := by
  rw [State.threadLoad]
  dsimp only
  split
  · rw [loadBytes_one]; rfl
  · rw [loadBytes_one]; rfl

theorem threadLoad_state (u : State) (tid core hint pa : Nat) :
    (u.threadLoad tid core hint pa 1).2 = (u.loadBytes core hint pa 1).2 := by
  rw [State.threadLoad]
  dsimp only
  split <;> rfl

/-! ### The bytes of a burst -/

theorem length_burstBytes (br : Bread) (lines : List (Nat × Nat)) (l : List (Option Nat)) (s : State) :
    (s.burstBytes br lines l).1.length = l.length := by
  induction l generalizing s with
  | nil => rfl
  | cons x rest ih =>
    cases x with
    | none => exact congrArg (· + 1) (ih s)
    | some va =>
      rw [State.burstBytes, List.length_append, length_threadLoad, ih, List.length_cons, Nat.add_comm]

/-- What every load of a byte keeps, the whole read keeps. -/
theorem burstBytes_keeps {P : State → Prop} {br : Bread} {lines : List (Nat × Nat)} {l : List (Option Nat)}
    (keeps : ∀ u va, some va ∈ l → P u → P (u.loadBytes br.core br.hint ((lineAt lines va).getD 0 + va % 64) 1).2) {s : State} (h : P s) :
    P (s.burstBytes br lines l).2 := by
  induction l generalizing s with
  | nil => exact h
  | cons x rest ih =>
    have later : ∀ {u : State}, P u → P (u.burstBytes br lines rest).2 := fun hu =>
      ih (fun u va hva => keeps u va (List.mem_cons_of_mem _ hva)) hu
    cases x with
    | none => exact later h
    | some va =>
      rw [State.burstBytes]
      dsimp only
      refine later ?_
      rw [threadLoad_state]
      exact keeps s va List.mem_cons_self h

/-- A read of which each byte is what `val` says. -/
theorem burstBytes_reads {P : State → Prop} {br : Bread} {lines : List (Nat × Nat)} {val : Nat → Byte} {th : Thread} (hp : th.pair = none)
    {l : List (Option Nat)} (thread : ∀ u, P u → u.thread br.tid = some th)
    (keeps : ∀ u va, some va ∈ l → P u → P (u.loadBytes br.core br.hint ((lineAt lines va).getD 0 + va % 64) 1).2)
    (reads : ∀ u va, some va ∈ l → P u → u.seenByte br.core ((lineAt lines va).getD 0 + va % 64) = val va) {s : State} (h : P s) :
    (s.burstBytes br lines l).1 = l.map (fun x => x.elim 0 val) := by
  induction l generalizing s with
  | nil => rfl
  | cons x rest ih =>
    have later : ∀ {u : State}, P u → (u.burstBytes br lines rest).1 = rest.map fun x => x.elim 0 val := fun hu =>
      ih (fun u va hva => keeps u va (List.mem_cons_of_mem _ hva))
      (fun u va hva => reads u va (List.mem_cons_of_mem _ hva)) hu
    cases x with
    | none => exact congrArg (0 :: ·) (later h)
    | some va =>
      have kept := keeps s va List.mem_cons_self h
      rw [State.burstBytes]
      dsimp only
      rw [threadLoad_unpaired (thread s h) hp, loadBytes_one, reads _ va List.mem_cons_self kept, later kept]
      rfl

end Sys2Proof.Machine
end


section
/-! PROOF. The arrival of a burst whose lines translate and can be read (R67, R180, R336), and of one with an address too high (R441). -/

namespace Sys2Proof.Machine

/-! ### Translated lines -/

theorem reachLines_keys {core since : Nat} {need : Need} {vlines : List Nat} {s t : State} {lines : List (Nat × Nat)}
    (h : s.reachLines core need since vlines = (some (lines, []), t)) : lines.map (·.1) = vlines := by
  induction vlines generalizing s lines with
  | nil =>
    obtain ⟨rfl, -⟩ := Prod.mk.inj (Option.some.inj (Prod.mk.inj h).1)
    rfl
  | cons l rest ih =>
    rw [State.reachLines] at h
    split at h
    · simp at h
    · split at h
      · rename_i hrest
        obtain ⟨rfl, rfl⟩ := Prod.mk.inj (Option.some.inj (Prod.mk.inj h).1)
        rw [List.map_cons, ih ((hrest.trans (by rw [(Prod.mk.inj h).2])))]
      · simp at h
    · split at h
      · simp at h
      · simp at h

/-- Each byte of a burst lies in a line that translated. -/
theorem lineAt_of_reach {s t : State} {core : Nat} {need : Need} {b : Burst} {lines : List (Nat × Nat)}
    (h : s.reachLines core need 0 b.linesOf = (some (lines, []), t)) {va : Nat} (hva : some va ∈ b.bytes) :
    ∃ p, lineAt lines va = some p ∧ (lineOf va, p) ∈ lines := by
  have key : lineOf va ∈ lines.map (·.1) := by
    rw [reachLines_keys h, Burst.linesOf, List.mem_eraseDups]
    exact List.mem_map_of_mem (List.mem_filterMap.mpr ⟨some va, hva, rfl⟩)
  obtain ⟨q, hq, hkey⟩ := List.mem_map.mp key
  cases hfind : lines.find? (fun p => p.1 = lineOf va) with
  | none => simpa [hkey] using List.find?_eq_none.mp hfind q hq
  | some p =>
    refine ⟨p.2, by rw [lineAt, hfind]; rfl, ?_⟩
    have hp : p.1 = lineOf va := by simpa using List.find?_some hfind
    rw [← hp]
    exact List.mem_of_find?_eq_some hfind

/-- The accesses of a burst, one for each byte. -/
def Burst.accs (b : Burst) : List Access :=
  b.bytes.map fun x => ({ lane := 0, elem := 0, va := x, w := 1, data := [], bit := 0 } : Access)

/-- A line of a burst that hits: each of its bytes hits. -/
theorem hits_byte {s : State} {core : Nat} {b : Burst} {va p : Nat} (h : s.hits core b.accs (lineOf va, p)) (hva : some va ∈ b.bytes) :
    s.loadHit core (p + va % 64) 1 = true :=
  h _ (List.mem_map_of_mem hva) (va, 1, 0) List.mem_cons_self 0 Nat.zero_lt_one rfl

/-! ### The step -/

/-- What a burst of a bread waits with once it has arrived. -/
def arrived (data : List Byte) (b : Burst) : Burst := { b with waits := [], state := .waiting data }

section
variable {s s1 : State} {id i : Nat} {br : Bread} {e : Env} {b : Burst} {lines : List (Nat × Nat)} (hbr : s.bread id = some br)
  (he : s.envOf br.tid = some e) (hb : br.bursts[i]? = some b) (hunread : b.state = .unread) (hwaits : b.waits = [])
include hbr he hb hunread hwaits

theorem readBurst_arrives (hfar : b.far = none) (reach : s.reachLines br.core .r 0 b.linesOf = (some (lines, []), s1))
    (hwait : s1.linesWait br.core lines = false) (hgood : s1.burstBad e.th br.core lines b = none) :
    exec (.burstArrival id i) s = .next ((s1.burstBytes br lines b.bytes).2.modBread id fun x =>
      x.setBurst i (arrived (s1.burstBytes br lines b.bytes).1)) := by
  have since : sinceOf b.waits = 0 := by rw [hwaits]; rfl
  have ready : ¬ (b.state ≠ .unread ∨ b.waits.any (fun w => !w.told) = true) := by simp [hunread, hwaits]
  rw [exec_burstArrival]
  have arrives : s.readBurst id i = some ((s1.burstBytes br lines b.bytes).2.modBread id fun x =>
      x.setBurst i (arrived (s1.burstBytes br lines b.bytes).1)) := by
    unfold State.readBurst
    rw [hbr]
    dsimp only
    rw [hb, he]
    dsimp only
    rw [if_neg ready, hfar, since, reach]
    dsimp only
    rw [hwait, hgood, if_neg Bool.false_ne_true, List.find?_nil]
    dsimp only
    rw [if_neg (not_not.mpr rfl)]
    rfl
  rw [arrives]
  rfl

theorem readBurst_far {va : Nat} (hfar : b.far = some va) : exec (.burstArrival id i) s = .next (s.bornFaulted id i 0x14 va) := by
  have ready : ¬ (b.state ≠ .unread ∨ b.waits.any (fun w => !w.told) = true) := by simp [hunread, hwaits]
  rw [exec_burstArrival]
  have faults : s.readBurst id i = some (s.bornFaulted id i 0x14 va) := by
    unfold State.readBurst
    rw [hbr]
    dsimp only
    rw [hb, he]
    dsimp only
    rw [if_neg ready, hfar]
  rw [faults]
  rfl

end

/-! ### Bursts of a bread -/

theorem setBurst_getElem? (br : Bread) (i j : Nat) (f : Burst → Burst) :
    (br.setBurst i f).bursts[j]? = (br.bursts[j]?).map fun b => if j = i then f b else b := by
  rw [Bread.setBurst, List.getElem?_map, List.getElem?_zipIdx, Option.map_map]
  refine congrArg (Option.map · _) (funext fun b => ?_)
  simp [Function.comp]

theorem bread_modBread {s : State} {id : Nat} {br : Bread} (h : s.bread id = some br) (f : Bread → Bread) :
    (s.modBread id f).bread id = some (f br) := by
  rw [State.modBread, h]
  exact NMap.find_put_same _ _ _

theorem modBread_breads {s : State} {id : Nat} {br : Bread} (h : s.bread id = some br) (f : Bread → Bread) :
    s.modBread id f = { s with breads := (s.modBread id f).breads } := by
  rw [State.modBread, h]

theorem far_none {b : Burst} (h : ∀ va, some va ∈ b.bytes → va < 2 ^ 52) : b.far = none := by
  refine List.find?_eq_none.mpr fun va hva => ?_
  obtain ⟨x, hx, rfl⟩ := List.mem_filterMap.mp hva
  have := h va (by simpa using hx)
  simpa using this

end Sys2Proof.Machine
end


section
/-! PROOF. The bytes that an arriving burst reads (R67, R154, R180), and the step BURST_ARRIVAL. -/

namespace Sys2Proof.Machine

theorem byteAt_of_line {s : State} {core va p : Nat} {lines : List (Nat × Nat)} (h : lineAt lines va = some p) :
    s.byteAt core lines va = s.seenByte core (p + va % 64) := by
  rw [State.byteAt, h]

theorem threads_of_units {s u : State} (h : u.units = s.units) (tid : Nat) : u.thread tid = s.thread tid := by
  have : u.threads = s.threads := congrArg Prod.fst h
  rw [State.thread, State.thread, this]

section
variable {s s1 : State} {br : Bread} {e : Env} {b : Burst} {lines : List (Nat × Nat)} (he : s.envOf br.tid = some e)
  (solo : e.th.pair = none) (reach : s.reachLines br.core .r 0 b.linesOf = (some (lines, []), s1))
include he solo reach

/-- A read of a burst of which each load keeps what the core sees of the burst's lines, reads those bytes. -/
theorem burstBytes_of {P : State → Prop} (start : P s1)
    (keeps : ∀ u va p, some va ∈ b.bytes → (lineOf va, p) ∈ lines → P u → P (u.loadBytes br.core br.hint (p + va % 64) 1).2)
    (reads : ∀ u va p, some va ∈ b.bytes → (lineOf va, p) ∈ lines → P u →
      u.seenByte br.core (p + va % 64) = s1.seenByte br.core (p + va % 64)) :
    (s1.burstBytes br lines b.bytes).1 = b.bytes.map (fun x => x.elim 0 (s1.byteAt br.core lines)) := by
  have thread : s.thread br.tid = some e.th := (envOf_thread he).1
  refine burstBytes_reads (P := fun u => u.units = s.units ∧ P u) solo (fun u hu => (threads_of_units hu.1 br.tid).trans thread)
    (fun u va hva hu => ?_) (fun u va hva hu => ?_) ⟨(reachLines_ok reach).units, start⟩
  · obtain ⟨p, hp, hmem⟩ := lineAt_of_reach reach hva
    rw [hp, Option.getD_some]
    exact ⟨(loadBytes_units _ _ _ _ _).trans hu.1, keeps u va p hva hmem hu.2⟩
  · obtain ⟨p, hp, hmem⟩ := lineAt_of_reach reach hva
    rw [byteAt_of_line hp, hp, Option.getD_some]
    exact reads u va p hva hmem hu.2

/-- Bytes that all hit. -/
theorem burstBytes_hit (hits : ∀ l ∈ lines, s1.hits br.core b.accs l) :
    (s1.burstBytes br lines b.bytes).1 = b.bytes.map (fun x => x.elim 0 (s1.byteAt br.core lines)) := by
  refine burstBytes_of he solo reach (P := fun u => ReadsAs s1 u br.core) (.refl s1 br.core) (fun u va p hva hmem hu => ?_)
    fun u va p _ _ hu => hu.seen _
  have hit : u.loadHit br.core (p + va % 64) 1 = true := (hu.loadHit _ 1).trans (hits_byte (hits _ hmem) hva)
  obtain ⟨-, later, -⟩ := loadBytes_hit (hint := br.hint) hit
  exact hu.trans later

/-- Bytes that hit, or whose lines find room. -/
theorem burstBytes_room (ok : ∀ l ∈ lines, l.2 % 64 = 0 ∧ (s1.hits br.core b.accs l ∨ s1.freshLine br.core lines.length l.2)) :
    (s1.burstBytes br lines b.bytes).1 = b.bytes.map (fun x => x.elim 0 (s1.byteAt br.core lines)) := by
  refine burstBytes_of he solo reach (P := fun u => ∃ extra, Roomy s1 br.core (lines.map (·.2)) extra u) ⟨[], .refl _ _ _⟩
    (fun u va p hva hmem hu => ?_) fun u va p _ _ hu => hu.choose_spec.seenByte _
  obtain ⟨extra, hu⟩ := hu
  obtain ⟨aligned, hit | fresh⟩ := ok _ hmem
  · exact hu.loadBytes (List.mem_map_of_mem hmem) (Nat.mod_lt _ (by decide)) (.inl (hits_byte hit hva)) _
  · exact hu.loadBytes (List.mem_map_of_mem hmem) (Nat.mod_lt _ (by decide))
      (.inr ⟨aligned, by rw [List.length_map]; exact fresh⟩) _

/-- Bytes of lines that are at home only. -/
theorem burstBytes_home (hs : s1.Accepting) (ok : ∀ l ∈ lines, s1.onlyHome br.core l.2 ∧ l.2 % 64 = 0) :
    (s1.burstBytes br lines b.bytes).1 = b.bytes.map (fun x => x.elim 0 (s1.byteAt br.core lines)) := by
  refine burstBytes_of he solo reach (P := fun u => ∀ l ∈ lines, Holding s1 br.core l.2 u)
    (fun l hl => onlyHome_holding hs (ok l hl).1 (ok l hl).2) (fun u va p hva hmem hu l hl => ?_) fun u va p hva hmem hu => ?_
  · obtain ⟨only, aligned⟩ := ok _ hmem
    have offset : va % 64 < 64 := Nat.mod_lt _ (by decide)
    exact (hu l hl).loadBytes (ok l hl).1 ((isRemote_add aligned offset).trans only.1) _ _
  · obtain ⟨only, aligned⟩ := ok _ hmem
    have offset : va % 64 < 64 := Nat.mod_lt _ (by decide)
    rw [(hu _ hmem).seen only aligned offset, onlyHome_seen hs only aligned offset]

/-- R67, R180: what an arriving burst reads, and what of memory may have changed. -/
theorem burstBytes_fetches {t : State} (home : ∀ pa, t.homeByte pa = (s1.burstBytes br lines b.bytes).2.homeByte pa) :
    Fetches s s1 t br.core b.accs lines
      ((s1.burstBytes br lines b.bytes).1 = b.bytes.map (fun x => x.elim 0 (s1.byteAt br.core lines))) := by
  refine ⟨burstBytes_hit he solo reach, fun _ => burstBytes_room he solo reach, fun hs => burstBytes_home he solo reach hs.accepting,
    fun hs pa hlocal => ?_⟩
  have spills : LocalSpills s1 (s1.burstBytes br lines b.bytes).2 :=
    burstBytes_keeps (P := LocalSpills s1) (fun u _ _ hu => hu.loadBytes _ _ _ _) (.refl hs.accepting)
  have tlbs := reachLines_ok reach
  rw [home, ← homeByte_congr tlbs.mem tlbs.peer]
  exact spills.stored pa hlocal

omit he solo reach in
/-- Where every byte hits, nothing is left but the marks of a `.keep`. -/
theorem burstBytes_same (reach : s.reachLines br.core .r 0 b.linesOf = (some (lines, []), s1))
    (hits : ∀ l ∈ lines, s1.hits br.core b.accs l) (hint : br.hint ≠ 3) : (s1.burstBytes br lines b.bytes).2 = s1 := by
  refine burstBytes_keeps (P := fun u => u = s1) (fun u va hva hu => ?_) rfl
  subst hu
  obtain ⟨p, hp, hmem⟩ := lineAt_of_reach reach hva
  rw [hp, Option.getD_some]
  obtain ⟨-, -, same⟩ := loadBytes_hit (hint := br.hint) (hits_byte (hits _ hmem) hva)
  exact same hint

end

/-- R67, R336: a burst that can be read arrives. -/
theorem burst_arrives {s s1 : State} {id i : Nat} {br : Bread} {e : Env} {b : Burst} {lines : List (Nat × Nat)}
    (hbr : s.bread id = some br) (he : s.envOf br.tid = some e) (solo : e.th.pair = none) (hb : br.bursts[i]? = some b)
    (hunread : b.state = .unread) (hwaits : b.waits = []) (hlow : ∀ va, some va ∈ b.bytes → va < 2 ^ 52)
    (reach : s.reachLines br.core .r 0 b.linesOf = (some (lines, []), s1)) (hwait : s1.linesWait br.core lines = false)
    (hgood : s1.burstBad e.th br.core lines b = none) :
    ∃ (t : State) (br' : Bread) (b' : Burst) (data : List Byte), exec (.burstArrival id i) s = .next t ∧
      t.bread id = some br' ∧ br'.bursts[i]? = some b' ∧ b'.state = .waiting data ∧ data.length = b.bytes.length ∧
      (∀ j : Nat, j ≠ i → br'.bursts[j]? = br.bursts[j]?) ∧ (∀ u, t.thread u = s.thread u) ∧
      ((∀ l ∈ lines, s1.hits br.core b.accs l) → br.hint ≠ 3 → t = { s1 with breads := t.breads }) ∧
      Fetches s s1 t br.core b.accs lines (data = b.bytes.map (fun x => x.elim 0 (s1.byteAt br.core lines))) := by
  have units : (s1.burstBytes br lines b.bytes).2.units = s.units :=
    burstBytes_keeps (P := fun u => u.units = s.units) (fun u _ _ hu => (loadBytes_units _ _ _ _ _).trans hu) (reachLines_ok reach).units
  have bread : (s1.burstBytes br lines b.bytes).2.bread id = some br := by
    have : (s1.burstBytes br lines b.bytes).2.breads = s.breads := congrArg Prod.snd units
    rw [State.bread, this]; exact hbr
  refine ⟨_, _, _, _, readBurst_arrives hbr he hb hunread hwaits (far_none hlow) reach hwait hgood, bread_modBread bread _,
    by rw [setBurst_getElem?, hb]; exact congrArg some (if_pos rfl), rfl, length_burstBytes _ _ _ _, fun j hj => ?_, fun u => ?_,
    fun hits hint => ?_, burstBytes_fetches he solo reach fun pa => homeByte_congr (by simp) (by simp) pa⟩
  · rw [setBurst_getElem?]
    simp [hj]
  · refine .trans ?_ (threads_of_units units u)
    rw [State.thread, State.thread, State.modBread_threads]
  · have same := burstBytes_same reach hits hint
    rw [modBread_breads bread]
    rw [same]

/-- R441: a burst with an address too high faults. -/
theorem far_some {b : Burst} {va : Nat} {pre post : List Nat} (hbytes : b.bytes.filterMap (fun x => x) = pre ++ va :: post)
    (low : ∀ x ∈ pre, x < 2 ^ 52) (high : 2 ^ 52 ≤ va) : b.far = some va := by
  have bytes : b.bytes.filterMap id = pre ++ va :: post := hbytes
  have none : pre.find? (fun va => decide (2 ^ 52 ≤ va)) = none := List.find?_eq_none.mpr fun x hx => by simpa using low x hx
  rw [Burst.far, bytes, List.find?_append, none, Option.none_or, List.find?_cons_of_pos (by simpa using high)]

end Sys2Proof.Machine
end


section
/-! PROOF. The start of a sprout (R68, R69, R73): its registers, and the step SPROUT_START. -/

namespace Sys2Proof.Machine

/-! ### The registers of a sprout -/

/-- The word of `v0` of a lane. -/
def sproutWord (data : List Byte) (l : Nat) : Word := BitVec.ofNat 32 (ofBytes ((data.drop (4 * l)).take 4))

/-- The lanes that hold bytes of the burst. -/
def sproutLanes (data : List Byte) (n : Nat) : Nat :=
  (List.range n).foldl (fun m l => if 4 * l < data.length then m + 2 ^ l else m) 0

theorem sproutLanes_eq (data : List Byte) (n : Nat) : sproutLanes data n = 2 ^ min n ((data.length + 3) / 4) - 1 := by
  induction n with
  | zero => simp [sproutLanes]
  | succ n ih =>
    rw [sproutLanes, List.range_succ, List.foldl_append, ← sproutLanes, ih]
    simp only [List.foldl_cons, List.foldl_nil]
    split
    · rw [Nat.min_eq_left (by omega), Nat.min_eq_left (by omega), Nat.pow_succ]
      have := Nat.one_le_two_pow (n := n)
      omega
    · rw [Nat.min_eq_right (by omega), Nat.min_eq_right (by omega)]

theorem getLsbD_sproutLanes (data : List Byte) {l : Nat} (hl : l < 64) :
    (BitVec.ofNat 64 (sproutLanes data 64)).getLsbD l = decide (4 * l < data.length) := by
  rw [BitVec.getLsbD_ofNat, sproutLanes_eq, Nat.testBit_two_pow_sub_one]
  simp only [hl, decide_true, Bool.true_and, decide_eq_decide]
  omega

theorem vec_foldl_setVec (data : List Byte) (r : Regs) {n m l : Nat} (hl : l < 64) (hm : m ≤ 64) :
    ((List.range m).foldl (fun (r : Regs) l => r.setVec 0 l (sproutWord data l)) r).vec n l =
      if n = 0 ∧ l < m then sproutWord data l else r.vec n l := by
  induction m with
  | zero => simp
  | succ m ih =>
    rw [List.range_succ, List.foldl_append, List.foldl_cons, List.foldl_nil, Regs.vec, Regs.setVec]
    have before := ih (by omega)
    by_cases hit : 64 * n + l = 64 * 0 + m
    · have : n = 0 ∧ l = m := by omega
      obtain ⟨rfl, rfl⟩ := this
      rw [hit, NMap.get_put_same, if_pos ⟨rfl, by omega⟩]
    · rw [NMap.get_put_other _ _ _ hit]
      refine Eq.trans before ?_
      congr 1
      rw [eq_iff_iff]
      omega

theorem foldl_setVec_keeps (data : List Byte) (r : Regs) (ls : List Nat) :
    (ls.foldl (fun (r : Regs) l => r.setVec 0 l (sproutWord data l)) r).s = r.s ∧
      (ls.foldl (fun (r : Regs) l => r.setVec 0 l (sproutWord data l)) r).fpmode = r.fpmode := by
  induction ls generalizing r with
  | nil => exact ⟨rfl, rfl⟩
  | cons x rest ih => exact ih _

theorem scal_foldl_setScal (ps : List Word) (r : Regs) (n k : Nat) :
    ((ps.zipIdx k).foldl (fun (r : Regs) p => r.setScal p.2 p.1) r).scal n = if k ≤ n then ps.getD (n - k) (r.scal n) else r.scal n := by
  induction ps generalizing r k with
  | nil => simp
  | cons x rest ih =>
    rw [List.zipIdx_cons, List.foldl_cons, ih, Regs.setScal]
    by_cases hn : n = k
    · subst hn
      rw [if_neg (by omega), if_pos (Nat.le_refl _), Nat.sub_self]
      exact NMap.get_put_same _ _ _ _
    · have other : Regs.scal { r with s := NMap.put r.s k x } n = r.scal n := NMap.get_put_other _ _ _ hn
      rw [other]
      by_cases hk : k ≤ n
      · rw [if_pos hk, if_pos (by omega)]
        have : n - k = (n - (k + 1)) + 1 := by omega
        rw [this, List.getD_cons_succ]
      · rw [if_neg hk, if_neg (by omega)]

theorem foldl_setScal_keeps (ps : List (Word × Nat)) (r : Regs) :
    (ps.foldl (fun (r : Regs) p => r.setScal p.2 p.1) r).v = r.v ∧ (ps.foldl (fun (r : Regs) p => r.setScal p.2 p.1) r).k = r.k ∧
      (ps.foldl (fun (r : Regs) p => r.setScal p.2 p.1) r).fpmode = r.fpmode := by
  induction ps generalizing r with
  | nil => exact ⟨rfl, rfl, rfl⟩
  | cons x rest ih => exact ih _

theorem seedAll_keeps (r : Regs) (width : Nat) (x : Word) : (r.seedAll width x).v = r.v ∧ (r.seedAll width x).s = r.s ∧
    (r.seedAll width x).k = r.k ∧ (r.seedAll width x).fpmode = r.fpmode ∧ (r.seedAll width x).seed = x := by
  have gens : ∀ (ls : List Nat) (r : Regs), let q := ls.foldl (fun r l => r.setGen l (genSeed x.toNat l)) r
      q.v = r.v ∧ q.s = r.s ∧ q.k = r.k ∧ q.fpmode = r.fpmode := by
    intro ls
    induction ls with
    | nil => exact fun _ => ⟨rfl, rfl, rfl, rfl⟩
    | cons l rest ih => exact fun r => ih _
  obtain ⟨hv, hs, hk, hf⟩ := gens (List.range width) r
  exact ⟨hv, hs, hk, hf, rfl⟩

/-- R68: the registers of a sprout. -/
structure SproutRegs (br : Bread) (i : Nat) (data : List Byte) (r : Regs) : Prop where
  fpmode : r.fpmode = br.fpmode
  seed   : r.seed = br.seed ^^^ BitVec.ofNat 32 i
  mask0  : r.mask 0 = laneMask 64
  mask1  : ∀ l, l < 64 → (r.mask 1).getLsbD l = decide (4 * l < data.length)
  vec0   : ∀ l, l < 64 → r.vec 0 l = sproutWord data l
  vec    : ∀ n l, 0 < n → l < 64 → r.vec n l = 0
  scal   : ∀ n, r.scal n = br.params.getD n 0

/-- Every register zero. -/
def blankRegs (fpmode : Word) : Regs :=
  { v := [], s := [], k := [], m := [], tag := [], gen := [], seed := 0, fpmode := fpmode, ras := [], depth := 0 }

theorem regs_eq (br : Bread) (i : Nat) (data : List Byte) : br.regs i data =
    (br.params.zipIdx.foldl (fun (r : Regs) p => r.setScal p.2 p.1)
      ((((List.range 64).foldl (fun (r : Regs) l => r.setVec 0 l (sproutWord data l)) (blankRegs br.fpmode)).setMask 0 (laneMask 64)).setMask 1
        (BitVec.ofNat 64 (sproutLanes data 64)))).seedAll 64 (br.seed ^^^ BitVec.ofNat 32 i) := rfl

theorem regs_sprout (br : Bread) (i : Nat) (data : List Byte) : SproutRegs br i data (br.regs i data) := by
  rw [regs_eq]
  have vecs := fun n l (hl : l < 64) => vec_foldl_setVec data (blankRegs br.fpmode) (n := n) (m := 64) hl (Nat.le_refl 64)
  have masks := foldl_setVec_keeps data (blankRegs br.fpmode) (List.range 64)
  generalize (List.range 64).foldl (fun (r : Regs) l => r.setVec 0 l (sproutWord data l)) (blankRegs br.fpmode) = q at vecs masks ⊢
  have scals := scal_foldl_setScal br.params ((q.setMask 0 (laneMask 64)).setMask 1 (BitVec.ofNat 64 (sproutLanes data 64)))
  have keeps := foldl_setScal_keeps br.params.zipIdx ((q.setMask 0 (laneMask 64)).setMask 1 (BitVec.ofNat 64 (sproutLanes data 64)))
  have scal0 := fun n => scals n 0
  generalize br.params.zipIdx.foldl (fun (r : Regs) p => r.setScal p.2 p.1)
    ((q.setMask 0 (laneMask 64)).setMask 1 (BitVec.ofNat 64 (sproutLanes data 64))) = p at scal0 keeps ⊢
  obtain ⟨pv, pk, pf⟩ := keeps
  obtain ⟨sv, ss, sk, sf, seed⟩ := seedAll_keeps p 64 (br.seed ^^^ BitVec.ofNat 32 i)
  have vec : ∀ n l, (p.seedAll 64 (br.seed ^^^ BitVec.ofNat 32 i)).vec n l = q.vec n l := fun n l => by
    rw [Regs.vec, Regs.vec, sv, pv]; rfl
  have mask : ∀ n, (p.seedAll 64 (br.seed ^^^ BitVec.ofNat 32 i)).mask n =
      ((q.setMask 0 (laneMask 64)).setMask 1 (BitVec.ofNat 64 (sproutLanes data 64))).mask n := fun n => by
    rw [Regs.mask, Regs.mask, sk, pk]
  refine ⟨?_, seed, ?_, fun l hl => ?_, fun l hl => ?_, fun n l hn hl => ?_, fun n => ?_⟩
  · rw [sf, pf]; exact masks.2
  · rw [mask]
    exact (NMap.get_put_other _ _ _ (by decide)).trans (NMap.get_put_same _ _ _ _)
  · have lanes : ((q.setMask 0 (laneMask 64)).setMask 1 (BitVec.ofNat 64 (sproutLanes data 64))).mask 1 =
        BitVec.ofNat 64 (sproutLanes data 64) := NMap.get_put_same _ _ _ _
    rw [mask, lanes, getLsbD_sproutLanes data hl]
  · rw [vec, vecs 0 l hl, if_pos ⟨rfl, hl⟩]
  · rw [vec, vecs n l hl, if_neg (by omega)]
    rfl
  · rw [Regs.scal, ss]
    refine (scal0 n).trans ?_
    have zero : ((q.setMask 0 (laneMask 64)).setMask 1 (BitVec.ofNat 64 (sproutLanes data 64))).scal n = 0 := by
      rw [Regs.scal]
      show NMap.get 0 q.s n = 0
      rw [masks.1]
      rfl
    rw [if_pos (Nat.zero_le n), zero]
    rfl

end Sys2Proof.Machine
end


section
/-! PROOF. The step SPROUT_START (R67, R68, R69, R73), and the statement on bursts and sprouts. -/

namespace Sys2Proof.Machine

theorem exec_sproutStart (blk : Nat) (s : State) : exec (.sproutStart blk) s = .next (s.startSprout blk) := rfl

/-! ### Which burst -/

/-- A choice among outcomes is one of them, and leaves nothing but the count of the choices made. -/
theorem drawFrom_mem {α : Type} (s : State) (d : α) {l : List α} (h : l ≠ []) :
    (s.drawFrom d l).1 ∈ l ∧ ∃ n, (s.drawFrom d l).2 = { s with tick := n } := by
  have pos : 0 < l.length := List.length_pos_iff.mpr h
  have drawn : (s.draw l.length).1 < l.length ∧ ∃ n, (s.draw l.length).2 = { s with tick := n } := by
    rw [State.draw]
    split
    · exact ⟨pos, s.tick, rfl⟩
    · exact ⟨Nat.mod_lt _ pos, s.tick + 1, rfl⟩
  refine ⟨?_, drawn.2⟩
  rw [State.drawFrom]
  dsimp only
  rw [List.getD_eq_getElem _ _ drawn.1]
  exact List.getElem_mem _

theorem mem_burstsWaiting {s : State} {blk id i : Nat} (h : (id, i) ∈ s.burstsWaiting blk) : ∃ br b data, (id, br) ∈ s.breads ∧
    br.block = blk ∧ br.bursts[i]? = some b ∧ b.state = .waiting data := by
  obtain ⟨⟨key, br⟩, hbr, hmem⟩ := List.mem_flatMap.mp h
  dsimp only at hmem
  split at hmem
  · exact absurd hmem List.not_mem_nil
  · rename_i hblk
    obtain ⟨⟨b, j⟩, hb, hsome⟩ := List.mem_filterMap.mp hmem
    dsimp only at hsome
    split at hsome
    · rename_i data hstate
      obtain ⟨rfl, rfl⟩ := Prod.mk.inj (Option.some.inj hsome)
      exact ⟨br, b, data, hbr, not_not.mp hblk, List.mem_zipIdx_iff_getElem?.mp hb, hstate⟩
    · exact nomatch hsome

/-! ### The sprout -/

/-- The state in which a sprout is made: a choice and a number have been taken. -/
def State.born (s : State) (n : Nat) : State := { s with tick := n, nextId := s.nextId + 1 }

/-- A burst whose sprout runs. -/
def running (b : Burst) : Burst := { b with state := .running }

theorem startSprout_eq {s : State} {blk : Nat} {k : Block} (hk : s.block blk = some k) (sorted : NMap.sorted s.breads = true)
    (waiting : s.burstsWaiting blk ≠ []) (free : s.slotFree blk k.core = true)
    (envs : ∀ p ∈ s.breads, p.2.block = blk → (s.envOf p.2.tid).isSome = true) :
    ∃ id i br b data e n, (id, i) ∈ s.burstsWaiting blk ∧ s.bread id = some br ∧ br.bursts[i]? = some b ∧ b.state = .waiting data ∧
      s.envOf br.tid = some e ∧ s.startSprout blk =
        ((s.born n).setThread s.nextId ((s.born n).sprout br id i b data e)).modBread id fun x => x.setBurst i running := by
  obtain ⟨chosen, n, after⟩ := drawFrom_mem s (0, 0) waiting
  generalize hdraw : s.drawFrom (0, 0) (s.burstsWaiting blk) = drawn at chosen after
  obtain ⟨⟨id, i⟩, u⟩ := drawn
  dsimp only at chosen after
  subst after
  obtain ⟨br, b, data, hmem, hblk, hb, hstate⟩ := mem_burstsWaiting chosen
  have hbr : s.bread id = some br := NMap.find_of_mem sorted hmem
  obtain ⟨e, he⟩ := Option.isSome_iff_exists.mp (envs _ hmem hblk)
  refine ⟨id, i, br, b, data, e, n, chosen, hbr, hb, hstate, he, ?_⟩
  have ready : ¬ (s.burstsWaiting blk = [] ∨ (!s.slotFree blk k.core) = true) := by simp [waiting, free]
  have hbr' : ({ s with tick := n } : State).bread id = some br := hbr
  have he' : ({ s with tick := n } : State).envOf br.tid = some e := he
  unfold State.startSprout
  rw [hk]
  dsimp only
  rw [if_neg ready, hdraw]
  dsimp only
  rw [hbr']
  dsimp only
  rw [hb, he']
  dsimp only
  rw [hstate]
  rfl

/-- R68, R69: what a sprout starts with. -/
theorem sprout_starts (s : State) (br : Bread) (id i : Nat) (b : Burst) (data : List Byte) (e : Env) :
    let th := s.sprout br id i b data e
    th.block = br.block ∧ th.role = .sprout id i ∧ th.width = 64 ∧ th.pc = e.la.obj.handlers.getD br.handler 0 ∧ th.live = true ∧
      th.wait = .ready ∧ SproutRegs br i data th.regs ∧ th.burst.index = BitVec.ofNat 32 i ∧ th.burst.row = BitVec.ofNat 32 b.row ∧
      th.burst.col = BitVec.ofNat 32 b.col ∧ th.burst.bytes = BitVec.ofNat 32 data.length ∧
      th.burst.last = if b.last then 1 else 0 := by
  refine ⟨rfl, rfl, rfl, rfl, rfl, rfl, regs_sprout br i data, rfl, rfl, rfl, rfl, ?_⟩
  show BitVec.ofNat 32 b.last.toNat = _
  cases b.last <;> rfl

/-- Settles O52. A burst that arrives is read byte by byte; each load keeps what its core sees of the burst's lines, whether they
hit, find room, or are at home only. A sprout's registers are those that its burst and its `bread` give. -/
theorem burstsAndSprouts : Obligations.BurstsAndSprouts := by
  unfold Obligations.BurstsAndSprouts
  refine ⟨?arrival, ?far, ?start⟩
  case arrival =>
    intro s s1 id i br e b lines hbr he solo hb hunread hwaits hlow reach hwait hgood accs
    obtain ⟨t, br', b', data, hexec, hbr', hb', hstate, hlen, others, threads, same, fetches⟩ :=
      burst_arrives hbr he solo hb hunread hwaits hlow reach hwait hgood
    refine ⟨t, br', b', data, hexec, hbr', hb', hstate, hlen, others, threads, same, ?_⟩
    have bytes : (b.bytes.map fun x => x.elim 0 (s1.byteAt br.core lines)) =
        b.bytes.map fun x => match x with | some va => s1.byteAt br.core lines va | none => 0 :=
      List.map_congr_left fun x _ => by cases x <;> rfl
    rw [bytes] at fetches
    exact fetches
  case far =>
    intro s id i va br e b pre post hbr he hb hunread hwaits hbytes low high
    exact readBurst_far hbr he hb hunread hwaits (far_some hbytes low high)
  case start =>
    intro s blk k hk sorted waiting free envs
    obtain ⟨id, i, br, b, data, e, n, chosen, hbr, hb, hstate, he, starts⟩ := startSprout_eq hk sorted waiting free envs
    obtain ⟨hblock, hrole, hwidth, hpc, hlive, hready, regs, hindex, hrow, hcol, hbytes, hlast⟩ :=
      sprout_starts (s.born n) br id i b data e
    obtain ⟨fpmode, seed, mask0, mask1, vec0, vec, scal⟩ := regs
    have bread : ((s.born n).setThread s.nextId ((s.born n).sprout br id i b data e)).bread id = some br := hbr
    refine ⟨_, id, i, br, _, b, running b, e, data, _, chosen, hbr, hb, hstate, he, by rw [exec_sproutStart, starts], ?_, hblock, hrole,
      hwidth, hpc, hlive, hready, fpmode, seed, mask0, mask1, vec0, vec, scal, hindex, hrow, hcol, hbytes, hlast, bread_modBread bread _,
      by rw [setBurst_getElem?, hb]; exact congrArg some (if_pos rfl), rfl, fun u hu => ?_, by rw [State.modBread_mem]; rfl,
      by rw [State.modBread_peer]; rfl, by rw [State.modBread_cores]; rfl⟩
    · rw [State.thread, State.modBread_threads]
      exact State.thread_setThread _ _ _
    · rw [State.thread, State.modBread_threads]
      exact State.thread_setThread_other _ _ hu

end Sys2Proof.Machine
end


section
/-! PROOF. The machine at reset (O6), the step of a thread that issues (O4), and device-side launches (O32). -/

namespace Sys2Proof.Machine

/-! ### Reset (R78, R164, R371) -/

/-- R371: every vector is masked at reset. -/
theorem reset_masked {v : Nat} (hv : v < 70) : NMap.get 0 State.reset.host.msix (4 * v + 3) = 1 := by
  have sorted : NMap.sorted State.reset.host.msix = true := by decide
  have listed : (4 * v + 3, 1) ∈ State.reset.host.msix := List.mem_map.mpr ⟨v, List.mem_range.mpr hv, rfl⟩
  rw [NMap.get, NMap.find_of_mem sorted listed]
  rfl

/-- Settles O6: everything but the masks is what `State.reset` lists. -/
theorem resetValues : Obligations.ResetValues :=
  ⟨rfl, rfl, rfl, rfl, fun _ => ⟨rfl, rfl, rfl, rfl⟩, fun _ => ⟨rfl, rfl, rfl, rfl, rfl⟩, rfl, rfl, rfl, rfl, rfl, rfl,
    fun _ => reset_masked, rfl, rfl, mem_wf_nil⟩

/-! ### The step of a thread that issues (R92, R184, R225) -/

/-- R184, R225: a word that is neither a pad word nor a clause header is what the fetch finds. -/
theorem fetchNext_found {s s1 : State} {e : Env} {block : List Word} {i : Instr}
    (hfetch : s.threadBlock e e.th.pc = (.ok block, s1))
    (hdecode : decodeAt e.decodeCtx (e.th.pc % 32) (ofWords ((block.drop (e.th.pc % 32 / 4)).take 4)) = .instr i) :
    s.fetchNext e = (.found e.th.pc ((block.drop (e.th.pc % 32 / 4)).take
      (lengthOf (ofWords ((block.drop (e.th.pc % 32 / 4)).take 4)))) (.instr i) e.th.clause, s1) := by
  simp only [State.fetchNext, State.fetchFrom, hfetch, hdecode]

/-- The thread as it stands once the fetch has found its instruction. -/
def Env.foundNext (e : Env) : Env := { e with th := { e.th with fetchWait := none } }

/-- R92, R216: a thread that may issue tries the instruction that its fetch finds, once the flags that its clause waits for are clear. -/
theorem issueThread_tries {s s1 s2 : State} {tid : Nat} {e : Env} {words : List Word} {i : Instr} (he : s.envOf tid = some e)
    (hlive : e.th.live = true) (hmay : e.mayIssue = true)
    (hrend : e.blk.rends.find? (fun r => r.arrived.contains tid) = none)
    (hfound : s.fetchNext e = (.found e.th.pc words (.instr i) e.th.clause, s1))
    (hwait : e.clauseWaits words.length = false)
    (hs2 : s2 = (s1.modThread tid (fun th => { th with pc := e.th.pc, clause := e.th.clause, fetchWait := none })).passWait e
      words.length) :
    s.issueThread tid = s2.tried e (exec i { s2 with cur := { tid := tid, pc := e.th.pc, words := words } }) := by
  have hwait' : ¬ e.foundNext.clauseWaits words.length = true := by
    rw [show e.foundNext.clauseWaits words.length = e.clauseWaits words.length from rfl, hwait]
    exact Bool.false_ne_true
  subst hs2
  simp only [State.issueThread, he, hlive, hmay, hrend, hfound]
  exact if_neg hwait'

/-- R92: the fate of a trial whose ports are free. -/
theorem tried_of_free {s t : State} {e : Env} (free : ∀ p ∈ e.slotPorts, p ∉ s.taken) :
    s.tried e (.next t) = .next (if (t.waitOf e.tid).tried then t else t.issued e) := by
  have ports : e.slotPorts.any (fun p => s.taken.contains p) = false := by simpa using free
  simp only [State.tried, ports, Bool.false_eq_true, if_false]
  split <;> rfl

/-- R92: the fate of a trial one of whose ports is taken. -/
theorem tried_of_taken {s t : State} {e : Env} (taken : ¬ ∀ p ∈ e.slotPorts, p ∉ s.taken) :
    s.tried e (.next t) = .next (if (t.waitOf e.tid).tried then s.hold e.tid (t.waitOf e.tid) else s.skip e.tid) := by
  have ports : e.slotPorts.any (fun p => s.taken.contains p) = true := by simpa using taken
  simp only [State.tried, ports, if_true]
  split <;> rfl

/-- Settles O4: the step is the trial of the instruction that the fetch finds. -/
theorem stepRunsDecoded : Obligations.StepRunsDecoded := by
  intro s s0 s1 s2 t tid rest e block words i hq hs0 he hlive hmay hrend hfetch here hdecode hwords hwait hs2 hexec held free
  have htid : e.tid = tid := (envOf_thread he).2
  have hfound : s0.fetchNext e = (.found e.th.pc words (.instr i) e.th.clause, s1) := by
    rw [hwords]
    exact fetchNext_found hfetch hdecode
  have hstep : step s = s2.tried e (.next t) := by
    rw [← hexec, ← issueThread_tries he hlive hmay hrend hfound hwait hs2, hs0, step, State.cycle, hq]
  subst htid
  refine ⟨fun hf hh => ?_, fun hf hh => ?_, fun hf hh => ?_, fun hf hh => ?_⟩
  · rw [hstep, tried_of_free hf, if_neg (Bool.eq_false_iff.mp hh)]
  · rw [hstep, tried_of_free hf, if_pos hh]
  · rw [hstep, tried_of_taken hf, if_pos hh]
  · rw [hstep, tried_of_taken hf, if_neg (Bool.eq_false_iff.mp hh)]

/-! ### Device-side launches (R93, R347) -/

/-- R347: a record whose tag is known is dropped; another one takes a device-side place of its queue. -/
def State.putPlace (s : State) (q : Nat) (words : List Word) : State :=
  if s.tagKnown q (words.getD 4 0) then s else s.setQueue q { s.queue q with places := (s.queue q).places ++ [words] }

@[simp] theorem putPlace_threads (s : State) (q : Nat) (words : List Word) : (s.putPlace q words).threads = s.threads := by
  unfold State.putPlace
  split <;> rfl

@[simp] theorem putPlace_mem (s : State) (q : Nat) (words : List Word) : (s.putPlace q words).mem = s.mem := by
  unfold State.putPlace
  split <;> rfl

theorem putPlace_places (s : State) (q : Nat) (words : List Word) :
    ((s.putPlace q words).queue q).places =
      (s.queue q).places ++ (if s.tagKnown q (words.getD 4 0) then [] else [words]) := by
  unfold State.putPlace
  split
  · simp
  · simp

theorem putPlace_other (s : State) {q p : Nat} (words : List Word) (hp : p ≠ q) : (s.putPlace q words).queue p = s.queue p := by
  unfold State.putPlace
  split
  · rfl
  · exact State.queue_setQueue_other s _ hp

/-- R347: `launch` of a record that can be read completes. -/
theorem launch_reads {s s1 : State} {e : Env} {o : Ops} {words : List Word} (h : s.issues (.launch o) o e)
    (aligned : e.th.regs.raw 0 .n64 0 o.a % 128 = 0) (room : (s.queue e.la.queue).places.length < 16)
    (committed : e.uncommitted = false) (released : s.canRelease e .package = true)
    (hread : (s.release e .package).readRecord e (e.th.regs.raw 0 .n64 0 o.a) (e.th.active o) = (some (.ok words), s1)) :
    exec (.launch o) s = .next (((s1.putPlace e.la.queue words).results e (.launch o) o []).advance e.tid (.launch o) o.len
      (s.cur.pc + 4 * o.len) []) := by
  refine issue_done h ?_
  simp only [aligned, committed, released, hread, State.putPlace, Nat.not_le.mpr room, ne_eq, not_true_eq_false, if_false,
    decide_false, Bool.or_self, Bool.not_true, Bool.false_eq_true]
  split <;> rfl

/-- Settles O32, by the three outcomes of `launch`: it traps, it waits, or it is done with the record in its place. -/
theorem deviceLaunch : Obligations.DeviceLaunch := by
  intro s e o h va q
  refine ⟨fun misaligned => issue_trap h (if_pos misaligned), fun s1 words aligned room committed released hread => ?_,
    fun full aligned => ?_⟩
  · have done := launch_reads h aligned room committed released hread
    rw [advance_plain rfl, results_short rfl] at done
    refine ⟨_, done, fun th1 hth => ?_, ?_, ?_, fun p hp => ?_⟩
    · have hput : (s1.putPlace e.la.queue words).thread e.tid = some th1 := by
        rw [State.thread, putPlace_threads]
        exact hth
      rw [State.thread_modThread, State.thread_modThread, hput]
      exact ⟨_, rfl, rfl, rfl⟩
    · simp
    · simpa [State.queue] using putPlace_places s1 q words
    · simpa [State.queue] using putPlace_other s1 words hp
  · rw [← hold_eq (issues_thread h)]
    refine issue_wait h ?_
    simp [va, aligned, full, q]

end Sys2Proof.Machine
end


section
/-! PROOF. What records and lines that leave a cache change of the machine (R152, R154, R168 to R170, R372, R394 to R397, R497). -/

namespace Sys2Proof.Machine

/-- `t` is `s` but for memory, caches, dies, the records that wait, the vectors of the error rings, what has been noted of the
launches, and the free values drawn. -/
structure Recorded (s t : State) : Prop where
  frame   : t = { s with launches := t.launches, cores := t.cores, dies := t.dies, mem := t.mem, peer := t.peer, poison := t.poison,
                         recs := t.recs, host := { s.host with pending := t.host.pending }, tick := t.tick }
  vectors : ∀ v ∈ t.host.pending, v < 64 → v ∈ s.host.pending
  sorted  : NMap.sorted s.launches = true → NMap.sorted t.launches = true

theorem Recorded.refl (s : State) : Recorded s s := ⟨rfl, fun _ hv _ => hv, id⟩

section
variable {s t u : State}

theorem Recorded.trans (h : Recorded s t) (h' : Recorded t u) : Recorded s u where
  frame := by rw [h'.frame, h.frame]
  vectors v hv low := h.vectors v (h'.vectors v hv low) low
  sorted hs := h'.sorted (h.sorted hs)

theorem SameButHomes.recorded (h : SameButHomes s t) : Recorded s t := by
  rw [h]
  exact ⟨rfl, fun _ hv _ => hv, id⟩

theorem Recorded.foldl {α : Type} {f : State → α → State} (each : ∀ s x, Recorded s (f s x)) (l : List α) (s : State) :
    Recorded s (l.foldl f s) := by
  induction l generalizing s with
  | nil => exact .refl s
  | cons x rest ih => exact (each s x).trans (ih _)

end

section
variable (s : State)

theorem recorded_modCore (c : Nat) (g : Core → Core) : Recorded s (s.modCore c g) := ⟨rfl, fun _ hv _ => hv, id⟩
theorem recorded_setCore (c : Nat) (x : Core) : Recorded s (s.setCore c x) := ⟨rfl, fun _ hv _ => hv, id⟩
theorem recorded_modDie (d : Nat) (g : Die → Die) : Recorded s (s.modDie d g) := ⟨rfl, fun _ hv _ => hv, id⟩
theorem recorded_deferRec (d : RecDest) (r : ErrRec) : Recorded s (s.deferRec d r) := ⟨rfl, fun _ hv _ => hv, id⟩
theorem recorded_addPoison (part detail : Nat) : Recorded s (s.addPoison part detail) := ⟨rfl, fun _ hv _ => hv, id⟩
theorem recorded_setLaunch (l : Nat) (x : Launch) : Recorded s (s.setLaunch l x) := ⟨rfl, fun _ hv _ => hv, NMap.sorted_put _ l x⟩

theorem recorded_draw (n : Nat) : Recorded s (s.draw n).2 := by
  unfold State.draw
  split
  · exact .refl s
  · exact ⟨rfl, fun _ hv _ => hv, id⟩

/-- The vectors of the error rings are 64 and above (R371). -/
theorem recorded_signal {v : Nat} (hv : 64 ≤ v) : Recorded s (s.signal v) := by
  unfold State.signal
  split
  · exact .refl s
  · refine ⟨rfl, fun x hx low => ?_, id⟩
    rcases List.mem_append.mp hx with hx | hx
    · exact hx
    · exact absurd (List.mem_singleton.mp hx) (by omega)

/-! ### Records -/

theorem recorded_ringRecord (die : Nat) (r : ErrRec) : Recorded s (s.ringRecord die r) := by
  have bytes : ∀ pa, Recorded s (s.ringBytes pa r) := fun pa => by
    unfold State.ringBytes
    split
    · exact (setHomes_sameButHomes _ s).recorded
    · exact .refl s
  unfold State.ringRecord
  split
  · exact recorded_modDie s die _
  · split
    · exact recorded_deferRec s _ r
    · exact ((bytes _).trans (recorded_modDie _ die _)).trans (recorded_signal _ (Nat.le_add_right 64 die))

theorem recorded_refusedHere (va : Nat) : Recorded s (s.refusedHere va) := by
  unfold State.refusedHere
  split
  · exact recorded_ringRecord s _ _
  · split
    · exact recorded_ringRecord s _ _
    · exact .refl s

theorem recorded_noteUnusable (l field va : Nat) : Recorded s (s.noteUnusable l field va) := by
  unfold State.noteUnusable
  split
  · exact .refl s
  · split
    · exact .refl s
    · exact ((recorded_setLaunch s l _).trans (recorded_refusedHere _ va)).trans (recorded_ringRecord _ 0 _)

theorem recorded_copyRecord (l base : Nat) (r : ErrRec) : Recorded s (s.copyRecord l base r) := by
  unfold State.copyRecord
  split
  · exact recorded_deferRec s _ r
  · split
    · exact recorded_deferRec s _ r
    · exact recorded_noteUnusable s l _ _
    · exact (setHomes_sameButHomes _ s).recorded

theorem recorded_launchRecord (l : Nat) (r : ErrRec) : Recorded s (s.launchRecord l r) := by
  unfold State.launchRecord
  split
  · exact .refl s
  · split
    · exact .refl s
    · exact recorded_copyRecord s l _ r

theorem recorded_recordOf (die l : Nat) (r : ErrRec) : Recorded s (s.recordOf die l r) :=
  (recorded_ringRecord s die r).trans (recorded_launchRecord _ l r)

theorem recorded_unusable (l field va : Nat) : Recorded s (s.unusable l field va) := by
  unfold State.unusable
  split
  · exact .refl s
  · split
    · exact .refl s
    · exact (recorded_noteUnusable s l field va).trans (recorded_launchRecord _ l _)

/-! ### Lines that leave a cache -/

theorem recorded_writeBack (core pa va : Nat) (dirty : NMap Byte) (bad : Bool) :
    Recorded s (s.writeBack core pa va dirty bad) := by
  unfold State.writeBack
  split
  · exact .refl s
  · split
    · exact (recorded_modCore s core _).trans (recorded_ringRecord _ _ _)
    · split
      · exact (setHomes_sameButHomes _ s).recorded.trans (recorded_addPoison _ _ _)
      · exact (writeLine_sameButHomes s _ _).recorded

theorem recorded_forcedRelease (core : Nat) : Recorded s (s.forcedRelease core) :=
  ((Recorded.foldl (fun s (l : Staged) => recorded_writeBack s core l.pa l.va l.dirty l.bad) _ s).trans
    (.foldl (fun s (l : Line) => recorded_writeBack s core l.pa l.va l.dirty l.bad) _ _)).trans (recorded_setCore _ core _)

theorem recorded_stage (core pa va : Nat) (dirty : NMap Byte) (epoch : Nat) (bad : Bool) :
    Recorded s (s.stage core pa va dirty epoch bad) := by
  unfold State.stage
  split
  · exact .refl s
  · refine Recorded.trans ?_ (recorded_setCore _ core _)
    split
    · exact recorded_forcedRelease s core
    · exact .refl s

theorem recorded_evict (core pa : Nat) : Recorded s (s.evict core pa) := by
  have room : ∀ b : Prop, [Decidable b] → Recorded s (if b then s.forcedRelease core else s) := fun b _ => by
    split
    · exact recorded_forcedRelease s core
    · exact .refl s
  unfold State.evict
  split
  · exact .refl s
  · dsimp only
    split
    · exact room _
    · exact ((room _).trans (recorded_modCore _ core _)).trans (recorded_stage _ core pa _ _ _ _)

theorem recorded_wayError (core pa : Nat) : Recorded s (s.wayError core pa) :=
  (((recorded_evict s core pa).trans (recorded_modCore _ core _)).trans (recorded_addPoison _ _ _)).trans
    (recorded_ringRecord _ _ _)

/-- R152, R455: a way that leaves the cache. -/
theorem recorded_loseWay (core ways : Nat) : Recorded s (s.loseWay core ways) := by
  unfold State.loseWay
  refine Recorded.foldl (fun s set => ?_) _ s
  dsimp only
  generalize hr : s.draw _ = r
  have drawn : Recorded s r.2 := hr ▸ recorded_draw s _
  split
  · split
    · exact drawn.trans (recorded_wayError _ core _)
    · exact drawn.trans (recorded_evict _ core _)
  · exact drawn

end

end Sys2Proof.Machine
end


section
/-! PROOF. The scheduler's own accesses (R160, R161, R179, R497): what they depend on, and which addresses they give. -/

namespace Sys2Proof.Machine

/-! ### States that give the same answers -/

/-- Homes, tables and links are the same in `u` as in `s`, and no bulk command owns a line there that none owned. -/
structure Quieter (s u : State) : Prop where
  mem    : u.mem = s.mem
  peer   : u.peer = s.peer
  poison : u.poison = s.poison
  xlat   : u.xlat = s.xlat
  links  : u.links = s.links
  cmds   : ∀ c ∈ u.cmds, c ∈ s.cmds

/-- R179: with no bulk command under way no line is owned. -/
theorem quieter_calm (s : State) : Quieter s s.calm := ⟨rfl, rfl, rfl, rfl, rfl, fun _ hc => absurd hc List.not_mem_nil⟩

theorem homeBytes_congr {s u : State} (hm : u.mem = s.mem) (hp : u.peer = s.peer) (pa n : Nat) :
    u.homeBytes pa n = s.homeBytes pa n := by
  induction n generalizing pa with
  | zero => rfl
  | succ n ih => rw [State.homeBytes, State.homeBytes, ih, homeByte_congr hm hp]

section
variable {s u : State} (q : Quieter s u)
include q

theorem Quieter.owned {pa : Nat} (h : s.owned pa = false) : u.owned pa = false := by
  rw [State.owned, List.any_eq_false] at h ⊢
  exact fun c hc => h c (q.cmds c hc)

theorem Quieter.lineOwned {l : Nat × Nat} (h : s.lineOwned l = false) : u.lineOwned l = false := by
  rw [State.lineOwned, List.any_eq_false] at h ⊢
  exact fun c hc => h c (q.cmds c hc)

theorem Quieter.poisoned (pa : Nat) : u.poisoned pa = s.poisoned pa := by rw [State.poisoned, State.poisoned, q.poison]

theorem Quieter.linkDown (pa : Nat) : u.linkDown pa = s.linkDown pa := by
  rw [State.linkDown, State.linkDown, State.link, State.link, q.links]

/-- R161: a walk that need not wait ends as before. -/
theorem Quieter.walkFrom {va : Nat} (levels : List (Nat × Nat)) (table : Nat) (h : s.walkFrom va levels table ≠ .wait) :
    u.walkFrom va levels table = s.walkFrom va levels table := by
  induction levels generalizing table with
  | nil => rfl
  | cons level rest ih =>
    obtain ⟨sh, n⟩ := level
    have free : s.owned (table + 8 * (va / 2 ^ sh % 2 ^ n)) = false := by
      by_contra hown
      exact h (by unfold State.walkFrom; dsimp only; rw [if_pos (by simpa using hown)])
    have detail : ∀ ea, u.poisonDetail ea = s.poisonDetail ea := fun ea => by
      rw [State.poisonDetail, State.poisonDetail, q.poison]
    unfold State.walkFrom at h ⊢
    simp only [homeBytes_congr q.mem q.peer, q.poisoned, detail, q.xlat, q.owned free, free, Bool.false_eq_true, if_false] at h ⊢
    refine ite_congr rfl (fun _ => rfl) fun sound => ?_
    rw [if_neg sound] at h
    refine ite_congr rfl (fun _ => rfl) fun valid => ?_
    rw [if_neg valid] at h
    refine ite_congr rfl (fun _ => rfl) fun formed => ?_
    rw [if_neg formed] at h
    refine ite_congr rfl (fun _ => rfl) fun inner => ?_
    rw [if_neg inner] at h
    cases rest with
    | nil => rfl
    | cons next rest =>
      dsimp only at h ⊢
      refine ite_congr rfl (fun _ => rfl) fun aligned => ?_
      rw [if_neg aligned] at h
      refine ite_congr rfl (fun _ => rfl) fun local_ => ?_
      rw [if_neg local_] at h
      exact ih _ h

theorem Quieter.walk {va : Nat} (h : s.walk va ≠ .wait) : u.walk va = s.walk va := by
  rw [State.walk] at h
  rw [State.walk, State.walk, q.xlat]
  refine ite_congr rfl (fun root => ?_) fun _ => rfl
  rw [if_pos root] at h
  exact q.walkFrom _ _ h

/-- R497: a byte that the scheduler reaches it reaches still. -/
theorem Quieter.reach {va pa : Nat} {need : Need} (h : s.reach va need = .ok pa) : u.reach va need = .ok pa := by
  have walked : s.walk va ≠ .wait := fun hw => by
    rw [State.reach, hw] at h
    split at h <;> exact absurd h nofun
  unfold State.reach at h ⊢
  rw [q.walk walked]
  by_cases far : va ≥ 2 ^ 52
  · rw [if_pos far] at h; exact absurd h nofun
  · rw [if_neg far] at h ⊢
    cases hw : s.walk va with
    | wait => exact absurd hw walked
    | fault f => rw [hw] at h; exact absurd h nofun
    | leaf e =>
      rw [hw] at h
      dsimp only at h ⊢
      rw [q.poisoned, q.linkDown]
      split at h
      · exact absurd h nofun
      · rename_i granted
        rw [if_neg granted]
        split at h
        · exact absurd h nofun
        · rename_i free
          rw [if_neg (by simpa using q.lineOwned (by simpa using free))]
          exact h

/-- R497: bytes that the scheduler reads it reads still. -/
theorem Quieter.readVirt {n va : Nat} {b : List Byte} (h : s.readVirt va n = .ok b) : u.readVirt va n = .ok b := by
  induction n generalizing va b with
  | zero => exact h
  | succ n ih =>
    unfold State.readVirt at h ⊢
    cases hr : s.reach va .r with
    | fail => simp [hr] at h
    | wait => simp [hr] at h
    | ok pa =>
      cases hrest : s.readVirt (va + 1) n with
      | error a => simp [hr, hrest] at h
      | ok rest =>
        simp only [hr, hrest] at h
        simp only [q.reach hr, ih hrest, homeByte_congr q.mem q.peer]
        exact h

/-- R497: bytes that the scheduler can write it can write still. -/
theorem Quieter.writableVirt {n va : Nat} {pas : List Nat} (h : s.writableVirt va n = .ok pas) :
    u.writableVirt va n = .ok pas := by
  induction n generalizing va pas with
  | zero => exact h
  | succ n ih =>
    unfold State.writableVirt at h ⊢
    cases hr : s.reach va .w with
    | fail => simp [hr] at h
    | wait => simp [hr] at h
    | ok pa =>
      cases hrest : s.writableVirt (va + 1) n with
      | error a => simp [hr, hrest] at h
      | ok rest =>
        simp only [hr, hrest] at h
        simp only [q.reach hr, ih hrest]
        exact h

theorem Quieter.imageWords {base off n : Nat} {w : List Word} (h : s.imageWords base off n = .ok w) :
    u.imageWords base off n = .ok w := by
  unfold State.imageWords at h ⊢
  cases hr : s.readVirt (base + off) (4 * n) with
  | error f => cases f <;> simp [hr] at h
  | ok b =>
    rw [q.readVirt hr]
    rw [hr] at h
    exact h

/-- R233: a code object that loads loads still. -/
theorem Quieter.loadObj {base : Nat} {o : CodeObj} (h : s.loadObj base = .ok o) : u.loadObj base = .ok o := by
  unfold State.loadObj at h ⊢
  cases header : s.imageWords base 0 64 with
  | error f => simp [header] at h
  | ok w =>
    rw [header] at h
    rw [q.imageWords header]
    dsimp only at h ⊢
    split at h
    · exact absurd h nofun
    · rename_i sound
      rw [if_neg sound]
      split at h
      · rename_i groups handlers traps regions relocs
        rw [q.imageWords groups, q.imageWords handlers, q.imageWords traps, q.imageWords regions, q.imageWords relocs]
        exact h
      all_goals exact absurd h nofun

end

/-! ### Addresses in one line -/

/-- A walk depends on the page of an address. -/
theorem walkFrom_page (s : State) {va va' : Nat} (page : va' / 2 ^ 16 = va / 2 ^ 16) (levels : List (Nat × Nat))
    (coarse : ∀ l ∈ levels, 16 ≤ l.1) (table : Nat) : s.walkFrom va' levels table = s.walkFrom va levels table := by
  induction levels generalizing table with
  | nil => rfl
  | cons level rest ih =>
    obtain ⟨sh, n⟩ := level
    have low : 16 ≤ sh := coarse _ List.mem_cons_self
    have index : va' / 2 ^ sh = va / 2 ^ sh := by
      rw [← Nat.add_sub_cancel' low, Nat.pow_add, ← Nat.div_div_eq_div_mul, ← Nat.div_div_eq_div_mul, page]
    unfold State.walkFrom
    rw [index]
    cases rest with
    | nil => rfl
    | cons next rest => simp only [ih fun l hl => coarse l (List.mem_cons_of_mem _ hl)]

/-- R160, R161: a leaf maps whole lines. -/
theorem walkFrom_leaf {s : State} {va : Nat} {levels : List (Nat × Nat)} (coarse : ∀ l ∈ levels, 16 ≤ l.1) {table : Nat}
    {e : TlbEntry} (h : s.walkFrom va levels table = .leaf e) : e.va % 64 = 0 ∧ e.pa % 64 = 0 ∧ e.va ≤ va := by
  induction levels generalizing table with
  | nil => exact absurd h nofun
  | cons level rest ih =>
    obtain ⟨sh, n⟩ := level
    have low : 16 ≤ sh := coarse _ List.mem_cons_self
    have lines : (64 : Nat) ∣ 2 ^ sh := Nat.pow_dvd_pow (m := 6) 2 (by omega)
    unfold State.walkFrom at h
    dsimp only at h
    split at h
    · exact absurd h nofun
    · split at h
      · exact absurd h nofun
      · split at h
        · exact absurd h nofun
        · split at h
          · exact absurd h nofun
          · split at h
            · split at h
              · exact absurd h nofun
              · rename_i legal
                split at h
                · exact absurd h nofun
                · obtain rfl := WalkRes.leaf.inj h
                  have aligned : ∀ x, x % 2 ^ sh = 0 → x % 64 = 0 := fun x hx =>
                    Nat.mod_eq_zero_of_dvd (lines.trans (Nat.dvd_of_mod_eq_zero hx))
                  exact ⟨aligned _ (Nat.mul_mod_left _ _), aligned _ (by simp only [not_or, not_not] at legal; exact legal.2.2),
                    Nat.div_mul_le_self va _⟩
            · cases rest with
              | nil => exact absurd h nofun
              | cons next rest =>
                dsimp only at h
                split at h
                · exact absurd h nofun
                · split at h
                  · exact absurd h nofun
                  · exact ih (fun l hl => coarse l (List.mem_cons_of_mem _ hl)) h

theorem walkLevels_coarse : ∀ l ∈ walkLevels, 16 ≤ l.1 := by decide

/-- R497: the addresses that the scheduler writes, in order. -/
theorem writableVirt_reach {s : State} {n va : Nat} {pas : List Nat} (h : s.writableVirt va n = .ok pas) :
    pas.length = n ∧ ∀ i pa, pas[i]? = some pa → s.reach (va + i) .w = .ok pa := by
  induction n generalizing va pas with
  | zero =>
    obtain rfl : [] = pas := Except.ok.inj h
    exact ⟨rfl, fun i pa hi => absurd hi nofun⟩
  | succ n ih =>
    unfold State.writableVirt at h
    cases hr : s.reach va .w with
    | fail => simp [hr] at h
    | wait => simp [hr] at h
    | ok pa =>
      cases hrest : s.writableVirt (va + 1) n with
      | error a => simp [hr, hrest] at h
      | ok rest =>
        obtain rfl : pa :: rest = pas := by simpa [hr, hrest] using h
        obtain ⟨len, each⟩ := ih hrest
        refine ⟨by rw [List.length_cons, len], fun i p hi => ?_⟩
        cases i with
        | zero => rw [Nat.add_zero, hr]; exact congrArg Reach.ok (Option.some.inj hi)
        | succ i => rw [← each i p hi, Nat.add_assoc, Nat.add_comm 1 i]

/-- R497: a byte that is reached stands where its leaf maps it. -/
theorem reach_leaf {s : State} {va pa : Nat} {need : Need} (h : s.reach va need = .ok pa) :
    ∃ e, s.walk va = .leaf e ∧ pa = e.addr va := by
  unfold State.reach at h
  split at h
  · exact absurd h nofun
  · split at h
    · exact absurd h nofun
    · exact absurd h nofun
    · rename_i e hw
      dsimp only at h
      split at h
      · exact absurd h nofun
      · split at h
        · exact absurd h nofun
        · exact ⟨e, hw, (Reach.ok.inj h).symm⟩

/-- R160, R497: bytes of one line that the scheduler can write stand side by side in one line. -/
theorem writableVirt_line {s : State} {n va : Nat} {pas : List Nat} (h : s.writableVirt va n = .ok pas) (hn : 0 < n)
    (line : va % 64 + n ≤ 64) : ∃ pa, pa % 64 = va % 64 ∧ pas = List.range' pa n := by
  obtain ⟨len, each⟩ := writableVirt_reach h
  obtain ⟨e, hw, first⟩ := reach_leaf (each 0 _ (List.getElem?_eq_getElem (by omega)))
  have root : isLocal s.xlat.ptRoot = true := by
    by_contra hroot
    rw [State.walk, if_neg hroot] at hw
    exact absurd hw nofun
  have same (i : Nat) (hi : i < n) : s.walk (va + i) = .leaf e := by
    rw [← hw, State.walk, State.walk, if_pos root, if_pos root]
    exact walkFrom_page s (by omega) walkLevels walkLevels_coarse _
  rw [State.walk, if_pos root] at hw
  obtain ⟨vaLine, paLine, below⟩ := walkFrom_leaf walkLevels_coarse hw
  refine ⟨e.addr va, by rw [TlbEntry.addr]; omega, List.ext_getElem (by simp [len]) fun i hi _ => ?_⟩
  obtain ⟨e', hw', hpa⟩ := reach_leaf (each i _ (List.getElem?_eq_getElem hi))
  obtain rfl : e = e' := WalkRes.leaf.inj ((same i (by omega)).symm.trans hw')
  rw [hpa, List.getElem_range', TlbEntry.addr, TlbEntry.addr]
  omega

end Sys2Proof.Machine
end


section
/-! PROOF. Launches that are rung and taken (R79 to R83, R93, R497). -/

namespace Sys2Proof.Machine

/-! ### The doorbell (R79) -/

theorem exec_launchQueueDoorbell (q : Nat) (tail : Word) (s : State) :
    exec (.launchQueueDoorbell q tail) s = .next (s.doorbell q tail) := rfl

section
variable {s : State} (hen : s.host.computeEn = true) {q : Nat} (hq : q < 64) {tail : Word}
include hen hq

/-- R79: a doorbell in range sets QTAIL. -/
theorem doorbell_in_range (h : (tail - (s.queue q).head).toNat ≤ 2 ^ (s.queue q).size) :
    s.doorbell q tail = s.setQueue q { s.queue q with tail := tail } := by
  unfold State.doorbell
  dsimp only
  rw [if_neg (by simp only [hen]; exact fun hc => hc.elim nofun (Nat.not_le.mpr hq)), if_neg (Nat.not_lt.mpr h)]

/-- R79: one that claims more records than the queue has places disables the queue. -/
theorem doorbell_out_of_range (h : 2 ^ (s.queue q).size < (tail - (s.queue q).head).toNat) :
    s.doorbell q tail = (s.setQueue q { s.queue q with enable := false }).ringRecord 0
      { code := 0x0308, source := 9, info := tail.toNat * 2 ^ 32 + q } := by
  unfold State.doorbell
  dsimp only
  rw [if_neg (by simp only [hen]; exact fun hc => hc.elim nofun (Nat.not_le.mpr hq)), if_pos h, Nat.add_comm q]

end

/-! ### The turn of a queue (R80) -/

theorem find_range_first {p : Nat → Bool} {n k : Nat} (hk : k < n) (hp : p k = true) (first : ∀ j, j < k → p j = false) :
    (List.range n).find? p = some k := by
  rw [List.find?_range_eq_some]
  exact ⟨hp, List.mem_range.mpr hk, fun j hj => by rw [first j hj]; rfl⟩

/-- R80: the queue whose turn it is. -/
theorem takeTurn_of_turnOf {s : State} {q : Nat} (h : s.turnOf q) : s.takeTurn = some q := by
  obtain ⟨-, hq, ready, turn⟩ := h
  have low : q < Config.queues := hq
  unfold State.takeTurn
  dsimp only
  rw [List.find?_filter, List.head?_filter]
  rcases turn with ⟨from_, first⟩ | ⟨before, above, first⟩
  · rw [find_range_first low (by simp [ready, from_])]
    · rfl
    · intro j hj
      by_cases hle : s.roundAt ≤ j
      · simp [first j hle hj]
      · simp [hle]
  · rw [List.find?_eq_none.mpr, find_range_first low ready first]
    · rfl
    · intro j hj
      have : j < 64 := List.mem_range.mp hj
      by_cases hle : s.roundAt ≤ j
      · simp [above j hle this]
      · simp [hle]

theorem exec_launchRecordTake (q : Nat) (s : State) : exec (.launchRecordTake q) s = .next ((s.take q).getD s) := rfl

/-- R80, R379: what is taken from the queue whose turn it is. -/
theorem exec_take {s t : State} {q : Nat} (hen : s.host.computeEn = true) (h : s.turnOf q) (ht : s.takeFrom q = some t) :
    exec (.launchRecordTake q) s = .next { t with roundAt := q + 1 } := by
  rw [exec_launchRecordTake, State.take, if_neg, ht]
  · rfl
  · simp [hen, h.1, takeTurn_of_turnOf h]

/-! ### A record that is read (R79, R93) -/

/-- R93, R497: the next record of a queue is validated. -/
theorem takeFrom_next {s : State} {q : Nat} {words : List Word} {x : Queue} {device : Bool} (h : s.nextRecord q words x device) :
    s.takeFrom q = (s.setQueue q x).takeWords q words device := by
  unfold State.takeFrom
  rcases h with ⟨places, hx, rfl⟩ | ⟨places, ⟨b, hb, rfl⟩, hx, rfl⟩
  · simp only [places]; rw [← hx]
  · rw [hx]; simp only [places, hb]

theorem lowest_of_least {l : List Nat} {x : Nat} (hx : x ∈ l) (least : ∀ y ∈ l, x ≤ y) : lowest l = some x := by
  have fold : ∀ (l : List Nat) (a : Nat), l.foldl Nat.min a ∈ a :: l ∧ ∀ y ∈ a :: l, l.foldl Nat.min a ≤ y := by
    intro l
    induction l with
    | nil => intro a; simp
    | cons b rest ih =>
      intro a
      obtain ⟨mem, le⟩ := ih (Nat.min a b)
      rw [List.foldl_cons]
      refine ⟨?_, fun y hy => ?_⟩
      · rcases List.mem_cons.mp mem with heq | hmem
        · rw [heq]
          rcases Nat.le_total a b with hab | hab
          · rw [show Nat.min a b = a from Nat.min_eq_left hab]; exact List.mem_cons_self
          · rw [show Nat.min a b = b from Nat.min_eq_right hab]; exact List.mem_cons_of_mem _ List.mem_cons_self
        · exact List.mem_cons_of_mem _ (List.mem_cons_of_mem _ hmem)
      · have top := le _ List.mem_cons_self
        rcases List.mem_cons.mp hy with rfl | hy
        · exact top.trans (Nat.min_le_left _ _)
        · rcases List.mem_cons.mp hy with rfl | hy
          · exact top.trans (Nat.min_le_right _ _)
          · exact le y (List.mem_cons_of_mem _ hy)
  cases l with
  | nil => exact absurd hx List.not_mem_nil
  | cons a rest =>
    obtain ⟨mem, le⟩ := fold rest a
    exact congrArg some (Nat.le_antisymm (le x hx) (least _ mem))

/-- The taking of a record leaves a launch, and the number that it has taken. -/
def State.takes (s : State) (la : Launch) : State := { s.setLaunch s.nextId la with nextId := s.nextId + 1 }

/-- The queues and the numbers are nothing that the scheduler's accesses depend on. -/
theorem quieter_next (s : State) (q n : Nat) (x : Queue) : Quieter s { s.setQueue q x with nextId := n } :=
  ⟨rfl, rfl, rfl, rfl, rfl, fun _ hc => hc⟩

section
variable (s : State) (q : Nat) {words : List Word} (device : Bool)

/-- R83 phase 1: a faulty field ends the launch with status 1. -/
theorem takeWords_faulty {off : Nat} (h : lowest (recordFaults words) = some off) : s.takeWords q words device =
    some (s.takes { Launch.taken q (.ofWords words) device with ending := some (1, off) }) := by
  rw [State.takeWords, h]
  rfl

variable (valid : recordFaults words = []) {o : CodeObj}
  (loads : ∀ n, ({ s with nextId := n } : State).loadObj (LaunchRecord.ofWords words).code = .ok o)
include valid loads

/-- R83 phase 3: so does a field that does not fit the code object. -/
theorem takeWords_unfit {off : Nat} (h : objectFault (.ofWords words) o = some off) : s.takeWords q words device =
    some (s.takes { Launch.taken q (.ofWords words) device with ending := some (1, off) }) := by
  rw [State.takeWords, valid]
  -- Nothing of what is loaded or checked is to be evaluated: the hypotheses give the results.
  obtain ⟨load, hload⟩ : ∃ load, load = State.loadObj := ⟨_, rfl⟩
  obtain ⟨fault, hfault⟩ : ∃ fault, fault = objectFault := ⟨_, rfl⟩
  rw [← hload] at loads ⊢
  rw [← hfault] at h ⊢
  simp only [lowest, State.fresh, loads, h]
  rfl

/-- R82, R83: a valid record whose code object loads becomes a launch with all its blocks to place. -/
theorem takeWords_valid (h : objectFault (.ofWords words) o = none) (single : (LaunchRecord.ofWords words).pipeline = false) :
    s.takeWords q words device = some (s.takes ((Launch.taken q (.ofWords words) device).loaded o none)) := by
  rw [State.takeWords, valid]
  obtain ⟨load, hload⟩ : ∃ load, load = State.loadObj := ⟨_, rfl⟩
  obtain ⟨fault, hfault⟩ : ∃ fault, fault = objectFault := ⟨_, rfl⟩
  rw [← hload] at loads ⊢
  rw [← hfault] at h ⊢
  simp only [lowest, State.fresh, loads, h, single]
  rfl

end

/-! ### A record that cannot be read (R497) -/

theorem takeFrom_unreadable {s : State} {q bad : Nat} (places : (s.queue q).places = [])
    (h : s.readVirt ((s.queue q).base + (s.queue q).head.toNat % 2 ^ (s.queue q).size * 128) 128 = .error (some bad)) :
    s.takeFrom q = some (((s.setQueue q { s.queue q with head := (s.queue q).head + 1 }).refusedHere bad).ringRecord 0
      { code := 0x0309, source := 9, addr := some bad }) := by
  unfold State.takeFrom
  simp only [places, h]

/-! ### The steps -/

section
variable {s : State} {q : Nat} (hen : s.host.computeEn = true) (turn : s.turnOf q)
include hen turn

/-- R80, R83: the step that takes a record which becomes launch `la`. -/
theorem exec_takes {words : List Word} {x : Queue} {device : Bool} {la : Launch} (next : s.nextRecord q words x device)
    (h : (s.setQueue q x).takeWords q words device = some ((s.setQueue q x).takes la)) :
    exec (.launchRecordTake q) s =
      .next { (s.setQueue q x).setLaunch s.nextId la with roundAt := q + 1, nextId := s.nextId + 1 } := by
  rw [exec_take hen turn ((takeFrom_next next).trans h)]
  rfl

/-- R395, R497: the step that passes over a record which cannot be read. -/
theorem exec_take_unreadable {bad : Nat} (places : (s.queue q).places = [])
    (h : s.readVirt ((s.queue q).base + (s.queue q).head.toNat % 2 ^ (s.queue q).size * 128) 128 = .error (some bad)) :
    exec (.launchRecordTake q) s = .next { (((s.setQueue q { s.queue q with head := (s.queue q).head + 1 }).refusedHere bad).ringRecord 0
      { code := 0x0309, source := 9, addr := some bad }) with roundAt := q + 1 } :=
  exec_take hen turn (takeFrom_unreadable places h)

end

/-! ### Which agent refuses an access of the scheduler (R395, R397) -/

section
variable {s : State} {va : Nat}

theorem refusedHere_of_place {pa : Nat} (h : s.refusedAt va = some pa) :
    s.refusedHere va = s.ringRecord (homeDie pa)
      { code := 0x18, source := if isRemote pa then 7 else 4, physical := true, addr := some pa } := by
  rw [State.refusedHere, h]

theorem refusedHere_of_walker (h : s.refusedAt va = none) (hw : s.walkerRefuses va = true) :
    s.refusedHere va = s.ringRecord 0 { code := 0x14, source := 3, addr := some va } := by
  rw [State.refusedHere, h]
  exact if_pos hw

theorem refusedHere_of_none (h : s.refusedAt va = none) (hw : s.walkerRefuses va = false) : s.refusedHere va = s := by
  rw [State.refusedHere, h]
  exact if_neg (Bool.eq_false_iff.mp hw)

end

end Sys2Proof.Machine
end


section
/-! PROOF. The end of a launch and the host's abort (R84, R85, R379, R422, R423), and O50. -/

namespace Sys2Proof.Machine

theorem exec_launchCompletion (l : Nat) (s : State) : exec (.launchCompletion l) s = .next (s.completeLaunch l) := rfl

/-! ### What is left of a launch that is gone -/

/-- R85, R353: a launch whose end has been announced frees its context, is remembered, and is gone. -/
def State.gone (s : State) (l : Nat) (la : Launch) (written : Bool) : State :=
  let t := (s.freeCtx la).remember la written
  { t with launches := NMap.del t.launches l }

/-- A launch without a resident block that can end ends. -/
theorem completeLaunch_gone {s : State} {l : Nat} {la : Launch} (hl : s.launch l = some la) (alone : s.residentOf l = [])
    (ready : la.aborting.isSome = true ∨ (la.saved = [] ∧ la.waiting = [])) (free : s.completionFree la = true) :
    s.completeLaunch l =
      (((s.abortRecord l la).announce l la).2.gone l la ((s.abortRecord l la).announce l la).1).judge := by
  have complete : s.completeReady l = true := by
    unfold State.completeReady
    rw [hl]
    dsimp only
    split
    · rw [alone]; rfl
    · rename_i running
      obtain ⟨saved, waiting⟩ := ready.resolve_left running
      simp [alone, saved, waiting]
  have nothing : s.abandonBlocks l = s := by rw [State.abandonBlocks, alone]; rfl
  unfold State.completeLaunch
  simp only [hl, complete, free, nothing, ite_self]
  rfl

theorem freeCtx_frame (s : State) (la : Launch) :
    s.freeCtx la = { s with ctxs := (s.freeCtx la).ctxs, dies := (s.freeCtx la).dies } := by
  unfold State.freeCtx
  split <;> rfl

section
variable (s : State) (l : Nat) (la : Launch) (written : Bool)

/-- Memory, threads, blocks and caches stay, and the vectors that are pending. -/
theorem gone_frame : let t := s.gone l la written
    t.mem = s.mem ∧ t.peer = s.peer ∧ t.threads = s.threads ∧ t.blocks = s.blocks ∧ t.cores = s.cores ∧
      t.host.pending = s.host.pending ∧ t.ended.head? = some (la.recd.tag, la.status.1) := by
  unfold State.gone State.remember
  rw [freeCtx_frame]
  dsimp only
  split <;> exact ⟨rfl, rfl, rfl, rfl, rfl, rfl, rfl⟩

theorem gone_launch (h : NMap.sorted s.launches = true) : (s.gone l la written).launch l = none := by
  have launches : ((s.freeCtx la).remember la written).launches = s.launches := by
    unfold State.remember
    rw [freeCtx_frame]
    dsimp only
    split <;> rfl
  show NMap.find (NMap.del ((s.freeCtx la).remember la written).launches l) l = none
  rw [launches]
  exact NMap.find_del_same _ l h

/-- R353: its context is free. -/
theorem gone_ctx {c : Nat} (hc : la.ctx = some c) (h : NMap.sorted s.ctxs = true) : (s.gone l la written).ctx c = none := by
  have ctxs : ((s.freeCtx la).remember la written).ctxs = NMap.del s.ctxs c := by
    unfold State.remember
    dsimp only
    split <;> simp only [State.freeCtx, hc]
  show NMap.find ((s.freeCtx la).remember la written).ctxs c = none
  rw [ctxs]
  exact NMap.find_del_same _ c h

/-- R423: ABORT_DONE takes the tag that ABORT_TAG named. -/
theorem gone_abort (h : s.host.aborting = some la.recd.tag) :
    (s.gone l la true).host.aborting = none ∧ (s.gone l la true).host.abortDone = la.recd.tag := by
  unfold State.gone State.remember
  rw [freeCtx_frame]
  dsimp only
  rw [if_pos ⟨rfl, h⟩]
  exact ⟨rfl, rfl⟩

end

/-! ### The completion word (R84) -/

theorem ofBytes_bytesOf (n x : Nat) : ofBytes (bytesOf n x) = x % 256 ^ n := by
  induction n generalizing x with
  | zero => simp [bytesOf, ofBytes, Nat.mod_one]
  | succ n ih =>
    rw [bytesOf, ofBytes, ih, BitVec.toNat_ofNat, Nat.pow_succ' (m := 256), Nat.mod_mul]

theorem length_bytesOf (n x : Nat) : (bytesOf n x).length = n := by
  induction n generalizing x with
  | zero => rfl
  | succ n ih => rw [bytesOf, List.length_cons, ih]

/-- The bytes of a word at the addresses of a line, as a write of that line by offset. -/
theorem lineWrites_range' {pa n : Nat} (line : pa % 64 + n ≤ 64) (word : List Byte) (hn : word.length = n) (hpos : 0 < n) :
    (((List.range' pa n).zip word).map fun p => (p.1 % 64, p.2)).map
        (fun p => (lineOf ((List.range' pa n).getD 0 0) + p.1, p.2)) =
      word.zipIdx.map fun p => (pa + p.2, p.1) := by
  refine List.ext_getElem (by simp [hn]) fun i hi _ => ?_
  have hi : i < n := by simp at hi; omega
  have first : (List.range' pa n).getD 0 0 = pa := by
    rw [List.getD_eq_getElem _ _ (by simpa using hpos), List.getElem_range']; omega
  simp only [List.getElem_map, List.getElem_zip, List.getElem_range', List.getElem_zipIdx, first, lineOf]
  refine Prod.ext ?_ rfl
  dsimp only
  omega

/-- R84: the word that tells of the end of a launch. -/
def Launch.word (la : Launch) : Nat := la.recd.tag.toNat * 2 ^ 32 + la.status.2 % 2 ^ 16 * 2 ^ 16 + la.status.1

/-- R84, R497: a completion word that can be written is written, and nothing else changes. -/
theorem completionWord_written {s : State} {la : Launch} {pas : List Nat} (l : Nat) (aligned : la.recd.completion % 8 = 0)
    (h : s.writableVirt la.recd.completion 8 = .ok pas) (wf : Memory.wf s.mem = true) :
    ∃ t, s.completionWord l la = (true, t) ∧ SameButHomes s t ∧
      ofBytes (pas.map t.homeByte) = la.word % 2 ^ 64 ∧ ∀ pa, pa ∉ pas → t.homeByte pa = s.homeByte pa := by
  obtain ⟨pa, offset, rfl⟩ := writableVirt_line h (by norm_num) (by omega)
  have line : pa % 64 + 8 ≤ 64 := by omega
  have calm := (quieter_calm s).writableVirt h
  let word := bytesOf 8 la.word
  have len : word.length = 8 := length_bytesOf 8 _
  let t := s.writeLine (lineOf ((List.range' pa 8).getD 0 0)) (((List.range' pa 8).zip word).map fun p => (p.1 % 64, p.2))
  have homes (a : Nat) : t.homeByte a = (s.writeHome pa word).homeByte a := by
    rw [homeByte_writeLine, lineWrites_range' line word len (by norm_num)]
    rfl
  refine ⟨t, ?_, writeLine_sameButHomes s _ _, ?_, fun a ha => ?_⟩
  · unfold State.completionWord
    dsimp only
    rw [if_neg (by simpa using aligned), calm]
    rfl
  · have back : (List.range' pa 8).map t.homeByte = word := by
      refine List.ext_getElem (by simp [len]) fun i hi hw => ?_
      rw [List.getElem_map, List.getElem_range', homes, Nat.one_mul]
      exact homeByte_writeHome wf pa (List.getElem?_eq_getElem hw)
    rw [back, ofBytes_bytesOf]
    norm_num
  · rw [homes]
    refine homeByte_writeHome_other wf ?_
    rw [List.mem_range'_1] at ha
    omega

/-! ### Records and signals of an end (R84, R379, R422, R423) -/

theorem recorded_abortRecord (s : State) (l : Nat) (la : Launch) : Recorded s (s.abortRecord l la) := by
  unfold State.abortRecord
  split
  · exact .refl s
  · exact recorded_recordOf s 0 l _

theorem recorded_completionWord (s : State) (l : Nat) (la : Launch) : Recorded s (s.completionWord l la).2 := by
  unfold State.completionWord
  dsimp only
  split
  · exact recorded_unusable s l _ _
  · split
    · exact (writeLine_sameButHomes s _ _).recorded
    · exact recorded_unusable s l _ _

theorem Recorded.restart {s t : State} (h : Recorded s t) : t.mailbox.restart = s.mailbox.restart := by rw [h.frame]

/-- R84: without a restart the end is announced. -/
theorem announce_of_running {s : State} (h : s.mailbox.restart = none) (l : Nat) (la : Launch) :
    s.announce l la = ((s.completionWord l la).1, (s.completionWord l la).2.signal la.queue) := by
  unfold State.announce
  rw [h]
  rfl

/-- R379: while a restart is under way it is not. -/
theorem announce_of_restart {s : State} (h : s.mailbox.restart.isSome = true) (l : Nat) (la : Launch) :
    s.announce l la = (false, s) := by
  unfold State.announce
  rw [if_pos h]

theorem signal_frame (s : State) (v : Nat) :
    s.signal v = { s with host := { s.host with pending := (s.signal v).host.pending } } := by
  unfold State.signal
  split <;> rfl

theorem mem_signal (s : State) (v : Nat) : v ∈ (s.signal v).host.pending := by
  unfold State.signal
  split
  · rename_i h
    exact List.contains_iff_mem.mp h
  · exact List.mem_append_right _ (List.mem_singleton.mpr rfl)

/-! ### How launches end -/

/-- R84, R85: a launch whose blocks have ended, or which a recorded end has ended. -/
theorem completion_unaborted {s : State} {l st d : Nat} {la : Launch} {pas : List Nat} (wf : Memory.wf s.mem = true)
    (sorted : NMap.sorted s.launches = true) (running : s.mailbox.restart = none) (hl : s.launch l = some la)
    (alone : s.residentOf l = []) (saved : la.saved = []) (waiting : la.waiting = [])
    (aligned : la.recd.completion % 8 = 0) (writable : s.writableVirt la.recd.completion 8 = .ok pas) (hst : st ≠ 5)
    (status : la.status = (st, d)) : ∃ u : State, exec (.launchCompletion l) s = .next u.judge ∧ u.launch l = none ∧
      ofBytes (pas.map u.homeByte) = (la.recd.tag.toNat * 2 ^ 32 + d % 2 ^ 16 * 2 ^ 16 + st) % 2 ^ 64 ∧
      (∀ pa, pa ∉ pas → u.homeByte pa = s.homeByte pa) ∧ la.queue ∈ u.host.pending ∧
      u.ended.head? = some (la.recd.tag, st) ∧
      (s.host.aborting = some la.recd.tag → u.host.aborting = none ∧ u.host.abortDone = la.recd.tag) ∧
      (∀ c, la.ctx = some c → NMap.sorted s.ctxs = true → u.ctx c = none) ∧
      u.threads = s.threads ∧ u.blocks = s.blocks ∧ u.cores = s.cores := by
  have free : s.completionFree la = true := by
    unfold State.completionFree
    rw [writable, Bool.or_true]
  have silent : s.abortRecord l la = s := by
    unfold State.abortRecord
    rw [if_pos (by rw [status]; exact hst)]
  obtain ⟨t, word, same, bytes, others⟩ := completionWord_written l aligned writable wf
  have announced : s.announce l la = (true, t.signal la.queue) := by rw [announce_of_running running, word]
  have signalled := signal_frame t la.queue
  have run := completeLaunch_gone hl alone (.inr ⟨saved, waiting⟩) free
  rw [silent, announced] at run
  dsimp only at run
  obtain ⟨mem, peer, threads, blocks, cores, pending, ended⟩ := gone_frame (t.signal la.queue) l la true
  have home (pa : Nat) : ((t.signal la.queue).gone l la true).homeByte pa = t.homeByte pa :=
    homeByte_congr (mem.trans (by rw [signalled])) (peer.trans (by rw [signalled])) pa
  refine ⟨_, (exec_launchCompletion l s).trans (congrArg _ run), gone_launch _ l la true ?_, ?_, fun pa hpa => ?_, ?_, ?_,
    fun habort => gone_abort _ l la ?_, fun c hc hsorted => gone_ctx _ l la true hc ?_, ?_, ?_, ?_⟩
  · rw [signalled, same]; exact sorted
  · rw [List.map_congr_left fun pa _ => home pa, bytes, Launch.word, status]
  · rw [home, others pa hpa]
  · rw [pending]; exact mem_signal t la.queue
  · rw [ended, status]
  · rw [signalled, same]; exact habort
  · rw [signalled, same]; exact hsorted
  · rw [threads, signalled, same]
  · rw [blocks, signalled, same]
  · rw [cores, signalled, same]

/-- R379: a launch that a restart aborts leaves its abort record, and neither completion word nor signal. -/
theorem completion_of_restart {s : State} {l d : Nat} {la : Launch} (sorted : NMap.sorted s.launches = true)
    (restarting : s.mailbox.restart.isSome = true) (hl : s.launch l = some la) (alone : s.residentOf l = [])
    (aborted : la.aborting = some d) : ∃ u : State, exec (.launchCompletion l) s = .next u.judge ∧ u.launch l = none ∧
      u.ended.head? = some (la.recd.tag, 5) ∧ (∀ v, v < 64 → v ∈ u.host.pending → v ∈ s.host.pending) ∧
      u.mem = (s.recordOf 0 l { code := 0x0410, step := 6, source := 9, tag := la.recd.tag.toNat, info := d }).mem := by
  have status : la.status = (5, d) := by simp [Launch.status, aborted]
  have free : s.completionFree la = true := by
    unfold State.completionFree
    rw [restarting, Bool.true_or]
  have recorded := recorded_abortRecord s l la
  have announced := announce_of_restart (s := s.abortRecord l la) (by rw [recorded.restart]; exact restarting) l la
  have run := completeLaunch_gone hl alone (.inl (by rw [aborted]; rfl)) free
  rw [announced] at run
  dsimp only at run
  obtain ⟨mem, -, -, -, -, pending, ended⟩ := gone_frame (s.abortRecord l la) l la false
  refine ⟨_, (exec_launchCompletion l s).trans (congrArg _ run), gone_launch _ l la false (recorded.sorted sorted), ?_,
    fun v low hv => recorded.vectors v (pending ▸ hv) low, mem.trans ?_⟩
  · rw [ended, status]
  · unfold State.abortRecord
    rw [status, if_neg (by simp)]

/-- R422: a launch that is aborted, or of which a block has failed, ends with status 5. -/
theorem completion_failed {s : State} {l : Nat} {la : Launch} (sorted : NMap.sorted s.launches = true)
    (running : s.mailbox.restart = none) (hl : s.launch l = some la) (alone : s.residentOf l = [])
    (ready : la.aborting.isSome = true ∨ (la.saved = [] ∧ la.waiting = [])) (status : la.status.1 = 5)
    (writable : s.writableVirt la.recd.completion 8 ≠ .error none) :
    ∃ u : State, exec (.launchCompletion l) s = .next u.judge ∧ u.launch l = none ∧
      u.ended.head? = some (la.recd.tag, 5) ∧ la.queue ∈ u.host.pending ∧ u.threads = s.threads ∧ u.blocks = s.blocks := by
  have free : s.completionFree la = true := by
    unfold State.completionFree
    rw [running]
    split
    · contradiction
    · rfl
  have recorded := (recorded_abortRecord s l la).trans (recorded_completionWord (s.abortRecord l la) l la)
  have announced := announce_of_running (s := s.abortRecord l la)
    ((recorded_abortRecord s l la).restart.trans running) l la
  have run := completeLaunch_gone hl alone ready free
  rw [announced] at run
  dsimp only at run
  generalize (s.abortRecord l la).completionWord l la = out at recorded run
  obtain ⟨written, t⟩ := out
  dsimp only at recorded run
  have signalled := signal_frame t la.queue
  obtain ⟨-, -, threads, blocks, -, pending, ended⟩ := gone_frame (t.signal la.queue) l la written
  refine ⟨_, (exec_launchCompletion l s).trans (congrArg _ run), gone_launch _ l la written ?_, ?_, ?_, ?_, ?_⟩
  · rw [signalled]; exact recorded.sorted sorted
  · rw [ended, status]
  · rw [pending]; exact mem_signal t la.queue
  · rw [threads, signalled, recorded.frame]
  · rw [blocks, signalled, recorded.frame]

/-! ### The host's abort (R423) -/

theorem exec_launchAbort (tag : Word) (s : State) : exec (.launchAbort tag) s = .next (s.abortTag tag) := rfl

/-- R420, R453: what an abort leaves of a thread's log: atomics, and accesses that were held back. -/
theorem dropLogged_eq (th : Thread) : th.dropLogged =
    { th with log := th.log.filter fun q => q.atomic || q.held.isSome,
              pend := th.pend.filter fun p => th.log.all fun q => (q.atomic || q.held.isSome) || decide (q.op ≠ p.op) } := by
  have owed (p : Pending) : (!((th.log.filter fun q => !q.atomic && q.held.isNone).map (·.op)).contains p.op) =
      th.log.all fun q => (q.atomic || q.held.isSome) || decide (q.op ≠ p.op) := by
    rw [Bool.eq_iff_iff]
    simp only [Bool.not_eq_true', List.contains_eq_mem, decide_eq_false_iff_not, List.mem_map, List.mem_filter, not_exists, not_and,
      List.all_eq_true, and_imp]
    refine forall₂_congr fun q _ => ?_
    cases q.atomic <;> cases q.held <;> simp
  rw [Thread.dropLogged]
  simp only [owed]

/-- R423: ABORT_TAG names no launch that could be aborted. -/
theorem abortTag_idle {s : State} {tag : Word}
    (h : tag = 0 ∨ (∀ p ∈ s.launches, p.2.recd.tag ≠ tag) ∨ s.host.aborting.isSome = true) : s.abortTag tag = s := by
  unfold State.abortTag
  split
  · rfl
  · rename_i l la found
    rw [if_pos]
    rcases h with h | h | h
    · exact .inl h
    · exact absurd (by simpa using List.find?_some found) (h _ (List.mem_of_find?_eq_some found))
    · exact .inr (.inl h)

/-- R423: an abort that stops blocks marks them, and drops what their warps have logged. -/
theorem beginAbort_stops {s : State} {l detail : Nat} {la : Launch} (hl : s.launch l = some la) (running : la.aborting = none)
    (stops : detail ≠ 5) : s.beginAbort l detail = { s with
      launches := NMap.put s.launches l { la with aborting := some detail },
      blocks := s.blocks.map fun p => if p.2.launch = l then (p.1, { p.2 with stopping := true }) else p,
      threads := s.threads.map fun p =>
        if p.2.isWarp = true ∧ (s.block p.2.block).any (fun b => decide (b.launch = l)) = true then (p.1, p.2.dropLogged)
        else p } := by
  simp only [State.beginAbort, hl, running, stops, Option.isSome_none, Bool.false_eq_true, if_false, Bool.and_eq_true]
  rfl

/-- R423: the host's ABORT_TAG starts the abort of the launch that its tag names. -/
theorem abortTag_starts {s : State} {tag : Word} {l : Nat} {la : Launch} (hen : s.host.computeEn = true) (htag : tag ≠ 0)
    (free : s.host.aborting = none) (found : s.launches.find? (fun p => p.2.recd.tag = tag) = some (l, la)) :
    s.abortTag tag = ({ s with host := { s.host with aborting := some tag } } : State).beginAbort l 6 := by
  rw [State.abortTag, found]
  refine if_neg fun idle => ?_
  rcases idle with h | h | h
  · exact htag h
  · rw [free] at h
    exact Bool.false_ne_true h
  · rw [hen] at h
    exact Bool.false_ne_true h

/-- R84: the status of a launch whose blocks have ended, or which a recorded end has ended. -/
theorem status_unaborted {la : Launch} {st d : Nat} (running : la.aborting = none)
    (h : la.ending = some (st, d) ∨ (la.ending = none ∧ la.failed = false ∧ st = 0 ∧ d = 0)) : la.status = (st, d) := by
  unfold Launch.status
  rcases h with ended | ⟨ended, sound, rfl, rfl⟩
  · rw [running, ended]
  · rw [running, ended, sound]
    rfl

/-- R422: the status of a launch that is aborted, or of which a block has failed. -/
theorem status_failed {la : Launch} {d : Nat} {p : Prop}
    (h : la.aborting = some d ∨ (la.aborting = none ∧ la.ending = none ∧ la.failed = true ∧ p)) : la.status.1 = 5 := by
  unfold Launch.status
  rcases h with aborted | ⟨running, ended, failed, -⟩
  · rw [aborted]
  · rw [running, ended, failed]
    rfl

/-- Settles O50, step by step: the doorbell, the taking of a record, the end of a launch, and the abort. -/
theorem launchesComeAndGo : Obligations.LaunchesComeAndGo := by
  refine ⟨⟨fun s q tail hen hq => ⟨fun fits => ?_, fun beyond => ?_⟩, ?_, ?_⟩, ?_, ?_, ?_, ?_, ?_⟩
  · exact (exec_launchQueueDoorbell q tail s).trans (congrArg _ (doorbell_in_range hen hq fits))
  · exact (exec_launchQueueDoorbell q tail s).trans (congrArg _ (doorbell_out_of_range hen hq beyond))
  · intro s q words x device hen turn next r la took
    refine ⟨fun off hoff least => ?_, fun o valid loads => ⟨fun off unfit => ?_, fun fit single => ?_⟩⟩
    · exact exec_takes hen turn next (takeWords_faulty _ q device (lowest_of_least hoff least))
    · exact exec_takes hen turn next
        (takeWords_unfit _ q device valid (fun n => (quieter_next s q n x).loadObj loads) unfit)
    · exact exec_takes hen turn next
        (takeWords_valid _ q device valid (fun n => (quieter_next s q n x).loadObj loads) fit single)
  · intro s q bad hen turn x places unreadable next taken
    have run := exec_take_unreadable hen turn places unreadable
    refine ⟨fun hn hw => ?_, fun hn hw => ?_, fun pa hp => ?_⟩
    · rw [refusedHere_of_none hn hw] at run
      exact run
    · rw [refusedHere_of_walker hn hw] at run
      exact run
    · rw [refusedHere_of_place hp] at run
      exact run
  · intro s l st d la pas wf sorted running hl unaborted alone saved waiting aligned writable hst ended
    exact completion_unaborted wf sorted running hl alone saved waiting aligned writable hst (status_unaborted unaborted ended)
  · intro s l d la sorted restarting hl alone aborted
    exact completion_of_restart sorted restarting hl alone aborted
  · intro s l d la sorted running hl alone why writable
    exact completion_failed sorted running hl alone (why.imp (fun h => by rw [h]; rfl) fun h => h.2.2.2) (status_failed why) writable
  · intro s tag l la hen htag free kept owed found hl running
    have begun := beginAbort_stops (s := { s with host := { s.host with aborting := some tag } }) hl running
      (show 6 ≠ 5 by norm_num)
    simp only [dropLogged_eq] at begun
    exact (exec_launchAbort tag s).trans (congrArg _ ((abortTag_starts hen htag free found).trans begun))
  · intro s tag h
    exact (exec_launchAbort tag s).trans (congrArg _ (abortTag_idle h))

end Sys2Proof.Machine
end


section
/-! PROOF. The rendezvous at `bankcfg`, which leaves a conversion pending (R153, R329). -/

namespace Sys2Proof.Machine

/-! ### A rendezvous whose members go on without a result -/

/-- A member that takes no result goes on as its thread says. -/
theorem goOn_congr {i : Instr} (hl : isLong i = true) (s : State) (o : Ops) {f g : Env} (h : g.tid = f.tid) :
    s.goOn i o g [] = s.goOn i o f [] := by
  simp only [State.goOn, results_nil hl, h]

/-- The environment of a member with its thread as it stands in `s`. -/
def Env.nowIn (s : State) (f : Env) : Env := { f with th := (s.thread f.tid).getD f.th }

/-- R53: the rendezvous of a set is closed. -/
def State.closeRend (s : State) (blk set : Nat) : State :=
  s.modBlock blk fun b => { b with rends := b.rends.filter (·.set ≠ set) }

section
variable {s : State} {i : Instr} {o : Ops} {e : Env} {set base : Nat} {all : List Nat} (h : s.arrives i o e set base all)
  {c : SetCtx} (hc : s.setCtx e o = some c) (rends : List Rendezvous) {body : SetCtx → State → SetRes} {u : State}
  (hbody : body (c.mapEnv (Env.inRend e.tid set rends)) (s.meets e set rends) = .done u [])
include h hc hbody

/-- R47, R53: the members of a rendezvous that gives no result go on in turn, once it is closed. -/
theorem State.arrives.execSet_silent (hl : isLong i = true) : (s.meets e set rends).execSet e i o body =
    c.members.foldl (fun t m => t.goOn i o m.2 []) (u.closeRend e.th.block set) := by
  let φ := Env.inRend e.tid set rends
  have same : ∀ f : Env, f.SameIn (φ f) := Env.sameIn_inRend e.tid set rends
  have hset := (Sys2Proof.Machine.setCtx_some h.named hc).1
  have ctx := setCtx_meets (rends := rends) h.named hc h.thread h.block fun m hm =>
    (h.one m hm).imp fun f hf => ⟨hf.1, hf.2.1⟩
  have noErr : (c.mapEnv φ).members.filterMap (fun m => (m.2.checkedLane []).map (fun l => (m.2, l))) = [] := by
    refine List.filterMap_eq_nil_iff.mpr fun x hx => ?_
    obtain ⟨m, hm, rfl⟩ := List.mem_map.mp hx
    have unarmed : (φ m.2).th.checkErr = none := by rw [(same m.2).checkErr]; exact (h.member hc hm).2.2.2
    simp [Env.checkedLane, Env.armed, unarmed]
  have run : (s.meets e set rends).execSet e i o body =
      (c.mapEnv φ).members.foldl (fun t m => t.goOn i o m.2 []) (u.closeRend e.th.block set) := by
    unfold State.execSet
    rw [ctx]
    dsimp only
    rw [h.noFlaw hc rends]
    dsimp only
    rw [hbody]
    dsimp only
    refine (congrArg (fun l => State.checkedAll (e.setOf o).2.2 l (s.meets e set rends) u _) noErr).trans ?_
    rw [show (c.mapEnv (Env.inRend e.tid set rends)).set = set from hset, checkedAll_nil]
    rfl
  rw [run, SetCtx.mapEnv, List.foldl_map]
  simp only [fun (t : State) (m : Nat × Env) => goOn_congr hl t o (same m.2).tid]

/-- R47, R53, R61: such a rendezvous leaves the members' registers and pending results as the instruction has them. -/
theorem State.arrives.goes_on (hi : isBoundary i = true) (hr : ∀ o, i ≠ .region o) (hl : isLong i = true)
    (hcmp : isCompare i = false) (hwarp : ∀ m ∈ c.members, ∃ th, u.thread m.2.tid = some th ∧ th.isWarp = true)
    (htest : u.host.testMode = false) (hcur : u.cur = s.cur) :
    let t := (s.meets e set rends).execSet e i o body
    t = { u.closeRend e.th.block set with threads := t.threads, nextId := t.nextId } ∧
      (∀ v, v ∉ all → t.thread v = u.thread v) ∧
      ∀ j f th, (j, f) ∈ c.members → u.thread f.tid = some th → ∃ th', t.thread f.tid = some th' ∧
        th'.pc = s.cur.pc + 4 * o.len ∧ th'.wait = .ready ∧ th'.regs = th.regs ∧ th'.pend = th.pend := by
  let closed := u.closeRend e.th.block set
  have frame : closed = { u with blocks := closed.blocks } := by
    simp only [closed, State.closeRend, State.modBlock]
    split <;> rfl
  have now {m : Nat × Env} {th : Thread} (hth : u.thread m.2.tid = some th) : (m.2.nowIn u).th = th := by
    rw [Env.nowIn, hth]
    rfl
  have run : (s.meets e set rends).execSet e i o body =
      (c.members.map fun m => (m.1, m.2.nowIn u)).foldl (fun t m => t.goOn i o m.2 []) closed := by
    rw [h.execSet_silent hc rends hbody hl, List.foldl_map]
    rfl
  obtain ⟨kept, others, each⟩ := foldl_goOn hi hr o (fun _ => []) (c.members.map fun m => (m.1, m.2.nowIn u)) (u := closed)
    (by rw [List.map_map]; exact h.nodup hc)
    (fun x hx => by
      obtain ⟨m, hm, rfl⟩ := List.mem_map.mp hx
      obtain ⟨th, hth, -⟩ := hwarp m hm
      exact ⟨th.wait, by rw [now hth, frame]; exact hth⟩)
    (fun x hx => by
      obtain ⟨m, hm, rfl⟩ := List.mem_map.mp hx
      obtain ⟨th, hth, warp⟩ := hwarp m hm
      rw [now hth]
      exact warp)
    (by rw [frame]; exact htest)
  rw [run]
  refine ⟨kept, fun v hv => ?_, fun j f th hf hth => ?_⟩
  · rw [others v, frame]
    · rfl
    · intro hmem
      obtain ⟨x, hx, rfl⟩ := List.mem_map.mp hmem
      obtain ⟨m, hm, rfl⟩ := List.mem_map.mp hx
      exact hv (h.mem_all hc (j := m.1) (f := m.2) hm)
  · obtain ⟨th', hth', stands, ready, later⟩ := each (j, f.nowIn u) (List.mem_map.mpr ⟨(j, f), hf, rfl⟩)
    obtain ⟨regs, pend, -⟩ := later hl hcmp
    have cur : closed.cur = s.cur := by rw [frame]; exact hcur
    rw [now (m := (j, f)) hth] at regs pend
    exact ⟨th', hth', stands.trans (by rw [cur]), ready, regs, pend rfl⟩

end

/-! ### The arrivals at `bankcfg` (R153, R329) -/

/-- R329: what operation `op` of a member owes it: a status. -/
def Env.owes (o : Ops) (f : Env) (op : Nat) : Pending :=
  { op := op, vals := [], stale := none, known := false, regs := f.th.writes 0 (.bankcfg o), region := f.th.region.num }

/-- One more member of the conversion, and its operation. -/
def arriveBank (o : Ops) (r : List (Nat × Nat) × State) (m : Nat × Env) : List (Nat × Nat) × State :=
  (r.1 ++ [(m.2.tid, r.2.nextId)], r.2.fresh.2.modThread m.2.tid fun th =>
    { th.setFlag (m.2.headerFlag o.len) r.2.nextId with pend := th.pend ++ [m.2.owes o r.2.nextId] })

/-- R153, R329: what `bankcfg` does once every member has arrived. -/
def bankcfgBody (o : Ops) (c : SetCtx) (s : State) : SetRes :=
  if c.leader.blk.switch.isSome then .wait s
  else
    let r := c.members.foldl (arriveBank o) ([], s)
    .done (r.2.modBlock c.leader.th.block fun b => { b with switch := some (o.xmod, o.dst, r.1) }) []

theorem exec_bankcfg (o : Ops) (s : State) : exec (.bankcfg o) s = issueSet s (.bankcfg o) o (bankcfgBody o) := rfl

theorem setFlag_isWarp (th : Thread) (flag op : Nat) : (th.setFlag flag op).isWarp = th.isWarp := by
  rw [Thread.setFlag_frame]
  rfl

theorem setFlag_regs (th : Thread) (flag op : Nat) : (th.setFlag flag op).regs = th.regs := by
  rw [Thread.setFlag_frame]

theorem modThread_frame (s : State) (t : Nat) (g : Thread → Thread) :
    s.modThread t g = { s with threads := (s.modThread t g).threads } := by
  unfold State.modThread
  split <;> rfl

/-- The members of a conversion are listed with operations of their own, and each owes its status; no other thread changes. -/
theorem foldl_arriveBank (o : Ops) (ms : List (Nat × Env)) (r : List (Nat × Nat) × State) (hnodup : (ms.map (·.2.tid)).Nodup) :
    let r' := ms.foldl (arriveBank o) r
    r'.2 = { r.2 with threads := r'.2.threads, nextId := r'.2.nextId } ∧ r'.1.map (·.1) = r.1.map (·.1) ++ ms.map (·.2.tid) ∧
      (∀ p ∈ r.1, p ∈ r'.1) ∧ (∀ v, v ∉ ms.map (·.2.tid) → r'.2.thread v = r.2.thread v) ∧
      ∀ m ∈ ms, ∀ th, r.2.thread m.2.tid = some th → ∃ op, (m.2.tid, op) ∈ r'.1 ∧ r'.2.thread m.2.tid =
        some { th.setFlag (m.2.headerFlag o.len) op with pend := th.pend ++ [m.2.owes o op] } := by
  induction ms generalizing r with
  | nil => exact ⟨rfl, by simp, fun _ hp => hp, fun _ _ => rfl, by simp⟩
  | cons m rest ih =>
    obtain ⟨hm, hrest⟩ := List.nodup_cons.mp hnodup
    obtain ⟨frame, tids, listed, others, each⟩ := ih (arriveBank o r m) hrest
    have other {v : Nat} (hv : v ≠ m.2.tid) : (arriveBank o r m).2.thread v = r.2.thread v :=
      State.thread_modThread_other _ _ hv
    refine ⟨?_, ?_, fun p hp => listed p (List.mem_append_left _ hp), fun v hv => ?_, fun x hx th hth => ?_⟩
    · rw [List.foldl_cons, frame, arriveBank, modThread_frame]
      rfl
    · rw [List.foldl_cons, tids, arriveBank, List.map_append, List.append_assoc]
      rfl
    · rw [List.map_cons, List.mem_cons, not_or] at hv
      exact (others v hv.2).trans (other hv.1)
    · rcases List.mem_cons.mp hx with rfl | hx
      · refine ⟨r.2.nextId, listed _ (List.mem_append_right _ List.mem_cons_self), (others _ hm).trans ?_⟩
        have fresh : r.2.fresh.2.thread x.2.tid = some th := hth
        rw [arriveBank, State.thread_modThread, fresh]
        rfl
      · have hne : x.2.tid ≠ m.2.tid := fun he => hm (List.mem_map.mpr ⟨x, hx, he⟩)
        exact each x hx th ((other hne).trans hth)

section
variable {s : State} {o : Ops} {e : Env} (h : s.arrives (.bankcfg o) o e 256 0 e.blk.warps) (free : e.blk.switch = none)
include h free

/-- R153, R329: once every member has arrived, the conversion is pending, and each owes its status. -/
theorem bankcfgBody_pends {c : SetCtx} (hc : s.setCtx e o = some c) (rends : List Rendezvous) :
    ∃ (ops : List (Nat × Nat)) (v : State),
    bankcfgBody o (c.mapEnv (Env.inRend e.tid 256 rends)) (s.meets e 256 rends) =
      .done (v.modBlock e.th.block fun b => { b with switch := some (o.xmod, o.dst, ops) }) [] ∧
    v = { s.meets e 256 rends with threads := v.threads, nextId := v.nextId } ∧
    ops.map (·.1) = s.liveMembers e.blk e.la.obj 256 ∧ (∀ m, m ∉ e.blk.warps → v.thread m = s.thread m) ∧
    ∀ j f, (j, f) ∈ c.members → ∃ op th, (f.tid, op) ∈ ops ∧ v.thread f.tid = some th ∧ th.isWarp = true ∧
      th.regs = f.th.regs ∧ ∃ p, th.pend = f.th.pend ++ [p] ∧ p.op = op ∧ p.known = false := by
  obtain ⟨hblock, hblk⟩ := h.leader hc
  let φ := Env.inRend e.tid 256 rends
  have same : ∀ f : Env, f.SameIn (φ f) := Env.sameIn_inRend e.tid 256 rends
  have tids : (c.mapEnv φ).members.map (·.2.tid) = c.members.map (·.2.tid) := by
    simp only [SetCtx.mapEnv, List.map_map]
    exact List.map_congr_left fun m _ => (same m.2).tid
  obtain ⟨frame, listed, -, others, each⟩ := foldl_arriveBank o (c.mapEnv φ).members ([], s.meets e 256 rends)
    (by rw [tids]; exact h.nodup hc)
  refine ⟨((c.mapEnv φ).members.foldl (arriveBank o) ([], s.meets e 256 rends)).1, _, ?_, frame, ?_, fun m hm => ?_,
    fun j f hf => ?_⟩
  · have at_ : (c.mapEnv φ).leader.th.block = e.th.block := (same c.leader).block.trans hblock
    have idle : (c.mapEnv φ).leader.blk.switch = none := by
      rw [show (c.mapEnv φ).leader.blk.switch = c.leader.blk.switch from rfl, hblk, free]
    simp only [bankcfgBody, φ, at_, idle]
    rfl
  · rw [listed, List.map_nil, List.nil_append, tids, h.tids hc]
  · have notMember : m ∉ (c.mapEnv φ).members.map (·.2.tid) := by
      rw [tids]
      intro hmem
      obtain ⟨x, hx, rfl⟩ := List.mem_map.mp hmem
      exact hm (h.mem_all hc (j := x.1) (f := x.2) hx)
    rw [others m notMember]
    exact State.thread_setThread_other _ _ fun he => hm (he ▸ h.live.2.1)
  · obtain ⟨w, hw⟩ := h.meets_thread hc rends hf
    obtain ⟨op, hop, hth⟩ := each (j, φ f) (List.mem_map.mpr ⟨(j, f), hf, rfl⟩) { f.th with wait := w }
      (by rw [(same f).tid]; exact hw)
    rw [(same f).tid] at hop hth
    exact ⟨op, _, hop, hth, (setFlag_isWarp _ _ _).trans (h.member hc hf).2.1, setFlag_regs _ _ _, (φ f).owes o op, rfl, rfl, rfl⟩

/-- R153, R329: the last arrival leaves the conversion pending, and every live member goes on and owes its status. -/
theorem bankcfg_pends : ∃ t b ops, exec (.bankcfg o) s = .next t ∧ t.mem = s.mem ∧
    (∀ u, u ∉ e.blk.warps → t.thread u = s.thread u) ∧ t.block e.th.block = some b ∧
    b.switch = some (o.xmod, o.dst, ops) ∧ b.windows = e.blk.windows ∧ b.fifoBanks = e.blk.fifoBanks ∧
    b.cacheCount = e.blk.cacheCount ∧ b.scratch = e.blk.scratch ∧ b.rends.find? (fun r => r.set = 256) = none ∧
    ops.map (·.1) = s.liveMembers e.blk e.la.obj 256 ∧
    ∀ m f, s.envOf m = some f → m ∈ e.blk.warps → f.th.live = true → ∃ th op, (m, op) ∈ ops ∧ t.thread m = some th ∧
      th.pc = s.cur.pc + 4 * o.len ∧ th.wait = .ready ∧ th.regs = f.th.regs ∧
      ∃ p, th.pend = f.th.pend ++ [p] ∧ p.op = op ∧ p.known = false := by
  obtain ⟨c, hc⟩ := h.setCtx_some
  obtain ⟨rends, -, hrun⟩ := h.executes (bankcfgBody o)
  obtain ⟨ops, v, hbody, frame, listed, others, owing⟩ := bankcfgBody_pends h free hc rends
  have threads (t : Nat) : (v.modBlock e.th.block fun b => { b with switch := some (o.xmod, o.dst, ops) }).thread t = v.thread t := by
    rw [State.thread, State.modBlock_threads]
    rfl
  obtain ⟨kept, away, gone⟩ := h.goes_on hc rends hbody rfl (fun _ => by simp) rfl rfl
    (fun m hm => by
      obtain ⟨-, th, -, hth, warp, -⟩ := owing m.1 m.2 hm
      exact ⟨th, (threads _).trans hth, warp⟩)
    (by rw [State.modBlock_host, frame]; exact h.test) (by rw [State.modBlock_cur, frame]; rfl)
  have hexec := (exec_bankcfg o s).trans hrun
  generalize (s.meets e 256 rends).execSet e (.bankcfg o) o (bankcfgBody o) = t at kept away gone hexec
  refine ⟨t, { e.blk with rends := rends.filter (·.set ≠ 256), switch := some (o.xmod, o.dst, ops) }, ops, hexec, ?_,
    fun m hm => (away m hm).trans ((threads m).trans (others m hm)), ?_, rfl, rfl, rfl, rfl, rfl, ?_, listed,
    fun m f hf hm hlive => ?_⟩
  · rw [kept]
    refine (State.modBlock_mem _ _ _).trans ((State.modBlock_mem _ _ _).trans ?_)
    rw [frame]
    rfl
  · have here : v.block e.th.block = some { e.blk with rends := rends } := by
      rw [frame]
      exact State.block_setBlock s _ _
    rw [kept]
    refine (State.block_modBlock _ e.th.block _).trans ?_
    rw [State.block_modBlock, here]
    rfl
  · exact List.find?_eq_none.mpr fun r hr => by simpa using (List.mem_filter.mp hr).2
  · obtain rfl := (envOf_thread hf).2
    obtain ⟨j, hj⟩ := List.getElem?_of_mem hm
    have hmem := (mem_members h.named hc j f).mpr ⟨hj, hf, hlive⟩
    obtain ⟨op, th, hop, hth, -, regs, p, pend, ofOp, unknown⟩ := owing j f hmem
    obtain ⟨th', hth', stands, ready, regs', pend'⟩ := gone j f th hmem ((threads _).trans hth)
    exact ⟨th', op, hop, hth', stands, ready, regs'.trans regs, p, pend'.trans pend, ofOp, unknown⟩

end

end Sys2Proof.Machine
end


section
/-! PROOF. The step BANK_SWITCH (R89, R152, R329), and the statement on bank conversions. -/

namespace Sys2Proof.Machine

/-! ### A bank leaves one mode and joins another (R152) -/

/-- R152: a block one of whose banks leaves a mode. -/
def Block.loseBank (b : Block) (m : BankMode) : Block :=
  match m with
  | .cache => { b with cacheCount := b.cacheCount - 1 }
  | .scratch => { b with windows := b.windows - 1, scratch := b.scratch.filter (fun p => decide (p.1 < (b.windows - 1) * 65536)),
                         badRows := b.badRows.filter (fun r => decide (r < (b.windows - 1) * 1024)) }
  | .fifo => { b with fifoBanks := b.fifoBanks - 1 }

/-- R152: a block with one more bank in a mode. -/
def Block.gainBank (b : Block) (m : BankMode) : Block :=
  match m with
  | .cache => { b with cacheCount := b.cacheCount + 1 }
  | .scratch => { b with windows := b.windows + 1, maxWindows := max b.maxWindows (b.windows + 1) }
  | .fifo => { b with fifoBanks := b.fifoBanks + 1 }

theorem converted_eq (b : Block) (code : Nat) :
    b.converted code = (b.loseBank (bankModes code).1).gainBank (bankModes code).2 := rfl

section
variable (b : Block) (m : BankMode)

theorem loseBank_windows : (b.loseBank m).windows = b.windows - if m = .scratch then 1 else 0 := by cases m <;> rfl
theorem loseBank_fifoBanks : (b.loseBank m).fifoBanks = b.fifoBanks - if m = .fifo then 1 else 0 := by cases m <;> rfl
theorem loseBank_cacheCount : (b.loseBank m).cacheCount = b.cacheCount - if m = .cache then 1 else 0 := by cases m <;> rfl
theorem gainBank_windows : (b.gainBank m).windows = b.windows + if m = .scratch then 1 else 0 := by cases m <;> rfl
theorem gainBank_fifoBanks : (b.gainBank m).fifoBanks = b.fifoBanks + if m = .fifo then 1 else 0 := by cases m <;> rfl
theorem gainBank_cacheCount : (b.gainBank m).cacheCount = b.cacheCount + if m = .cache then 1 else 0 := by cases m <;> rfl
theorem gainBank_scratch : (b.gainBank m).scratch = b.scratch := by cases m <;> rfl

theorem loseBank_scratch_other (h : m ≠ .scratch) : (b.loseBank m).scratch = b.scratch := by
  cases m
  case scratch => exact absurd rfl h
  all_goals rfl

end

/-- R329: a conversion never names one mode twice. -/
theorem bankModes_ne (code : Nat) : (bankModes code).1 ≠ (bankModes code).2 := by
  unfold bankModes
  split <;> decide

theorem get_filter_lt {m : NMap Byte} {n a : Nat} (h : NMap.get 0 (m.filter fun p => decide (p.1 < n)) a ≠ 0) : a < n := by
  unfold NMap.get at h
  cases hfind : NMap.find (m.filter fun p => decide (p.1 < n)) a with
  | none => exact absurd (by rw [hfind]; rfl) h
  | some v => simpa using (List.mem_filter.mp (NMap.mem_of_find hfind)).2

section
variable (b : Block) (code : Nat)

/-- R152: the bank counts after a conversion. -/
theorem converted_counts : let src := (bankModes code).1; let dst := (bankModes code).2
    (b.converted code).windows = (b.windows - if src = .scratch then 1 else 0) + (if dst = .scratch then 1 else 0) ∧
      (b.converted code).fifoBanks = (b.fifoBanks - if src = .fifo then 1 else 0) + (if dst = .fifo then 1 else 0) ∧
      (b.converted code).cacheCount = (b.cacheCount - if src = .cache then 1 else 0) + (if dst = .cache then 1 else 0) := by
  rw [converted_eq]
  exact ⟨by rw [gainBank_windows, loseBank_windows], by rw [gainBank_fifoBanks, loseBank_fifoBanks],
    by rw [gainBank_cacheCount, loseBank_cacheCount]⟩

theorem converted_scratch_kept (h : (bankModes code).1 ≠ .scratch) : (b.converted code).scratch = b.scratch := by
  rw [converted_eq, gainBank_scratch, loseBank_scratch_other _ _ h]

/-- R152: the scratch window that leaves takes its bytes with it. -/
theorem converted_scratch_lost (h : (bankModes code).1 = .scratch) {a : Nat}
    (ha : NMap.get 0 (b.converted code).scratch a ≠ 0) : a < (b.windows - 1) * 65536 := by
  rw [converted_eq, gainBank_scratch, h] at ha
  exact get_filter_lt ha

end

/-! ### The status reaches the members (R220, R329) -/

/-- An operation's results, where it is pending. -/
def Thread.answered (th : Thread) (op : Nat) (vals : List RegVal) : Thread :=
  { th with pend := th.pend.map fun p => if p.op = op then { p with vals := vals, known := true } else p }

theorem foldl_deliver (vals : List RegVal) (ops : List (Nat × Nat)) (s : State) :
    let t := ops.foldl (fun s p => s.deliver p.1 p.2 vals) s
    t.blocks = s.blocks ∧ (∀ v, v ∉ ops.map (·.1) → t.thread v = s.thread v) ∧
      ((ops.map (·.1)).Nodup → ∀ p ∈ ops, t.thread p.1 = (s.thread p.1).map (·.answered p.2 vals)) := by
  induction ops generalizing s with
  | nil => exact ⟨rfl, fun _ _ => rfl, fun _ _ hp => absurd hp List.not_mem_nil⟩
  | cons x rest ih =>
    obtain ⟨blocks, others, each⟩ := ih (s.deliver x.1 x.2 vals)
    refine ⟨blocks.trans (State.modThread_blocks s x.1 _), fun v hv => ?_, fun hnodup p hp => ?_⟩
    · rw [List.map_cons, List.mem_cons, not_or] at hv
      exact (others v hv.2).trans (State.thread_modThread_other s _ hv.1)
    · obtain ⟨hx, hrest⟩ := List.nodup_cons.mp hnodup
      rcases List.mem_cons.mp hp with rfl | hp
      · exact (others _ hx).trans (State.thread_modThread s _ _)
      · have hne : p.1 ≠ x.1 := fun he => hx (List.mem_map.mpr ⟨p, hp, he⟩)
        exact (each hrest p hp).trans (congrArg _ (State.thread_modThread_other s _ hne))

/-! ### The conversion takes effect (R89, R152, R329) -/

/-- R152: what a conversion with this status makes of the machine. -/
def State.convertBank (s : State) (id : Nat) (b : Block) (code : Nat) : State :=
  if s.bankStatus id b code ≠ 0 then s
  else (if (bankModes code).1 = .cache then s.loseWay b.core (s.ways b.core - 1) else s).modBlock id (·.converted code)

theorem exec_bankSwitch (id : Nat) (s : State) : exec (.bankSwitch id) s = .next (s.bankSwitch id) := rfl

section
variable {s : State} {id code : Nat} {b : Block} (hb : s.block id = some b)
include hb

theorem bankSwitch_eq {d : Opd} {ops : List (Nat × Nat)} (hsw : b.switch = some (code, d, ops))
    (ready : s.switchReady id b = true) : s.bankSwitch id =
      ops.foldl (fun t p => t.deliver p.1 p.2 (statusVals d (s.bankStatus id b code)))
        ((s.convertBank id b code).modBlock id fun b => { b with switch := none }) := by
  unfold State.bankSwitch
  rw [hb]
  dsimp only
  rw [hsw]
  dsimp only
  rw [ready]
  rfl

/-- R152: a conversion changes the block's banks, and no thread. -/
theorem convertBank_frame : (s.convertBank id b code).threads = s.threads ∧
    (s.convertBank id b code).block id = some (if s.bankStatus id b code = 0 then b.converted code else b) := by
  have lost : ∃ t, (if (bankModes code).1 = .cache then s.loseWay b.core (s.ways b.core - 1) else s) = t ∧ Recorded s t := by
    refine ⟨_, rfl, ?_⟩
    split
    · exact recorded_loseWay s b.core _
    · exact .refl s
  obtain ⟨t, ht, recorded⟩ := lost
  unfold State.convertBank
  rw [ht, ite_not]
  split
  · refine ⟨(State.modBlock_threads t id _).trans (by rw [recorded.frame]), ?_⟩
    rw [State.block_modBlock, State.block, recorded.frame]
    exact congrArg _ hb
  · exact ⟨rfl, hb⟩

end

/-- The source mode of a conversion has a bank. -/
def State.bankThere (s : State) (b : Block) : BankMode → Prop
  | .cache => s.ways b.core ≠ 0
  | .scratch => b.windows ≠ 0
  | .fifo => b.fifoBanks ≠ 0

/-- R329: a conversion that succeeds takes a bank that is there. -/
theorem bankThere_of_done {s : State} {id code : Nat} {b : Block} (h : s.bankStatus id b code = 0) :
    s.bankThere b (bankModes code).1 := by
  have first {c : Bool} {x : Nat} (hx : (if c then 2 else x) = 0) : c = false := by
    cases c
    · rfl
    · exact absurd hx (by norm_num)
  have there := first h
  split at there
  all_goals
    rename_i mode
    rw [mode]
    exact of_decide_eq_false there

/-- Settles O46: the last arrival executes the rendezvous, and BANK_SWITCH answers the operations that it has listed. -/
theorem bankConversions : Obligations.BankConversions := by
  refine ⟨fun s e o _ h free => bankcfg_pends h free, ?_⟩
  intro s id b code d ops hb hsw ready src dst empty tight status
  have hstatus : s.bankStatus id b code = status := by
    unfold State.bankStatus
    simp only [Bool.and_eq_true, decide_eq_true_eq]
    rfl
  obtain ⟨threads, block⟩ := convertBank_frame (code := code) hb
  obtain ⟨blocks, -, each⟩ := foldl_deliver (statusVals d status) ops
    ((s.convertBank id b code).modBlock id fun b => { b with switch := none })
  have run := bankSwitch_eq hb hsw ready
  have done : status = 0 → s.bankThere b src := fun h => bankThere_of_done (hstatus.trans h)
  rw [hstatus] at run block
  obtain ⟨windows, fifoBanks, cacheCount⟩ := converted_counts b code
  have apart : src ≠ dst := bankModes_ne code
  refine ⟨_, { (if status = 0 then b.converted code else b) with switch := none },
    (exec_bankSwitch id s).trans (congrArg _ run), ?_, rfl, fun h => ?_, fun h hs => ?_, fun h hd => ?_, fun h hs => ?_,
    fun h hd => ?_, fun h => ?_, fun tid th op hop hnodup hth => ?_⟩
  · rw [State.block, blocks]
    refine (State.block_modBlock _ id _).trans ?_
    rw [block]
    rfl
  · simp [h]
  · have there : b.windows ≠ 0 := by simpa [hs, State.bankThere] using done h
    have fewer : (b.converted code).windows = b.windows - 1 := by
      rw [windows, if_pos hs, if_neg fun hd => apart (hs.trans hd.symm)]
      rfl
    simp only [h, if_true, fewer]
    exact ⟨by omega, fun a ha => converted_scratch_lost b code hs ha⟩
  · have other : src ≠ .scratch := fun hs => apart (hs.trans hd.symm)
    simp only [h, if_true, windows]
    exact ⟨by rw [if_pos hd, if_neg other]; rfl, converted_scratch_kept b code other⟩
  · have there : b.fifoBanks ≠ 0 := by simpa [hs, State.bankThere] using done h
    simp only [h, if_true, fifoBanks]
    rw [if_pos hs, if_neg fun hd => apart (hs.trans hd.symm)]
    omega
  · simp only [h, if_true, fifoBanks]
    rw [if_pos hd, if_neg fun hs => apart (hs.trans hd.symm)]
    rfl
  · simp only [h, if_true, cacheCount]
    by_cases hs : src = .cache
    · rw [if_pos hs, if_pos hs, if_neg fun hd => apart (hs.trans hd.symm)]
      rfl
    · rw [if_neg hs, if_neg hs]
      split <;> rfl
  · refine ⟨th.answered op (statusVals d status), (each hnodup (tid, op) hop).trans ?_, rfl⟩
    rw [State.thread, State.modBlock_threads, threads]
    exact congrArg (Option.map _) hth

end Sys2Proof.Machine
end


section
/-! PROOF. Transfers that trap (R108, R269, R408, R409): a target that is no code address, a stack that is full or empty (O22). -/

namespace Sys2Proof.Machine

/-- R409: a push on a stack at its limit is a stack fault. -/
theorem push_of_full {s : State} {e : Env} (a : Nat) (vals : List RegVal) (pc : Nat)
    (full : 16 + e.la.recd.spillStride / 8 ≤ e.th.regs.depth) : s.push e a vals pc = s.stackTrap e 0x0B :=
  if_pos full

/-- R273: the target that `call.ind` takes is the least. -/
theorem foldl_min_eq_least {tgt : Nat → Nat} {l l0 : Nat} {rest : List Nat} (mem : l0 ∈ l :: rest)
    (least : ∀ k ∈ l :: rest, tgt l0 ≤ tgt k) : rest.foldl (fun t k => Nat.min t (tgt k)) (tgt l) = tgt l0 := by
  have found : ((l :: rest).map tgt).min? = some (tgt l0) :=
    List.min?_eq_some_iff.mpr ⟨List.mem_map_of_mem mem, fun t ht => by
      obtain ⟨k, hk, rfl⟩ := List.mem_map.mp ht
      exact least k hk⟩
  rw [← List.foldl_map]
  exact Option.some.inj found

/-- R273: with a pending lane `l0` of the least target, `call.ind` goes to that target, or traps. -/
theorem callInd_of_least {s : State} {e : Env} {o : Ops} {ks kp l0 : Nat} (hdst : o.dst = .k ks) (hb : o.b = .k kp) (h : s.issues (.callInd o) o e)
    (pending : (e.th.regs.mask kp &&& e.th.active o).getLsbD l0 = true) (lane : l0 < e.th.width)
    (least : ∀ l, (e.th.regs.mask kp &&& e.th.active o).getLsbD l = true →
      e.th.regs.raw 0 .n64 l0 o.a ≤ e.th.regs.raw 0 .n64 l o.a) :
    ∃ vals, exec (.callInd o) s = .next (s.finish e (.callInd o) o
      (if !codeOk (e.th.regs.raw 0 .n64 l0 o.a : Nat) then s.execTrap e o
        else s.push e s.cur.pc vals (e.th.regs.raw 0 .n64 l0 o.a))) := by
  have mem : l0 ∈ e.th.lanes.filter (fun l => (e.th.regs.mask kp &&& e.th.active o).getLsbD l) :=
    List.mem_filter.mpr ⟨List.mem_range.mpr lane, pending⟩
  have all : ∀ l ∈ e.th.lanes.filter (fun l => (e.th.regs.mask kp &&& e.th.active o).getLsbD l),
      e.th.regs.raw 0 .n64 l0 o.a ≤ e.th.regs.raw 0 .n64 l o.a := fun l hl => least l (List.mem_filter.mp hl).2
  refine Exists.imp (fun vals hvals => (issue_of_issues _ h).trans (congrArg _ (congrArg _ hvals))) ?_
  simp only [hdst, hb]
  generalize e.th.lanes.filter _ = lanes at mem all ⊢
  cases lanes with
  | nil => exact absurd mem List.not_mem_nil
  | cons l rest =>
    dsimp only
    rw [foldl_min_eq_least mem all]
    exact ⟨_, rfl⟩

/-- Settles O22: `call` and `call.ind` look at their target before they push, and `ret` at the depth before its entry. -/
theorem controlTransfersTrap : Obligations.ControlTransfersTrap := by
  have wrong {a : Int} (bad : codeOk a = false) : (!codeOk a) = true := by rw [bad]; rfl
  have right {a : Int} (good : codeOk a = true) : ¬ (!codeOk a) = true := by rw [good]; decide
  refine ⟨fun s e o c bad => ⟨fun h => issue_trap h (if_pos (wrong bad)), fun h => issue_trap h (if_pos (wrong bad)),
    fun h => issue_trap h (if_pos (wrong bad))⟩, ?_⟩
  intro s e o d invalid deep full
  refine ⟨fun h good isFull => issue_trap h ((if_neg (right good)).trans (push_of_full _ _ _ isFull)), fun h empty => ?_,
    fun h held bad => issue_trap h ((if_neg held.ne').trans (if_pos (wrong bad))), ?_⟩
  · refine issue_trap h ((if_pos empty).trans ?_)
    rw [State.stackTrap, show e.th.regs.depth = 0 from empty, Nat.zero_min]
  · intro ks kp l0 hdst hb h p tgt pending lane least
    obtain ⟨vals, run⟩ := callInd_of_least hdst hb h pending lane least
    refine ⟨fun bad => run.trans ?_, fun good isFull => run.trans ?_⟩
    · rw [if_pos (wrong bad)]
      rfl
    · rw [if_neg (right good), push_of_full _ _ _ isFull]
      rfl

end Sys2Proof.Machine
end


section
/-! PROOF. Bulk commands (O47): a source line that leaves its L2, and with it the L1, while its command reads the others. -/

namespace Sys2Proof.Machine

/-! ### An L2 that is full with one line (R155, R156) -/

theorem evictable_single (x hint : Nat) : evictable [(x, hint)] = [x] := by
  by_cases next : hint = 2
  · simp [evictable, next]
  · by_cases kept : hint = 3 <;> simp [evictable, next, kept]

/-- The one line of a full L2 leaves for a line to come in, whichever set each of them is in. -/
theorem l2Victims_single {s : State} {die x hint : Nat} (line : Nat) (l2 : (s.die die).l2 = [(x, hint)])
    (full : (s.die die).l2Lines ≤ 1) (free : s.recallable x = true) : s.l2Victims die line = [x] := by
  by_cases same : Config.l2Set x = Config.l2Set line
  · simp [State.l2Victims, l2, same, free, evictable_single]
  · simp [State.l2Victims, l2, same, full, free, evictable_single, show evictable [] = [] from rfl]

theorem touchL2_full {s : State} {pa x hint : Nat} (near : isRemote pa = false) (l2 : (s.die (homeDie pa)).l2 = [(x, hint)])
    (other : x ≠ pa / 256) (full : (s.die (homeDie pa)).l2Lines ≤ 1) (free : s.recallable x = true) (keep : Nat) :
    s.touchL2 pa keep = (s.l2Evict (homeDie pa) x).modDie (homeDie pa) (fun d => { d with l2 := (pa / 256, keep) :: d.l2 }) := by
  have victims := l2Victims_single (pa / 256) l2 full free
  have absent : (s.die (homeDie pa)).l2.find? (fun p => p.1 = pa / 256) = none := by simp [l2, other]
  have must : (s.die (homeDie pa)).l2Lines ≤ (s.die (homeDie pa)).l2.length := by rw [l2]; exact full
  simp only [State.touchL2, near, absent, victims, must]
  rfl

theorem touchL2_present {s : State} {pa : Nat} {p : Nat × Nat}
    (present : (s.die (homeDie pa)).l2.find? (fun p => p.1 = pa / 256) = some p) : s.touchL2 pa 0 = s := by
  simp [State.touchL2, present]

/-! ### The two parts of a completion (R331, R436) -/

/-- The physical lines that a command reads. -/
def BulkCmd.sourceLines (c : BulkCmd) : List Nat :=
  (c.moves.filterMap (fun m => match m.src with | .global va => lineAt c.map va | _ => none)).eraseDups

/-- The lines that a command reads pass the L2s of their homes. -/
def State.bulkReads (s : State) (c : BulkCmd) : State := c.sourceLines.foldl (fun s l => (s.touchL2 l 0).peerTurn l) s

/-- What a command does once it has read: it writes, and ends, or fails. -/
def State.bulkWrites (s : State) (c : BulkCmd) : State :=
  let fault := c.fail.orElse (fun _ => c.moves.findSome? (s.bulkBad c))
  let s := (s.bulkRefusals c).bulkWrite c fault.isSome
  let s := ({ s with cmds := s.cmds.filter (fun q => q.op ≠ c.op) } : State).recapture
  let s := (s.modThread c.tid (fun th => (th.bulkEnd c fault).met (c.map.map (·.1)))).flushRecs
  match fault with
  | some f => s.bulkRecord c f
  | none => s

theorem bulkFinish_eq (s : State) (c : BulkCmd) : s.bulkFinish c = (s.bulkReads c).bulkWrites c := rfl

theorem bulkCompletion_ready {s : State} {c : BulkCmd} (found : s.cmds.find? (fun q => q.op = c.op) = some c)
    (ready : s.bulkReady c = true) : exec (.bulkCommandCompletion c.op) s = .next ((s.bulkReads c).bulkWrites c) := by
  have run : exec (.bulkCommandCompletion c.op) s = execBulkCommandCompletion c.op s := rfl
  rw [run, execBulkCommandCompletion, found, ← bulkFinish_eq]
  exact congrArg _ (if_pos ready)

/-! ### A command that finds no error, and meets one -/

/-- A copy of the bytes at 0x10080 and 0x10100 to 0x10140 and 0x10141, whose values at issue were 6 and 0. -/
def twoSources : BulkCmd :=
  { tid := 3, block := 2, core := 0, op := 9, pc := 0x10000, flag := some 1,
    moves := [{ dst := .global 0x10140, src := .global 0x10080, old := some 6 },
      { dst := .global 0x10141, src := .global 0x10100, old := some 0 }],
    map := [(0x10080, 0x2000), (0x10100, 0x3000), (0x10140, 0x4000)], lines := [0x100], rows := [], waits := [], fail := none,
    epoch := 0, region := 0, sealing := none, num := 0, gated := false, dry := false, once := false, hint := 0 }

/-- That copy is under way. Its first source line stands in the L1 of its core, where it can be read, but is poisoned at its
home. It is the one line of its L2, which is full with it, so that which line leaves is no free choice. -/
def heldSource : State :=
  let s := (State.reset.withFetchWord 64 0x3000).modThread 3 fun th => { th with flags := [(1, 9)] }
  let s := s.modDie 0 fun d => { d with l2 := [(0x20, 0)], l2Units := 0 }
  let line : Line := { pa := 0x2000, va := 0x10080, filled := [(0, 6)], dirty := [], hint := 0, epoch := 0 }
  let s := s.modCore 0 fun c => { c with l1 := [line] }
  { s.setHome 0x2000 6 with poison := [(0x80, 1)], cmds := [twoSources] }

/-- As `heldSource`, once the second source line has taken the place of the first one, which has left the L1 too. -/
def recalledSource : State := (heldSource.l2Evict 0 0x20).modDie 0 fun d => { d with l2 := (0x30, 0) :: d.l2 }

theorem heldSource_reads : heldSource.bulkReads twoSources = recalledSource := by
  have first : heldSource.touchL2 0x2000 0 = heldSource := touchL2_present (p := (0x20, 0)) (by decide +kernel)
  have second : heldSource.touchL2 0x3000 0 = recalledSource :=
    touchL2_full (x := 0x20) (hint := 0) (by decide) (by decide +kernel) (by decide) (by decide +kernel) (by decide +kernel) 0
  have lines : twoSources.sourceLines = [0x2000, 0x3000] := by decide
  rw [State.bulkReads, lines, List.foldl_cons, first, peerTurn_local _ (by decide), List.foldl_cons, second,
    peerTurn_local _ (by decide), List.foldl_nil]

/-- The first move meets the error at its home, and the line that both moves write stays as it was. -/
theorem recalledSource_writes : (recalledSource.bulkWrites twoSources).homeByte 0x4000 = 0 := by decide +kernel

/-- What the statement asks of a command that completes, and the bytes that it admits at 0x4000. -/
theorem heldSource_facts : Memory.wf heldSource.mem = true ∧ heldSource.links = [] ∧
    heldSource.cores.all (fun p => decide (p.2.refused = [] ∧ p.2.staged = []) &&
      p.2.l1.all (fun l => !l.bad && decide (l.dirty = []))) = true ∧
    heldSource.cmds.find? (fun q => q.op = 9) = some twoSources ∧ heldSource.bulkReady twoSources = true ∧
    heldSource.recs = [] ∧ (∀ m ∈ twoSources.moves, heldSource.bulkBad twoSources m = none) ∧
    heldSource.placeByte 3 0 2 twoSources.map (.global 0x10080) = 6 ∧ heldSource.homeByte 0x2000 = 6 := by
  decide +kernel

theorem heldSource_core (c : Nat) : ((heldSource.core c).refused = [] ∧ (heldSource.core c).staged = []) ∧
    ∀ l ∈ (heldSource.core c).l1, l.bad = false ∧ l.dirty = [] := by
  have h := core_of_all (p := fun _ x => decide (x.refused = [] ∧ x.staged = []) && x.l1.all (fun l => !l.bad && decide (l.dirty = [])))
    heldSource_facts.2.2.1 c (by simp [Core.init])
  simpa using h

theorem heldSource_stores_nothing (c pa : Nat) (b : Byte) : ¬ (heldSource.core c).unwritten pa b := by
  obtain ⟨⟨-, staged⟩, clean⟩ := heldSource_core c
  rintro (⟨l, hl, -, k, hk, -⟩ | ⟨l, hl, -⟩)
  · rw [(clean l hl).2] at hk
    exact absurd hk List.not_mem_nil
  · rw [staged] at hl
    exact absurd hl List.not_mem_nil

theorem heldSource_settled : heldSource.settled := by
  refine ⟨heldSource_facts.1, fun c pa => ?_, fun c => ?_⟩
  · have up : (heldSource.link (remoteLink pa)).up = true := by
      rw [State.link, heldSource_facts.2.1]; rfl
    rw [State.refused, State.linkDown, up, (heldSource_core c).1.1]
    simp
  · obtain ⟨⟨-, staged⟩, clean⟩ := heldSource_core c
    exact ⟨by simpa using fun l hl => (clean l hl).1, by rw [staged]; rfl⟩

theorem twoSources_dst {m : ByteMove} (hm : m ∈ twoSources.moves) : m.dst ∈ [Place.global 0x10140, .global 0x10141] := by
  revert m
  decide

theorem twoSources_src {m : ByteMove} (hm : m ∈ twoSources.moves) : m.src ∈ [Place.global 0x10080, .global 0x10100] := by
  revert m
  decide

theorem mem_of_global {va : Nat} {l : List Nat} (h : Place.global va ∈ l.map Place.global) : va ∈ l := by
  obtain ⟨x, hx, same⟩ := List.mem_map.mp h
  exact (Place.global.inj same) ▸ hx

/-- Where a virtual address lies through the lines that the copy has translated. -/
def twoSourcesAt (va : Nat) : Option Nat := (lineAt twoSources.map va).map (· + va % 64)

/-- Refutes O47: no source of the copy in `heldSource` is in error, but its first line leaves the L1 when the second one comes
into the L2, and then its poisoned home refuses it: the command fails, and does not write 6 at 0x4000. -/
theorem not_bulkCommands : ¬ Obligations.BulkCommands := by
  intro h
  obtain ⟨-, -, completion, -⟩ := h
  obtain ⟨-, -, -, found, ready, recs, good, held, home⟩ := heldSource_facts
  have dst {m : ByteMove} {va : Nat} (hm : m ∈ twoSources.moves) (hva : m.dst = .global va) : va ∈ [0x10140, 0x10141] :=
    mem_of_global (hva ▸ twoSources_dst hm)
  have src {m : ByteMove} {va : Nat} (hm : m ∈ twoSources.moves) (hva : m.src = .global va) : va ∈ [0x10080, 0x10100] :=
    mem_of_global (hva ▸ twoSources_src hm)
  have apart : ∀ va ∈ [0x10140, 0x10141], ∀ vb ∈ [0x10140, 0x10141],
      (twoSourcesAt va).isSome = true ∧ (twoSourcesAt va = twoSourcesAt vb → va = vb) := by decide
  have near : ∀ va ∈ [0x10080, 0x10100], ∀ pa ∈ twoSourcesAt va, isRemote pa = false := by decide
  have owned : ∀ va ∈ [0x10140, 0x10141], ∀ pa ∈ twoSourcesAt va, pa / 64 ∈ twoSources.lines := by decide
  obtain ⟨t, run, -, written, -⟩ := completion heldSource twoSources found ready rfl rfl recs heldSource_settled good
    (heldSource_stores_nothing 0) (by decide) (by decide) (fun m hm x hx va vb hva hvb => apart va (dst hm hva) vb (dst hx hvb))
    (fun m hm va hva pa hpa => near va (src hm hva) pa hpa)
    (fun m hm off hoff => absurd (hoff ▸ twoSources_dst hm) (by simp)) (by decide)
    (fun m hm va pa hva hpa => owned va (dst hm hva) pa hpa)
  have copied := written { dst := .global 0x10140, src := .global 0x10080, old := some 6 } (by decide) 0x10140 0x4000 rfl (by decide)
  have ends : t = recalledSource.bulkWrites twoSources := by
    rw [bulkCompletion_ready found ready, heldSource_reads] at run
    exact (Host.Outcome.next.inj run).symm
  rw [ends, recalledSource_writes] at copied
  rcases copied with old | now | ⟨va, pa, hva, hpa, there⟩
  · exact absurd old (by decide)
  · exact absurd (now.trans held) (by decide)
  · cases hva
    obtain rfl : 0x2000 = pa := Option.some.inj hpa
    rcases there with there | ⟨k, stored⟩
    · exact absurd (there.trans home) (by decide)
    · exact heldSource_stores_nothing k _ _ stored

end Sys2Proof.Machine
end


section
/-! PROOF. Rounding once (R119, R122): the neighbours of a magnitude among rising values, and `quantize`, which rounds to
the multiples of a power of two. -/

namespace Sys2Proof

/-! ### Rising values -/

/-- R119, R122: whether a mode takes the neighbour above number `lo`, when the magnitude is this part of the way to it. -/
def RoundsUp (mode u : Nat) (neg : Bool) (lo : Nat) (part : ℝ) : Prop :=
  match mode with
  | 0 => 1 / 2 < part ∨ (part = 1 / 2 ∧ lo % 2 = 1)
  | 1 => False
  | 2 => neg = false
  | 3 => neg = true
  | 4 => 1 / 2 ≤ part
  | _ => (2 : Int) ^ 32 ≤ ⌊part * 2 ^ 32⌋ + u

/-- Number `c` is the neighbour that a mode takes of a magnitude strictly above number `lo` and below the next. -/
def TakesNeighbour (v : Nat → ℚ) (mode u : Nat) (neg : Bool) (x : ℝ) (c lo : Nat) : Prop :=
  (v lo : ℝ) < x ∧ x < v (lo + 1) ∧ (RoundsUp mode u neg lo ((x - v lo) / (v (lo + 1) - v lo)) → c = lo + 1) ∧
    (¬ RoundsUp mode u neg lo ((x - v lo) / (v (lo + 1) - v lo)) → c = lo)

theorem roundsTo_iff {v : Nat → ℚ} {mode u : Nat} {neg : Bool} {x : ℝ} {c : Nat} :
    RoundsTo v mode u neg x c ↔ (v c : ℝ) = x ∨ ∃ lo, TakesNeighbour v mode u neg x c lo := Iff.rfl

theorem TakesNeighbour.either {v : Nat → ℚ} {mode u : Nat} {neg : Bool} {x : ℝ} {c lo : Nat}
    (h : TakesNeighbour v mode u neg x c lo) : c = lo ∨ c = lo + 1 := by
  obtain ⟨-, -, up, down⟩ := h
  by_cases hup : RoundsUp mode u neg lo ((x - v lo) / (v (lo + 1) - v lo))
  · exact .inr (up hup)
  · exact .inl (down hup)

/-- Only stochastic rounding looks at the generator. -/
theorem RoundsTo.any_state {v : Nat → ℚ} {mode u : Nat} {neg : Bool} {x : ℝ} {c : Nat} (hmode : mode ≤ 4)
    (h : RoundsTo v mode u neg x c) (u' : Nat) : RoundsTo v mode u' neg x c := by
  have same : ∀ lo part, RoundsUp mode u' neg lo part = RoundsUp mode u neg lo part := fun lo part => by
    match mode, hmode with
    | 0, _ | 1, _ | 2, _ | 3, _ | 4, _ => rfl
  simpa only [roundsTo_iff, TakesNeighbour, same] using h

section
variable {v : Nat → ℚ} (hv : StrictMono v) {mode u : Nat} {neg : Bool} {x : ℝ} {c : Nat}
include hv

/-- A magnitude that is one of the values is kept. -/
theorem RoundsTo.exact (h : RoundsTo v mode u neg x c) {k : Nat} (hk : (v k : ℝ) = x) : c = k := by
  rcases roundsTo_iff.mp h with hc | ⟨lo, low, high, -⟩
  · exact hv.injective (by exact_mod_cast hc.trans hk.symm)
  · rw [← hk] at low high
    have above := hv.lt_iff_lt.mp (Rat.cast_lt.mp low)
    have below := hv.lt_iff_lt.mp (Rat.cast_lt.mp high)
    omega

theorem RoundsTo.ge (h : RoundsTo v mode u neg x c) {k : Nat} (hk : (v k : ℝ) ≤ x) : k ≤ c := by
  rcases roundsTo_iff.mp h with hc | ⟨lo, take⟩
  · exact hv.le_iff_le.mp (Rat.cast_le.mp (hc ▸ hk))
  · have below := hv.lt_iff_lt.mp (Rat.cast_lt.mp (hk.trans_lt take.2.1))
    rcases take.either with rfl | rfl <;> omega

theorem RoundsTo.le (h : RoundsTo v mode u neg x c) {k : Nat} (hk : x ≤ v k) : c ≤ k := by
  rcases roundsTo_iff.mp h with hc | ⟨lo, take⟩
  · exact hv.le_iff_le.mp (Rat.cast_le.mp (hc ▸ hk))
  · have above := hv.lt_iff_lt.mp (Rat.cast_lt.mp (take.1.trans_le hk))
    rcases take.either with rfl | rfl <;> omega

theorem TakesNeighbour.not_exact {lo k : Nat} (h : TakesNeighbour v mode u neg x c lo) : (v k : ℝ) ≠ x := fun hk => by
  obtain ⟨low, high, -⟩ := h
  rw [← hk] at low high
  have above := hv.lt_iff_lt.mp (Rat.cast_lt.mp low)
  have below := hv.lt_iff_lt.mp (Rat.cast_lt.mp high)
  omega

/-- A magnitude rounds to one number. -/
theorem RoundsTo.unique (h : RoundsTo v mode u neg x c) {c' : Nat} (h' : RoundsTo v mode u neg x c') : c' = c := by
  rcases roundsTo_iff.mp h with hc | ⟨lo, take⟩
  · exact h'.exact hv hc
  rcases roundsTo_iff.mp h' with hc' | ⟨lo', take'⟩
  · exact (h.exact hv hc').symm
  obtain ⟨low, high, up, down⟩ := take
  obtain ⟨low', high', up', down'⟩ := take'
  have one := hv.lt_iff_lt.mp (Rat.cast_lt.mp (low.trans high'))
  have two := hv.lt_iff_lt.mp (Rat.cast_lt.mp (low'.trans high))
  obtain rfl : lo' = lo := by omega
  by_cases hup : RoundsUp mode u neg lo' ((x - v lo') / (v (lo' + 1) - v lo'))
  · rw [up hup, up' hup]
  · rw [down hup, down' hup]

/-- Rounding among values that are a run of others, numbered from an even number on. -/
theorem RoundsTo.shift (h : RoundsTo v mode u neg x c) {w : Nat → ℚ} {n a b : Nat} (even : n % 2 = 0)
    (hw : ∀ k, a ≤ k → k ≤ b → w (n + k) = v k) (ha : (v a : ℝ) ≤ x) (hb : x < v b) : RoundsTo w mode u neg x (n + c) := by
  rcases roundsTo_iff.mp h with hc | ⟨lo, take⟩
  · exact .inl (by rw [hw c (h.ge hv ha) (h.le hv hb.le), hc])
  · obtain ⟨low, high, up, down⟩ := take
    have above := hv.lt_iff_lt.mp (Rat.cast_lt.mp (ha.trans_lt high))
    have below := hv.lt_iff_lt.mp (Rat.cast_lt.mp (low.trans hb))
    have here := hw lo (by omega) (by omega)
    have next := hw (lo + 1) (by omega) (by omega)
    have same : ∀ part, RoundsUp mode u neg (n + lo) part = RoundsUp mode u neg lo part := fun part => by
      have parity : (n + lo) % 2 = lo % 2 := by omega
      unfold RoundsUp
      rw [parity]
    refine roundsTo_iff.mpr (.inr ⟨n + lo, ?_, ?_, fun hup => ?_, fun hup => ?_⟩)
    · rwa [here]
    · rwa [Nat.add_assoc, next]
    · rw [same, Nat.add_assoc, here, next] at hup
      rw [up hup, Nat.add_assoc]
    · rw [same, Nat.add_assoc, here, next] at hup
      rw [down hup]

end

/-! ### Magnitudes -/

/-- A magnitude is the real number `r`. -/
def Mag.Is (x : Mag) (r : ℝ) : Prop := ∃ θ : ℝ, 0 ≤ θ ∧ θ < 1 ∧ (x.sticky = true ↔ 0 < θ) ∧ r = (x.m + θ) * 2 ^ x.e

/-- The digits of a magnitude that is not exact reach below the place 2^q, by 32 digits for stochastic rounding. -/
def Mag.Below (x : Mag) (mode : Nat) (q : Int) : Prop := x.sticky = true → x.e < q ∧ (5 ≤ mode → x.e + 32 ≤ q)

theorem Mag.is_exact (m : Nat) (e : Int) : (Mag.mk m e false).Is (m * 2 ^ e) :=
  ⟨0, le_rfl, one_pos, by simp, by simp⟩

theorem Mag.below_exact (m : Nat) (e : Int) (mode : Nat) (q : Int) : (Mag.mk m e false).Below mode q := nofun

/-- R122: what stochastic rounding adds to the generator's state: the first 32 of the `sh` digits discarded. -/
def firstDigits (rem sh : Nat) : Nat := if sh ≤ 32 then rem * 2 ^ (32 - sh) else rem / 2 ^ (sh - 32)

theorem floor_part {rem sh : Nat} {θ : ℝ} (h0 : 0 ≤ θ) (h1 : θ < 1) (hsh : 0 < θ → 32 ≤ sh) :
    ⌊(rem + θ) / 2 ^ sh * 2 ^ 32⌋ = (firstDigits rem sh : Int) := by
  rw [firstDigits, Int.floor_eq_iff]
  by_cases hn : sh ≤ 32
  · rw [if_pos hn]
    have scaled : (rem + θ) / 2 ^ sh * (2 : ℝ) ^ 32 = (rem + θ) * 2 ^ (32 - sh) := by
      rw [← Nat.add_sub_cancel' hn, pow_add, Nat.add_sub_cancel_left]; field_simp
    rw [scaled]
    rcases h0.eq_or_lt with rfl | hθ
    · push_cast; constructor <;> linarith
    · obtain rfl : sh = 32 := le_antisymm hn (hsh hθ)
      norm_num; exact ⟨h0, h1⟩
  · rw [if_neg hn]
    obtain ⟨j, rfl⟩ : ∃ j, sh = 32 + j := ⟨sh - 32, by omega⟩
    rw [Nat.add_sub_cancel_left]
    have scaled : (rem + θ) / 2 ^ (32 + j) * (2 : ℝ) ^ 32 = (rem + θ) / (2 ^ j : Nat) := by
      push_cast; rw [pow_add]; field_simp
    have pos : 0 < 2 ^ j := Nat.two_pow_pos j
    generalize 2 ^ j = p at scaled pos
    have posR : (0 : ℝ) < p := by exact_mod_cast pos
    have low : ((rem / p : Nat) : ℝ) * p ≤ rem := by exact_mod_cast Nat.div_mul_le_self rem p
    have high : (rem : ℝ) + 1 ≤ ((rem / p : Nat) + 1) * p := by
      have : rem + 1 ≤ (rem / p + 1) * p := by
        rw [Nat.add_mul, Nat.one_mul]; exact Nat.lt_div_mul_add pos
      exact_mod_cast this
    rw [scaled, le_div_iff₀ posR, div_lt_iff₀ posR, Int.cast_natCast]
    constructor <;> linarith

/-- R122: the first digits reach 2^32 with the state as the discarded ones do with as many digits of it. -/
theorem goesUp_stochastic {mode u rem sh : Nat} (hmode : 5 ≤ mode) (neg sticky : Bool) (kept : Nat) (hsh : sh ≠ 0) :
    goesUp mode u neg sticky kept rem sh = true ↔ 2 ^ 32 ≤ firstDigits rem sh + u := by
  obtain ⟨k, rfl⟩ := Nat.exists_eq_add_of_le' hmode
  have goes : goesUp (k + 5) u neg sticky kept rem sh =
      if sh = 0 then false else if sh > 32 then decide (rem / 2 ^ (sh - 32) + u ≥ 2 ^ 32)
      else decide (rem + u / 2 ^ (32 - sh) ≥ 2 ^ sh) := rfl
  rw [goes, if_neg hsh, firstDigits]
  by_cases hn : sh ≤ 32
  · rw [if_pos hn, if_neg (Nat.not_lt.mpr hn), decide_eq_true_eq]
    have split : 2 ^ 32 = 2 ^ sh * 2 ^ (32 - sh) := by rw [← pow_add, Nat.add_sub_cancel' hn]
    have pos := Nat.two_pow_pos (32 - sh)
    rw [split]
    generalize 2 ^ (32 - sh) = p at pos
    have whole : rem + u / p = (rem * p + u) / p := by
      rw [Nat.add_comm (rem * p), Nat.add_mul_div_right _ _ pos, Nat.add_comm]
    rw [whole, ge_iff_le, Nat.le_div_iff_mul_le pos]
  · rw [if_neg hn, if_pos (Nat.lt_of_not_le hn), decide_eq_true_eq]

/-- R119, R122: what is discarded decides as the part of the way does that it stands for. -/
theorem goesUp_iff {mode u : Nat} {neg sticky : Bool} {kept rem sh : Nat} {θ : ℝ} (h0 : 0 ≤ θ) (h1 : θ < 1)
    (hs : sticky = true ↔ 0 < θ) (hrem : rem < 2 ^ sh) (hpos : 0 < rem + θ)
    (hsh : sticky = true → 0 < sh ∧ (5 ≤ mode → 32 ≤ sh)) :
    goesUp mode u neg sticky kept rem sh = true ↔ RoundsUp mode u neg kept ((rem + θ) / 2 ^ sh) := by
  have shifted : sh ≠ 0 := by
    rintro rfl
    have none : rem = 0 := by omega
    rw [none, Nat.cast_zero, zero_add] at hpos
    exact absurd (hsh (hs.mpr hpos)).1 (lt_irrefl 0)
  obtain ⟨n, rfl⟩ := Nat.exists_eq_succ_of_ne_zero shifted
  have half : (2 : ℝ) ^ (n + 1) = 2 * (2 ^ n : Nat) := by push_cast; ring
  have whole : 2 ^ (n + 1) = 2 * 2 ^ n := by ring
  have pos : (0 : ℝ) < (2 ^ n : Nat) := by positivity
  have discarded : rem ≠ 0 ∨ sticky = true := by
    by_contra hnot
    obtain ⟨hr, hst⟩ := not_or.mp hnot
    rw [hs, not_lt] at hst
    rw [not_not.mp hr, Nat.cast_zero] at hpos
    linarith
  have atLeast : 1 / 2 ≤ (rem + θ) / 2 ^ (n + 1) ↔ 2 ^ n ≤ rem := by
    rw [half, div_le_div_iff₀ two_pos (by positivity)]
    constructor
    · intro h
      have : ((2 ^ n : Nat) : ℝ) < rem + 1 := by linarith
      exact Nat.lt_succ_iff.mp (by exact_mod_cast this)
    · intro h
      have : ((2 ^ n : Nat) : ℝ) ≤ rem := by exact_mod_cast h
      linarith
  match mode with
  | 0 =>
    have equal : (rem + θ) / 2 ^ (n + 1) = 1 / 2 ↔ rem = 2 ^ n ∧ sticky = false := by
      rw [half, div_eq_div_iff (by positivity) two_ne_zero, Bool.eq_false_iff, ne_eq, hs, not_lt]
      constructor
      · intro h
        have le : 2 ^ n ≤ rem := atLeast.mp (by rw [half, div_le_div_iff₀ two_pos (by positivity)]; linarith)
        have ge : (rem : ℝ) ≤ (2 ^ n : Nat) := by linarith
        have eq : rem = 2 ^ n := le_antisymm (by exact_mod_cast ge) le
        exact ⟨eq, by rw [eq] at h; linarith⟩
      · rintro ⟨rfl, hθ⟩
        rw [le_antisymm hθ h0]; ring
    have more : 1 / 2 < (rem + θ) / 2 ^ (n + 1) ↔ 2 ^ n < rem ∨ (rem = 2 ^ n ∧ sticky = true) := by
      rw [lt_iff_le_and_ne, atLeast, ne_comm, ne_eq, equal, Nat.le_iff_lt_or_eq]
      cases sticky <;> simp <;> omega
    rw [RoundsUp, more, equal, goesUp, whole]
    simp only [Bool.or_eq_true, Bool.and_eq_true, decide_eq_true_eq]
    have gt : rem * 2 > 2 * 2 ^ n ↔ 2 ^ n < rem := by omega
    have eq : rem * 2 = 2 * 2 ^ n ↔ rem = 2 ^ n := by omega
    rw [gt, eq]
    cases sticky <;> simp
  | 1 => simp [goesUp, RoundsUp]
  | 2 => cases neg <;> simp [goesUp, RoundsUp, discarded]
  | 3 => cases neg <;> simp [goesUp, RoundsUp, discarded]
  | 4 =>
    rw [RoundsUp, atLeast, goesUp, whole]
    simp
    omega
  | k + 5 =>
    have up : RoundsUp (k + 5) u neg kept ((rem + θ) / 2 ^ (n + 1)) ↔ 2 ^ 32 ≤ firstDigits rem (n + 1) + u := by
      show (2 : Int) ^ 32 ≤ ⌊_⌋ + (u : Int) ↔ _
      rw [floor_part h0 h1 fun hθ => (hsh (hs.mpr hθ)).2 (by omega)]
      exact_mod_cast Iff.rfl
    rw [up]
    exact goesUp_stochastic (by omega) neg sticky kept (Nat.succ_ne_zero n)

/-- The multiples of 2^q. -/
def multiples (q : Int) (k : Nat) : ℚ := k * 2 ^ q

theorem multiples_strictMono (q : Int) : StrictMono (multiples q) := fun a b h =>
  mul_lt_mul_of_pos_right (by exact_mod_cast h) (by positivity)

theorem multiples_cast (q : Int) (k : Nat) : (multiples q k : ℝ) = k * 2 ^ q := by
  rw [multiples]; push_cast; rfl

/-- A magnitude without digits below the place 2^q is kept. -/
theorem quantize_whole {x : Mag} {q : Int} (hq : q ≤ x.e) (hs : x.sticky = false) (mode u : Nat) (neg : Bool) :
    quantize mode u neg x q = (x.m * 2 ^ (x.e - q).toNat, false) := by
  have stays : goesUp mode u neg false x.m 0 0 = false := by
    match mode with
    | 0 | 1 | 2 | 3 | 4 | k + 5 => simp [goesUp]
  rw [quantize, if_pos hq, hs, stays]
  rfl

theorem goesUp_none {mode u : Nat} (hu : u < 2 ^ 32) (neg : Bool) (kept : Nat) {sh : Nat} (hsh : sh ≠ 0) :
    goesUp mode u neg false kept 0 sh = false := by
  have pos : 0 < 2 ^ sh := Nat.two_pow_pos sh
  match mode with
  | 0 => simp [goesUp, pos.ne]
  | 1 | 2 | 3 => simp [goesUp]
  | 4 => simp [goesUp]
  | k + 5 =>
    rw [Bool.eq_false_iff, ne_eq, goesUp_stochastic (by omega) neg false kept hsh]
    simp [firstDigits]
    omega

section
variable {x : Mag} {r : ℝ} (hx : x.Is r) {mode u : Nat} (hu : u < 2 ^ 32) {q : Int} (hq : x.Below mode q) (neg : Bool)
include hx hu hq

/-- R119, R122: `quantize` keeps a multiple of 2^q and takes the neighbour that the mode takes otherwise. -/
theorem quantize_cases :
    ((quantize mode u neg x q).2 = false ∧ (multiples q (quantize mode u neg x q).1 : ℝ) = r) ∨
    ((quantize mode u neg x q).2 = true ∧ ∃ lo, TakesNeighbour (multiples q) mode u neg r (quantize mode u neg x q).1 lo) := by
  obtain ⟨θ, h0, h1, hs, rfl⟩ := hx
  by_cases hle : q ≤ x.e
  · have exact : x.sticky = false := Bool.eq_false_iff.mpr fun h => absurd (hq h).1 (not_lt.mpr hle)
    have none : θ = 0 := le_antisymm (not_lt.mp fun h => by rw [hs.mpr h] at exact; cases exact) h0
    rw [quantize_whole hle exact]
    refine .inl ⟨rfl, ?_⟩
    have split : (2 : ℝ) ^ x.e = 2 ^ (x.e - q).toNat * 2 ^ q := by
      rw [← zpow_natCast, Int.toNat_of_nonneg (by omega), ← zpow_add₀ two_ne_zero]; congr 1; omega
    rw [multiples_cast, none, split]
    push_cast
    ring
  · obtain ⟨sh, hsh⟩ : ∃ sh : Nat, q = x.e + sh := ⟨(q - x.e).toNat, by omega⟩
    have shift : (q - x.e).toNat = sh := by omega
    have shifted : sh ≠ 0 := by omega
    rw [quantize, if_neg hle, shift]
    dsimp only
    have unit : (2 : ℝ) ^ q = 2 ^ sh * 2 ^ x.e := by rw [hsh, zpow_add₀ two_ne_zero, zpow_natCast, mul_comm]
    have pos : (0 : ℝ) < 2 ^ q := by positivity
    have whole : (x.m : ℝ) = (x.m / 2 ^ sh : Nat) * 2 ^ sh + (x.m % 2 ^ sh : Nat) := by
      exact_mod_cast (Nat.div_add_mod' x.m (2 ^ sh)).symm
    have left : x.m % 2 ^ sh < 2 ^ sh := Nat.mod_lt _ (Nat.two_pow_pos sh)
    generalize x.m / 2 ^ sh = kept at whole
    generalize x.m % 2 ^ sh = rem at whole left
    have value : (x.m + θ) * 2 ^ x.e = (kept + (rem + θ) / 2 ^ sh) * 2 ^ q := by
      rw [whole, unit]; field_simp; ring
    rw [value]
    rcases (add_nonneg rem.cast_nonneg h0 : (0 : ℝ) ≤ rem + θ).eq_or_lt with hzero | hpos
    · have parts : (rem : ℝ) = 0 ∧ θ = 0 := by
        have := (rem.cast_nonneg : (0 : ℝ) ≤ rem)
        constructor <;> linarith
      have remZero : rem = 0 := by exact_mod_cast parts.1
      have exact : x.sticky = false := Bool.eq_false_iff.mpr fun h => absurd (hs.mp h) (by rw [parts.2]; exact lt_irrefl 0)
      rw [remZero, exact, goesUp_none hu neg kept shifted]
      refine .inl ⟨rfl, ?_⟩
      rw [multiples_cast, parts.2]
      simp
    · have decides := goesUp_iff (mode := mode) (u := u) (neg := neg) (kept := kept) h0 h1 hs left hpos fun h =>
        ⟨Nat.pos_of_ne_zero shifted, fun hm => by have := (hq h).2 hm; omega⟩
      have part : (0 : ℝ) < (rem + θ) / 2 ^ sh := by positivity
      have below : (rem + θ) / (2 : ℝ) ^ sh < 1 := by
        rw [div_lt_one (by positivity)]
        have : ((rem + 1 : Nat) : ℝ) ≤ (2 ^ sh : Nat) := by exact_mod_cast left
        push_cast at this
        linarith
      generalize (rem + θ) / (2 : ℝ) ^ sh = p at decides part below
      refine .inr ⟨?_, kept, ?_, ?_, ?_, ?_⟩
      · rw [Bool.or_eq_true, decide_eq_true_eq, hs]
        by_contra hnot
        obtain ⟨hr, ht⟩ := not_or.mp hnot
        rw [not_not.mp hr, Nat.cast_zero] at hpos
        exact ht (by linarith)
      · rw [multiples_cast]
        exact mul_lt_mul_of_pos_right (by linarith) pos
      · rw [multiples_cast]
        push_cast
        exact mul_lt_mul_of_pos_right (by linarith) pos
      all_goals
        have way : ((kept + p) * 2 ^ q - (multiples q kept : ℝ)) / (multiples q (kept + 1) - multiples q kept) = p := by
          rw [multiples_cast, multiples_cast]
          push_cast
          field_simp
          ring
        rw [way, ← decides]
        intro h
        simp [h]

theorem quantize_roundsTo : RoundsTo (multiples q) mode u neg r (quantize mode u neg x q).1 := by
  rcases quantize_cases hx hu hq neg with ⟨-, h⟩ | ⟨-, h⟩
  · exact .inl h
  · exact .inr h

theorem quantize_inexact : (quantize mode u neg x q).2 = true ↔ (multiples q (quantize mode u neg x q).1 : ℝ) ≠ r := by
  rcases quantize_cases hx hu hq neg with ⟨h, hv⟩ | ⟨h, lo, take⟩
  · simp [h, hv]
  · simp [h, take.not_exact (multiples_strictMono q)]

end

end Sys2Proof
end


section
/-! PROOF. Rounding to a format (R117 to R122, R128): `roundFp` gives what the rationals say. -/

namespace Sys2Proof

/-! ### The numbers of a format -/

/-- R117, R118: every format with a mantissa. -/
def mantissaTypes : List Ty := [.f64, .f32, .f16, .bf16, .e4m3, .e5m2, .e2m1, .e3m5]

theorem mantissa_facts {t : Ty} (ht : t ∈ mantissaTypes) : t ≠ .e8m0 ∧ 2 ^ t.mbits % 2 = 0 ∧ 2 ^ t.mbits ≤ t.maxCode := by
  simp only [mantissaTypes, List.mem_cons, List.not_mem_nil, or_false] at ht
  rcases ht with rfl | rfl | rfl | rfl | rfl | rfl | rfl | rfl <;> decide

/-- R117: the codes of a binade, and that of the next one's first number, are multiples of the binade's last place; so are
those below the least normal number, which `n = 0` takes in. -/
theorem grid_binade {t : Ty} (ht : t ≠ .e8m0) {n k : Nat} (hn : n = 0 ∨ 2 ^ t.mbits ≤ k) (hk : k ≤ 2 * 2 ^ t.mbits) :
    t.grid (n * 2 ^ t.mbits + k) = multiples (n + t.emin - t.mbits) k := by
  have pos : 0 < 2 ^ t.mbits := Nat.two_pow_pos _
  have value : (2 ^ t.mbits : ℚ) = (2 ^ t.mbits : Nat) := by push_cast; rfl
  rw [Ty.grid, if_neg ht, value, multiples, Ty.emin]
  generalize 2 ^ t.mbits = M at *
  rcases Nat.lt_or_ge k M with hlow | hge
  · obtain rfl : n = 0 := hn.resolve_right (Nat.not_le.mpr hlow)
    rw [Nat.zero_mul, Nat.zero_add, Nat.div_eq_of_lt hlow, if_pos rfl, Nat.mod_eq_of_lt hlow, Nat.cast_zero, zero_add]
  · obtain ⟨j, rfl⟩ := Nat.exists_eq_add_of_le hge
    have regroup : n * M + (M + j) = j + (n + 1) * M := by ring
    rw [regroup, Nat.add_mul_div_right _ _ pos, Nat.add_mul_mod_self_right]
    have normal : j / M + (n + 1) ≠ 0 := Nat.succ_ne_zero (j / M + n)
    rw [if_neg normal]
    rcases Nat.lt_or_ge j M with hj | hj
    · rw [Nat.div_eq_of_lt hj, Nat.mod_eq_of_lt hj]
      push_cast
      congr 2
      ring
    · obtain rfl : j = M := by omega
      rw [Nat.div_self pos, Nat.mod_self]
      have next : ((1 + (n + 1) : Nat) : Int) - t.bias - t.mbits = (n + (1 - (t.bias : Int)) - t.mbits) + 1 := by
        push_cast; ring
      rw [next, zpow_add_one₀ two_ne_zero]
      push_cast
      ring

/-- Every code is one of a binade or lies below the least normal number. -/
theorem code_binade (t : Ty) (c : Nat) : ∃ n k, c = n * 2 ^ t.mbits + k ∧ (n = 0 ∨ 2 ^ t.mbits ≤ k) ∧ k < 2 * 2 ^ t.mbits := by
  have pos : 0 < 2 ^ t.mbits := Nat.two_pow_pos _
  generalize 2 ^ t.mbits = M at pos
  rcases Nat.lt_or_ge c M with hlow | hge
  · exact ⟨0, c, by omega, .inl rfl, by omega⟩
  · obtain ⟨j, rfl⟩ := Nat.exists_eq_add_of_le hge
    refine ⟨j / M, M + j % M, ?_, .inr (Nat.le_add_right _ _), ?_⟩
    · have := Nat.div_add_mod' j M
      omega
    · have := Nat.mod_lt j pos
      omega

theorem grid_strictMono (t : Ty) : StrictMono t.grid := by
  by_cases ht : t = .e8m0
  · subst ht
    intro a b h
    rw [Ty.grid, Ty.grid, if_pos rfl, if_pos rfl]
    exact zpow_lt_zpow_right₀ one_lt_two (by omega)
  · refine strictMono_nat_of_lt_succ fun c => ?_
    obtain ⟨n, k, rfl, hn, hk⟩ := code_binade t c
    rw [Nat.add_assoc, grid_binade ht hn hk.le, grid_binade ht (hn.imp_right Nat.le_succ_of_le) hk]
    exact multiples_strictMono _ k.lt_succ_self

theorem grid_zero {t : Ty} (ht : t ≠ .e8m0) : t.grid 0 = 0 := by
  have := grid_binade ht (n := 0) (k := 0) (.inl rfl) (Nat.zero_le _)
  rwa [Nat.zero_mul, multiples, Nat.cast_zero, zero_mul] at this

/-- R117: the powers of two from the least normal number on. -/
theorem grid_power {t : Ty} (ht : t ≠ .e8m0) (n : Nat) : t.grid (n * 2 ^ t.mbits + 2 ^ t.mbits) = 2 ^ (n + t.emin) := by
  rw [grid_binade ht (.inr le_rfl) (by omega), multiples]
  push_cast
  rw [← zpow_natCast, ← zpow_add₀ two_ne_zero]
  congr 1
  ring

/-- R117: the least normal number. -/
theorem grid_normal {t : Ty} (ht : t ≠ .e8m0) : t.grid (2 ^ t.mbits) = 2 ^ t.emin := by
  have := grid_power ht 0
  rwa [Nat.zero_mul, Nat.zero_add, Nat.cast_zero, zero_add] at this

/-! ### Magnitudes and places -/

/-- The exponent of a magnitude. -/
def Mag.exp (x : Mag) : Int := x.e + x.m.log2

theorem Mag.Is.bounds {x : Mag} {r : ℝ} (hx : x.Is r) (hm : x.m ≠ 0) : (2 : ℝ) ^ x.exp ≤ r ∧ r < 2 ^ (x.exp + 1) := by
  obtain ⟨θ, h0, h1, -, rfl⟩ := hx
  have pos : (0 : ℝ) < 2 ^ x.e := by positivity
  have low : ((2 : ℝ) ^ x.m.log2) ≤ x.m := by exact_mod_cast Nat.log2_self_le hm
  have high : (x.m : ℝ) + 1 ≤ 2 ^ (x.m.log2 + 1) := by exact_mod_cast (Nat.lt_log2_self : x.m < 2 ^ (x.m.log2 + 1))
  rw [Mag.exp, add_assoc, zpow_add₀ two_ne_zero, zpow_add₀ two_ne_zero, mul_comm, mul_comm ((2 : ℝ) ^ x.e), zpow_natCast]
  constructor
  · exact mul_le_mul_of_nonneg_right (by linarith) pos.le
  · refine mul_lt_mul_of_pos_right ?_ pos
    have power : (2 : ℝ) ^ ((x.m.log2 : Int) + 1) = 2 ^ (x.m.log2 + 1) := by exact_mod_cast zpow_natCast (2 : ℝ) (x.m.log2 + 1)
    linarith

theorem Mag.Below.mono {x : Mag} {mode : Nat} {q q' : Int} (h : x.Below mode q) (hq : q ≤ q') : x.Below mode q' := fun hs =>
  ⟨(h hs).1.trans_le hq, fun hm => ((h hs).2 hm).trans hq⟩

/-- The last place of a format at a magnitude. -/
def Mag.place (x : Mag) (t : Ty) : Int := max x.exp t.emin - t.mbits

/-- The code of a magnitude rounded to a format whose exponents go on without bound. -/
def Mag.code (x : Mag) (t : Ty) (mode u : Nat) (neg : Bool) : Nat :=
  (x.exp - t.emin).toNat * 2 ^ t.mbits + (quantize mode u neg x (x.place t)).1

/-- What `roundFp` does of a magnitude that is not zero. -/
theorem roundFp_eq {env : FpEnv} {t : Ty} {mode u : Nat} {sat neg : Bool} {x : Mag} (ht : t ≠ .e8m0) (hm : x.m ≠ 0)
    (hneg : neg = true → t.signed = true) : roundFp env t mode u sat neg x =
      if t.maxCode < x.code t mode u neg then ⟨overflowCode t mode sat neg, fOverflow ||| fInexact⟩
      else if env.ftz && t.flushes && isTiny env t mode u neg x then ⟨t.signBit neg, fUnderflow ||| fInexact⟩
      else ⟨t.signBit neg + x.code t mode u neg, (if (quantize mode u neg x (x.place t)).2 then fInexact else 0) |||
        (if isTiny env t mode u neg x && (quantize mode u neg x (x.place t)).2 then fUnderflow else 0)⟩ := by
  have sign : ¬ (neg && !t.signed) = true := by
    intro h
    rw [Bool.and_eq_true, Bool.not_eq_true'] at h
    rw [hneg h.1] at h
    cases h.2
  rw [roundFp, if_neg ht, if_neg hm, if_neg sign]
  rfl

theorem roundFp_zero {env : FpEnv} {t : Ty} (ht : t ≠ .e8m0) (mode u : Nat) (sat neg : Bool) (e : Int) :
    roundFp env t mode u sat neg ⟨0, e, false⟩ = ⟨t.signBit neg, 0⟩ := by
  rw [roundFp, if_neg ht, if_pos rfl]

section
variable {t : Ty} (ht : t ∈ mantissaTypes) {x : Mag} {r : ℝ} (hx : x.Is r) (hm : x.m ≠ 0) {mode u : Nat} (hu : u < 2 ^ 32)
  (hq : x.Below mode (x.exp - t.mbits)) (neg : Bool)
include ht hx hm hu hq

/-- The code is the neighbour that the mode takes, and inexact when the digits discarded are not zero. -/
theorem code_cases : RoundsTo t.grid mode u neg r (x.code t mode u neg) ∧
    ((quantize mode u neg x (x.place t)).2 = true ↔ (t.grid (x.code t mode u neg) : ℝ) ≠ r) := by
  obtain ⟨notE8, even, -⟩ := mantissa_facts ht
  obtain ⟨low, high⟩ := hx.bounds hm
  have place : x.place t = (x.exp - t.emin).toNat + t.emin - t.mbits := by rw [Mag.place]; omega
  have below : x.Below mode (x.place t) := hq.mono (by rw [Mag.place]; omega)
  have unit : ∀ k : Nat, ((2 : ℝ) ^ t.mbits * 2 ^ (x.place t)) = 2 ^ (max x.exp t.emin) := fun _ => by
    rw [← zpow_natCast, ← zpow_add₀ two_ne_zero, Mag.place]; congr 1; ring
  have upper : r < multiples (x.place t) (2 * 2 ^ t.mbits) := by
    rw [multiples_cast]
    push_cast
    rw [mul_assoc, unit 0, ← zpow_one_add₀ two_ne_zero]
    exact high.trans_le (zpow_le_zpow_right₀ one_le_two (by omega))
  have rounds := quantize_roundsTo hx hu below neg
  have mono := multiples_strictMono (x.place t)
  obtain ⟨a, hn, ha⟩ : ∃ a, ((x.exp - t.emin).toNat = 0 ∨ 2 ^ t.mbits ≤ a) ∧ (multiples (x.place t) a : ℝ) ≤ r := by
    by_cases hex : x.exp ≤ t.emin
    · refine ⟨0, .inl (by omega), ?_⟩
      rw [multiples_cast, Nat.cast_zero, zero_mul]
      exact (zpow_nonneg zero_le_two _).trans low
    · refine ⟨2 ^ t.mbits, .inr le_rfl, ?_⟩
      rw [multiples_cast]
      push_cast
      rw [unit 0, max_eq_left (by omega)]
      exact low
  have binade : ∀ k, a ≤ k → k ≤ 2 * 2 ^ t.mbits → t.grid ((x.exp - t.emin).toNat * 2 ^ t.mbits + k) =
    multiples (x.place t) k :=
    fun k hk hk' => by rw [place]; exact grid_binade notE8 (hn.imp_right fun h => h.trans hk) hk'
  constructor
  · exact rounds.shift mono (by rw [Nat.mul_mod, even, Nat.mul_zero]) binade ha upper
  · rw [quantize_inexact hx hu below neg, Mag.code, binade _ (rounds.ge mono ha) (rounds.le mono upper.le)]

omit ht in
/-- R128: tininess after rounding, to the precision of the format, in the binade below the least normal number. -/
theorem tiny_after : (∃ j, RoundsTo (multiples (t.emin - 1 - t.mbits)) mode u neg r j ∧ j < 2 ^ (t.mbits + 1)) ↔
    x.exp < t.emin ∧ ¬ (x.exp = t.emin - 1 ∧ 2 ^ (t.mbits + 1) ≤ (quantize mode u neg x (x.exp - t.mbits)).1) := by
  obtain ⟨low, high⟩ := hx.bounds hm
  have mono := multiples_strictMono (t.emin - 1 - t.mbits)
  have unit : ∀ k : Nat, (multiples (t.emin - 1 - t.mbits) (2 ^ (t.mbits + k)) : ℝ) = 2 ^ (t.emin - 1 + k) := fun k => by
    rw [multiples_cast]
    push_cast
    rw [← zpow_natCast, ← zpow_add₀ two_ne_zero]
    congr 1
    push_cast
    ring
  by_cases normal : t.emin ≤ x.exp
  · refine iff_of_false (fun ⟨j, rounds, hj⟩ => ?_) fun h => absurd h.1 (not_lt.mpr normal)
    refine absurd (rounds.ge mono (k := 2 ^ (t.mbits + 1)) ?_) (Nat.not_le.mpr hj)
    rw [unit]
    exact (zpow_le_zpow_right₀ one_le_two (by push_cast; omega)).trans low
  · have rounds := quantize_roundsTo hx hu (hq.mono (q' := t.emin - 1 - t.mbits) (by omega)) neg
    have tiny : (∃ j, RoundsTo (multiples (t.emin - 1 - t.mbits)) mode u neg r j ∧ j < 2 ^ (t.mbits + 1)) ↔
        (quantize mode u neg x (t.emin - 1 - t.mbits)).1 < 2 ^ (t.mbits + 1) :=
      ⟨fun ⟨j, hj, hlt⟩ => by rwa [← RoundsTo.unique mono rounds hj], fun hlt => ⟨_, rounds, hlt⟩⟩
    rw [tiny]
    by_cases hex : x.exp = t.emin - 1
    · rw [hex]
      simp
    · refine iff_of_true ?_ ⟨by omega, fun h => hex h.1⟩
      refine lt_of_le_of_lt (rounds.le mono (k := 2 ^ (t.mbits + 0)) ?_) (Nat.pow_lt_pow_right one_lt_two (by omega))
      rw [unit]
      exact high.le.trans (zpow_le_zpow_right₀ one_le_two (by push_cast; omega))

end

/-! ### Conditions and overflow -/

/-- R128: a magnitude is tiny, before rounding or after. -/
def Tiny (env : FpEnv) (t : Ty) (mode u : Nat) (neg : Bool) (x : ℝ) : Prop :=
  if env.tininess = true then x < t.grid (2 ^ t.mbits) else
    ∃ j, RoundsTo (fun j => t.grid (2 ^ t.mbits) * j / 2 ^ (t.mbits + 1)) mode u neg x j ∧ j < 2 ^ (t.mbits + 1)

/-- R121, R124: an overflowing result is the largest number. -/
def Limited (t : Ty) (mode : Nat) (sat neg : Bool) : Prop :=
  sat = true ∨ t ∈ [.e2m1, .e3m5, .e8m0] ∨
    (t ≠ .e4m3 ∧ (mode = 1 ∨ (mode = 2 ∧ neg = true) ∨ (mode = 3 ∧ neg = false)))

/-- The sign bit of a result. -/
def signOf (t : Ty) (neg : Bool) : Nat := if neg then 2 ^ (t.bits - 1) else 0

/-- R121, R124, R128, R131: the bits and conditions of a result, of which `c` is the code that the exact magnitude `x`
rounds to. -/
structure RoundedTo (env : FpEnv) (t : Ty) (mode u : Nat) (sat neg : Bool) (x : ℝ) (r : FpRes) (c : Nat) : Prop where
  code : RoundsTo t.grid mode u neg x c
  kept : c ≤ t.maxCode → ¬ (env.ftz = true ∧ t.flushes = true ∧ Tiny env t mode u neg x) → r.bits = signOf t neg + c
  flushed : (env.ftz = true ∧ t.flushes = true ∧ Tiny env t mode u neg x) → r.bits = signOf t neg
  beyond : t.maxCode < c → (Limited t mode sat neg → r.bits = signOf t neg + t.maxCode) ∧
    (¬ Limited t mode sat neg → r.bits = signOf t neg + t.maxCode + 1)
  overflow : r.conds.testBit 2 = true ↔ t.maxCode < c
  inexact : r.conds.testBit 4 = true ↔ t.maxCode < c ∨ (t.grid c : ℝ) ≠ x ∨
    (env.ftz = true ∧ t.flushes = true ∧ Tiny env t mode u neg x)
  underflow : t ≠ .e8m0 → (r.conds.testBit 3 = true ↔ Tiny env t mode u neg x ∧
    ((env.ftz = true ∧ t.flushes = true ∧ Tiny env t mode u neg x) ∨ (t.grid c : ℝ) ≠ x))

theorem rounded_iff {env : FpEnv} {t : Ty} {mode u : Nat} {sat neg : Bool} {x : ℝ} {r : FpRes} :
    Rounded env t mode u sat neg x r ↔ ∃ c, RoundedTo env t mode u sat neg x r c := by
  constructor
  · rintro ⟨c, code, kept, flushed, beyond, overflow, inexact, underflow⟩
    exact ⟨c, code, kept, flushed, beyond, overflow, inexact, underflow⟩
  · rintro ⟨c, code, kept, flushed, beyond, overflow, inexact, underflow⟩
    exact ⟨c, code, kept, flushed, beyond, overflow, inexact, underflow⟩

/-- R401: the conditions of a rounding, bit by bit. -/
theorem overflow_conds : (fOverflow ||| fInexact).testBit 2 = true ∧ (fOverflow ||| fInexact).testBit 3 = false ∧
    (fOverflow ||| fInexact).testBit 4 = true := by decide

theorem flushed_conds : (fUnderflow ||| fInexact).testBit 2 = false ∧ (fUnderflow ||| fInexact).testBit 3 = true ∧
    (fUnderflow ||| fInexact).testBit 4 = true := by decide

theorem rounding_conds (inexact tiny : Bool) :
    let conds := (if inexact then fInexact else 0) ||| (if tiny && inexact then fUnderflow else 0)
    conds.testBit 2 = false ∧ conds.testBit 3 = (tiny && inexact) ∧ conds.testBit 4 = inexact := by
  cases inexact <;> cases tiny <;> decide

theorem signBit_eq {t : Ty} {neg : Bool} (h : neg = true → t.signed = true) : t.signBit neg = signOf t neg := by
  cases neg
  · simp [Ty.signBit, signOf]
  · simp [Ty.signBit, signOf, h rfl]

/-- R121, R124: what an overflow gives. -/
theorem overflowCode_eq {t : Ty} (ht : t ∈ mantissaTypes) {neg : Bool} (hneg : neg = true → t.signed = true) (mode : Nat)
    (sat : Bool) :
    (Limited t mode sat neg → overflowCode t mode sat neg = signOf t neg + t.maxCode) ∧
    (¬ Limited t mode sat neg → overflowCode t mode sat neg = signOf t neg + t.maxCode + 1) := by
  have finite : t.maxFin neg = signOf t neg + t.maxCode := by rw [Ty.maxFin, signBit_eq hneg]
  by_cases hi : t.ieee = true
  · have inf : t.infCode neg = signOf t neg + t.maxCode + 1 := by rw [Ty.infCode, if_pos hi, signBit_eq hneg]; rfl
    have kind : t ≠ .e4m3 ∧ t ∉ [Ty.e2m1, .e3m5, .e8m0] := by
      constructor
      · rintro rfl; cases hi
      · intro h
        simp only [List.mem_cons, List.not_mem_nil, or_false] at h
        rcases h with rfl | rfl | rfl <;> cases hi
    cases sat with
    | true => exact ⟨fun _ => finite, fun h => absurd (.inl rfl) h⟩
    | false =>
      unfold overflowCode
      rw [hi, if_neg (by simp), if_neg kind.1, Limited]
      match mode with
      | 0 | 1 | 4 | k + 5 => simp [kind, finite, inf]
      | 2 | 3 => cases neg <;> simp [kind, finite, inf]
  · by_cases h4 : t = .e4m3
    · subst h4
      cases sat with
      | true => exact ⟨fun _ => finite, fun h => absurd (.inl rfl) h⟩
      | false =>
        have inf : overflowCode .e4m3 mode false neg = signOf .e4m3 neg + Ty.maxCode .e4m3 + 1 := by
          rw [← signBit_eq hneg]; rfl
        rw [inf, Limited]
        simp
    · have code : overflowCode t mode sat neg = t.maxFin neg := by simp [overflowCode, hi, h4]
      have limited : Limited t mode sat neg := by
        have unlike : ∀ t ∈ mantissaTypes, ¬ t.ieee = true → t ≠ .e4m3 → t ∈ [.e2m1, .e3m5, .e8m0] := by decide
        exact .inr (.inl (unlike t ht hi h4))
      exact ⟨fun _ => code.trans finite, fun h => absurd limited h⟩

/-- R128: the numbers that tininess after rounding looks at. -/
theorem tinyScale_eq {t : Ty} (ht : t ≠ .e8m0) :
    (fun j : Nat => t.grid (2 ^ t.mbits) * j / 2 ^ (t.mbits + 1)) = multiples (t.emin - 1 - t.mbits) := by
  funext j
  have split : (2 : ℚ) ^ t.emin = 2 ^ (t.emin - 1 - t.mbits) * 2 ^ (t.mbits + 1) := by
    rw [← zpow_natCast, ← zpow_add₀ two_ne_zero]; congr 1; push_cast; ring
  rw [grid_normal ht, multiples, split]
  field_simp

/-- R128: what is tiny lies below the least normal number. -/
theorem tiny_lt {env : FpEnv} {t : Ty} (ht : t ≠ .e8m0) {mode u : Nat} {neg : Bool} {r : ℝ} (h : Tiny env t mode u neg r) :
    r < t.grid (2 ^ t.mbits) := by
  rw [Tiny] at h
  split at h
  · exact h
  · obtain ⟨j, rounds, hj⟩ := h
    rw [tinyScale_eq ht] at rounds
    by_contra hge
    refine absurd (rounds.ge (multiples_strictMono _) (k := 2 ^ (t.mbits + 1)) ?_) (Nat.not_le.mpr hj)
    have top := congrFun (tinyScale_eq ht) (2 ^ (t.mbits + 1))
    have whole : t.grid (2 ^ t.mbits) * ((2 ^ (t.mbits + 1) : Nat) : ℚ) / 2 ^ (t.mbits + 1) = t.grid (2 ^ t.mbits) := by
      push_cast; field_simp
    rw [← top, whole]
    exact not_lt.mp hge

section
variable {t : Ty} (ht : t ∈ mantissaTypes) {x : Mag} {r : ℝ} (hx : x.Is r) (hm : x.m ≠ 0) {mode u : Nat} (hu : u < 2 ^ 32)
  (hq : x.Below mode (x.exp - t.mbits)) {neg : Bool}
include ht hx hm hu hq

theorem isTiny_iff (env : FpEnv) : isTiny env t mode u neg x = true ↔ Tiny env t mode u neg r := by
  obtain ⟨notE8, -⟩ := mantissa_facts ht
  obtain ⟨low, high⟩ := hx.bounds hm
  have before : x.exp < t.emin ↔ r < (t.grid (2 ^ t.mbits) : ℚ) := by
    rw [grid_normal notE8]
    push_cast
    constructor
    · intro h
      exact high.trans_le (zpow_le_zpow_right₀ one_le_two (by omega))
    · intro h
      exact (zpow_lt_zpow_iff_right₀ one_lt_two).mp (low.trans_lt h)
  rw [isTiny, Tiny, tinyScale_eq notE8]
  cases env.tininess with
  | true => simpa [Mag.exp] using before
  | false =>
    rw [if_neg Bool.false_ne_true, tiny_after hx hm hu hq neg]
    simp only [Mag.exp, Bool.false_eq_true, if_false, Bool.and_eq_true, Bool.not_eq_true', Bool.and_eq_false_iff,
      decide_eq_true_eq, decide_eq_false_iff_not, not_and_or]

theorem tiny_small {env : FpEnv} (h : Tiny env t mode u neg r) : x.code t mode u neg ≤ t.maxCode :=
  ((code_cases ht hx hm hu hq neg).1.le (grid_strictMono t) (tiny_lt (mantissa_facts ht).1 h).le).trans (mantissa_facts ht).2.2

/-- R121, R128, R131: `roundFp` rounds a magnitude once, and raises the conditions of that rounding. -/
theorem roundFp_roundedTo (env : FpEnv) (sat : Bool) (hneg : neg = true → t.signed = true) :
    RoundedTo env t mode u sat neg r (roundFp env t mode u sat neg x) (x.code t mode u neg) := by
  obtain ⟨rounds, inexact⟩ := code_cases ht hx hm hu hq neg
  have tiny := isTiny_iff ht hx hm hu hq (neg := neg) env
  have small : Tiny env t mode u neg r → x.code t mode u neg ≤ t.maxCode := tiny_small ht hx hm hu hq
  rw [roundFp_eq (mantissa_facts ht).1 hm hneg, signBit_eq hneg]
  generalize x.code t mode u neg = c at *
  by_cases hover : t.maxCode < c
  · have normal : ¬ Tiny env t mode u neg r := fun h => absurd (small h) (Nat.not_le.mpr hover)
    rw [if_pos hover]
    obtain ⟨two, three, four⟩ := overflow_conds
    exact ⟨rounds, fun h => absurd h (Nat.not_le.mpr hover), fun h => absurd h.2.2 normal,
      fun _ => overflowCode_eq ht hneg mode sat,
      iff_of_true two hover, iff_of_true four (.inl hover),
      fun _ => iff_of_false (Bool.eq_false_iff.mp three) fun h => normal h.1⟩
  · rw [if_neg hover]
    by_cases hflush : env.ftz = true ∧ t.flushes = true ∧ Tiny env t mode u neg r
    · rw [if_pos (by simp [hflush.1, hflush.2.1, tiny.mpr hflush.2.2])]
      obtain ⟨two, three, four⟩ := flushed_conds
      exact ⟨rounds, fun _ h => absurd hflush h, fun _ => rfl, fun h => absurd h hover,
        iff_of_false (Bool.eq_false_iff.mp two) hover, iff_of_true four (.inr (.inr hflush)),
        fun _ => iff_of_true three ⟨hflush.2.2, .inl hflush⟩⟩
    · have notFlushed : ¬ (env.ftz && t.flushes && isTiny env t mode u neg x) = true := fun h => hflush (by
        simpa only [Bool.and_eq_true, tiny, and_assoc] using h)
      rw [if_neg notFlushed]
      obtain ⟨two, three, four⟩ := rounding_conds (quantize mode u neg x (x.place t)).2 (isTiny env t mode u neg x)
      refine ⟨rounds, fun _ _ => rfl, fun h => absurd h hflush, fun h => absurd h hover,
        iff_of_false (Bool.eq_false_iff.mp two) hover, ?_, fun _ => ?_⟩
      · rw [four, inexact]
        simp [hover, hflush]
      · rw [three, Bool.and_eq_true, inexact, tiny]
        simp [hflush]

end

end Sys2Proof
end


section
/-! PROOF. Operations on numbers (R121, R127, R248 to R251): sources are the numbers of their codes, and sums, products and
quotients of numbers are rounded once. -/

namespace Sys2Proof

/-! ### Numbers and their codes -/

/-- The formats with a sign. -/
def signedTypes : List Ty := [.f64, .f32, .f16, .bf16, .e4m3, .e5m2, .e2m1]

section
variable {t : Ty} (ht : t ∈ signedTypes)
include ht

theorem signed_facts : t ∈ mantissaTypes ∧ t.signed = true ∧ t ≠ .e8m0 := by
  simp only [signedTypes, List.mem_cons, List.not_mem_nil, or_false] at ht
  rcases ht with rfl | rfl | rfl | rfl | rfl | rfl | rfl <;> decide

theorem signed_cases : t ∈ tysArith ∨ t ∈ factorTypes := by
  simp only [signedTypes, List.mem_cons, List.not_mem_nil, or_false] at ht
  rcases ht with rfl | rfl | rfl | rfl | rfl | rfl | rfl <;> decide

theorem signed_bits : t.bits = (t.bits - 1) + 1 ∧ t.maxCode < 2 ^ (t.bits - 1) := by
  simp only [signedTypes, List.mem_cons, List.not_mem_nil, or_false] at ht
  rcases ht with rfl | rfl | rfl | rfl | rfl | rfl | rfl <;> decide

theorem signed_mag (x : Nat) : t.magOf x = x % 2 ^ (t.bits - 1) := by
  rw [Ty.magOf, (signed_facts ht).2.1, if_pos rfl]

theorem signed_neg (x : Nat) : t.negOf x = decide (x / 2 ^ (t.bits - 1) % 2 = 1) := by
  rw [Ty.negOf, (signed_facts ht).2.1]; rfl

/-- R117: the number of a code, by its fields. -/
theorem number_eq (daz : Bool) (x : Nat) : t.number daz x = if t.maxCode < t.magOf x then none else
    some (t.negOf x, if daz = true ∧ t.flushes = true ∧ t.magOf x < 2 ^ t.mbits then 0
      else if t.negOf x then -t.grid (t.magOf x) else t.grid (t.magOf x)) := by
  rw [Ty.number, signed_mag ht, signed_neg ht]

/-- The fields of a sign and a magnitude. -/
theorem fields_of_code (neg : Bool) {c : Nat} (hc : c ≤ t.maxCode) :
    t.magOf (signOf t neg + c) = c ∧ t.negOf (signOf t neg + c) = neg := by
  obtain ⟨-, fits⟩ := signed_bits ht
  have small := hc.trans_lt fits
  rw [signed_mag ht, signed_neg ht, signOf]
  generalize 2 ^ (t.bits - 1) = M at small
  have pos : 0 < M := (Nat.zero_le _).trans_lt small
  cases neg with
  | false => simp [Nat.mod_eq_of_lt small, Nat.div_eq_of_lt small]
  | true => simp [Nat.mod_eq_of_lt small, Nat.add_div_left _ pos, Nat.div_eq_of_lt small]

/-- R117: a sign and a code up to the largest are the number of the grid with that sign. -/
theorem number_code (neg : Bool) {c : Nat} (hc : c ≤ t.maxCode) :
    t.number false (signOf t neg + c) = some (neg, if neg then -t.grid c else t.grid c) := by
  obtain ⟨mag, sign⟩ := fields_of_code ht neg hc
  rw [number_eq ht, mag, sign, if_neg (Nat.not_lt.mpr hc)]
  simp

end

/-- R117: what the code of a factor is, as a number. -/
theorem number_fpVal_factor {t : Ty} (ht : t ∈ factorTypes) (x : Nat) : t.number false x = (fpVal t x).number := by
  have hs : t ∈ signedTypes := by
    simp only [factorTypes, List.mem_cons, List.not_mem_nil, or_false] at ht
    rcases ht with rfl | rfl | rfl | rfl | rfl | rfl <;> decide
  obtain ⟨-, signed, notE8⟩ := signed_facts hs
  rw [number_eq hs, fpVal, if_neg notE8]
  have small : t.magOf x < 2 ^ (t.bits - 1) := by rw [signed_mag hs]; exact Nat.mod_lt _ (by positivity)
  generalize t.magOf x = m at small
  generalize t.negOf x = neg
  by_cases hmax : t.maxCode < m
  · rw [if_pos hmax]
    by_cases hi : t.ieee = true
    · rw [if_pos ⟨hi, hmax⟩]
      split <;> rfl
    · have kind : t = .e4m3 ∧ m = 0x7F := by
        have unlike : ∀ t ∈ factorTypes, ¬ t.ieee = true → t = .e4m3 ∨ t = .e2m1 := by decide
        rcases unlike t ht hi with rfl | rfl
        · exact ⟨rfl, by simp only [Ty.maxCode, Ty.bits] at hmax small; omega⟩
        · simp only [Ty.maxCode, Ty.bits] at hmax small; omega
      rw [if_neg fun h => hi h.1, if_pos kind]
      rfl
  · have notNan : ¬ (t = .e4m3 ∧ m = 0x7F) := fun ⟨h, hm⟩ => hmax (by rw [h, hm]; decide)
    have notMore : ¬ (t.ieee = true ∧ m > t.maxCode) := fun h => hmax h.2
    have notDaz : ¬ (false = true ∧ t.flushes = true ∧ m < 2 ^ t.mbits) := fun h => Bool.false_ne_true h.1
    rw [if_neg hmax, if_neg notMore, if_neg notNan, if_neg notDaz]
    by_cases he : m / 2 ^ t.mbits = 0
    · rw [if_pos he, FpVal.number, FpVal.exact_val, Ty.grid, if_neg notE8, if_pos he]
      rfl
    · rw [if_neg he, FpVal.number, FpVal.exact_val, Ty.grid, if_neg notE8, if_neg he]
      push_cast
      rfl

/-- R127: the number that a source is, in every signed format. -/
theorem number_source_signed {t : Ty} (ht : t ∈ signedTypes) (env : FpEnv) (x : Nat) :
    t.number env.daz x = (fpVal t (env.source t x)).number := by
  rcases signed_cases ht with h | h
  · exact number_source h env x
  rw [← number_fpVal_factor h, number_eq ht, number_eq ht]
  obtain ⟨-, -, notE8⟩ := signed_facts ht
  have sub : isSubnormal t x = true ↔ t.magOf x < 2 ^ t.mbits ∧ t.magOf x ≠ 0 := by
    simp [isSubnormal, Nat.div_eq_zero_iff, notE8]
  by_cases hflush : env.daz = true ∧ t.flushes = true ∧ isSubnormal t x = true
  · obtain ⟨daz, flushes, hsub⟩ := hflush
    obtain ⟨mag, sign⟩ := factor_signBit h (t.negOf x)
    have source : env.source t x = t.signBit (t.negOf x) := by rw [FpEnv.source, if_pos (by rw [daz, flushes, hsub]; rfl)]
    have small := (sub.mp hsub).1
    have notMore : ¬ t.maxCode < t.magOf x := Nat.not_lt.mpr (small.le.trans (factor_signed h).2.2.2)
    rw [source, mag, sign, if_neg notMore, if_neg (Nat.not_lt.mpr (Nat.zero_le _)), if_pos ⟨daz, flushes, small⟩,
      grid_zero notE8]
    simp
  · obtain ⟨mag, sign⟩ := factor_mod h x
    have source : env.source t x = x % 2 ^ t.bits := by rw [FpEnv.source, if_neg (by simpa [and_assoc] using hflush)]
    rw [source, mag, sign]
    by_cases hz : t.magOf x = 0
    · simp [hz, grid_zero notE8]
    · have same : ¬ (env.daz = true ∧ t.flushes = true ∧ t.magOf x < 2 ^ t.mbits) := fun ⟨d, f, l⟩ =>
        hflush ⟨d, f, sub.mpr ⟨l, hz⟩⟩
      rw [if_neg same]
      simp

/-- A value that is a number of a sign and a value. -/
theorem fin_of_number {v : FpVal} {neg : Bool} {q : ℚ} (h : v.number = some (neg, q)) :
    ∃ m e, v = .fin neg m e ∧ q = (FpVal.fin neg m e).exact.val := by
  cases v with
  | nan | inf => cases h
  | fin n m e =>
    obtain ⟨rfl, rfl⟩ := Prod.mk.inj (Option.some.inj h)
    exact ⟨m, e, rfl, rfl⟩

theorem source_fin {t : Ty} (ht : t ∈ signedTypes) {env : FpEnv} {x : Nat} {neg : Bool} {q : ℚ}
    (h : t.number env.daz x = some (neg, q)) :
    ∃ m e, fpVal t (env.source t x) = .fin neg m e ∧ q = (FpVal.fin neg m e).exact.val :=
  fin_of_number ((number_source_signed ht env x).symm.trans h)

/-- The value of a number, its sign apart. -/
theorem exact_val_real (neg : Bool) (m : Nat) (e : Int) :
    ((FpVal.fin neg m e).exact.val : ℝ) = if neg then -(m * 2 ^ e : ℝ) else m * 2 ^ e := by
  rw [FpVal.exact_val]
  cases neg
  · simp
  · simp

/-! ### Results -/

/-- The sign that a zero takes is that of a zero only. -/
theorem Result.sign_of_zero {env : FpEnv} {t : Ty} {mode u : Nat} {sat z z' : Bool} {x : ℝ} {r : FpRes}
    (h : Result env t mode u sat z x r) (hz : x = 0 → z = z') : Result env t mode u sat z' x r :=
  ⟨h.1, h.2.1, fun h0 => by rw [← hz h0]; exact h.2.2 h0⟩

/-- R121, R249: a magnitude that is not zero, rounded with its sign. -/
theorem roundFp_result {t : Ty} (ht : t ∈ mantissaTypes) {x : Mag} {r : ℝ} (hx : x.Is r) (hm : x.m ≠ 0) {mode u : Nat}
    (hu : u < 2 ^ 32) (hq : x.Below mode (x.exp - t.mbits)) {neg : Bool} (hneg : neg = true → t.signed = true) (env : FpEnv)
    (sat z : Bool) : Result env t mode u sat z (if neg then -r else r) (roundFp env t mode u sat neg x) := by
  have pos : 0 < r := (zpow_pos two_pos _).trans_le (hx.bounds hm).1
  have rounded := rounded_iff.mpr ⟨_, roundFp_roundedTo ht hx hm hu hq env sat hneg⟩
  cases neg with
  | false => exact ⟨fun _ => rounded, fun h => absurd h (not_lt.mpr pos.le), fun h => absurd h pos.ne'⟩
  | true =>
    rw [if_pos rfl]
    exact ⟨fun h => absurd h (by linarith), fun _ => by rwa [neg_neg], fun h => absurd h (by linarith)⟩

/-- R121: an exact magnitude, rounded with its sign. -/
theorem roundFp_exact_result {t : Ty} (ht : t ∈ mantissaTypes) {mode u : Nat} (hu : u < 2 ^ 32) {neg : Bool}
    (hneg : neg = true → t.signed = true) (env : FpEnv) (sat : Bool) (m : Nat) (e : Int) :
    Result env t mode u sat neg (if neg then -(m * 2 ^ e : ℝ) else m * 2 ^ e) (roundFp env t mode u sat neg ⟨m, e, false⟩) := by
  by_cases hm : m = 0
  · subst hm
    rw [roundFp_zero (mantissa_facts ht).1, signBit_eq hneg, Nat.cast_zero, zero_mul, neg_zero, ite_self]
    exact ⟨fun h => absurd h (lt_irrefl 0), fun h => absurd h (lt_irrefl 0), fun _ => rfl⟩
  · exact roundFp_result ht (Mag.is_exact m e) hm hu (Mag.below_exact m e mode _) hneg env sat neg

section
variable {t : Ty} (ht : t ∈ signedTypes) {mode u : Nat} (hu : u < 2 ^ 32) (env : FpEnv) (sat : Bool)
include ht hu

/-- A number rounded. -/
theorem roundFp_fin_result (neg : Bool) (m : Nat) (e : Int) :
    Result env t mode u sat neg ((FpVal.fin neg m e).exact.val : ℝ) (roundFp env t mode u sat neg ⟨m, e, false⟩) := by
  obtain ⟨hmant, signed, -⟩ := signed_facts ht
  rw [exact_val_real]
  exact roundFp_exact_result hmant hu (fun _ => signed) env sat m e

theorem roundExact_result (z : Bool) (x : Exact) : Result env t mode u sat z (x.val : ℝ) (roundExact env t mode u sat z x) := by
  by_cases hn : x.n = 0
  · have zero : x.val = 0 := by rw [Exact.val, hn, Int.cast_zero, zero_mul]
    have run := roundFp_fin_result (mode := mode) ht hu env sat z 0 x.e
    rw [(FpVal.exact_val_eq_zero z 0 x.e).mpr rfl] at run
    rw [zero, roundExact, if_pos hn, hn]
    exact run
  · have value : (FpVal.fin (decide (x.n < 0)) x.n.natAbs x.e).exact.val = x.val := by
      rw [FpVal.exact_val, Exact.val]
      by_cases hlt : x.n < 0
      · rw [decide_eq_true hlt, if_pos rfl, Nat.cast_natAbs, abs_of_neg hlt]; push_cast; ring
      · rw [decide_eq_false hlt, if_neg Bool.false_ne_true, Nat.cast_natAbs, abs_of_nonneg (not_lt.mp hlt)]
    have run := roundFp_fin_result (mode := mode) ht hu env sat (decide (x.n < 0)) x.n.natAbs x.e
    rw [value] at run
    rw [roundExact, if_neg hn]
    refine run.sign_of_zero fun h0 => ?_
    have : x.val = 0 := by exact_mod_cast h0
    rw [Exact.val, mul_eq_zero, Int.cast_eq_zero] at this
    exact absurd (this.resolve_right (by positivity)) hn

/-- R121: the sign of an exact zero that two summands give. -/
def zeroSign (mode : Nat) (a b : Bool) : Bool := if a = b then a else decide (mode = 3)

/-- R121, R248: a sum of numbers is rounded once. -/
theorem sumFp_result (a b : Bool) (m n : Nat) (e f : Int) :
    Result env t mode u sat (zeroSign mode a b) (((FpVal.fin a m e).exact.val + (FpVal.fin b n f).exact.val : ℚ) : ℝ)
      (sumFp env t mode u sat (.fin a m e) (.fin b n f)) := by
  have run := roundExact_result (mode := mode) ht hu env sat
    (if (FpVal.fin a m e).isZero && (FpVal.fin b n f).isZero && decide (a = b) then a
    else decide (mode = 3)) ((FpVal.fin a m e).exact.add (FpVal.fin b n f).exact)
  rw [Exact.val_add] at run
  refine run.sign_of_zero fun h0 => ?_
  have zero : (FpVal.fin a m e).exact.val + (FpVal.fin b n f).exact.val = 0 := by exact_mod_cast h0
  rw [zeroSign]
  by_cases hab : a = b
  · subst hab
    have both : m = 0 ∧ n = 0 := by
      rw [FpVal.exact_val, FpVal.exact_val] at zero
      have hm : (0 : ℚ) ≤ m * 2 ^ e := by positivity
      have hn : (0 : ℚ) ≤ n * 2 ^ f := by positivity
      have sum : (m * 2 ^ e : ℚ) = 0 ∧ (n * 2 ^ f : ℚ) = 0 := by
        cases a
        · simp only [Bool.false_eq_true, if_false] at zero; constructor <;> linarith
        · simp only [if_true] at zero; constructor <;> linarith
      exact ⟨by simpa [(zpow_pos (two_pos : (0 : ℚ) < 2) e).ne'] using sum.1,
        by simpa [(zpow_pos (two_pos : (0 : ℚ) < 2) f).ne'] using sum.2⟩
    simp [FpVal.isZero, both]
  · simp [hab]

end

/-- A product of numbers is exact. -/
theorem exact_val_mul (a b : Bool) (m n : Nat) (e f : Int) :
    (FpVal.fin (a != b) (m * n) (e + f)).exact.val = (FpVal.fin a m e).exact.val * (FpVal.fin b n f).exact.val := by
  simp only [FpVal.exact_val]
  rw [zpow_add₀ two_ne_zero]
  push_cast
  cases a <;> cases b <;> simp <;> ring

theorem exact_val_negate (a : Bool) (m : Nat) (e : Int) :
    (FpVal.fin (!a) m e).exact.val = -(FpVal.fin a m e).exact.val := by
  cases a <;> simp [FpVal.exact_val]

theorem prodVal_fin (a b : Bool) (m n : Nat) (e f : Int) :
    prodVal (.fin a m e) (.fin b n f) = some (.fin (a != b) (m * n) (e + f)) := rfl

section
variable {t : Ty} (ht : t ∈ signedTypes) {env : FpEnv} {mode u : Nat} (hu : u < 2 ^ 32) (sat : Bool) {a b c : Nat}
    {m n p : Bool}
  {x y z : ℚ} (ha : t.number env.daz a = some (m, x)) (hb : t.number env.daz b = some (n, y))
include ht hu ha

/-- R251: scaling. -/
theorem fpCvt_result {d : Ty} (hd : d ∈ mantissaTypes) (hm : m = true → d.signed = true) :
    Result env d mode u sat m (x : ℝ) (fpCvt env d t mode u sat a) := by
  obtain ⟨k, e, hv, rfl⟩ := source_fin ht ha
  rw [fpCvt, hv, exact_val_real]
  exact roundFp_exact_result hd hu hm env sat k e

include hb

theorem fpAdd_result : Result env t mode u sat (zeroSign mode m n) ((x + y : ℚ) : ℝ) (fpAdd env t mode u sat false a b) := by
  obtain ⟨k, e, hv, rfl⟩ := source_fin ht ha
  obtain ⟨j, f, hw, rfl⟩ := source_fin ht hb
  rw [fpAdd, hv, hw]
  exact sumFp_result ht hu env sat m n k j e f

theorem fpSub_result : Result env t mode u sat (zeroSign mode m (!n)) ((x - y : ℚ) : ℝ) (fpAdd env t mode u sat true a b) := by
  obtain ⟨k, e, hv, rfl⟩ := source_fin ht ha
  obtain ⟨j, f, hw, rfl⟩ := source_fin ht hb
  rw [fpAdd, hv, hw, sub_eq_add_neg, ← exact_val_negate]
  exact sumFp_result ht hu env sat m (!n) k j e f

theorem fpMul_result : Result env t mode u sat (m != n) ((x * y : ℚ) : ℝ) (fpMul env t mode u sat a b) := by
  obtain ⟨k, e, hv, rfl⟩ := source_fin ht ha
  obtain ⟨j, f, hw, rfl⟩ := source_fin ht hb
  rw [fpMul, hv, hw, ← exact_val_mul]
  exact roundExact_result ht hu env sat (m != n) (FpVal.fin (m != n) (k * j) (e + f)).exact

end

/-- R250, R292: a fused product and sum of numbers, each in its own format, is rounded once. -/
theorem fpFma3_result {t ta tb tc : Ty} (ht : t ∈ signedTypes) (hta : ta ∈ signedTypes) (htb : tb ∈ signedTypes)
    (htc : tc ∈ signedTypes) {env : FpEnv} {mode u : Nat} (hu : u < 2 ^ 32) (sat : Bool) {a b c : Nat} {m n p : Bool}
    {x y z : ℚ}
    (ha : ta.number env.daz a = some (m, x)) (hb : tb.number env.daz b = some (n, y)) (hc : tc.number env.daz c = some (p, z)) :
    Result env t mode u sat (zeroSign mode (m != n) p) ((x * y + z : ℚ) : ℝ) (fpFma3 env t ta tb tc mode u sat a b c) := by
  obtain ⟨k, e, hv, rfl⟩ := source_fin hta ha
  obtain ⟨j, f, hw, rfl⟩ := source_fin htb hb
  obtain ⟨i, g, hz, rfl⟩ := source_fin htc hc
  rw [fpFma3, hv, hw, hz, ← exact_val_mul]
  exact sumFp_result ht hu env sat (m != n) p (k * j) i (e + f) g

end Sys2Proof
end


section
/-! PROOF. Scaling, quotients, integers, minima and maxima of numbers (R126, R130, R248, R251). -/

namespace Sys2Proof

/-! ### Scaling (R251) -/

section
variable {t : Ty} (ht : t ∈ tysArith)
include ht

theorem arith_types : t ∈ signedTypes ∧ t ∈ mantissaTypes := by
  simp only [tysArith, List.mem_cons, List.not_mem_nil, or_false] at ht
  rcases ht with rfl | rfl | rfl | rfl <;> decide

theorem arith_sizes : t.mbits ≤ 52 ∧ t.bias ≤ 1023 ∧ 1 ≤ t.bias ∧ t.maxCode / 2 ^ t.mbits = 2 * t.bias := by
  simp only [tysArith, List.mem_cons, List.not_mem_nil, or_false] at ht
  rcases ht with rfl | rfl | rfl | rfl <;> decide

theorem arith_room : t.mbits + t.bias + 1 ≤ 2 * t.bias := by
  simp only [tysArith, List.mem_cons, List.not_mem_nil, or_false] at ht
  rcases ht with rfl | rfl | rfl | rfl <;> decide

/-- The digits and the exponent of a number. -/
theorem fin_bounds {x : Nat} {neg : Bool} {m : Nat} {e : Int} (h : fpVal t x = .fin neg m e) :
    m < 2 ^ (t.mbits + 1) ∧ t.emin - t.mbits ≤ e ∧ e ≤ t.bias := by
  obtain ⟨-, -, least, top⟩ := arith_sizes ht
  have pos := Nat.two_pow_pos t.mbits
  have low : t.magOf x % 2 ^ t.mbits < 2 ^ t.mbits := Nat.mod_lt _ pos
  have double : 2 ^ (t.mbits + 1) = 2 * 2 ^ t.mbits := by ring
  rw [fpVal_arith ht] at h
  dsimp only at h
  by_cases hmax : t.magOf x > t.maxCode
  · rw [if_pos hmax] at h
    split at h <;> cases h
  · have fits : t.magOf x / 2 ^ t.mbits ≤ 2 * t.bias := top ▸ Nat.div_le_div_right (not_lt.mp hmax)
    rw [if_neg hmax] at h
    generalize t.magOf x / 2 ^ t.mbits = field at *
    by_cases he : field = 0
    · rw [if_pos he] at h
      obtain ⟨-, rfl, rfl⟩ := FpVal.fin.inj h
      rw [double, Ty.emin]
      omega
    · rw [if_neg he] at h
      obtain ⟨-, rfl, rfl⟩ := FpVal.fin.inj h
      rw [double, Ty.emin]
      omega

omit ht in
/-- A magnitude far below the last place: only a mode that leads away from zero gives the least number. -/
theorem quantize_far {m : Nat} (hm : m ≠ 0) {mode u : Nat} (hu : u < 2 ^ 32) (neg : Bool) {e q : Int} {sh : Nat}
    (hsh : q - e = (sh + 32 : Nat))
    (hfar : m < 2 ^ sh) : quantize mode u neg ⟨m, e, false⟩ q =
      (if (mode = 2 ∧ neg = false) ∨ (mode = 3 ∧ neg = true) then 1 else 0, true) := by
  have pos : 0 < sh := Nat.pos_of_ne_zero fun h => by rw [h] at hfar; omega
  have below : m * 2 < 2 ^ (sh + 32) := by rw [pow_add]; omega
  have kept : m / 2 ^ (sh + 32) = 0 := Nat.div_eq_of_lt (by omega)
  have rem : m % 2 ^ (sh + 32) = m := Nat.mod_eq_of_lt (by omega)
  have shift : (q - e).toNat = sh + 32 := by omega
  rw [quantize, if_neg (by dsimp only; omega)]
  dsimp only
  rw [shift, kept, rem]
  have goes : goesUp mode u neg false 0 m (sh + 32) = decide ((mode = 2 ∧ neg = false) ∨ (mode = 3 ∧ neg = true)) := by
    match mode with
    | 0 =>
      simp [goesUp]
      omega
    | 1 => simp [goesUp]
    | 2 | 3 => cases neg <;> simp [goesUp, hm]
    | 4 =>
      simp [goesUp]
      omega
    | k + 5 =>
      have stays := goesUp_stochastic (mode := k + 5) (u := u) (rem := m) (by omega) neg false 0 (show sh + 32 ≠ 0 by omega)
      have digits : firstDigits m (sh + 32) = 0 := by
        rw [firstDigits, if_neg (by omega), Nat.add_sub_cancel, Nat.div_eq_of_lt hfar]
      rw [digits, Nat.zero_add] at stays
      rw [Bool.eq_iff_iff, stays]
      simp
      omega
  rw [goes, decide_eq_true hm]
  by_cases h : (mode = 2 ∧ neg = false) ∨ (mode = 3 ∧ neg = true) <;> simp [h]

/-- R251: an exponent out of the reach of a format may be clamped: the result is the same. -/
theorem roundFp_clamp (env : FpEnv) {mode u : Nat} (hu : u < 2 ^ 32) (sat neg : Bool) {m : Nat} {e : Int}
    (hm : m < 2 ^ (t.mbits + 1))
    (low : t.emin - t.mbits ≤ e) (high : e ≤ t.bias) (s : Int) :
    roundFp env t mode u sat neg ⟨m, e + max (-4000) (min 4000 s), false⟩ = roundFp env t mode u sat neg ⟨m, e + s, false⟩ := by
  obtain ⟨-, hmant⟩ := arith_types ht
  obtain ⟨notE8, -⟩ := mantissa_facts hmant
  obtain ⟨digits, bias, -, top⟩ := arith_sizes ht
  have signed : neg = true → t.signed = true := fun _ => (arith_signed ht).1
  by_cases hz : m = 0
  · subst hz
    rw [roundFp_zero notE8, roundFp_zero notE8]
  have log : m.log2 ≤ t.mbits := Nat.lt_succ_iff.mp ((Nat.log2_lt hz).mpr hm)
  rcases lt_or_ge 4000 s with hs | hs
  · have beyond : ∀ k : Int, 4000 ≤ k → roundFp env t mode u sat neg ⟨m, e + k, false⟩ =
        ⟨overflowCode t mode sat neg, fOverflow ||| fInexact⟩ := fun k hk => by
      have large : 2 * t.bias + 1 ≤ ((Mag.mk m (e + k) false).exp - t.emin).toNat := by simp only [Mag.exp, Ty.emin] at *; omega
      have code : t.maxCode < (Mag.mk m (e + k) false).code t mode u neg := by
        refine Nat.lt_of_lt_of_le ?_ (Nat.le_add_right _ _)
        rw [← Nat.div_lt_iff_lt_mul (Nat.two_pow_pos _), top]
        omega
      rw [roundFp_eq notE8 hz signed, if_pos code]
    rw [beyond _ (by omega), beyond _ hs.le]
  rcases lt_or_ge s (-4000) with hl | hl
  · have under : ∀ k : Int, k ≤ -4000 → roundFp env t mode u sat neg ⟨m, e + k, false⟩ =
        let c := if (mode = 2 ∧ neg = false) ∨ (mode = 3 ∧ neg = true) then 1 else 0
        if t.maxCode < c then ⟨overflowCode t mode sat neg, fOverflow ||| fInexact⟩
        else if env.ftz && t.flushes && true then ⟨t.signBit neg, fUnderflow ||| fInexact⟩
        else ⟨t.signBit neg + c, fInexact ||| fUnderflow⟩ := fun k hk => by
      have exp : (Mag.mk m (e + k) false).exp = e + k + m.log2 := rfl
      have far : (Mag.mk m (e + k) false).exp < t.emin - 1 := by rw [exp, Ty.emin]; omega
      have place : (Mag.mk m (e + k) false).place t = t.emin - t.mbits := by rw [Mag.place]; omega
      have quantized := quantize_far hz hu neg (mode := mode) (e := e + k) (q := t.emin - t.mbits)
        (sh := (t.emin - t.mbits - (e + k) - 32).toNat) (by rw [Ty.emin]; omega)
        (hm.trans_le (Nat.pow_le_pow_right two_pos (by rw [Ty.emin]; omega)))
      have code : (Mag.mk m (e + k) false).code t mode u neg = if (mode = 2 ∧ neg = false) ∨
        (mode = 3 ∧ neg = true) then 1 else 0 := by
        rw [Mag.code, place, quantized, Int.toNat_of_nonpos (by omega), Nat.zero_mul, Nat.zero_add]
      have tiny : isTiny env t mode u neg ⟨m, e + k, false⟩ = true := by
        have below : e + k + m.log2 < t.emin := by rw [← exp]; omega
        have other : ¬ e + k + m.log2 = t.emin - 1 := by rw [← exp]; omega
        rw [isTiny]
        simp [below, other]
      rw [roundFp_eq notE8 hz signed, code, place, quantized, tiny]
      rfl
    rw [under _ (by omega), under _ hl.le]
  · have within : max (-4000) (min 4000 s) = s := by omega
    rw [within]

end

theorem signedOf_eq_toInt (b : Nat) : signedOf 32 b = (BitVec.ofNat 32 b).toInt := by
  rw [signedOf, BitVec.toInt_eq_toNat_cond, BitVec.toNat_ofNat]
  have lt : b % 2 ^ 32 < 2 ^ 32 := Nat.mod_lt _ (by decide)
  split <;> split <;> omega

/-- R251: `fscale` of a number is rounded once. -/
theorem fpScale_result {t : Ty} (ht : t ∈ tysArith) {env : FpEnv} {mode u : Nat} (hu : u < 2 ^ 32) (sat : Bool) {a : Nat}
    (b : Nat)
    {m : Bool} {x : ℚ} (ha : t.number env.daz a = some (m, x)) :
    Result env t mode u sat m (x * (2 : ℝ) ^ (BitVec.ofNat 32 b).toInt) (fpScale env t mode u sat a b) := by
  obtain ⟨hs, -⟩ := arith_types ht
  obtain ⟨k, e, hv, rfl⟩ := source_fin hs ha
  obtain ⟨digits, low, high⟩ := fin_bounds ht hv
  rw [fpScale, hv]
  dsimp only
  rw [roundFp_clamp ht env hu sat m digits low high, signedOf_eq_toInt]
  have run := roundFp_fin_result (mode := mode) hs hu env sat m k (e + (BitVec.ofNat 32 b).toInt)
  rw [exact_val_real, zpow_add₀ two_ne_zero, ← mul_assoc, ← neg_mul] at run
  rw [exact_val_real]
  cases m with
  | false => exact run
  | true => exact run

/-! ### Quotients -/

/-- The quotient of two magnitudes has 66 digits or more. -/
theorem divMag_facts {m n : Nat} (hm : m ≠ 0) (hn : n ≠ 0) (e f : Int) :
    (divMag m e n f).Is ((m * 2 ^ e) / (n * 2 ^ f)) ∧ (divMag m e n f).m ≠ 0 ∧ 65 ≤ (divMag m e n f).m.log2 := by
  obtain ⟨k, hk⟩ : ∃ k, k = n.log2 + 66 - m.log2 := ⟨_, rfl⟩
  have quotient : (divMag m e n f) = ⟨m * 2 ^ k / n, e - f - k, decide (m * 2 ^ k % n ≠ 0)⟩ := by rw [hk]; rfl
  have pos : 0 < n := Nat.pos_of_ne_zero hn
  rw [quotient]
  have large : 2 ^ 65 ≤ m * 2 ^ k / n := by
    rw [Nat.le_div_iff_mul_le pos]
    calc 2 ^ 65 * n ≤ 2 ^ 65 * 2 ^ (n.log2 + 1) := Nat.mul_le_mul_left _ Nat.lt_log2_self.le
      _ = 2 ^ (n.log2 + 66) := by rw [← pow_add]; congr 1; omega
      _ ≤ 2 ^ (m.log2 + k) := Nat.pow_le_pow_right two_pos (by omega)
      _ ≤ m * 2 ^ k := by rw [pow_add]; exact Nat.mul_le_mul_right _ (Nat.log2_self_le hm)
  have nonzero : m * 2 ^ k / n ≠ 0 := (lt_of_lt_of_le (by decide) large).ne'
  refine ⟨⟨(m * 2 ^ k % n : Nat) / n, by positivity, ?_, ?_, ?_⟩, nonzero, (Nat.le_log2 nonzero).mpr large⟩
  · rw [div_lt_one (by exact_mod_cast pos)]
    exact_mod_cast Nat.mod_lt _ pos
  · rw [decide_eq_true_eq]
    constructor
    · intro h
      have : (0 : ℝ) < (m * 2 ^ k % n : Nat) := by exact_mod_cast Nat.pos_of_ne_zero h
      have : (0 : ℝ) < n := by exact_mod_cast pos
      positivity
    · intro h h0
      rw [h0, Nat.cast_zero, zero_div] at h
      exact absurd h (lt_irrefl 0)
  · have whole : ((m : ℝ) * 2 ^ k) = (m * 2 ^ k / n : Nat) * n + (m * 2 ^ k % n : Nat) := by
      exact_mod_cast (Nat.div_add_mod' (m * 2 ^ k) n).symm
    have posR : (n : ℝ) ≠ 0 := by exact_mod_cast hn
    have sum : ((m * 2 ^ k / n : Nat) : ℝ) + (m * 2 ^ k % n : Nat) / n = m * 2 ^ k / n := by
      rw [whole]; field_simp
    dsimp only
    rw [sum, zpow_sub₀ two_ne_zero, zpow_sub₀ two_ne_zero, zpow_natCast]
    field_simp

/-- Digits that are not exact reach far enough below the last place of a format. -/
theorem Mag.below_of_digits {x : Mag} {t : Ty} {mode : Nat} (h : t.mbits < x.m.log2)
    (hmode : mode ≤ 4 ∨ t.mbits + 32 ≤ x.m.log2) : x.Below mode (x.exp - t.mbits) := fun _ => by
  rw [Mag.exp]
  omega

theorem Result.any_state {env : FpEnv} {t : Ty} {mode u : Nat} {sat z : Bool} {x : ℝ} {r : FpRes} (hmode : mode ≤ 4)
    (h : Result env t mode u sat z x r) (u' : Nat) : Result env t mode u' sat z x r := by
  have tiny : ∀ neg (x : ℝ), Tiny env t mode u' neg x ↔ Tiny env t mode u neg x := fun neg x => by
    rw [Tiny, Tiny]
    split
    · rfl
    · exact exists_congr fun j => and_congr_left fun _ => ⟨fun h => h.any_state hmode u, fun h => h.any_state hmode u'⟩
  have rounded : ∀ neg (x : ℝ), Rounded env t mode u sat neg x r → Rounded env t mode u' sat neg x r := fun neg x h => by
    obtain ⟨c, code, kept, flushed, beyond, overflow, inexact, underflow⟩ := rounded_iff.mp h
    refine rounded_iff.mpr ⟨c, ⟨code.any_state hmode u', ?_, ?_, beyond, overflow, ?_, ?_⟩⟩ <;> rwa [tiny]
  exact ⟨fun hx => rounded false x (h.1 hx), fun hx => rounded true (-x) (h.2.1 hx), h.2.2⟩

/-- R121, R248: a quotient of numbers is rounded once. -/
theorem quotFp_result {t : Ty} (ht : t ∈ signedTypes) (env : FpEnv) {mode : Nat} (hmode : mode ≤ 4) (hfit : t.mbits ≤ 64)
    (u : Nat) (sat : Bool)
    (a b : Bool) (m n : Nat) (hn : n ≠ 0) (e f : Int) :
    Result env t mode u sat (a != b) (((FpVal.fin a m e).exact.val / (FpVal.fin b n f).exact.val : ℚ) : ℝ)
      (quotFp env t mode sat (.fin a m e) (.fin b n f)) := by
  obtain ⟨hmant, signed, -⟩ := signed_facts ht
  have value : (((FpVal.fin a m e).exact.val / (FpVal.fin b n f).exact.val : ℚ) : ℝ) =
      if (a != b) then -((m * 2 ^ e) / (n * 2 ^ f) : ℝ) else (m * 2 ^ e) / (n * 2 ^ f) := by
    rw [Rat.cast_div, exact_val_real, exact_val_real]
    cases a <;> cases b <;> simp [neg_div, div_neg]
  rw [value, quotFp]
  dsimp only [FpVal.neg]
  rw [if_neg hn]
  by_cases hm : m = 0
  · rw [if_pos hm, hm, Nat.cast_zero, zero_mul, zero_div, neg_zero, ite_self, signBit_eq fun _ => signed]
    exact ⟨fun h => absurd h (lt_irrefl 0), fun h => absurd h (lt_irrefl 0), fun _ => rfl⟩
  · rw [if_neg hm]
    obtain ⟨is, nonzero, digits⟩ := divMag_facts hm hn e f
    exact (roundFp_result hmant is nonzero (by decide) (Mag.below_of_digits (by omega) (.inl hmode))
      (fun _ => signed) env sat _).any_state
      hmode u

section
variable {t : Ty} (ht : t ∈ tysArith) {env : FpEnv} {mode : Nat} (hmode : mode ≤ 4) (u : Nat) {a b : Nat} {m n : Bool} {x y : ℚ}
include ht hmode

theorem fpDiv_result (sat : Bool) (ha : t.number env.daz a = some (m, x)) (hb : t.number env.daz b = some (n, y)) (hy : y ≠ 0) :
    Result env t mode u sat (m != n) ((x / y : ℚ) : ℝ) (fpDiv env t mode sat a b) := by
  obtain ⟨hs, -⟩ := arith_types ht
  obtain ⟨k, e, hv, rfl⟩ := source_fin hs ha
  obtain ⟨j, f, hw, rfl⟩ := source_fin hs hb
  have nonzero : j ≠ 0 := fun h => hy ((FpVal.exact_val_eq_zero n j f).mpr h)
  rw [fpDiv, hv, hw]
  exact quotFp_result hs env hmode ((arith_sizes ht).1.trans (by decide)) u sat m n k j nonzero e f

/-- R133: `rcp`. -/
theorem fpRcp_result (ha : t.number env.daz a = some (m, x)) (hx : x ≠ 0) :
    Result env t mode u false m ((1 / x : ℚ) : ℝ) (fpRcp env t mode a) := by
  obtain ⟨hs, -⟩ := arith_types ht
  obtain ⟨k, e, hv, rfl⟩ := source_fin hs ha
  have nonzero : k ≠ 0 := fun h => hx ((FpVal.exact_val_eq_zero m k e).mpr h)
  have run := quotFp_result hs env hmode ((arith_sizes ht).1.trans (by decide)) u false false m 1 k nonzero 0 e
  have one : (FpVal.fin false 1 0).exact.val = 1 := by simp [FpVal.exact_val]
  rw [one, Bool.false_bne] at run
  rw [fpRcp, hv]
  exact run

end

/-! ### Integers, minima and maxima -/

/-- An integer, rounded with its sign. -/
theorem roundFp_int_result {t : Ty} (ht : t ∈ signedTypes) (env : FpEnv) {mode u : Nat} (hu : u < 2 ^ 32) (sat : Bool)
    (v : Int) :
    Result env t mode u sat false (v : ℝ) (roundFp env t mode u sat (decide (v < 0)) ⟨v.natAbs, 0, false⟩) := by
  have run := roundExact_result (mode := mode) ht hu env sat false ⟨v, 0⟩
  have value : (Exact.mk v 0).val = v := by simp [Exact.val]
  have sign : (if v = 0 then false else decide (v < 0)) = decide (v < 0) := by
    split <;> simp_all
  rw [value, roundExact, sign] at run
  exact_mod_cast run

/-- R126: `i2f` rounds an integer once. -/
theorem intToFp_result {t : Ty} (ht : t ∈ signedTypes) (env : FpEnv) {mode u : Nat} (hu : u < 2 ^ 32) (s : Ty) (w : Nat) :
    Result env t mode u false false ((s.value w : Int) : ℝ) (intToFp env t s mode u w) :=
  roundFp_int_result ht env hu false (s.value w)

/-- R130: `fmin` and `fmax` of numbers give the lower or the higher one, −0 below +0. -/
theorem fpMinMax_number {t : Ty} (ht : t ∈ tysArith) {env : FpEnv} {a b : Nat} {m n : Bool} {x y : ℚ}
    (ha : t.number env.daz a = some (m, x)) (hb : t.number env.daz b = some (n, y)) (isMax : Bool) :
    t.number false (fpMinMax env t isMax false a b).bits =
      some (if (if isMax then numberKey (n, y) ≤ numberKey (m, x) else numberKey (m, x) ≤ numberKey (n, y)) then (m, x) else
        (n, y)) := by
  have hx := (number_source ht env a).symm.trans ha
  have hy := (number_source ht env b).symm.trans hb
  have order := FpVal.order_eq (x := fpVal t (env.source t a)) (y := fpVal t (env.source t b))
  rw [key_of_number hx, key_of_number hy] at order
  have numA := (number_fpVal ht (env.source t a)).trans hx
  have numB := (number_fpVal ht (env.source t b)).trans hy
  obtain ⟨k, e, hv, -⟩ := fin_of_number hx
  obtain ⟨j, f, hw, -⟩ := fin_of_number hy
  rw [hv, hw] at order
  rw [fpMinMax, hv, hw]
  simp only [FpVal.isNan, Bool.and_self, Bool.or_self, Bool.false_and, Bool.false_eq_true, if_false]
  rw [order rfl rfl]
  rcases lt_trichotomy (numberKey (m, x)) (numberKey (n, y)) with h | h | h
  · rw [compare_lt_iff_lt.mpr h]
    cases isMax <;> simp [h.le, not_le.mpr h, numA, numB]
  · rw [compare_eq_iff_eq.mpr h]
    cases isMax <;> simp [h, numA]
  · rw [compare_gt_iff_gt.mpr h]
    cases isMax <;> simp [h.le, not_le.mpr h, numA, numB]

end Sys2Proof
end


section
/-! PROOF. Roots (R133, R255): the integer square root, and the digits of a square root and of its reciprocal. -/

namespace Sys2Proof

theorem isqrtBits_spec (n r x : Nat) (low : r * r ≤ x) (high : x < (r + 2 ^ n) * (r + 2 ^ n)) :
    isqrtBits n r x * isqrtBits n r x ≤ x ∧ x < (isqrtBits n r x + 1) * (isqrtBits n r x + 1) := by
  induction n generalizing r with
  | zero => exact ⟨low, high⟩
  | succ n ih =>
    rw [isqrtBits]
    split
    case isTrue hle => exact ih _ hle (by rwa [Nat.add_assoc, ← Nat.two_mul, ← Nat.pow_succ'])
    case isFalse hlt => exact ih _ low (Nat.lt_of_not_le hlt)

theorem isqrt_spec (x : Nat) : isqrt x * isqrt x ≤ x ∧ x < (isqrt x + 1) * (isqrt x + 1) := by
  refine isqrtBits_spec _ 0 x (Nat.zero_le x) ?_
  rw [Nat.zero_add, ← Nat.pow_add]
  exact Nat.lt_log2_self.trans_le (Nat.pow_le_pow_right two_pos (by omega))

/-- A number whose square lies between those of two successive whole numbers. -/
theorem whole_part_of_squares {y : Nat} {s : ℝ} (hs : 0 ≤ s) (low : (y * y : ℝ) ≤ s * s) (high : s * s < (y + 1) * (y + 1)) :
    (y : ℝ) ≤ s ∧ s < y + 1 :=
  ⟨by nlinarith [(y.cast_nonneg : (0 : ℝ) ≤ y)], by nlinarith [(y.cast_nonneg : (0 : ℝ) ≤ y)]⟩

/-- A magnitude whose whole digits are those of `s`, and that is exact when `s` is whole. -/
theorem Mag.is_of_floor {y : Nat} {s : ℝ} (low : (y : ℝ) ≤ s) (high : s < y + 1) {sticky : Bool}
    (hst : sticky = true ↔ s ≠ y) (e : Int) :
    (Mag.mk y e sticky).Is (s * 2 ^ e) := by
  refine ⟨s - y, by linarith, by linarith, ?_, by ring⟩
  rw [hst]
  constructor
  · intro h
    exact sub_pos.mpr (lt_of_le_of_ne low h.symm)
  · intro h heq
    rw [heq, sub_self] at h
    exact absurd h (lt_irrefl 0)

theorem sqrtMag_facts {m : Nat} (hm : m ≠ 0) (e : Int) :
    (sqrtMag m e).Is (Real.sqrt (m * 2 ^ e)) ∧ (sqrtMag m e).m ≠ 0 ∧ 80 ≤ (sqrtMag m e).m.log2 := by
  obtain ⟨h, hh⟩ : ∃ h : Int, e - 160 - e % 2 = 2 * h := ⟨(e - 160 - e % 2) / 2, by omega⟩
  obtain ⟨n, hn⟩ : ∃ n : Nat, (e - (e - 160 - e % 2)).toNat = n := ⟨_, rfl⟩
  have exponent : e = n + 2 * h := by omega
  have digits : 160 ≤ n := by omega
  have half : (e - 160 - e % 2) / 2 = h := by omega
  have mag : sqrtMag m e = ⟨isqrt (m * 2 ^ n), h, decide (isqrt (m * 2 ^ n) * isqrt (m * 2 ^ n) ≠ m * 2 ^ n)⟩ := by
    rw [← hn, ← half]; rfl
  obtain ⟨low, high⟩ := isqrt_spec (m * 2 ^ n)
  have large : 2 ^ 80 ≤ isqrt (m * 2 ^ n) := by
    by_contra hlt
    have small : isqrt (m * 2 ^ n) + 1 ≤ 2 ^ 80 := Nat.lt_of_not_le hlt
    have square := Nat.mul_le_mul small small
    have enough : 2 ^ 80 * 2 ^ 80 ≤ m * 2 ^ n := by
      rw [← Nat.pow_add]
      exact (Nat.pow_le_pow_right two_pos digits).trans (Nat.le_mul_of_pos_left _ (Nat.pos_of_ne_zero hm))
    omega
  rw [mag]
  generalize isqrt (m * 2 ^ n) = y at *
  have nonzero : y ≠ 0 := (lt_of_lt_of_le (by decide) large).ne'
  have root : Real.sqrt (m * 2 ^ e) = Real.sqrt (m * 2 ^ n : Nat) * 2 ^ h := by
    have split : (m : ℝ) * 2 ^ e = (m * 2 ^ n : Nat) * (2 ^ h * 2 ^ h) := by
      rw [exponent, zpow_add₀ two_ne_zero, zpow_natCast, two_mul, zpow_add₀ two_ne_zero]; push_cast; ring
    rw [split, Real.sqrt_mul (Nat.cast_nonneg _), Real.sqrt_mul_self (by positivity)]
  have square : Real.sqrt (m * 2 ^ n : Nat) * Real.sqrt (m * 2 ^ n : Nat) = (m * 2 ^ n : Nat) :=
    Real.mul_self_sqrt (Nat.cast_nonneg _)
  have whole := whole_part_of_squares (y := y) (Real.sqrt_nonneg _) (by rw [square]; exact_mod_cast low)
    (by rw [square]; exact_mod_cast high)
  refine ⟨root ▸ Mag.is_of_floor whole.1 whole.2 ?_ h, nonzero, (Nat.le_log2 nonzero).mpr large⟩
  rw [decide_eq_true_eq, not_iff_not, Real.sqrt_eq_iff_mul_self_eq (Nat.cast_nonneg _) (Nat.cast_nonneg _), eq_comm]
  exact_mod_cast Iff.rfl

theorem rsqMag_facts {m : Nat} (hm : m ≠ 0) (e : Int) :
    (rsqMag m e).Is (1 / Real.sqrt (m * 2 ^ e)) ∧ (rsqMag m e).m ≠ 0 ∧ 100 ≤ (rsqMag m e).m.log2 := by
  obtain ⟨k, h, hk, value, mag⟩ : ∃ (k : Nat) (h : Int), k ≠ 0 ∧ (m * 2 ^ e : ℝ) = k * (2 ^ h * 2 ^ h) ∧
      rsqMag m e = ⟨isqrt (2 ^ (2 * (k.log2 + 140)) / k), -((k.log2 + 140 : Nat) : Int) - h,
        decide (isqrt (2 ^ (2 * (k.log2 + 140)) / k) * isqrt (2 ^ (2 * (k.log2 + 140)) / k) * k ≠
          2 ^ (2 * (k.log2 + 140)))⟩ := by
    rcases Int.emod_two_eq_zero_or_one e with he | he
    · refine ⟨m, e / 2, hm, ?_, ?_⟩
      · rw [← zpow_add₀ two_ne_zero]; congr 2; omega
      · rw [rsqMag, if_pos he]
    · refine ⟨m * 2, (e - 1) / 2, by omega, ?_, ?_⟩
      · have split : e = 1 + ((e - 1) / 2 + (e - 1) / 2) := by omega
        rw [← zpow_add₀ two_ne_zero]
        nth_rewrite 1 [split]
        rw [zpow_add₀ two_ne_zero, zpow_one]
        push_cast
        ring
      · rw [rsqMag, if_neg (by omega)]
  obtain ⟨n, hn⟩ : ∃ n, n = k.log2 + 140 := ⟨_, rfl⟩
  rw [← hn] at mag
  obtain ⟨low, high⟩ := isqrt_spec (2 ^ (2 * n) / k)
  have pos : 0 < k := Nat.pos_of_ne_zero hk
  rw [mag]
  generalize isqrt (2 ^ (2 * n) / k) = y at *
  have below : y * y * k ≤ 2 ^ (2 * n) := (Nat.le_div_iff_mul_le pos).mp low
  have above : 2 ^ (2 * n) < (y + 1) * (y + 1) * k := (Nat.div_lt_iff_lt_mul pos).mp high
  have large : 2 ^ 100 ≤ y := by
    by_contra hlt
    have small : y + 1 ≤ 2 ^ 100 := Nat.lt_of_not_le hlt
    have bound : (y + 1) * (y + 1) * k ≤ 2 ^ 100 * 2 ^ 100 * 2 ^ (k.log2 + 1) :=
      Nat.mul_le_mul (Nat.mul_le_mul small small) Nat.lt_log2_self.le
    rw [← Nat.pow_add, ← Nat.pow_add] at bound
    exact absurd (above.trans_le (bound.trans (Nat.pow_le_pow_right two_pos (by omega)))) (lt_irrefl _)
  have nonzero : y ≠ 0 := (lt_of_lt_of_le (by decide) large).ne'
  have posR : (0 : ℝ) < k := by exact_mod_cast pos
  have rootPos : 0 < Real.sqrt k := Real.sqrt_pos.mpr posR
  have square : (2 ^ n / Real.sqrt k) * (2 ^ n / Real.sqrt k) = (2 ^ (2 * n) : Nat) / k := by
    rw [div_mul_div_comm, Real.mul_self_sqrt posR.le, ← pow_add]; push_cast; congr 2; ring
  have whole := whole_part_of_squares (y := y) (s := 2 ^ n / Real.sqrt k) (by positivity)
    (by rw [square, le_div_iff₀ posR]; exact_mod_cast below) (by rw [square, div_lt_iff₀ posR]; exact_mod_cast above)
  have root : 1 / Real.sqrt (m * 2 ^ e) = 2 ^ n / Real.sqrt k * 2 ^ (-(n : Int) - h) := by
    rw [value, Real.sqrt_mul posR.le, Real.sqrt_mul_self (by positivity), zpow_sub₀ two_ne_zero, zpow_neg, zpow_natCast]
    field_simp
  refine ⟨root ▸ Mag.is_of_floor whole.1 whole.2 ?_ _, nonzero, (Nat.le_log2 nonzero).mpr large⟩
  rw [decide_eq_true_eq, not_iff_not]
  have same : 2 ^ n / Real.sqrt k = y ↔ (2 ^ (2 * n) : Nat) / (k : ℝ) = y * y := by
    rw [← square]
    exact (mul_self_inj (by positivity) (Nat.cast_nonneg y)).symm
  rw [same, div_eq_iff posR.ne', eq_comm]
  exact_mod_cast Iff.rfl

end Sys2Proof
end


section
/-! PROOF. The special functions where their results are exact, and rounding to integers (R126, R133, R251, R255). -/

namespace Sys2Proof

/-! ### Roots -/

section
variable {t : Ty} (ht : t ∈ tysArith) {env : FpEnv} {mode : Nat} (u : Nat) {a : Nat} {m : Bool} {x : ℚ}
  (ha : t.number env.daz a = some (m, x))
include ht

omit ht in
/-- The sign of a number that is not zero, and its magnitude. -/
theorem fin_of_pos {m : Bool} {k : Nat} {e : Int} (h : 0 < (FpVal.fin m k e).exact.val) :
    m = false ∧ k ≠ 0 ∧ ((FpVal.fin m k e).exact.val : ℝ) = k * 2 ^ e := by
  rw [exact_val_real]
  rw [FpVal.exact_val] at h
  have nonneg : (0 : ℚ) ≤ k * 2 ^ e := by positivity
  cases m with
  | true => simp only [if_true] at h; linarith
  | false =>
    refine ⟨rfl, ?_, rfl⟩
    rintro rfl
    simp at h

include ha

theorem fpSqrt_result (hmode : mode ≤ 4) (hx : 0 ≤ x) : Result env t mode u false m (Real.sqrt x) (fpSqrt env t mode a) := by
  obtain ⟨hs, hmant⟩ := arith_types ht
  obtain ⟨k, e, hv, rfl⟩ := source_fin hs ha
  rw [fpSqrt, hv]
  dsimp only
  rcases hx.eq_or_lt with h0 | hpos
  · have zero : k = 0 := (FpVal.exact_val_eq_zero m k e).mp h0.symm
    rw [← h0, if_pos zero, Rat.cast_zero, Real.sqrt_zero, signBit_eq fun _ => (arith_signed ht).1]
    exact ⟨fun h => absurd h (lt_irrefl 0), fun h => absurd h (lt_irrefl 0), fun _ => rfl⟩
  · obtain ⟨rfl, nonzero, value⟩ := fin_of_pos hpos
    obtain ⟨is, digits, places⟩ := sqrtMag_facts nonzero e
    have fits := (arith_sizes ht).1
    rw [if_neg nonzero, if_neg Bool.false_ne_true, value]
    exact (roundFp_result (u := 0) (neg := false) hmant is digits (by decide) (Mag.below_of_digits (by omega) (.inl hmode))
      nofun env false false).any_state hmode u

/-- R133: `rsq` before its rounding. -/
theorem fpRsq_eq (hx : 0 < x) : ∃ y : Mag,
    fpRsq env t mode a = roundBracket env t mode 1 (env.source t a) false y ∧ y.Is (1 / Real.sqrt x) ∧
    y.m ≠ 0 ∧ ∀ mode, mode ≤ 4 → y.Below mode (y.exp - t.mbits) := by
  obtain ⟨hs, -⟩ := arith_types ht
  obtain ⟨k, e, hv, rfl⟩ := source_fin hs ha
  obtain ⟨rfl, nonzero, value⟩ := fin_of_pos hx
  obtain ⟨is, digits, places⟩ := rsqMag_facts nonzero e
  have fits := (arith_sizes ht).1
  refine ⟨rsqMag k e, ?_, value ▸ is, digits, fun mode hmode => Mag.below_of_digits (by omega) (.inl hmode)⟩
  rw [fpRsq, hv]
  dsimp only
  rw [if_neg nonzero, if_neg Bool.false_ne_true]

theorem fpRsq_result (hmode : mode ≤ 4) (hx : 0 < x) (hf64 : t ≠ .f64) :
    Result env t mode u false m (1 / Real.sqrt x) (fpRsq env t mode a) := by
  obtain ⟨-, hmant⟩ := arith_types ht
  obtain ⟨y, run, is, digits, below⟩ := fpRsq_eq (mode := mode) ht ha hx
  have pos : 0 < 1 / Real.sqrt x := by
    have : (0 : ℝ) < x := by exact_mod_cast hx
    positivity
  rw [run, roundBracket, if_pos hf64]
  exact ((roundFp_result (neg := false) hmant is digits (by decide) (below mode hmode) nofun env false false).any_state
    hmode u).sign_of_zero fun h0 => absurd h0 pos.ne'

end

/-! ### Results that `.f64` brackets (R133) -/

/-- A result of `.f64` that the part brackets and that does not overflow is rounded up or down. -/
theorem roundBracket_f64 {env : FpEnv} {mode fn src : Nat} {x : Mag}
    (h : ∀ mode, mode ≤ 4 → (roundFp env .f64 mode 0 false false x).conds.testBit 2 = false) :
    ∃ mode', (mode' = 1 ∨ mode' = 2) ∧ roundBracket env .f64 mode fn src false x = roundFp env .f64 mode' 0 false false x := by
  have clear : ∀ mode, mode ≤ 4 → ¬ (roundFp env .f64 mode 0 false false x).conds &&& fOverflow ≠ 0 := fun mode hmode => by
    have bit := Nat.and_two_pow (roundFp env .f64 mode 0 false false x).conds 2
    rw [h mode hmode] at bit
    exact not_not.mpr bit
  rw [roundBracket, if_neg (by simp)]
  dsimp only
  cases Config.upperBracket (8 * fn + mode) (BitVec.ofNat 64 src) with
  | true => exact ⟨2, .inr rfl, if_neg (clear 2 (by decide))⟩
  | false => exact ⟨1, .inl rfl, if_neg (clear 1 (by decide))⟩

/-- Bits of a result with no sign that neither overflows nor is tiny. -/
theorem RoundedTo.bits_of_normal {env : FpEnv} {t : Ty} (ht : t ≠ .e8m0) {mode u : Nat} {sat neg : Bool} {x : ℝ} {r : FpRes}
    {c : Nat}
    (h : RoundedTo env t mode u sat neg x r c) (low : (t.grid (2 ^ t.mbits) : ℝ) ≤ x) (high : x ≤ t.grid t.maxCode) :
    r.bits = signOf t neg + c ∧ r.conds.testBit 2 = false ∧ c ≤ t.maxCode := by
  have fits := h.code.le (grid_strictMono t) high
  refine ⟨h.kept fits fun hf => absurd (tiny_lt ht hf.2.2) (not_lt.mpr low), ?_, fits⟩
  rw [Bool.eq_false_iff, ne_eq, h.overflow]
  exact Nat.not_lt.mpr fits

theorem f64_max : (2 : ℚ) ^ 1023 ≤ Ty.grid .f64 (Ty.maxCode .f64) := by
  have power := grid_power (t := .f64) (by decide) 2045
  have place : ((2045 : Nat) : Int) + Ty.emin .f64 = 1023 := rfl
  rw [place] at power
  rw [← zpow_natCast, show ((1023 : Nat) : Int) = 1023 from rfl, ← power]
  exact (grid_strictMono _).monotone (by decide)

theorem one_div_sqrt_bounds {x : ℝ} {a b : Int} (low : (2 : ℝ) ^ (2 * a) ≤ x) (high : x ≤ 2 ^ (2 * b)) :
    (2 : ℝ) ^ (-b) ≤ 1 / Real.sqrt x ∧ 1 / Real.sqrt x ≤ 2 ^ (-a) := by
  have square : ∀ c : Int, (2 : ℝ) ^ (2 * c) = (2 ^ c) ^ 2 := fun c => by rw [mul_comm, zpow_mul]; rfl
  have positive : ∀ c : Int, (0 : ℝ) < 2 ^ c := fun c => by positivity
  rw [square] at low high
  have rootLow : (2 : ℝ) ^ a ≤ Real.sqrt x := Real.le_sqrt_of_sq_le low
  have rootHigh : Real.sqrt x ≤ 2 ^ b := Real.sqrt_le_iff.mpr ⟨(positive b).le, high⟩
  have rootPos := (positive a).trans_le rootLow
  rw [zpow_neg, zpow_neg, ← one_div, ← one_div]
  exact ⟨one_div_le_one_div_of_le rootPos rootHigh, one_div_le_one_div_of_le (positive a) rootLow⟩

/-- R133: `rsq` in `.f64` is one of the two numbers that bracket the exact value. -/
theorem fpRsq_bracket {env : FpEnv} {mode a : Nat} {m : Bool} {x : ℚ} (ha : Ty.f64.number env.daz a = some (m, x))
    (hx : 0 < x) :
    ∃ k, (fpRsq env .f64 mode a).bits = k ∧ ((Ty.f64.grid k : ℝ) = 1 / Real.sqrt x ∨
      ∃ lo, (Ty.f64.grid lo : ℝ) < 1 / Real.sqrt x ∧ 1 / Real.sqrt x < Ty.f64.grid (lo + 1) ∧ (k = lo ∨ k = lo + 1)) := by
  have arith : Ty.f64 ∈ tysArith := by decide
  obtain ⟨hs, hmant⟩ := arith_types arith
  obtain ⟨y, run, is, digits, below⟩ := fpRsq_eq (mode := mode) arith ha hx
  have bounds : (2 : ℝ) ^ (2 * (-537) : Int) ≤ x ∧ (x : ℝ) ≤ 2 ^ (2 * 538 : Int) := by
    obtain ⟨k, e, hv, rfl⟩ := source_fin hs ha
    obtain ⟨rfl, nonzero, value⟩ := fin_of_pos hx
    obtain ⟨small, low, high⟩ := fin_bounds arith hv
    have floor : Ty.emin .f64 - Ty.mbits .f64 = -1074 := rfl
    have ceil : (Ty.bias .f64 : Int) = 1023 := rfl
    have most : (k : ℝ) ≤ 2 ^ (53 : Int) := by exact_mod_cast small.le
    have least : (1 : ℝ) ≤ k := by exact_mod_cast Nat.pos_of_ne_zero nonzero
    have pos : (0 : ℝ) < 2 ^ e := by positivity
    rw [value]
    constructor
    · calc (2 : ℝ) ^ (2 * (-537) : Int) ≤ 2 ^ e := zpow_le_zpow_right₀ one_le_two (by omega)
        _ ≤ k * 2 ^ e := le_mul_of_one_le_left pos.le least
    · calc (k : ℝ) * 2 ^ e ≤ 2 ^ (53 : Int) * 2 ^ e := mul_le_mul_of_nonneg_right most pos.le
        _ = 2 ^ (53 + e) := (zpow_add₀ two_ne_zero _ _).symm
        _ ≤ 2 ^ (2 * 538 : Int) := zpow_le_zpow_right₀ one_le_two (by omega)
  obtain ⟨low, high⟩ := one_div_sqrt_bounds bounds.1 bounds.2
  have normal : (Ty.f64.grid (2 ^ Ty.mbits .f64) : ℝ) ≤ 1 / Real.sqrt x := by
    rw [grid_normal (by decide)]
    push_cast
    exact (zpow_le_zpow_right₀ one_le_two (by decide)).trans low
  have finite : 1 / Real.sqrt x ≤ Ty.f64.grid (Ty.maxCode .f64) := by
    refine high.trans ((zpow_le_zpow_right₀ one_le_two (by decide : (-(-537) : Int) ≤ (1023 : Nat))).trans ?_)
    rw [zpow_natCast]
    exact_mod_cast f64_max
  have rounded : ∀ mode, mode ≤ 4 → ∃ c, RoundedTo env .f64 mode 0 false false (1 / Real.sqrt x)
    (roundFp env .f64 mode 0 false false y) c :=
    fun mode hmode => ⟨_, roundFp_roundedTo hmant is digits (by decide) (below mode hmode) env false nofun⟩
  have facts : ∀ {mode c}, RoundedTo env .f64 mode 0 false false (1 / Real.sqrt x)
    (roundFp env .f64 mode 0 false false y) c → _ :=
    fun h => h.bits_of_normal (by decide) normal finite
  obtain ⟨mode', hmode', bracket⟩ := roundBracket_f64 (env := env) (mode := mode) (fn := 1) (src := env.source .f64 a) (x := y)
    fun mode hmode => (facts (rounded mode hmode).choose_spec).2.1
  obtain ⟨c, h⟩ := rounded mode' (by omega)
  refine ⟨c, by rw [run, bracket, (facts h).1]; exact Nat.zero_add c, ?_⟩
  rcases roundsTo_iff.mp h.code with hc | ⟨lo, take⟩
  · exact .inl hc
  · exact .inr ⟨lo, take.1, take.2.1, take.either⟩

/-! ### Powers and logarithms (R255) -/

section
variable {t : Ty} (ht : t ∈ tysArith) {env : FpEnv} {mode : Nat} (u : Nat) {a : Nat} {m : Bool} {x : ℚ}
  (ha : t.number env.daz a = some (m, x))
include ht ha

/-- R255: `exp2` of an integer. -/
theorem fpExp2_eq {k : Int} (hx : x = k) : fpExp2 env t mode a =
    if t ≠ .f64 ∨ -1074 ≤ max (-4000) (min 4000 k) then roundFp env t mode 0 false false ⟨1, max (-4000) (min 4000 k), false⟩
    else roundBracket env t mode 3 (env.source t a) false ⟨1, max (-4000) (min 4000 k), false⟩ := by
  obtain ⟨hs, -⟩ := arith_types ht
  obtain ⟨j, e, hv, rfl⟩ := source_fin hs ha
  have whole : (if m then -((j * 2 ^ e.toNat : Nat) : Int) else (j * 2 ^ e.toNat : Nat)) = k * (2 ^ (-e).toNat : Nat) := by
    have split : (2 : ℚ) ^ e * 2 ^ (-e).toNat = 2 ^ e.toNat := by
      rw [← zpow_natCast, ← zpow_natCast, ← zpow_add₀ two_ne_zero]; congr 1; omega
    rw [FpVal.exact_val] at hx
    have scaled : (k : ℚ) * 2 ^ (-e).toNat = if m then -(j * 2 ^ e.toNat : ℚ) else j * 2 ^ e.toNat := by
      rw [← hx, ← split]; cases m <;> simp <;> ring
    have : (((if m then -((j * 2 ^ e.toNat : Nat) : Int) else (j * 2 ^ e.toNat : Nat)) : Int) : ℚ) =
      ((k * (2 ^ (-e).toNat : Nat) : Int) : ℚ) := by
      cases m <;> push_cast <;> simpa using scaled.symm
    exact_mod_cast this
  have pos : ((2 ^ (-e).toNat : Nat) : Int) ≠ 0 := by positivity
  rw [fpExp2, hv]
  dsimp only
  rw [whole, Int.mul_ediv_cancel _ pos, Int.mul_emod_left, Int.toNat_zero]
  by_cases h : t ≠ .f64 ∨ -1074 ≤ max (-4000) (min 4000 k)
  · rw [if_pos ⟨rfl, h⟩, if_pos h]
  · rw [if_neg fun hand => h hand.2, if_pos rfl, if_neg h]

theorem fpExp2_result (hmode : mode ≤ 4) {k : Int} (hx : x = k) (hk : t ≠ .f64 ∨ -1074 ≤ k) :
    Result env t mode u false false ((2 : ℝ) ^ k) (fpExp2 env t mode a) := by
  obtain ⟨-, hmant⟩ := arith_types ht
  obtain ⟨digits, -, bias, -⟩ := arith_sizes ht
  have clamped : t ≠ .f64 ∨ -1074 ≤ max (-4000) (min 4000 k) := hk.imp_right fun h => by omega
  have same := roundFp_clamp ht env (mode := mode) (u := 0) (by decide) false false (m := 1) (e := 0)
    (Nat.one_lt_two_pow (Nat.succ_ne_zero _)) (by rw [Ty.emin]; omega) (by omega) k
  rw [zero_add, zero_add] at same
  rw [fpExp2_eq ht ha hx, if_pos clamped, same]
  have run := roundFp_exact_result hmant (mode := mode) (u := 0) (by decide) (neg := false) nofun env false 1 k
  rw [if_neg Bool.false_ne_true, Nat.cast_one, one_mul] at run
  exact run.any_state hmode u

end

/-- R255: below the reach of `.f64`, `exp2` gives zero or the least number. -/
theorem fpExp2_bracket {env : FpEnv} {mode a : Nat} {m : Bool} {x : ℚ} (ha : Ty.f64.number env.daz a = some (m, x)) {k : Int}
    (hx : x = k) (hk : k < -1074) : (fpExp2 env .f64 mode a).bits ≤ 1 := by
  have arith : Ty.f64 ∈ tysArith := by decide
  obtain ⟨-, hmant⟩ := arith_types arith
  rw [fpExp2_eq arith ha hx, if_neg (by simp; omega)]
  obtain ⟨q, hq, hlow⟩ : ∃ q : Int, max (-4000) (min 4000 k) = q ∧ q < -1074 := ⟨_, rfl, by omega⟩
  rw [hq]
  have small : ∀ mode, ∃ c, c ≤ 1 ∧ RoundedTo env .f64 mode 0 false false (1 * 2 ^ q)
    (roundFp env .f64 mode 0 false false ⟨1, q, false⟩) c :=
    fun mode => by
      have h := roundFp_roundedTo (mode := mode) (u := 0) (neg := false) hmant (Mag.is_exact 1 q) one_ne_zero (by decide)
        (Mag.below_exact 1 q mode _) env false nofun
      rw [Nat.cast_one] at h
      refine ⟨_, h.code.le (grid_strictMono _) ?_, h⟩
      have least := grid_binade (t := .f64) (by decide) (n := 0) (k := 1) (.inl rfl) (by decide)
      rw [Nat.zero_mul, Nat.zero_add] at least
      rw [least, multiples_cast, Nat.cast_one, one_mul, one_mul]
      exact zpow_le_zpow_right₀ one_le_two (by simp only [Ty.emin, Ty.bias, Ty.mbits]; omega)
  have fits : ∀ {c}, c ≤ 1 → ¬ Ty.maxCode .f64 < c := fun hc => Nat.not_lt.mpr (hc.trans (by decide))
  obtain ⟨mode', -, bracket⟩ := roundBracket_f64 (env := env) (mode := mode) (fn := 3) (src := env.source .f64 a)
    (x := ⟨1, q, false⟩)
    fun mode _ => by
      obtain ⟨c, hc, h⟩ := small mode
      rw [Bool.eq_false_iff, ne_eq, h.overflow]
      exact fits hc
  obtain ⟨c, hc, h⟩ := small mode'
  rw [bracket]
  by_cases hf : env.ftz = true ∧ Ty.flushes .f64 = true ∧ Tiny env .f64 mode' 0 false (1 * 2 ^ q)
  · rw [h.flushed hf]; exact Nat.zero_le 1
  · rw [h.kept (not_lt.mp (fits hc)) hf]
    exact (Nat.zero_add c).trans_le hc

/-- R255: `log2` of a power of two. -/
theorem fpLog2_result {t : Ty} (ht : t ∈ tysArith) {env : FpEnv} {mode : Nat} (hmode : mode ≤ 4) (u : Nat) {a : Nat}
    {m : Bool} {x : ℚ}
    (ha : t.number env.daz a = some (m, x)) {k : Int} (hx : x = 2 ^ k) :
    Result env t mode u false false (k : ℝ) (fpLog2 env t mode a) := by
  obtain ⟨hs, -⟩ := arith_types ht
  obtain ⟨j, e, hv, rfl⟩ := source_fin hs ha
  obtain ⟨rfl, nonzero, -⟩ := fin_of_pos (hx ▸ (by positivity : (0 : ℚ) < 2 ^ k))
  rw [FpVal.exact_val, if_neg Bool.false_ne_true] at hx
  obtain ⟨low, high⟩ := magnitude_bounds nonzero e
  rw [hx] at low high
  have one : (1 : ℚ) < 2 := by norm_num
  have exponent : k = e + j.log2 := by
    have h1 := (zpow_le_zpow_iff_right₀ one).mp low
    have h2 := (zpow_lt_zpow_iff_right₀ one).mp high
    omega
  have power : j = 2 ^ j.log2 := by
    rw [exponent, add_comm e, zpow_add₀ two_ne_zero, zpow_natCast] at hx
    exact_mod_cast mul_right_cancel₀ (zpow_ne_zero e two_ne_zero) hx
  rw [fpLog2, hv]
  dsimp only
  rw [if_neg nonzero, if_neg Bool.false_ne_true, if_pos power, ← exponent]
  exact (roundFp_int_result hs env (by decide) false k).any_state hmode u

end Sys2Proof
end


section
/-! PROOF. Sine and cosine at half-integers, and rounding to integers (R126, R251, R255). -/

namespace Sys2Proof

/-! ### Numbers that a rounding keeps -/

theorem RoundedTo.number_of_exact {env : FpEnv} {t : Ty} (ht : t ∈ signedTypes) {mode u : Nat} {sat neg : Bool} {x : ℝ}
    {r : FpRes}
    {c k : Nat} (h : RoundedTo env t mode u sat neg x r c) (hk : k ≤ t.maxCode) (hx : (t.grid k : ℝ) = x)
    (hflush : ¬ (env.ftz = true ∧ t.flushes = true ∧ Tiny env t mode u neg x)) :
    t.number false r.bits = some (neg, if neg then -t.grid k else t.grid k) := by
  obtain rfl := h.code.exact (grid_strictMono t) hx
  rw [h.kept hk hflush, number_code ht neg hk]

/-! ### Quarter turns (R255) -/

/-- The sign that `trigMag` gives at `n` quarter turns, and the magnitude of the sine or cosine there. -/
def quarterNeg (n : Nat) : Bool := decide (2 ≤ n % 4)
def quarterMag (isSin : Bool) (n : Nat) : Nat := if isSin then n % 4 % 2 else 1 - n % 4 % 2

theorem trigMag_quarter (isSin : Bool) {m n : Nat} {e : Int} (h : 2 * (m * 2 ^ e.toNat) = n * 2 ^ (-e).toNat) :
    trigMag isSin m e = (quarterNeg n, ⟨quarterMag isSin n, 0, false⟩) := by
  have pos : 0 < 2 ^ (-e).toNat := Nat.two_pow_pos _
  have turns : 2 * (m * 2 ^ e.toNat % (2 * 2 ^ (-e).toNat)) = n % 4 * 2 ^ (-e).toNat := by
    rw [← Nat.mul_mod_mul_left, h, ← Nat.mul_assoc, ← Nat.mul_mod_mul_right]
  rw [trigMag]
  generalize m * 2 ^ e.toNat % (2 * 2 ^ (-e).toNat) = r at turns
  generalize 2 ^ (-e).toNat = d at pos turns
  rw [quarterNeg, quarterMag]
  have four : n % 4 < 4 := Nat.mod_lt _ (by decide)
  generalize n % 4 = q at turns four
  match q, four with
  | 0, _ =>
    obtain rfl : r = 0 := by omega
    cases isSin <;> simp [pos.ne']
  | 1, _ =>
    obtain rfl : d = 2 * r := by omega
    have notMore : ¬ 2 * r ≤ r := by omega
    have within : r % (2 * r) = r := Nat.mod_eq_of_lt (by omega)
    have nonzero : r ≠ 0 := by omega
    cases isSin <;> simp [notMore, within, nonzero]
  | 2, _ =>
    obtain rfl : r = d := by omega
    cases isSin <;> simp
  | 3, _ =>
    obtain ⟨s, rfl⟩ : ∃ s, d = 2 * s := ⟨r - d, by omega⟩
    obtain rfl : r = s + 2 * s := by omega
    have within : (s + 2 * s) % (2 * s) = s := by rw [Nat.add_mod_right, Nat.mod_eq_of_lt (by omega)]
    have nonzero : s ≠ 0 := by omega
    cases isSin <;> simp [within, nonzero]

/-- Sine and cosine at `n` quarter turns. -/
theorem quarter_values (n : Nat) :
    Real.sin (Real.pi * (n / 2)) = (if quarterNeg n then -(quarterMag true n : ℝ) else quarterMag true n) ∧
    Real.cos (Real.pi * (n / 2)) = (if quarterNeg n then -(quarterMag false n : ℝ) else quarterMag false n) := by
  have split : Real.pi * (n / 2) = (n % 4 : Nat) * (Real.pi / 2) + (n / 4 : Nat) * (2 * Real.pi) := by
    have : (n : ℝ) = (n / 4 : Nat) * 4 + (n % 4 : Nat) := by exact_mod_cast (Nat.div_add_mod' n 4).symm
    rw [this]; ring
  rw [split, Real.sin_add_nat_mul_two_pi, Real.cos_add_nat_mul_two_pi, quarterNeg, quarterMag, quarterMag]
  have four : n % 4 < 4 := Nat.mod_lt _ (by decide)
  generalize n % 4 = q at four
  match q, four with
  | 0, _ => simp
  | 1, _ => simp
  | 2, _ =>
    have : ((2 : Nat) : ℝ) * (Real.pi / 2) = Real.pi := by push_cast; ring
    rw [this]; simp
  | 3, _ =>
    have : ((3 : Nat) : ℝ) * (Real.pi / 2) = Real.pi / 2 + Real.pi := by push_cast; ring
    rw [this, Real.sin_add_pi, Real.cos_add_pi]; simp

/-- An exact 1 is the same whatever the mode, so that a bracket of it is it. -/
theorem roundBracket_one {t : Ty} (ht : t ∈ tysArith) (env : FpEnv) (mode fn src : Nat) (neg : Bool) :
    roundBracket env t mode fn src neg ⟨1, 0, false⟩ = roundFp env t mode 0 false neg ⟨1, 0, false⟩ := by
  obtain ⟨-, hmant⟩ := arith_types ht
  obtain ⟨digits, -, bias, top⟩ := arith_sizes ht
  have exp : (Mag.mk 1 0 false).exp = 0 := rfl
  have same : ∀ mode, roundFp env t mode 0 false neg ⟨1, 0, false⟩ =
      ⟨t.signBit neg + (t.bias * 2 ^ t.mbits), 0⟩ := fun mode => by
    have place : (Mag.mk 1 0 false).place t = -t.mbits := by rw [Mag.place, exp, Ty.emin]; omega
    have quantized := quantize_whole (x := ⟨1, 0, false⟩) (q := -t.mbits) (by dsimp only; omega) rfl mode 0 neg
    have code : (Mag.mk 1 0 false).code t mode 0 neg = t.bias * 2 ^ t.mbits := by
      have least : (0 - t.emin).toNat = t.bias - 1 := by rw [Ty.emin]; omega
      obtain ⟨b, hb⟩ : ∃ b, t.bias = b + 1 := ⟨t.bias - 1, by omega⟩
      rw [Mag.code, place, quantized, exp, least, hb]
      simp [Nat.add_mul]
    have fits : ¬ t.maxCode < t.bias * 2 ^ t.mbits := by
      rw [not_lt, ← Nat.le_div_iff_mul_le (Nat.two_pow_pos _), top]; omega
    have normal : isTiny env t mode 0 neg ⟨1, 0, false⟩ = false := by
      have : ¬ (0 : Int) < t.emin := by rw [Ty.emin]; omega
      simp [isTiny, this, Nat.log2]
    rw [roundFp_eq (mantissa_facts hmant).1 one_ne_zero (fun _ => (arith_signed ht).1), code, place, quantized, normal,
      if_neg fits]
    simp
  rw [roundBracket]
  simp only [same]
  split
  · rfl
  · rfl

section
variable {t : Ty} (ht : t ∈ tysArith) {env : FpEnv} {mode : Nat} (hmode : mode ≤ 4) (u : Nat) {a : Nat} {m : Bool} {x : ℚ}
  (ha : t.number env.daz a = some (m, x))
include ht hmode ha

/-- R255: `sinpi` and `cospi` at integers and half-integers. -/
theorem fpTrig_result {k : Int} (hx : 2 * x = k) : Result env t mode u false m (Real.sin (Real.pi * x))
    (fpTrig env t true mode a) ∧
    Result env t mode u false false (Real.cos (Real.pi * x)) (fpTrig env t false mode a) := by
  obtain ⟨hs, hmant⟩ := arith_types ht
  obtain ⟨j, e, hv, rfl⟩ := source_fin hs ha
  obtain ⟨n, hn⟩ : ∃ n : Nat, 2 * (j * 2 ^ e : ℚ) = n := by
    rw [FpVal.exact_val] at hx
    refine ⟨k.natAbs, ?_⟩
    have nonneg : (0 : ℚ) ≤ 2 * (j * 2 ^ e) := by positivity
    rw [Nat.cast_natAbs, Int.cast_abs, ← hx]
    cases m
    · rw [if_neg Bool.false_ne_true, abs_of_nonneg nonneg]
    · rw [if_pos rfl, mul_neg, abs_neg, abs_of_nonneg nonneg]
  have turns : 2 * (j * 2 ^ e.toNat) = n * 2 ^ (-e).toNat := by
    have split : (2 : ℚ) ^ e * 2 ^ (-e).toNat = 2 ^ e.toNat := by
      rw [← zpow_natCast, ← zpow_natCast, ← zpow_add₀ two_ne_zero]; congr 1; omega
    have : (2 * (j * 2 ^ e.toNat) : ℚ) = n * 2 ^ (-e).toNat := by rw [← hn, ← split]; ring
    exact_mod_cast this
  have half : (j * 2 ^ e : ℝ) = n / 2 := by
    have : ((2 * (j * 2 ^ e) : ℚ) : ℝ) = (n : ℚ) := congrArg _ hn
    push_cast at this
    linarith
  obtain ⟨sine, cosine⟩ := quarter_values n
  have run : ∀ isSin, fpTrig env t isSin mode a = if quarterMag isSin n = 0 then ⟨if isSin then t.signBit m else 0, 0⟩
      else roundBracket env t mode (if isSin then 5 else 6) (env.source t a) (quarterNeg n != (isSin && m))
        ⟨quarterMag isSin n, 0, false⟩ :=
    fun isSin => by rw [fpTrig, hv]; dsimp only; rw [trigMag_quarter isSin turns]
  have zero : ∀ z, Result env t mode u false z 0 ⟨signOf t z, 0⟩ := fun z =>
    ⟨fun h => absurd h (lt_irrefl 0), fun h => absurd h (lt_irrefl 0), fun _ => rfl⟩
  have one : ∀ neg z fn src, Result env t mode u false z (if neg then -1 else 1)
      (roundBracket env t mode fn src neg ⟨1, 0, false⟩) := fun neg z fn src => by
    have h := (roundFp_exact_result hmant (mode := mode) (u := 0) (by decide) (neg := neg)
      (fun _ => (arith_signed ht).1) env false 1 0).any_state
      hmode u
    rw [zpow_zero, mul_one, Nat.cast_one] at h
    rw [roundBracket_one ht]
    exact h.sign_of_zero fun h0 => by cases neg <;> norm_num at h0
  have binary : ∀ isSin, quarterMag isSin n = 0 ∨ quarterMag isSin n = 1 := fun isSin => by
    rw [quarterMag]; split <;> omega
  constructor
  · have value : Real.sin (Real.pi * ((FpVal.fin m j e).exact.val : ℝ)) =
        if (quarterNeg n != m) then -(quarterMag true n : ℝ) else quarterMag true n := by
      rw [exact_val_real, half]
      cases m
      · rw [if_neg Bool.false_ne_true, sine]; simp
      · rw [if_pos rfl, mul_neg, Real.sin_neg, sine]; cases quarterNeg n <;> simp
    rw [value, run]
    rcases binary true with h | h
    · rw [h, if_pos rfl, if_pos rfl, Nat.cast_zero, neg_zero, ite_self, signBit_eq fun _ => (arith_signed ht).1]
      exact zero m
    · rw [h, if_neg one_ne_zero, Nat.cast_one, Bool.true_and]
      exact one _ m _ _
  · have value : Real.cos (Real.pi * ((FpVal.fin m j e).exact.val : ℝ)) =
        if quarterNeg n then -(quarterMag false n : ℝ) else quarterMag false n := by
      rw [exact_val_real, half, ← cosine]
      cases m
      · rw [if_neg Bool.false_ne_true]
      · rw [if_pos rfl, mul_neg, Real.cos_neg]
    rw [value, run]
    rcases binary false with h | h
    · rw [h, if_pos rfl, if_neg Bool.false_ne_true, Nat.cast_zero, neg_zero, ite_self]
      exact zero false
    · rw [h, if_neg one_ne_zero, Nat.cast_one, Bool.false_and, Bool.bne_false]
      exact one _ false _ _

omit hmode ha in
/-- R251: the whole numbers up to 2^`mbits` are numbers of the format. -/
theorem whole_code {k : Nat} (hk : k ≠ 0) (hle : k ≤ 2 ^ t.mbits) : ∃ c, c ≤ t.maxCode ∧ t.grid c = k := by
  obtain ⟨-, hmant⟩ := arith_types ht
  obtain ⟨-, -, wide, top⟩ := arith_sizes ht
  have log : k.log2 ≤ t.mbits := by
    have := (Nat.log2_lt hk).mpr (hle.trans_lt (Nat.pow_lt_pow_right one_lt_two t.mbits.lt_succ_self))
    omega
  obtain ⟨n, hn⟩ : ∃ n : Nat, n + t.emin = k.log2 := ⟨(k.log2 - t.emin).toNat, by rw [Ty.emin]; omega⟩
  have low : 2 ^ t.mbits ≤ k * 2 ^ (t.mbits - k.log2) := by
    calc 2 ^ t.mbits = 2 ^ k.log2 * 2 ^ (t.mbits - k.log2) := by rw [← pow_add]; congr 1; omega
      _ ≤ _ := Nat.mul_le_mul_right _ (Nat.log2_self_le hk)
  have high : k * 2 ^ (t.mbits - k.log2) ≤ 2 * 2 ^ t.mbits := by
    calc k * 2 ^ (t.mbits - k.log2) ≤ 2 ^ (k.log2 + 1) * 2 ^ (t.mbits - k.log2) := Nat.mul_le_mul_right _ Nat.lt_log2_self.le
      _ = 2 * 2 ^ t.mbits := by rw [← pow_add, ← pow_succ']; congr 1; omega
  refine ⟨n * 2 ^ t.mbits + k * 2 ^ (t.mbits - k.log2), ?_, ?_⟩
  · have room : n + 2 ≤ t.maxCode / 2 ^ t.mbits := by
      rw [top]
      have := arith_room ht
      rw [Ty.emin] at hn
      omega
    have := (Nat.le_div_iff_mul_le (Nat.two_pow_pos _)).mp room
    rw [Nat.add_mul] at this
    omega
  · rw [grid_binade (mantissa_facts hmant).1 (.inr low) high, multiples, hn]
    push_cast
    rw [mul_assoc, ← zpow_natCast, ← zpow_add₀ two_ne_zero]
    have whole : ((t.mbits - k.log2 : Nat) : Int) + (k.log2 - t.mbits) = 0 := by omega
    rw [whole, zpow_zero, mul_one]

omit hmode in
/-- R126, R251: `frnd` and `f2i` round to the same integer. -/
theorem fpRnd_result : ∃ k : Nat, RoundsTo (fun j => (j : ℚ)) mode 0 m |(x : ℝ)| k ∧
    t.number false (fpRnd env t mode a).bits = some (m, if m then -(k : ℚ) else k) ∧
    ∀ d : Ty, d.isInt = true → (fpToInt env d t mode a).bits =
      wrapTo d.bits (max d.minInt (min d.maxInt (if m then -(k : Int) else k))) := by
  obtain ⟨hs, hmant⟩ := arith_types ht
  obtain ⟨notE8, -, -⟩ := mantissa_facts hmant
  have source := (number_source ht env a).symm.trans ha
  obtain ⟨j, e, hv, rfl⟩ := fin_of_number source
  obtain ⟨small, -, -⟩ := fin_bounds ht hv
  obtain ⟨k, hk⟩ : ∃ k, (quantize mode 0 m ⟨j, e, false⟩ 0).1 = k := ⟨_, rfl⟩
  have integers : (fun j : Nat => (j : ℚ)) = multiples 0 := by funext j; rw [multiples, zpow_zero, mul_one]
  have mono := multiples_strictMono 0
  have mag : |((FpVal.fin m j e).exact.val : ℝ)| = j * 2 ^ e := by
    have nonneg : (0 : ℝ) ≤ j * 2 ^ e := by positivity
    rw [exact_val_real]
    cases m
    · exact abs_of_nonneg nonneg
    · rw [if_pos rfl, abs_neg, abs_of_nonneg nonneg]
  have rounds := quantize_roundsTo (mode := mode) (u := 0) (q := 0) (Mag.is_exact j e) (by decide)
    (Mag.below_exact j e mode 0) m
  rw [hk] at rounds
  refine ⟨k, by rwa [mag, integers], ?_, fun d _ => by rw [fpToInt, hv, ← hk]; rfl⟩
  rw [fpRnd, hv]
  dsimp only
  by_cases whole : e ≥ 0 ∨ j = 0
  · rw [if_pos whole, number_fpVal ht, source]
    have value : (j * 2 ^ e : ℚ) = (j * 2 ^ e.toNat : Nat) := by
      rcases whole with h | rfl
      · obtain ⟨n, rfl⟩ := Int.eq_ofNat_of_zero_le h
        push_cast
        rw [zpow_natCast, Int.toNat_natCast]
      · simp
    have same : k = j * 2 ^ e.toNat := rounds.exact mono (by
      rw [multiples_cast, zpow_zero, mul_one, ← Rat.cast_natCast, ← value]; push_cast; rfl)
    rw [FpVal.exact_val, value, same]
  · obtain ⟨hneg, hj⟩ := not_or.mp whole
    have le : k ≤ 2 ^ t.mbits := rounds.le mono (by
      rw [multiples_cast, zpow_zero, mul_one]
      have digits : (j : ℝ) ≤ 2 * (2 ^ t.mbits : Nat) := by
        have : j ≤ 2 * 2 ^ t.mbits := by rw [← pow_succ']; exact small.le
        exact_mod_cast this
      have unit : (2 : ℝ) ^ e ≤ 2⁻¹ := by
        rw [← zpow_neg_one]; exact zpow_le_zpow_right₀ one_le_two (by omega)
      calc (j : ℝ) * 2 ^ e ≤ 2 * (2 ^ t.mbits : Nat) * 2⁻¹ := mul_le_mul digits unit (by positivity) (by positivity)
        _ = (2 ^ t.mbits : Nat) := by ring)
    rw [if_neg whole, hk]
    by_cases hz : k = 0
    · have code := number_code hs m (Nat.zero_le t.maxCode)
      rw [hz, roundFp_zero notE8, signBit_eq fun _ => (arith_signed ht).1]
      rwa [grid_zero notE8] at code
    · obtain ⟨c, hc, grid⟩ := whole_code ht hz le
      have value : (t.grid c : ℝ) = k * 2 ^ (0 : Int) := by rw [grid, zpow_zero, mul_one]; push_cast; rfl
      have h := roundFp_roundedTo (mode := mode) (u := 0) (neg := m) hmant (Mag.is_exact k 0) hz (by decide)
        (Mag.below_exact k 0 mode _)
        env false fun _ => (arith_signed ht).1
      rw [h.number_of_exact hs hc value fun hf => ?_, grid]
      have below := tiny_lt notE8 hf.2.2
      rw [grid_normal notE8, zpow_zero, mul_one] at below
      have one : (1 : ℝ) ≤ k := by exact_mod_cast Nat.pos_of_ne_zero hz
      have least : (((2 : ℚ) ^ t.emin : ℚ) : ℝ) ≤ 1 := by
        push_cast
        exact zpow_le_one_of_nonpos₀ one_le_two (by have := (arith_sizes ht).2.2.1; rw [Ty.emin]; omega)
      linarith

end

end Sys2Proof
end


section
/-! PROOF. Rounding to `.e8m0` (R125, R128), and correct rounding (O11). -/

namespace Sys2Proof

/-! ### Scales (R125) -/

theorem grid_e8m0 (c : Nat) : Ty.e8m0.grid c = 2 ^ ((c : Int) - 127) := by rw [Ty.grid, if_pos rfl]

/-- R125: by how much the exponent of an exact magnitude goes up. -/
def scaleStep (mode u m : Nat) (e : Int) : Int :=
  if mode = 0 ∧ 2 * (m % 2 ^ m.log2) = 2 ^ m.log2 then (e + m.log2 + 127) % 2
  else (quantize mode u false ⟨m, e, false⟩ (e + m.log2)).1 - 1

/-- What `roundE8m0` does of an exact magnitude from 2^−127 on. -/
theorem roundE8m0_eq (env : FpEnv) {m : Nat} (hm : m ≠ 0) {e : Int} (mode u : Nat) (low : -127 ≤ e + m.log2)
    (up : -127 ≤ e + m.log2 + scaleStep mode u m e) : roundE8m0 env mode u false ⟨m, e, false⟩ =
      if e + m.log2 + scaleStep mode u m e > 127 then ⟨0xFE, fOverflow ||| fInexact⟩
      else ⟨(e + m.log2 + scaleStep mode u m e + 127).toNat,
        if (quantize mode u false ⟨m, e, false⟩ (e + m.log2)).2 then fInexact else 0⟩ := by
  have normal : ¬ e + m.log2 < -127 := not_lt.mpr low
  have step : (if decide (mode = 0) && decide (2 * (m % 2 ^ m.log2) = 2 ^ m.log2) && !false then (e + m.log2 + 127) % 2
      else ((quantize mode u false ⟨m, e, false⟩ (e + m.log2)).1 : Int) - 1) = scaleStep mode u m e := by
    simp [scaleStep]
  rw [roundE8m0, if_neg (by simp [hm])]
  dsimp only
  rw [step, if_neg (not_lt.mpr up)]
  simp [normal]

section
variable {m : Nat} (hm : m ≠ 0) {e : Int} {mode u : Nat} (hu : u < 2 ^ 32) {n : Nat} (hn : e + m.log2 + 127 = n)
include hm hu hn

/-- R125: the code goes up as rounding among the powers of two does. -/
theorem scaleStep_roundsTo : ∃ up : Nat, scaleStep mode u m e = up ∧ RoundsTo Ty.e8m0.grid mode u false (m * 2 ^ e) (n + up) ∧
    ((quantize mode u false ⟨m, e, false⟩ (e + m.log2)).2 = true ↔ (Ty.e8m0.grid (n + up) : ℝ) ≠ m * 2 ^ e) := by
  have power : ∀ j : Nat, (Ty.e8m0.grid (n + j) : ℝ) = 2 ^ j * 2 ^ (e + m.log2) := fun j => by
    rw [grid_e8m0]
    push_cast
    rw [← zpow_natCast, ← zpow_add₀ two_ne_zero]
    congr 1
    omega
  have here : (Ty.e8m0.grid n : ℝ) = 2 ^ (e + m.log2) := by have := power 0; rwa [pow_zero, one_mul] at this
  have unit : (0 : ℝ) < 2 ^ (e + m.log2) := by positivity
  obtain ⟨rem, hrem⟩ : ∃ rem, m % 2 ^ m.log2 = rem := ⟨_, rfl⟩
  have whole : m = 2 ^ m.log2 + rem := by
    have one : m / 2 ^ m.log2 = 1 := Nat.div_eq_of_lt_le (by rw [one_mul]; exact Nat.log2_self_le hm)
      (by rw [← pow_succ']; exact Nat.lt_log2_self)
    have := Nat.div_add_mod' m (2 ^ m.log2)
    rw [one, hrem] at this
    omega
  have value : (m * 2 ^ e : ℝ) = (1 + rem / 2 ^ m.log2) * 2 ^ (e + m.log2) := by
    have cast : (m : ℝ) = 2 ^ m.log2 + rem := by exact_mod_cast whole
    rw [zpow_add₀ two_ne_zero, zpow_natCast]
    nth_rewrite 1 [cast]
    field_simp
  have mono := multiples_strictMono (e + m.log2)
  obtain ⟨low, high⟩ := (Mag.is_exact m e).bounds hm
  have least : (multiples (e + m.log2) 1 : ℝ) ≤ m * 2 ^ e := by rw [multiples_cast, Nat.cast_one, one_mul]; exact low
  have most : (m * 2 ^ e : ℝ) < multiples (e + m.log2) 2 := by
    rw [multiples_cast, Nat.cast_two, ← zpow_one_add₀ two_ne_zero, add_comm]; exact high
  have scale : (0 : ℝ) < 2 ^ m.log2 := by positivity
  have next : (Ty.e8m0.grid (n + 1) : ℝ) = 2 * 2 ^ (e + m.log2) := by have := power 1; rwa [pow_one] at this
  have part : (m * 2 ^ e - (Ty.e8m0.grid n : ℝ)) / (Ty.e8m0.grid (n + 1) - Ty.e8m0.grid n) = rem / 2 ^ m.log2 := by
    rw [here, next, value]; field_simp; ring
  rw [scaleStep, hrem]
  rcases quantize_cases (mode := mode) (q := e + m.log2) (Mag.is_exact m e) hu (Mag.below_exact m e mode _) false with
    ⟨exact, hv⟩ | ⟨inexact, lo, take⟩
  · have one : (quantize mode u false ⟨m, e, false⟩ (e + m.log2)).1 = 1 := by
      have ge := mono.le_iff_le.mp (Rat.cast_le.mp (least.trans_eq hv.symm))
      have lt := mono.lt_iff_lt.mp (Rat.cast_lt.mp (hv.trans_lt most))
      omega
    rw [one, multiples_cast, Nat.cast_one, one_mul] at hv
    have none : rem = 0 := by
      rw [value, eq_comm, mul_eq_right₀ unit.ne', add_eq_left, div_eq_zero_iff] at hv
      exact_mod_cast hv.resolve_right scale.ne'
    have noTie : ¬ (mode = 0 ∧ 2 * rem = 2 ^ m.log2) := fun h => by
      have := Nat.two_pow_pos m.log2
      omega
    rw [if_neg noTie, one, exact]
    exact ⟨0, rfl, .inl (here.trans hv), by simp [here, hv]⟩
  · obtain rfl : lo = 1 := by
      have ge := mono.lt_iff_lt.mp (Rat.cast_lt.mp (least.trans_lt take.2.1))
      have lt := mono.lt_iff_lt.mp (Rat.cast_lt.mp (take.1.trans most))
      omega
    obtain ⟨low, high, up, down⟩ := take
    have way : (m * 2 ^ e - (multiples (e + m.log2) 1 : ℝ)) / (multiples (e + m.log2) (1 + 1) - multiples (e + m.log2) 1) =
        rem / 2 ^ m.log2 := by
      rw [multiples_cast, multiples_cast, value]; push_cast; field_simp; ring
    rw [way] at up down
    have neighbour : ∀ j, (RoundsUp mode u false n (rem / 2 ^ m.log2) → j = 1) →
      (¬ RoundsUp mode u false n (rem / 2 ^ m.log2) → j = 0) →
        TakesNeighbour Ty.e8m0.grid mode u false (m * 2 ^ e) (n + j) n := fun j hup hdown =>
      ⟨by rw [here]; rwa [multiples_cast, Nat.cast_one, one_mul] at low,
        by rw [next]; rwa [multiples_cast, Nat.cast_add, Nat.cast_one, one_add_one_eq_two] at high,
        fun h => by rw [part] at h; rw [hup h], fun h => by rw [part] at h; rw [hdown h, Nat.add_zero]⟩
    have done : ∀ j, TakesNeighbour Ty.e8m0.grid mode u false (m * 2 ^ e) (n + j) n →
      RoundsTo Ty.e8m0.grid mode u false (m * 2 ^ e) (n + j) ∧
        ((quantize mode u false ⟨m, e, false⟩ (e + m.log2)).2 = true ↔ (Ty.e8m0.grid (n + j) : ℝ) ≠ m * 2 ^ e) := fun j h =>
      ⟨.inr ⟨n, h⟩, iff_of_true inexact (h.not_exact (grid_strictMono _))⟩
    by_cases tie : mode = 0 ∧ 2 * rem = 2 ^ m.log2
    · obtain ⟨rfl, hmid⟩ := tie
      have middle : (rem / 2 ^ m.log2 : ℝ) = 1 / 2 := by
        have : (2 * rem : ℝ) = 2 ^ m.log2 := by exact_mod_cast hmid
        rw [← this, div_eq_div_iff (by rw [this]; exact scale.ne') two_ne_zero]; ring
      rw [if_pos ⟨rfl, hmid⟩, hn]
      refine ⟨n % 2, rfl, done _ (neighbour _ (fun h => ?_) fun h => ?_)⟩
      · rw [middle] at h
        exact (h.resolve_left (lt_irrefl _)).2
      · rw [middle] at h
        exact Nat.mod_two_ne_one.mp fun hodd => h (.inr ⟨rfl, hodd⟩)
    · rw [if_neg tie]
      have same : RoundsUp mode u false n (rem / 2 ^ m.log2) ↔ RoundsUp mode u false 1 (rem / 2 ^ m.log2) := by
        match mode with
        | 0 =>
          have middle : ¬ (rem / 2 ^ m.log2 : ℝ) = 1 / 2 := fun h => tie ⟨rfl, by
            rw [div_eq_div_iff scale.ne' two_ne_zero] at h
            have : (2 * rem : ℝ) = 2 ^ m.log2 := by linarith
            exact_mod_cast this⟩
          simp only [RoundsUp, middle, false_and]
        | 1 | 2 | 3 | 4 | k + 5 => exact Iff.rfl
      have either : (quantize mode u false ⟨m, e, false⟩ (e + m.log2)).1 = 1 ∨
        (quantize mode u false ⟨m, e, false⟩ (e + m.log2)).1 = 2 := by
        by_cases h : RoundsUp mode u false 1 (rem / 2 ^ m.log2)
        · exact .inr (up h)
        · exact .inl (down h)
      refine ⟨(quantize mode u false ⟨m, e, false⟩ (e + m.log2)).1 - 1, by omega,
        done _ (neighbour _ (fun h => ?_) fun h => ?_)⟩
      · rw [up (same.mp h)]
      · rw [down fun h' => h (same.mpr h')]

end

/-- R125: a magnitude from 2^−127 on is rounded to a power of two; at a midpoint rn takes the even exponent field. -/
theorem roundE8m0_roundedTo (env : FpEnv) {m : Nat} (hm : m ≠ 0) {e : Int} {mode u : Nat} (hu : u < 2 ^ 32) (sat : Bool)
    (hlow : (2 : ℝ) ^ (-127 : Int) ≤ m * 2 ^ e) :
    ∃ c, RoundedTo env .e8m0 mode u sat false (m * 2 ^ e) (roundE8m0 env mode u false ⟨m, e, false⟩) c := by
  obtain ⟨n, hn⟩ : ∃ n : Nat, e + m.log2 + 127 = n := by
    have := (zpow_lt_zpow_iff_right₀ (one_lt_two (α := ℝ))).mp (hlow.trans_lt ((Mag.is_exact m e).bounds hm).2)
    simp only [Mag.exp] at this
    exact ⟨(e + m.log2 + 127).toNat, by omega⟩
  obtain ⟨up, step, rounds, inexact⟩ := scaleStep_roundsTo (mode := mode) hm hu hn
  have noFlush : ¬ (env.ftz = true ∧ Ty.flushes .e8m0 = true ∧ Tiny env .e8m0 mode u false (m * 2 ^ e)) := fun h => by
    cases h.2.1
  have limited : Limited .e8m0 mode sat false := .inr (.inl (by decide))
  have top : Ty.maxCode .e8m0 = 254 := rfl
  have code : (e + m.log2 + scaleStep mode u m e + 127).toNat = n + up := by rw [step]; omega
  rw [roundE8m0_eq env hm mode u (by omega) (by omega), code, step]
  refine ⟨n + up, ?_⟩
  by_cases hover : Ty.maxCode .e8m0 < n + up
  · obtain ⟨two, -, four⟩ := overflow_conds
    rw [if_pos (by omega)]
    exact ⟨rounds, fun h => absurd h (Nat.not_le.mpr hover), fun h => absurd h noFlush,
      fun _ => ⟨fun _ => rfl, fun h => absurd limited h⟩,
      iff_of_true two hover, iff_of_true four (.inl hover), fun h => absurd rfl h⟩
  · rw [if_neg (by omega)]
    obtain ⟨two, -, four⟩ := rounding_conds (quantize mode u false ⟨m, e, false⟩ (e + m.log2)).2 false
    simp only [Bool.false_and, Bool.false_eq_true, if_false, Nat.or_zero] at two four
    refine ⟨rounds, fun _ _ => (Nat.zero_add _).symm, fun h => absurd h noFlush, fun h => absurd h hover,
      iff_of_false (Bool.eq_false_iff.mp two) hover, ?_, fun h => absurd rfl h⟩
    rw [four, inexact]
    simp [hover, noFlush]

/-- R125, R253: conversion of a number from 2^−127 on to `.e8m0`. -/
theorem fpCvt_scale_result {t : Ty} (ht : t ∈ signedTypes) {env : FpEnv} {mode u : Nat} (hu : u < 2 ^ 32) (sat : Bool)
    {a : Nat} {m : Bool}
    {x : ℚ} (ha : t.number env.daz a = some (m, x)) (hx : 2 ^ (-127 : Int) ≤ x) :
    Result env .e8m0 mode u sat m (x : ℝ) (fpCvt env .e8m0 t mode u sat a) := by
  obtain ⟨k, e, hv, rfl⟩ := source_fin ht ha
  have pos : (0 : ℚ) < (FpVal.fin m k e).exact.val := (by positivity : (0 : ℚ) < 2 ^ (-127 : Int)).trans_le hx
  obtain ⟨rfl, nonzero, value⟩ := fin_of_pos pos
  have low : (2 : ℝ) ^ (-127 : Int) ≤ k * 2 ^ e := by
    have : (((2 : ℚ) ^ (-127 : Int) : ℚ) : ℝ) ≤ _ := Rat.cast_le.mpr hx
    rwa [value, Rat.cast_zpow, Rat.cast_ofNat] at this
  have posR : (0 : ℝ) < k * 2 ^ e := (by positivity : (0 : ℝ) < 2 ^ (-127 : Int)).trans_le low
  rw [fpCvt, hv, value]
  exact ⟨fun _ => rounded_iff.mpr (roundE8m0_roundedTo env nonzero hu sat low), fun h => absurd h (not_lt.mpr posR.le),
    fun h => absurd h posR.ne'⟩

end Sys2Proof

namespace Sys2Proof.Machine

/-- The sign of a number that is not zero is that of its value. -/
theorem sign_of_number {t : Ty} (ht : t ∈ signedTypes) {env : FpEnv} {a : Nat} {m : Bool} {x : ℚ}
    (ha : t.number env.daz a = some (m, x))
    (hx : x ≠ 0) : m = decide (x < 0) := by
  obtain ⟨k, e, -, rfl⟩ := source_fin ht ha
  rw [ne_eq, FpVal.exact_val_eq_zero] at hx
  have pos : (0 : ℚ) < k * 2 ^ e := by
    have : (0 : ℚ) < k := by exact_mod_cast Nat.pos_of_ne_zero hx
    positivity
  rw [FpVal.exact_val, eq_comm]
  cases m
  · simpa using pos.le
  · simpa using pos

/-- R130: the lower and the higher of two numbers, by value and, of zeros, by sign. -/
theorem lower_number {t : Ty} (ht : t ∈ signedTypes) {env : FpEnv} {a b : Nat} {m n : Bool} {x y : ℚ}
    (ha : t.number env.daz a = some (m, x)) (hb : t.number env.daz b = some (n, y)) :
    (if numberKey (m, x) ≤ numberKey (n, y) then (m, x) else (n, y)) = (if x < y ∨ (x = y ∧ m = true) then (m, x) else (n, y)) ∧
    (if numberKey (n, y) ≤ numberKey (m, x) then (m, x) else (n, y)) =
    (if y < x ∨ (x = y ∧ m = false) then (m, x) else (n, y)) := by
  have le : ∀ p q, numberKey p ≤ numberKey q ↔ ¬ (q.2 < p.2 ∨ (q.2 = p.2 ∧ p.2 = 0 ∧ p.1 = false ∧ q.1 = true)) := fun p q => by
    rw [← not_lt, numberKey_lt]
  simp only [le]
  rcases lt_trichotomy x y with h | rfl | h
  · simp [h, h.ne, h.ne', h.not_gt]
  · by_cases hx : x = 0
    · cases m <;> cases n <;> simp [hx]
    · rw [sign_of_number ht ha hx, sign_of_number ht hb hx]
      simp
  · simp [h, h.ne, h.ne', h.not_gt]

/-- Settles O11: each operation is an exact value, of which `roundFp` takes the neighbour in the format that the mode names. -/
theorem correctRounding : Obligations.CorrectRounding := by
  constructor
  · intro env t mode u sat a b c m n p x y z ht hmode hu ha hb hc sum rnd
    obtain ⟨hs, -⟩ := arith_types ht
    obtain ⟨lower, higher⟩ := lower_number hs ha hb
    refine ⟨by exact_mod_cast fpAdd_result hs hu sat ha hb, by exact_mod_cast fpSub_result hs hu sat ha hb,
      by exact_mod_cast fpMul_result hs hu sat ha hb, by exact_mod_cast fpFma3_result hs hs hs hs hu sat ha hb hc,
      fpScale_result ht hu sat b ha, (fpMinMax_number ht ha hb false).trans (congrArg some lower),
      (fpMinMax_number ht ha hb true).trans (congrArg some higher), fun s w _ => intToFp_result hs env hu s w,
      fun hmode => ⟨fun hy => by exact_mod_cast fpDiv_result ht hmode u sat ha hb hy,
        fun hx => by exact_mod_cast fpRcp_result ht hmode u ha hx, fun hx => fpSqrt_result ht u ha hmode hx,
        fun hx hf => fpRsq_result ht u ha hmode hx hf, ?rsq, fun k hk hf => fpExp2_result ht u ha hmode hk hf, ?exp2,
        fun k hk => fpLog2_result ht hmode u ha hk, fun k hk => fpTrig_result ht hmode u ha hk, fpRnd_result ht ha⟩⟩
    case rsq =>
      rintro hx rfl
      exact fpRsq_bracket ha hx
    case exp2 =>
      rintro k hk rfl hlow
      exact fpExp2_bracket ha hk hlow
  · intro env d s mode u sat a m x hs hmode hu ha hd
    by_cases he : d = .e8m0
    · subst he
      have low := ((hd.resolve_left (by decide)).resolve_left (fun h => by cases h.1)).2
      exact fpCvt_scale_result hs hu sat ha low
    · refine fpCvt_result hs hu sat ha ?_ ?_
      · rcases hd with h | ⟨rfl, -⟩ | ⟨rfl, -⟩
        · exact (signed_facts h).1
        · decide
        · exact absurd rfl he
      · rcases hd with h | ⟨rfl, hm⟩ | ⟨rfl, -⟩
        · exact fun _ => (signed_facts h).2.1
        · rw [hm]; nofun
        · exact absurd rfl he

end Sys2Proof.Machine
end


section
/-! PROOF. Instructions that compute a result with conditions in each lane (R131, R132, R249, R401), and O12. -/

namespace Sys2Proof

/-! ### The lanes that trap (R132, R401) -/

section
variable (env : FpEnv) (conds : Nat → Nat) (lanes : List Nat)

theorem trapLanes_cons (l : Nat) : trapLanes env ((l :: lanes).map fun k => (k, conds k)) =
    if env.traps (conds l) then (2 ^ l ||| (trapLanes env (lanes.map fun k => (k, conds k))).1,
      conds l ||| (trapLanes env (lanes.map fun k => (k, conds k))).2)
    else trapLanes env (lanes.map fun k => (k, conds k)) := rfl

theorem trapLanes_mask (x : Nat) : (trapLanes env (lanes.map fun l => (l, conds l))).1.testBit x = true ↔
    x ∈ lanes ∧ env.traps (conds x) = true := by
  induction lanes with
  | nil => simp [trapLanes]
  | cons l rest ih =>
    rw [trapLanes_cons]
    by_cases h : env.traps (conds l) = true
    · rw [if_pos h, Nat.testBit_or, Bool.or_eq_true, ih, Nat.testBit_two_pow, decide_eq_true_eq, List.mem_cons, eq_comm]
      constructor
      · rintro (rfl | hx)
        · exact ⟨.inl rfl, h⟩
        · exact ⟨.inr hx.1, hx.2⟩
      · rintro ⟨rfl | hx, ht⟩
        · exact .inl rfl
        · exact .inr ⟨hx, ht⟩
    · rw [if_neg h, ih, List.mem_cons]
      constructor
      · exact fun hx => ⟨.inr hx.1, hx.2⟩
      · rintro ⟨rfl | hx, ht⟩
        · exact absurd ht h
        · exact ⟨hx, ht⟩

theorem trapLanes_conds (b : Nat) : (trapLanes env (lanes.map fun l => (l, conds l))).2.testBit b = true ↔
    ∃ l ∈ lanes, env.traps (conds l) = true ∧ (conds l).testBit b = true := by
  induction lanes with
  | nil => simp [trapLanes]
  | cons l rest ih =>
    rw [trapLanes_cons]
    by_cases h : env.traps (conds l) = true
    · rw [if_pos h, Nat.testBit_or, Bool.or_eq_true, ih]
      simp [h]
    · rw [if_neg h, ih]
      simp [h]

theorem trapLanes_none : (trapLanes env (lanes.map fun l => (l, conds l))).1 = 0 ↔
    ∀ l ∈ lanes, env.traps (conds l) = false := by
  constructor
  · intro h l hl
    by_contra ht
    have bit := (trapLanes_mask env conds lanes l).mpr ⟨hl, Bool.not_eq_false _ ▸ ht⟩
    rw [h, Nat.zero_testBit] at bit
    cases bit
  · intro h
    refine Nat.eq_of_testBit_eq fun x => ?_
    rw [Nat.zero_testBit, Bool.eq_false_iff, ne_eq, trapLanes_mask]
    rintro ⟨hx, ht⟩
    rw [h x hx] at ht
    cases ht

end

end Sys2Proof

namespace Sys2Proof.Machine

/-- R132, R401: an instruction that answers enabled conditions by the arithmetic trap. -/
theorem arithTraps_of_trap {s : State} {i : Instr} {o : Ops} {e : Env} {body : Env → State → Res} {lanes : List Nat}
    {conds : Nat → Nat}
    (h : s.issues i o e) (hexec : exec i s = issue s i o body)
    (hbody : (trapLanes e.fp (lanes.map fun l => (l, conds l))).1 ≠ 0 → body e s = .trap s (s.trapOf 0x05
      (trapLanes e.fp (lanes.map fun l => (l, conds l))).2
        (BitVec.ofNat 64 (trapLanes e.fp (lanes.map fun l => (l, conds l))).1))) :
    ArithTraps s i e lanes conds := by
  rintro ⟨l, hl, ht⟩
  have some : (trapLanes e.fp (lanes.map fun l => (l, conds l))).1 ≠ 0 := fun hz => by
    have := (trapLanes_none e.fp conds lanes).mp hz l hl
    rw [ht] at this
    cases this
  refine ⟨_, ⟨_, hexec.trans (issue_trap h (hbody some)), fun x hx => ?_⟩, trapLanes_conds e.fp conds lanes⟩
  rw [BitVec.getLsbD_ofNat, decide_eq_true hx, Bool.true_and]
  exact trapLanes_mask e.fp conds lanes x

/-- A thread whose registers an instruction sets before its results has completed over those registers. -/
theorem Done.wrote_over {i : Instr} {vals : List RegVal} {pc : Nat} {e : Env} {regs : Regs} {th : Thread}
    (h : Done i vals pc { e.th with regs := regs } th) : Wrote e regs i vals pc th := by
  obtain ⟨stands, ready, now, later, frame⟩ := h
  refine ⟨stands, ready, now, fun hl hc => ?_, frame⟩
  obtain ⟨same, -, pend⟩ := later hl hc
  exact ⟨same, pend⟩

/-- An instruction that sets registers of its thread, and then completes. -/
theorem completesOver_of_done {s : State} {i : Instr} {o : Ops} {e : Env} {vals : List RegVal} {body : Env → State → Res}
    {f : Regs → Regs}
    (h : s.issues i o e) (hexec : exec i s = issue s i o body)
    (hb : body e s = .done (s.modThread e.tid fun th => { th with regs := f th.regs }) vals) (hi : isBoundary i = false) :
    CompletesOver s i o e (f e.th.regs) vals := by
  have set := (puts_self (issues_thread h)).modThread fun th => { th with regs := f th.regs }
  obtain ⟨t, th, run, put, done⟩ := exec_done_puts h hexec hb set.thread (.inl hi)
  have all := set.trans put
  exact ⟨t, th, run, all.only, all.thread, done.wrote_over⟩

/-- R131, R132, R249: what `issueFp` does. -/
theorem fpRuns_of_issueFp {s : State} {i : Instr} {o : Ops} {e : Env} {ty : Ty} {steps : Bool} {g : Env → Nat → FpRes}
    {f : Nat → FpRes}
    (hexec : exec i s = issueFp s i o ty steps g) (hg : ∀ l, g e l = f l) (hi : isBoundary i = false) :
    FpRuns s i o e ty steps f := by
  intro h
  obtain rfl : g e = f := funext hg
  refine ⟨fun quiet => ?_, arithTraps_of_trap h hexec fun traps => ?_⟩
  · have none := (trapLanes_none e.fp (fun l => (g e l).conds) (e.actLanes o)).mpr quiet
    by_cases hrs : steps = true ∧ o.rnd = 5
    · rw [if_pos hrs]
      refine completesOver_of_done (f := fun r => stepGens r (e.actLanes o)) h hexec ?_ hi
      simp only [List.map_map, Function.comp_def, none, Env.each, List.flatMap_map, hrs.1, hrs.2]
      rfl
    · rw [if_neg hrs]
      refine completes_of_done h hexec ?_ hi
      simp only [List.map_map, Function.comp_def, none, Env.each, List.flatMap_map]
      simp [hrs]
  · simp only [List.map_map, Function.comp_def]
    rw [if_pos traps]

/-- R122: the state that a lane's rounding uses. -/
theorem rsState_eq (e : Env) (l : Nat) : e.rsState l = rsStep (e.th.regs.genOf l) := genStep_eq_rsStep (e.th.regs.genOf_lt l)

/-- Settles O12: each of the instructions is `issueFp` of its function. -/
theorem roundingInstructions : Obligations.RoundingInstructions := by
  intro s e o rs
  exact ⟨fpRuns_of_issueFp rfl (fun l => by rw [rsState_eq]) rfl, fpRuns_of_issueFp rfl (fun l => by rw [rsState_eq]) rfl,
    fpRuns_of_issueFp rfl (fun l => by rw [rsState_eq]) rfl, fpRuns_of_issueFp rfl (fun l => by rw [rsState_eq]) rfl,
    fpRuns_of_issueFp rfl (fun l => by rw [rsState_eq]) rfl, fpRuns_of_issueFp rfl (fun l => by rw [rsState_eq]) rfl,
    fpRuns_of_issueFp rfl (fun l => by rw [rsState_eq]) rfl, fpRuns_of_issueFp rfl (fun _ => rfl) rfl,
    fpRuns_of_issueFp rfl (fun _ => rfl) rfl, fpRuns_of_issueFp rfl (fun _ => rfl) rfl,
    fpRuns_of_issueFp rfl (fun _ => rfl) rfl, fpRuns_of_issueFp rfl (fun _ => rfl) rfl,
    fpRuns_of_issueFp rfl (fun _ => rfl) rfl, fpRuns_of_issueFp rfl (fun _ => rfl) rfl,
    fpRuns_of_issueFp rfl (fun _ => rfl) rfl, fpRuns_of_issueFp rfl (fun _ => rfl) rfl,
    fpRuns_of_issueFp rfl (fun _ => rfl) rfl, fpRuns_of_issueFp rfl (fun _ => rfl) rfl,
    fpRuns_of_issueFp rfl (fun _ => rfl) rfl⟩

end Sys2Proof.Machine
end


section
/-! PROOF. Results in registers (R114, R115, R234, R235): what is read back, what is extended, and what is kept (O10). -/

namespace Sys2Proof

/-! ### Words of a number -/

theorem wordsOf_length (n x : Nat) : (wordsOf n x).length = n := by
  induction n generalizing x with
  | zero => rfl
  | succ n ih => rw [wordsOf, List.length_cons, ih]

theorem wordsOf_getD {n i : Nat} (hi : i < n) (x : Nat) : (wordsOf n x).getD i 0 = BitVec.ofNat 32 (x / 2 ^ (32 * i)) := by
  induction n generalizing x i with
  | zero => omega
  | succ n ih =>
    cases i with
    | zero => simp [wordsOf]
    | succ i =>
      rw [wordsOf, List.getD_cons_succ, ih (by omega), Nat.div_div_eq_div_mul, ← Nat.pow_add]
      congr 3
      ring

theorem ofWords_wordsOf (n x : Nat) : ofWords (wordsOf n x) = x % 2 ^ (32 * n) := by
  induction n generalizing x with
  | zero => rw [wordsOf, ofWords]; omega
  | succ n ih =>
    have split : 2 ^ (32 * (n + 1)) = 2 ^ 32 * 2 ^ (32 * n) := by rw [← Nat.pow_add]; congr 1; ring
    rw [wordsOf, ofWords, ih, BitVec.toNat_ofNat, split, Nat.mod_mul]

/-! ### Results of a type (R114, R115) -/

theorem signedOf_eq_ofNat_toInt (n x : Nat) : signedOf n x = (BitVec.ofNat n x).toInt := by
  rw [signedOf, BitVec.toInt_eq_toNat_cond, BitVec.toNat_ofNat]
  cases n with
  | zero => simp [Nat.mod_one]
  | succ n =>
    rw [Nat.add_sub_cancel, Nat.pow_succ]
    have : x % (2 ^ n * 2) < 2 ^ n ↔ 2 * (x % (2 ^ n * 2)) < 2 ^ n * 2 := by omega
    simp only [this]

section
variable (t : Ty) (x : Nat)

theorem toReg_extended (hs : t.isSigned = true) (hn : t.bits < 32) :
    BitVec.ofNat 32 (t.toReg x) = (BitVec.ofNat t.bits x).signExtend 32 := by
  rw [Ty.toReg, if_pos ⟨hs, hn⟩, wrapTo, signedOf_eq_ofNat_toInt, BitVec.signExtend]
  exact BitVec.eq_of_toNat_eq (by rw [BitVec.toNat_ofNat, BitVec.toNat_ofInt]; omega)

theorem toReg_plain (h : ¬ (t.isSigned = true ∧ t.bits < 32)) : t.toReg x = x % 2 ^ t.bits := by
  rw [Ty.toReg, if_neg h]

theorem toReg_mod : t.toReg x % 2 ^ t.bits = x % 2 ^ t.bits := by
  by_cases h : t.isSigned = true ∧ t.bits < 32
  · have low : ((2 ^ t.bits : Nat) : Int) ∣ ((2 ^ 32 : Nat) : Int) := by exact_mod_cast Nat.pow_dvd_pow 2 h.2.le
    have same : ((wrapTo 32 (signedOf t.bits x) : Nat) : Int) % (2 ^ t.bits : Nat) = (x : Int) % (2 ^ t.bits : Nat) := by
      rw [wrapTo, Int.toNat_of_nonneg (Int.emod_nonneg _ (by decide)), Int.emod_emod_of_dvd _ low, signedOf]
      split
      · rw [Int.natCast_mod, Int.emod_emod]
      · rw [Int.natCast_mod, Int.sub_emod_right, Int.emod_emod]
    rw [Ty.toReg, if_pos h]
    exact_mod_cast same
  · rw [toReg_plain t x h, Nat.mod_mod]

theorem bits_le_regs : t.bits ≤ 32 * t.regs := by cases t <;> decide

theorem toReg_lt : t.toReg x < 2 ^ (32 * t.regs) := by
  by_cases h : t.isSigned = true ∧ t.bits < 32
  · have one : t.regs = 1 := by rw [Ty.regs, if_neg (by omega), if_neg (by omega)]
    have := Int.emod_lt_of_pos (signedOf t.bits x) (show (0 : Int) < (2 ^ 32 : Nat) by decide)
    rw [Ty.toReg, if_pos h, one, wrapTo]
    omega
  · rw [toReg_plain t x h]
    exact (Nat.mod_lt _ (Nat.two_pow_pos _)).trans_le (Nat.pow_le_pow_right two_pos (bits_le_regs t))

/-- R114, R115: the words of a result, read as one number, are the result fitted to the type's width. -/
theorem ofWords_regWords : ofWords (Machine.regWords t x) % 2 ^ t.bits = x % 2 ^ t.bits := by
  rw [Machine.regWords, ofWords_wordsOf, Nat.mod_eq_of_lt (toReg_lt t x), toReg_mod]

/-- R114, R115: word `w` is number `i` of a result: extended when the type is narrow. -/
def IsWord (i : Nat) (w : Word) : Prop :=
  (t.bits < 32 → t.isSigned = true → i = 0 → w = (BitVec.ofNat t.bits x).signExtend 32) ∧
  (t.bits < 32 → t.isSigned = false → i = 0 → w = BitVec.ofNat 32 (x % 2 ^ t.bits)) ∧
  (32 ≤ t.bits → i < t.regs → w = BitVec.ofNat 32 (x % 2 ^ t.bits / 2 ^ (32 * i)))

theorem isWord_of_getD {i : Nat} {w : Word} (h : i < t.regs → w = (Machine.regWords t x).getD i 0) : IsWord t x i w := by
  have pos : 0 < t.regs := by cases t <;> decide
  have word : i < t.regs → w = BitVec.ofNat 32 (t.toReg x / 2 ^ (32 * i)) := fun hi => by
    rw [h hi, Machine.regWords, wordsOf_getD hi]
  refine ⟨fun hn hs hi => ?_, fun hn hs hi => ?_, fun hn hi => ?_⟩
  · rw [word (hi ▸ pos), hi, Nat.mul_zero, Nat.pow_zero, Nat.div_one, toReg_extended t x hs hn]
  · rw [word (hi ▸ pos), hi, Nat.mul_zero, Nat.pow_zero, Nat.div_one, toReg_plain t x fun h => by rw [hs] at h; cases h.1]
  · rw [word hi, toReg_plain t x fun h => by omega]

end

end Sys2Proof

namespace Sys2Proof.Machine

/-! ### Words written in turn -/

/-- Words written into consecutive vector registers, or scalars, from number `d` on. -/
def vecVals (d l : Nat) (ws : List Word) : List RegVal := ws.zipIdx.map fun p => .v (d + p.2) l p.1
def scalVals (d : Nat) (ws : List Word) : List RegVal := ws.zipIdx.map fun p => .s (d + p.2) p.1

theorem vecVals_cons (d l : Nat) (w : Word) (ws : List Word) : vecVals d l (w :: ws) = .v d l w :: vecVals (d + 1) l ws := by
  simp only [vecVals, List.zipIdx_cons, List.map_cons, Nat.add_zero, Nat.zero_add, List.cons.injEq, true_and]
  rw [List.zipIdx_succ, List.map_map]
  simp [Nat.add_assoc, Nat.add_comm 1, Function.comp_def]

theorem scalVals_cons (d : Nat) (w : Word) (ws : List Word) : scalVals d (w :: ws) = .s d w :: scalVals (d + 1) ws := by
  simp only [scalVals, List.zipIdx_cons, List.map_cons, Nat.add_zero, Nat.zero_add, List.cons.injEq, true_and]
  rw [List.zipIdx_succ, List.map_map]
  simp [Nat.add_assoc, Nat.add_comm 1, Function.comp_def]

theorem putAll_cons (w : Nat) (r : Regs) (v : RegVal) (vals : List RegVal) :
    Regs.putAll w r (v :: vals) = Regs.putAll w (r.put w v) vals := rfl

theorem putAll_append (w : Nat) (r : Regs) (a b : List RegVal) :
    Regs.putAll w r (a ++ b) = Regs.putAll w (Regs.putAll w r a) b := List.foldl_append

theorem vec_setVec (r : Regs) {n l k x : Nat} (hl : l < 64) (hx : x < 64) (w : Word) :
    (r.setVec n l w).vec k x = if k = n ∧ x = l then w else r.vec k x := by
  rw [Regs.vec, Regs.vec, Regs.setVec]
  by_cases h : k = n ∧ x = l
  · rw [if_pos h, h.1, h.2, NMap.get_put_same]
  · rw [if_neg h, NMap.get_put_other]
    omega

theorem scal_setScal_eq (r : Regs) (n k : Nat) (w : Word) : (r.setScal n w).scal k = if k = n then w else r.scal k := by
  rw [Regs.scal, Regs.scal, Regs.setScal]
  by_cases h : k = n
  · rw [if_pos h, h, NMap.get_put_same]
  · rw [if_neg h, NMap.get_put_other _ _ _ h]

theorem vec_vecVals (w : Nat) (r : Regs) {l x : Nat} (hl : l < 64) (hx : x < 64) (d k : Nat) (ws : List Word) :
    (Regs.putAll w r (vecVals d l ws)).vec k x =
      if x = l ∧ d ≤ k ∧ k < d + ws.length then ws.getD (k - d) 0 else r.vec k x := by
  induction ws generalizing r d with
  | nil => rw [if_neg (by simp)]; rfl
  | cons y ws ih =>
    rw [vecVals_cons, putAll_cons, ih, List.length_cons]
    by_cases hk : x = l ∧ d + 1 ≤ k ∧ k < d + 1 + ws.length
    · obtain ⟨j, hj⟩ : ∃ j, k - d = j + 1 := ⟨k - d - 1, by omega⟩
      rw [if_pos hk, if_pos (by omega), hj, List.getD_cons_succ]
      congr 1
      omega
    · rw [if_neg hk, show r.put w (.v d l y) = r.setVec d l y from rfl, vec_setVec r hl hx]
      by_cases hd : k = d ∧ x = l
      · rw [if_pos hd, if_pos (by omega), hd.1, Nat.sub_self, List.getD_cons_zero]
      · rw [if_neg hd, if_neg (by omega)]

theorem scal_scalVals (w : Nat) (r : Regs) (d k : Nat) (ws : List Word) :
    (Regs.putAll w r (scalVals d ws)).scal k = if d ≤ k ∧ k < d + ws.length then ws.getD (k - d) 0 else r.scal k := by
  induction ws generalizing r d with
  | nil => rw [if_neg (by simp)]; rfl
  | cons y ws ih =>
    rw [scalVals_cons, putAll_cons, ih, List.length_cons]
    by_cases hk : d + 1 ≤ k ∧ k < d + 1 + ws.length
    · obtain ⟨j, hj⟩ : ∃ j, k - d = j + 1 := ⟨k - d - 1, by omega⟩
      rw [if_pos hk, if_pos (by omega), hj, List.getD_cons_succ]
      congr 1
      omega
    · rw [if_neg hk, show r.put w (.s d y) = r.setScal d y from rfl, scal_setScal_eq]
      by_cases hd : k = d
      · rw [if_pos hd, if_pos (by omega), hd, Nat.sub_self, List.getD_cons_zero]
      · rw [if_neg hd, if_neg (by omega)]

/-- Values for vectors only, or for scalars only. -/
def RegVal.isVec : RegVal → Bool | .v .. => true | _ => false
def RegVal.isScal : RegVal → Bool | .s .. => true | _ => false

/-- Results in vectors change vectors only, and results in scalars those only. -/
theorem putAll_frame_vec (w : Nat) (r : Regs) {vals : List RegVal} (h : ∀ v ∈ vals, v.isVec = true) :
    Regs.putAll w r vals = { r with v := (Regs.putAll w r vals).v, flawed := (Regs.putAll w r vals).flawed } := by
  induction vals generalizing r with
  | nil => rfl
  | cons v vals ih =>
    rw [putAll_cons, ih _ fun x hx => h x (List.mem_cons_of_mem v hx)]
    have hv := h v List.mem_cons_self
    cases v with
    | v n l x => rfl
    | s | k | kl | m => cases hv

theorem putAll_frame_scal (w : Nat) (r : Regs) {vals : List RegVal} (h : ∀ v ∈ vals, v.isScal = true) :
    Regs.putAll w r vals = { r with s := (Regs.putAll w r vals).s } := by
  induction vals generalizing r with
  | nil => rfl
  | cons v vals ih =>
    rw [putAll_cons, ih _ fun x hx => h x (List.mem_cons_of_mem v hx)]
    have hv := h v List.mem_cons_self
    cases v with
    | s n x => rfl
    | v | k | kl | m => cases hv

theorem putAll_frame (w : Nat) (r : Regs) {vals : List RegVal}
    (h : (∀ v ∈ vals, v.isVec = true) ∨ ∀ v ∈ vals, v.isScal = true) :
    Regs.putAll w r vals =
      { r with
        v := (Regs.putAll w r vals).v,
        s := (Regs.putAll w r vals).s,
        flawed := (Regs.putAll w r vals).flawed } := by
  rcases h with h | h
  · rw [putAll_frame_vec w r h]
  · rw [putAll_frame_scal w r h]

/-! ### Results in lanes -/

theorem destVals_vec (base : Nat) (t : Ty) (d l x : Nat) : destVals base t (.v d) l x = vecVals d l (regWords t x) := rfl
theorem destVals_scal (base : Nat) (t : Ty) (d l x : Nat) : destVals base t (.s d) l x = scalVals d (regWords t x) := rfl

theorem regWords_length (t : Ty) (x : Nat) : (regWords t x).length = t.regs := wordsOf_length _ _

theorem each_isVec {e : Env} {o : Ops} (hd : ∀ n, o.dst ≠ .s n) (t : Ty) (f : Nat → Nat) :
    ∀ v ∈ e.each o t f, v.isVec = true := by
  intro v hv
  obtain ⟨l, -, hv⟩ := List.mem_flatMap.mp hv
  cases hdst : o.dst with
  | v n | g n => rw [hdst] at hv; obtain ⟨p, -, rfl⟩ := List.mem_map.mp hv; rfl
  | s n => exact absurd hdst (hd n)
  | _ => rw [hdst] at hv; cases hv

theorem each_isScal {e : Env} {o : Ops} {n : Nat} (hd : o.dst = .s n) (t : Ty) (f : Nat → Nat) :
    ∀ v ∈ e.each o t f, v.isScal = true := by
  intro v hv
  obtain ⟨l, -, hv⟩ := List.mem_flatMap.mp hv
  rw [hd] at hv
  obtain ⟨p, -, rfl⟩ := List.mem_map.mp hv
  rfl

/-- R234: results in lanes of vectors are read back in those lanes, and the others are kept. -/
theorem vec_lanes (w : Nat) (r : Regs) (t : Ty) (f : Nat → Nat) (d k : Nat) {x : Nat} (hx : x < 64) {lanes : List Nat}
    (hl : ∀ l ∈ lanes, l < 64) :
    (Regs.putAll w r (lanes.flatMap fun l => destVals 0 t (.v d) l (f l))).vec k x =
      if x ∈ lanes ∧ d ≤ k ∧ k < d + t.regs then (regWords t (f x)).getD (k - d) 0 else r.vec k x := by
  induction lanes generalizing r with
  | nil => rw [if_neg (by simp)]; rfl
  | cons l rest ih =>
    rw [List.flatMap_cons, putAll_append, ih _ fun y hy => hl y (List.mem_cons_of_mem l hy), destVals_vec,
      vec_vecVals w r (hl l List.mem_cons_self) hx, regWords_length]
    by_cases hr : d ≤ k ∧ k < d + t.regs
    · by_cases hxl : x = l
      · subst hxl; simp [hr]
      · simp [hxl, hr]
    · simp [hr]

theorem actLanes_lt {e : Env} {o : Ops} (hw : e.th.width ≤ 64) {l : Nat} (h : l ∈ e.actLanes o) : l < 64 := by
  rw [Env.actLanes] at h
  split at h
  · split at h
    · cases h
    · rw [List.mem_singleton.mp h]; decide
  · have := List.mem_range.mp (List.mem_filter.mp h).1
    omega

/-- Registers that hold the words of a result hold the result. -/
theorem ofWords_registers {t : Ty} {x : Nat} {g : Nat → Word} (h : ∀ i, i < t.regs → g i = (regWords t x).getD i 0) :
    ofWords ((List.range t.regs).map g) % 2 ^ t.bits = x % 2 ^ t.bits := by
  have words : (List.range t.regs).map g = regWords t x := by
    refine List.ext_getElem (by rw [List.length_map, List.length_range, regWords_length]) fun i hi hi' => ?_
    rw [List.length_map, List.length_range] at hi
    rw [List.getElem_map, List.getElem_range, h i hi, List.getD_eq_getElem _ _ hi']
  rw [words, ofWords_regWords]

/-- Settles O10: results are words written one after the other, which are read back as one number. -/
theorem laneResultsReadBack : Obligations.LaneResultsReadBack := by
  intro e o f d _ hw r n word
  have lanes : ∀ l ∈ e.actLanes o, l < 64 := fun l => actLanes_lt hw
  have kinds : (∀ v ∈ e.each o o.ty f, v.isVec = true) ∨ ∀ v ∈ e.each o o.ty f, v.isScal = true := by
    by_cases hd : ∃ k, o.dst = .s k
    · exact .inr (each_isScal hd.choose_spec o.ty f)
    · exact .inl (each_isVec (not_exists.mp hd) o.ty f)
  have frame := putAll_frame e.th.width e.th.regs kinds
  refine ⟨fun hd => ⟨fun l hl => ?_, fun l k hl hk => ?_, ?_⟩,
    fun hd hall => ⟨fun hact => ?_, fun hact => ?_, fun k hk => ?_, ?_⟩, ?_⟩
  · have here : ∀ i, i < o.ty.regs → r.vec (d + i) l = (regWords o.ty (f l)).getD i 0 := fun i hi => by
      show (Regs.putAll _ _ ((e.actLanes o).flatMap fun l => destVals 0 o.ty o.dst l (f l))).vec _ _ = _
      rw [hd, vec_lanes _ _ _ _ _ _ (lanes l hl) lanes, if_pos ⟨hl, by omega, by omega⟩, Nat.add_sub_cancel_left]
    exact ⟨ofWords_registers here, fun i => isWord_of_getD o.ty (f l) (here i)⟩
  · show (Regs.putAll _ _ ((e.actLanes o).flatMap fun l => destVals 0 o.ty o.dst l (f l))).vec _ _ = _
    rw [hd, vec_lanes _ _ _ _ _ _ hl lanes, if_neg]
    rintro ⟨hmem, low, high⟩
    rcases hk with h | h | h
    · exact h hmem
    · omega
    · omega
  · have frame := putAll_frame_vec e.th.width e.th.regs (each_isVec (o := o) (e := e) (by rw [hd]; nofun) o.ty f)
    exact (congrArg Regs.s frame :)
  · have once : r = Regs.putAll e.th.width e.th.regs (scalVals d (regWords o.ty (f 0))) := by
      show Regs.putAll _ _ ((e.actLanes o).flatMap fun l => destVals 0 o.ty o.dst l (f l)) = _
      rw [Env.actLanes, if_pos hall, if_neg hact, List.flatMap_singleton, hd]
      rfl
    have here : ∀ i, i < o.ty.regs → r.scal (d + i) = (regWords o.ty (f 0)).getD i 0 := fun i hi => by
      rw [once, scal_scalVals, regWords_length, if_pos ⟨by omega, by omega⟩, Nat.add_sub_cancel_left]
    exact ⟨ofWords_registers here, fun i => isWord_of_getD o.ty (f 0) (here i)⟩
  · show Regs.putAll _ _ ((e.actLanes o).flatMap fun l => destVals 0 o.ty o.dst l (f l)) = _
    rw [Env.actLanes, if_pos hall, if_pos hact]
    rfl
  · show (Regs.putAll _ _ ((e.actLanes o).flatMap fun l => destVals 0 o.ty o.dst l (f l))).scal _ = _
    rw [Env.actLanes, if_pos hall, hd]
    split
    · rfl
    · rw [List.flatMap_singleton, destVals_scal, scal_scalVals, regWords_length, if_neg (by omega)]
  · have frame := putAll_frame_scal e.th.width e.th.regs (each_isScal (e := e) hd o.ty f)
    exact (congrArg Regs.v frame :)
  · exact ⟨(congrArg Regs.k frame :), (congrArg Regs.m frame :), (congrArg Regs.tag frame :), (congrArg Regs.gen frame :),
      (congrArg Regs.seed frame :),
      (congrArg Regs.fpmode frame :), (congrArg Regs.ras frame :), (congrArg Regs.depth frame :)⟩

end Sys2Proof.Machine
end


section
/-! PROOF. Comparisons (R219, R257, R258): values in the extended reals, and what a comparison leaves. -/

namespace Sys2Proof

/-! ### Values that are compared -/

/-- A value that is no NaN, in the extended reals. -/
noncomputable def FpVal.ext : FpVal → EReal
  | .nan .. => 0
  | .inf neg => if neg then ⊥ else ⊤
  | .fin neg m e => (((FpVal.fin neg m e).exact.val : ℝ) : EReal)

/-- R257: values that are no NaN are compared in the extended reals. -/
theorem FpVal.cmp_ext {x y : FpVal} (hx : x.isNan = false) (hy : y.isNan = false) :
    (x.cmp y = .lt ↔ x.ext < y.ext) ∧ (x.cmp y = .eq ↔ x.ext = y.ext) ∧ (x.cmp y = .gt ↔ y.ext < x.ext) := by
  cases x with
  | nan => cases hx
  | inf a =>
    cases y with
    | nan => cases hy
    | inf b => cases a <;> cases b <;> simp [FpVal.cmp, FpVal.ext, compare_lt_iff_lt, compare_gt_iff_gt]
    | fin b m e => cases a <;> simp [FpVal.cmp, FpVal.ext]
  | fin a m e =>
    cases y with
    | nan => cases hy
    | inf b => cases b <;> simp [FpVal.cmp, FpVal.ext]
    | fin b k f =>
      have step : (FpVal.fin a m e).cmp (.fin b k f) =
          compare (FpVal.fin a m e).exact.val (FpVal.fin b k f).exact.val := Exact.cmp_eq _ _
      simp only [step, FpVal.ext, compare_lt_iff_lt, compare_gt_iff_gt, compare_eq_iff_eq, EReal.coe_lt_coe_iff,
        EReal.coe_eq_coe_iff, Rat.cast_lt, Rat.cast_inj, and_self]

/-- The codes above that of infinity are those of NaNs. -/
theorem ieee_codes {t : Ty} (hi : t.ieee = true) : 1 ≤ t.mbits ∧ t.mbits ≤ t.bits - 1 ∧ (t.maxCode + 1) % 2 ^ t.mbits = 0 ∧
    2 ^ (t.bits - 1) = t.maxCode + 1 + 2 ^ t.mbits := by
  cases t <;> revert hi <;> decide

/-- R117: a code above that of the largest number: its mantissa field is what it has above that of infinity. -/
theorem mantissa_above {t : Ty} (hi : t.ieee = true) {m : Nat} (hm : m < 2 ^ (t.bits - 1)) (h : t.maxCode < m) :
    m % 2 ^ t.mbits = m - (t.maxCode + 1) := by
  obtain ⟨-, -, whole, all⟩ := ieee_codes hi
  obtain ⟨k, hk⟩ := Nat.dvd_of_mod_eq_zero whole
  obtain ⟨r, rfl⟩ := Nat.exists_eq_add_of_le (show t.maxCode + 1 ≤ m from h)
  rw [hk, Nat.mul_add_mod, Nat.mod_eq_of_lt (by omega), ← hk, Nat.add_sub_cancel_left]

/-- R117: a NaN is quiet when the top bit of its mantissa field is set. -/
theorem quiet_iff {t : Ty} (hi : t.ieee = true) (x : Nat) :
    2 ^ (t.mbits - 1) ≤ x % 2 ^ (t.bits - 1) % 2 ^ t.mbits ↔ x / 2 ^ (t.mbits - 1) % 2 = 1 := by
  obtain ⟨pos, room, -, -⟩ := ieee_codes hi
  have half : 2 ^ t.mbits = 2 ^ (t.mbits - 1) * 2 := by rw [← Nat.pow_add_one, Nat.sub_add_cancel pos]
  rw [Nat.mod_mod_of_dvd _ (Nat.pow_dvd_pow 2 room), half, ← Nat.one_mul (2 ^ (t.mbits - 1)),
    ← Nat.le_div_iff_mul_le (Nat.two_pow_pos _), Nat.one_mul, Nat.mod_mul_right_div_self]
  omega

section
variable {t : Ty} (ht : t ∈ tysArith)
include ht

/-- R117: which codes are NaNs, and which infinities. -/
theorem fpVal_special (x : Nat) : ((fpVal t x).isNan = true ↔ t.maxCode + 1 < x % 2 ^ (t.bits - 1)) ∧
    ((fpVal t x).isSnan = true ↔ t.maxCode + 1 < x % 2 ^ (t.bits - 1) ∧ x / 2 ^ (t.mbits - 1) % 2 = 0) ∧
    (∀ neg, fpVal t x = .inf neg → neg = decide (x / 2 ^ (t.bits - 1) % 2 = 1)) := by
  have hi := (arith_signed ht).2.1
  have low : x % 2 ^ (t.bits - 1) < 2 ^ (t.bits - 1) := Nat.mod_lt _ (Nat.two_pow_pos _)
  rw [fpVal_arith ht, magOf_arith ht, negOf_arith ht]
  dsimp only
  by_cases hmax : t.maxCode < x % 2 ^ (t.bits - 1)
  · have man := mantissa_above hi low hmax
    rw [if_pos hmax]
    by_cases hz : x % 2 ^ (t.bits - 1) % 2 ^ t.mbits = 0
    · rw [if_pos hz]
      have notAbove : ¬ t.maxCode + 1 < x % 2 ^ (t.bits - 1) := by omega
      exact ⟨iff_of_false nofun notAbove, iff_of_false nofun fun h => notAbove h.1, fun neg h => (FpVal.inf.inj h).symm⟩
    · rw [if_neg hz]
      have above : t.maxCode + 1 < x % 2 ^ (t.bits - 1) := by omega
      refine ⟨iff_of_true rfl above, ?_, nofun⟩
      simp only [FpVal.isSnan, quiet_iff hi, above, true_and]
      rcases Nat.mod_two_eq_zero_or_one (x / 2 ^ (t.mbits - 1)) with h | h <;> simp [h]
  · rw [if_neg hmax]
    have notAbove : ¬ t.maxCode + 1 < x % 2 ^ (t.bits - 1) := by omega
    split <;> exact ⟨iff_of_false nofun notAbove, iff_of_false nofun fun h => notAbove h.1, nofun⟩

theorem source_isSnan (env : FpEnv) (x : Nat) : (fpVal t (env.source t x)).isSnan = (fpVal t x).isSnan := by
  rw [fpVal_source ht]
  split
  · rename_i hsub
    rw [fpVal_small ht ((isSubnormal_arith ht x).mp hsub.2).1]
    rfl
  · rfl

/-- R127, R257: what a source that is no NaN is in the extended reals. -/
theorem source_ext (env : FpEnv) (x : Nat) (hx : (fpVal t (env.source t x)).isNan = false) :
    (fpVal t (env.source t x)).ext = match t.number env.daz x with
      | some p => ((p.2 : ℝ) : EReal)
      | none => if x / 2 ^ (t.bits - 1) % 2 = 1 then ⊥ else ⊤ := by
  rw [number_source ht]
  cases hv : fpVal t (env.source t x) with
  | nan => rw [hv] at hx; cases hx
  | inf neg =>
    obtain ⟨-, -, sign⟩ := fpVal_special ht x
    rw [sign neg (((source_special ht env x).2 neg).mp hv)]
    simp [FpVal.ext, FpVal.number]
  | fin neg m e => rfl

end

/-- R257: the predicates of `fcmp` and its invalid condition, of the values that it compares. -/
theorem fpCompare_cases {env : FpEnv} {t : Ty} (q : FcmpPred) {a b : Nat} {x y : FpVal} (hx : fpVal t (env.source t a) = x)
    (hy : fpVal t (env.source t b) = y) :
    let ok := x.isNan = false ∧ y.isNan = false
    ((fpCompare env t q a b).1 = true ↔ match q with
      | .eq => ok ∧ x.ext = y.ext | .ne => ok ∧ x.ext ≠ y.ext | .lt => ok ∧ x.ext < y.ext | .le => ok ∧ x.ext ≤ y.ext
      | .gt => ok ∧ y.ext < x.ext | .ge => ok ∧ y.ext ≤ x.ext | .ord => ok
      | .ueq => ¬ ok ∨ x.ext = y.ext | .une => ¬ ok ∨ x.ext ≠ y.ext | .ult => ¬ ok ∨ x.ext < y.ext
      | .ule => ¬ ok ∨ x.ext ≤ y.ext | .ugt => ¬ ok ∨ y.ext < x.ext | .uge => ¬ ok ∨ y.ext ≤ x.ext | .uno => ¬ ok) ∧
    (fpCompare env t q a b).2 = if q ∈ [.lt, .le, .gt, .ge] then (if ok then 0 else 1)
      else if x.isSnan = true ∨ y.isSnan = true then 1 else 0 := by
  intro ok
  subst hx hy
  by_cases hok : ok
  · obtain ⟨lt, eq, gt⟩ := FpVal.cmp_ext hok.1 hok.2
    have le : (fpVal t (env.source t a)).cmp (fpVal t (env.source t b)) ≠ .gt ↔ _ := (not_congr gt).trans not_lt
    have ge : (fpVal t (env.source t a)).cmp (fpVal t (env.source t b)) ≠ .lt ↔ _ := (not_congr lt).trans not_lt
    cases q <;> simp [fpCompare, hok.1, hok.2, snanConds, hok, lt, eq, gt, le, ge, fInvalid]
  · have nan : ((fpVal t (env.source t a)).isNan || (fpVal t (env.source t b)).isNan) = true := by
      rw [Bool.or_eq_true, ← Bool.not_eq_false, ← Bool.not_eq_false, ← not_and_or]
      exact hok
    cases q <;> simp [fpCompare, nan, snanConds, hok, fInvalid]

/-- R127, R257: the predicates of `fcmp` and its invalid condition, of the numbers that codes are. -/
theorem fpCompare_reals {t : Ty} (ht : t ∈ tysArith) (env : FpEnv) (q : FcmpPred) (a b : Nat) :
    let half := 2 ^ (t.bits - 1)
    let nan := fun x => t.maxCode + 1 < x % half
    let signalling := fun x => nan x ∧ x / 2 ^ (t.mbits - 1) % 2 = 0
    let value := fun x => match t.number env.daz x with
      | some p => ((p.2 : ℝ) : EReal)
      | none => if x / half % 2 = 1 then ⊥ else ⊤
    let x := value a
    let y := value b
    let none_ := ¬ nan a ∧ ¬ nan b
    let holds := match q with
      | .eq => none_ ∧ x = y | .ne => none_ ∧ x ≠ y | .lt => none_ ∧ x < y | .le => none_ ∧ x ≤ y
      | .gt => none_ ∧ y < x | .ge => none_ ∧ y ≤ x | .ord => none_
      | .ueq => ¬ none_ ∨ x = y | .une => ¬ none_ ∨ x ≠ y | .ult => ¬ none_ ∨ x < y | .ule => ¬ none_ ∨ x ≤ y
      | .ugt => ¬ none_ ∨ y < x | .uge => ¬ none_ ∨ y ≤ x | .uno => ¬ none_
    let invalid := (q ∈ [.lt, .le, .gt, .ge] ∧ ¬ none_) ∨ signalling a ∨ signalling b
    ((fpCompare env t q a b).1 = true ↔ holds) ∧ (invalid → (fpCompare env t q a b).2 = 1) ∧
      (¬ invalid → (fpCompare env t q a b).2 = 0) := by
  intro half nan signalling value x y none_ holds invalid
  have nans : ∀ c, (fpVal t (env.source t c)).isNan = true ↔ nan c := fun c => by
    rw [(source_special ht env c).1]
    exact (fpVal_special ht c).1
  have snans : ∀ c, (fpVal t (env.source t c)).isSnan = true ↔ signalling c := fun c => by
    rw [source_isSnan ht]
    exact (fpVal_special ht c).2.1
  have ok : (fpVal t (env.source t a)).isNan = false ∧ (fpVal t (env.source t b)).isNan = false ↔ none_ := by
    rw [← Bool.not_eq_true, ← Bool.not_eq_true, nans, nans]
  obtain ⟨first, second⟩ := fpCompare_cases (env := env) q (rfl : fpVal t (env.source t a) = _)
    (rfl : fpVal t (env.source t b) = _)
  refine ⟨first.trans ?_, ?_⟩
  · by_cases hok : none_
    · have ofA : (fpVal t (env.source t a)).ext = x := source_ext ht env a (ok.mpr hok).1
      have ofB : (fpVal t (env.source t b)).ext = y := source_ext ht env b (ok.mpr hok).2
      cases q <;> simp only [holds, ok, ofA, ofB]
    · rw [ok]
      cases q <;> simp [holds, hok]
  · have impossible : signalling a ∨ signalling b → ¬ none_ := fun h => not_and_or.mpr (by rcases h with h | h <;> simp [h.1])
    rw [second]
    simp only [ok, snans]
    by_cases ordered : q ∈ [.lt, .le, .gt, .ge]
    · have all : invalid ↔ ¬ none_ := ⟨fun h => h.elim (·.2) impossible, fun h => .inl ⟨ordered, h⟩⟩
      rw [if_pos ordered, all]
      exact ⟨fun h => if_neg h, fun h => if_pos (not_not.mp h)⟩
    · have all : invalid ↔ signalling a ∨ signalling b := ⟨fun h => h.resolve_left fun h => ordered h.1, .inr⟩
      rw [if_neg ordered, all]
      exact ⟨fun h => if_pos h, fun h => if_neg h⟩

/-! ### Signs and classes (R252, R254) -/

theorem and_not_top (k a : Nat) :
    (BitVec.ofNat (k + 1) a &&& ~~~BitVec.ofNat (k + 1) (2 ^ k)).toNat = a % 2 ^ k := by
  refine Nat.eq_of_testBit_eq fun i => ?_
  rw [BitVec.testBit_toNat, BitVec.getLsbD_and, BitVec.getLsbD_not, BitVec.getLsbD_ofNat, BitVec.getLsbD_ofNat,
    Nat.testBit_mod_two_pow, Nat.testBit_two_pow]
  by_cases hk : i < k
  · simp [hk, show i < k + 1 by omega, show k ≠ i by omega]
  · by_cases hi : i = k
    · simp [hi]
    · simp [hk, show ¬ i < k + 1 by omega]

theorem xor_top (k a : Nat) : (BitVec.ofNat (k + 1) a ^^^ BitVec.ofNat (k + 1) (2 ^ k)).toNat =
    if a / 2 ^ k % 2 = 1 then a % 2 ^ k else a % 2 ^ k + 2 ^ k := by
  have low := Nat.mod_lt a (Nat.two_pow_pos k)
  have bit : a.testBit k = decide (a / 2 ^ k % 2 = 1) := Nat.testBit_eq_decide_div_mod_eq
  have sum : a % 2 ^ k + 2 ^ k = 2 ^ k ||| a % 2 ^ k := by
    have join := Nat.two_pow_add_eq_or_of_lt low 1
    rw [Nat.mul_one] at join
    omega
  refine Nat.eq_of_testBit_eq fun i => ?_
  rw [sum, BitVec.testBit_toNat, BitVec.getLsbD_xor, BitVec.getLsbD_ofNat,
    BitVec.getLsbD_ofNat, Nat.testBit_two_pow]
  by_cases hk : i < k
  · split <;> simp [hk, show i < k + 1 by omega, show k ≠ i by omega]
  · by_cases hi : i = k
    · subst hi
      rw [bit]
      split <;> simp_all
    · split <;> simp [hk, show ¬ i < k + 1 by omega, show k ≠ i by omega]

section
variable {t : Ty} (ht : t ∈ tysArith) (a : Nat)
include ht

theorem fpAbs_eq : (BitVec.ofNat t.bits a &&& ~~~BitVec.ofNat t.bits (2 ^ (t.bits - 1))).toNat = fpAbs t a := by
  rw [fpAbs, magOf_arith ht]
  have bits := arith_bits ht
  generalize t.bits - 1 = k at bits
  rw [bits, and_not_top]

theorem fpNeg_eq : (BitVec.ofNat t.bits a ^^^ BitVec.ofNat t.bits (2 ^ (t.bits - 1))).toNat = fpNeg t a := by
  rw [fpNeg, magOf_arith ht, negOf_arith ht]
  have bits := arith_bits ht
  generalize t.bits - 1 = k at bits
  rw [bits, xor_top]
  simp

/-- R252: one with a sign. -/
theorem signed_one (neg : Bool) :
    ((if neg then BitVec.ofNat t.bits (2 ^ (t.bits - 1)) else 0) ||| BitVec.ofNat t.bits t.one).toNat =
    t.signBit neg + t.one := by
  simp only [tysArith, List.mem_cons, List.not_mem_nil, or_false] at ht
  rcases ht with rfl | rfl | rfl | rfl <;> cases neg <;> decide

end

/-- R254: the class of a code of a signed format, as a bit. -/
theorem fpClass_signed {t : Ty} (ht : t ∈ signedTypes) (a : Nat) :
    let m := a % 2 ^ (t.bits - 1)
    let side := fun neg pos => if a / 2 ^ (t.bits - 1) % 2 = 1 then neg else pos
    fpClass t a = 2 ^ (if t = .e4m3 ∧ m = 0x7F then 1
      else if t.ieee = true ∧ t.maxCode + 1 < m then (if t.maxCode + 1 + 2 ^ (t.mbits - 1) ≤ m then 1 else 0)
      else if t.ieee = true ∧ m = t.maxCode + 1 then side 2 9
      else if m = 0 then side 5 6 else if m < 2 ^ t.mbits then side 4 7 else side 3 8) := by
  obtain ⟨mant, -, notE8⟩ := signed_facts ht
  have normal := (mantissa_facts mant).2.2
  intro m side
  have low : m < 2 ^ (t.bits - 1) := Nat.mod_lt _ (Nat.two_pow_pos _)
  have mag : t.magOf a = m := signed_mag ht a
  have signs : ∀ i j, (if t.negOf a = true then 2 ^ i else 2 ^ j) = 2 ^ side i j := fun i j => by
    simp only [signed_neg ht, decide_eq_true_eq, side, apply_ite (2 ^ · : Nat → Nat)]
  have sub : isSubnormal t a = true ↔ m < 2 ^ t.mbits ∧ m ≠ 0 := by
    simp [isSubnormal, Nat.div_eq_zero_iff, notE8, mag]
  unfold fpClass fpVal
  dsimp only
  rw [if_neg notE8, mag]
  clear_value m
  by_cases special : t.ieee = true ∧ m > t.maxCode
  · have notE4 : ¬ (t = .e4m3 ∧ m = 0x7F) := fun h => by rw [h.1] at special; exact absurd special.1 (by decide)
    have man := mantissa_above special.1 low special.2
    rw [if_pos special, if_neg notE4]
    by_cases hz : m % 2 ^ t.mbits = 0
    · have at_ : m = t.maxCode + 1 := by omega
      rw [if_pos hz, if_neg fun h => absurd h.2 (by omega), if_pos ⟨special.1, at_⟩]
      exact signs 2 9
    · rw [if_neg hz, if_pos ⟨special.1, by omega⟩]
      have quiet : 2 ^ (t.mbits - 1) ≤ m % 2 ^ t.mbits ↔ t.maxCode + 1 + 2 ^ (t.mbits - 1) ≤ m := by omega
      simp only [decide_eq_true_eq, quiet]
      split <;> rfl
  · rw [if_neg special]
    by_cases e4 : t = .e4m3 ∧ m = 0x7F
    · rw [if_pos e4, if_pos e4]
      rfl
    · have notNan : ¬ (t.ieee = true ∧ t.maxCode + 1 < m) := fun h => special ⟨h.1, by omega⟩
      have notInf : ¬ (t.ieee = true ∧ m = t.maxCode + 1) := fun h => special ⟨h.1, by omega⟩
      rw [if_neg e4, if_neg e4, if_neg notNan, if_neg notInf]
      by_cases he : m < 2 ^ t.mbits
      · rw [if_pos (Nat.div_eq_of_lt he), Nat.mod_eq_of_lt he]
        dsimp only
        by_cases hm : m = 0
        · rw [if_pos hm, if_pos hm]
          exact signs 5 6
        · rw [if_neg hm, if_neg hm, if_pos he, if_pos (sub.mpr ⟨he, hm⟩)]
          exact signs 4 7
      · have pos := Nat.two_pow_pos t.mbits
        have high : ¬ m / 2 ^ t.mbits = 0 := fun h => he ((Nat.div_eq_zero_iff.mp h).resolve_left pos.ne')
        rw [if_neg high, if_neg (show ¬ m = 0 by omega), if_neg he]
        dsimp only
        rw [if_neg (show ¬ 2 ^ t.mbits + m % 2 ^ t.mbits = 0 by omega), if_neg fun h => he (sub.mp h).1]
        exact signs 3 8

/-- R118, R254: the class of a scale. -/
theorem fpClass_e8m0 (a : Nat) : fpClass .e8m0 a = 2 ^ (if a % 2 ^ 8 = 0xFF then 1 else 8) := by
  unfold fpClass fpVal
  rw [if_pos rfl, show Ty.e8m0.magOf a = a % 2 ^ 8 from rfl]
  by_cases h : a % 2 ^ 8 = 0xFF
  · rw [if_pos h, if_pos h]
    rfl
  · rw [if_neg h, if_neg h]
    simp [isSubnormal]

/-- R118, R254: the class of a scale that has a mantissa. -/
theorem fpClass_e3m5 (a : Nat) : fpClass .e3m5 a = 2 ^ (if a % 2 ^ 8 = 0 then 6 else if a % 2 ^ 8 < 0x20 then 7 else 8) := by
  have mag : Ty.e3m5.magOf a = a % 2 ^ 8 := rfl
  have notMore : ¬ (Ty.e3m5.ieee = true ∧ Ty.e3m5.magOf a > Ty.e3m5.maxCode) := fun h => Bool.false_ne_true h.1
  have pos : Ty.e3m5.negOf a = false := rfl
  unfold fpClass fpVal
  rw [if_neg (by decide), if_neg notMore, if_neg fun h => absurd h.1 (by decide), isSubnormal, pos, mag]
  generalize a % 2 ^ 8 = m
  by_cases he : m < 0x20
  · have small : m < 2 ^ Ty.mbits .e3m5 := he
    rw [if_pos (Nat.div_eq_of_lt small), Nat.mod_eq_of_lt small]
    by_cases hm : m = 0
    · simp [hm]
    · simp [hm, he, Nat.div_eq_of_lt small]
  · have high : ¬ m / 2 ^ Ty.mbits .e3m5 = 0 := by simp only [Ty.mbits]; omega
    rw [if_neg high]
    simp [high, he, show m ≠ 0 by omega]

/-- R254: the class of a code is that of the rule's table. -/
theorem fpClass_float {t : Ty} (hf : t.isFloat = true) (a : Nat) :
    let x := a % 2 ^ t.bits
    let m := x % 2 ^ (t.bits - 1)
    let side := fun neg pos => if x / 2 ^ (t.bits - 1) % 2 = 1 then neg else pos
    fpClass t a = 2 ^ (if t = .e8m0 then (if x = 0xFF then 1 else 8)
      else if t = .e3m5 then (if x = 0 then 6 else if x < 0x20 then 7 else 8)
      else if t = .e4m3 ∧ m = 0x7F then 1
      else if t.ieee = true ∧ t.maxCode + 1 < m then (if t.maxCode + 1 + 2 ^ (t.mbits - 1) ≤ m then 1 else 0)
      else if t.ieee = true ∧ m = t.maxCode + 1 then side 2 9
      else if m = 0 then side 5 6 else if m < 2 ^ t.mbits then side 4 7 else side 3 8) := by
  by_cases e8 : t = .e8m0
  · subst e8
    exact fpClass_e8m0 a
  · by_cases e3 : t = .e3m5
    · subst e3
      exact fpClass_e3m5 a
    · have ht : t ∈ signedTypes := by cases t <;> revert hf <;> simp_all [signedTypes, Ty.isFloat]
      have bits := (signed_bits ht).1
      have low : a % 2 ^ t.bits % 2 ^ (t.bits - 1) = a % 2 ^ (t.bits - 1) :=
        Nat.mod_mod_of_dvd a (Nat.pow_dvd_pow 2 (Nat.sub_le _ _))
      have top : a % 2 ^ t.bits / 2 ^ (t.bits - 1) % 2 = a / 2 ^ (t.bits - 1) % 2 := by
        rw [bits, Nat.add_sub_cancel, Nat.pow_succ, Nat.mod_mul_right_div_self, Nat.mod_mod]
      dsimp only
      rw [if_neg e8, if_neg e3, low, top]
      exact fpClass_signed ht a

end Sys2Proof

namespace Sys2Proof.Machine

/-! ### What a comparison leaves (R219, R258) -/

theorem mask_setMask (r : Regs) (n k : Nat) (x : DWord) : (r.setMask n x).mask k = if k = n then x else r.mask k := by
  rw [Regs.mask, Regs.mask, Regs.setMask]
  by_cases h : k = n
  · rw [if_pos h, h, NMap.get_put_same]
  · rw [if_neg h, NMap.get_put_other _ _ _ h]

theorem getLsbD_laneMask {w x : Nat} (hw : w ≤ 64) : (laneMask w).getLsbD x = decide (x < w) := by
  rw [laneMask, BitVec.getLsbD_ofNat, Nat.testBit_two_pow_sub_one]
  by_cases hx : x < w
  · simp [hx, show x < 64 by omega]
  · simp [hx]

/-- A lane in which an instruction acts is one of the warp's. -/
theorem actLanes_width {e : Env} {o : Ops} (hw : e.th.width ≤ 64) {l : Nat} (h : l ∈ e.actLanes o) : l < e.th.width := by
  rw [Env.actLanes] at h
  split at h
  · split at h
    · cases h
    · rename_i some
      rw [List.mem_singleton.mp h]
      by_contra none
      have empty : laneMask e.th.width = 0 := by rw [show e.th.width = 0 by omega]; rfl
      exact some (by rw [Thread.active, empty]; exact BitVec.and_zero)
  · exact List.mem_range.mp (List.mem_filter.mp h).1

/-- A comparison has written its results, and the scalar side sees the first of them as it was. -/
theorem compare_done {s : State} {i : Instr} {o : Ops} {e : Env} {vals : List RegVal} {body : Env → State → Res}
    (h : s.issues i o e) (hexec : exec i s = issue s i o body) (hb : body e s = .done s vals) (hc : isCompare i = true) :
    ∃ t th, exec i s = .next t ∧ OnlyThread s t e.tid ∧ t.thread e.tid = some th ∧ th.pc = s.cur.pc + 4 * o.len ∧
      th.wait = .ready ∧ th.regs = Regs.putAll e.th.width e.th.regs vals ∧
      ∀ v rest, vals = v :: rest → e.th.pend = [] → ∀ r,
        th.staleVal r = if v.reg = r then some (e.th.regs.sideVal v.reg) else none := by
  have thread := issues_thread h
  obtain ⟨long, plain⟩ : isLong i = true ∧ isBoundary i = false := by cases i <;> cases hc <;> exact ⟨rfl, rfl⟩
  have run := hexec.trans (issue_done h hb)
  by_cases hv : vals = []
  · subst hv
    rw [results_nil long, advance_plain plain] at run
    have put := fun f g : Thread → Thread => ((puts_self thread).modThread f).modThread g
    exact ⟨_, _, run, (put _ _).only, (put _ _).thread, rfl, rfl, by rw [Thread.setFlag_frame]; rfl, nofun⟩
  · rw [results_long long hv, hc, if_pos rfl, if_pos rfl, advance_plain plain] at run
    have put := fun f g : Thread → Thread => ((puts_fresh thread).modThread f).modThread g
    refine ⟨_, _, run, (put _ _).only, (put _ _).thread, rfl, rfl, rfl, ?_⟩
    rintro v rest rfl none r
    simp [Thread.staleVal, Thread.passWords, none]

/-- R219, R258: an instruction that answers the results of a comparison completes as one. -/
theorem comparesTo_of_done {s : State} {i : Instr} {o : Ops} {e : Env} {holds : Nat → Bool} {body : Env → State → Res}
    (h : s.issues i o e) (hexec : exec i s = issue s i o body)
    (hb : body e s = .done s (compareVals o.dst ((e.actLanes o).map fun l => (l, holds l)))) (hc : isCompare i = true)
    (hw : e.th.width ≤ 64) : ComparesTo s i o e holds := by
  obtain ⟨t, th, run, only, thread, pc, ready, regs, stale⟩ := compare_done h hexec hb hc
  refine ⟨t, th, run, only, thread, pc, ready, fun n hd => ?_, fun n hd some all => ?_⟩
  · have vals : compareVals o.dst ((e.actLanes o).map fun l => (l, holds l)) =
      [.k n (maskOf ((e.actLanes o).filter holds))] := by
      rw [hd, compareVals, List.filter_map, List.map_map]
      simp [Function.comp_def]
    have whole : th.regs = e.th.regs.setMask n (maskOf ((e.actLanes o).filter holds) &&& laneMask e.th.width) := by
      rw [regs, vals]; rfl
    refine ⟨fun l => ?_, fun k hk => by rw [whole, mask_setMask, if_neg hk], fun k none => ?_⟩
    · rw [whole, mask_setMask, if_pos rfl, BitVec.getLsbD_and, getLsbD_laneMask hw, Bool.and_eq_true, decide_eq_true_eq]
      constructor
      · rintro ⟨bit, hl⟩
        rw [getLsbD_maskOf _ (by omega), decide_eq_true_eq] at bit
        exact List.mem_filter.mp bit
      · intro hl
        have low := actLanes_width hw hl.1
        exact ⟨by rw [getLsbD_maskOf _ (by omega), decide_eq_true_eq]; exact List.mem_filter.mpr hl, low⟩
    · rw [Thread.scalarMask, stale _ _ vals none, whole, mask_setMask]
      by_cases hk : k = n
      · simp [RegVal.reg, Regs.sideVal, hk]
      · simp [RegVal.reg, hk, Ne.symm hk]
  · have vals : compareVals o.dst ((e.actLanes o).map fun l => (l, holds l)) = [.s n (if holds 0 then 1 else 0)] := by
      rw [hd, Env.actLanes, if_pos all, if_neg some, List.map_singleton, compareVals, List.flatMap_singleton, destVals_scal_n32]
      · cases holds 0 <;> rfl
      · nofun
    refine ⟨by rw [regs, vals]; rfl, fun none => ?_⟩
    rw [stale _ _ vals none]
    exact if_pos rfl

/-- Settles O14: signs and classes by the fields of a code, and comparisons in the extended reals. -/
theorem signsAndComparisons : Obligations.SignsAndComparisons := by
  refine ⟨fun s e o ht => ⟨fun h => ?_, fun h => ?_, fun h => ?_⟩, fun s e o hf h => ?_,
    fun s e o p q hw => ⟨fun h => ?_, fun h quiet => ?_⟩,
    fun env t q a b ht => ?_⟩
  · exact completes_of_done h rfl (by simp only [fpAbs_eq ht]; rfl) rfl
  · exact completes_of_done h rfl (by simp only [fpNeg_eq ht]; rfl) rfl
  · refine completes_of_done h rfl ?_ rfl
    simp only [Env.each]
    congr 2
    funext l
    congr 1
    rw [fpSign]
    split <;> simp only [signed_one ht]
  · refine completes_of_done h rfl ?_ rfl
    simp only [Env.each]
    congr 2
    funext l
    congr 1
    exact fpClass_float hf (e.srcA o l)
  · refine comparesTo_of_done h rfl ?_ rfl hw
    refine congrArg (fun holds => Res.done s (compareVals o.dst ((e.actLanes o).map fun l => (l, holds l))))
      (funext fun l => ?_)
    show intCompare p _ _ = _
    cases p <;> rfl
  · have none := (trapLanes_none e.fp _ (e.actLanes o)).mpr quiet
    refine comparesTo_of_done h rfl ?_ rfl hw
    simp only [List.map_map, Function.comp_def, none]
    rfl
  · exact fpCompare_reals ht env q a b

end Sys2Proof.Machine
end


section
/-! PROOF. The faults of per-lane matrix instructions (R281, R282, R433), and O34. -/

namespace Sys2Proof.Machine

/-! ### Faults of lanes -/

theorem mulLeft_ty (f : MulForm) (m : Mat) : (mulLeft f m).ty = m.ty := by cases f <;> rfl
theorem mulRight_ty (f : MulForm) (m : Mat) : (mulRight f m).ty = m.ty := by cases f <;> rfl

theorem faultLanes_eq_nil {lanes : List Nat} {check : Nat → Option LaneFault} {f : LaneFault} :
    faultLanes (lanes.map fun l => (l, check l)) f = [] ↔ ∀ l ∈ lanes, check l ≠ some f := by
  simp only [List.eq_nil_iff_forall_not_mem, mem_faultLanes, not_and, ne_eq]

/-- R281: a result overflows when it does not fit. -/
theorem overflows_iff {e : Env} {d : Opd} {rows cols : Nat} {t : Ty} : e.overflows d rows cols t = true ↔
    ¬ e.fits d rows cols t := by
  simp only [Env.overflows, Env.fits, Bool.or_eq_true, decide_eq_true_eq]
  generalize rows * cols * t.bits = size
  omega

/-- R281, R282: an instruction that takes the trap of its faulty lanes before all else. -/
theorem shapeTraps_of_shapeTrap {s : State} {i : Instr} {o : Ops} {e : Env} {body : Env → State → Res}
    {check : Nat → Option LaneFault}
    {differs overflow : Nat → Bool} {differ small : Nat → Prop} (hexec : exec i s = issue s i o body)
    (hb : ∀ t, s.shapeTrap ((e.th.activeLanes o).map fun l => (l, check l)) = some t → body e s = .trap s t)
    (hcheck : ∀ l, check l = laneFault (differs l) (overflow l)) (hd : ∀ l, differs l = true ↔ differ l)
    (hs : ∀ l, overflow l = true ↔ small l) : ShapeTraps s i o e differ small := by
  have mismatch : ∀ l, check l = some .mismatch ↔ differ l := fun l => by rw [hcheck, laneFault_mismatch, hd]
  have traps : ∀ {f : LaneFault} {bad : Nat → Prop} {cause : Nat}, (∀ l, check l = some f ↔ bad l) → s.issues i o e →
      s.shapeTrap ((e.th.activeLanes o).map fun l => (l, check l)) =
        some (s.trapOf cause 0 (maskOf (faultLanes ((e.th.activeLanes o).map fun l => (l, check l)) f))) →
      TrapsFor s i e (e.th.activeLanes o) bad cause 0 := fun hbad h ht =>
    ⟨_, hexec.trans (issue_trap h (hb _ ht)), fun l hl => by rw [getLsbD_maskOf _ hl, decide_eq_true_eq, mem_faultLanes, hbad]⟩
  refine fun h => ⟨fun ⟨l, hl, hbad⟩ => traps mismatch h ?_, fun same ⟨l, hl, hbad⟩ => ?_⟩
  · rw [State.shapeTrap, if_pos fun hnil => faultLanes_eq_nil.mp hnil l hl ((mismatch l).mpr hbad)]
  · have none := faultLanes_eq_nil.mpr fun l hl => mt (mismatch l).mp (same l hl)
    have overflows : ∀ l ∈ e.th.activeLanes o, (check l = some .overflow ↔ small l) := fun l hl => by
      rw [hcheck, laneFault_overflow, hs, hd, and_iff_right (same l hl)]
    refine ⟨maskOf (faultLanes ((e.th.activeLanes o).map fun l => (l, check l)) .overflow),
      hexec.trans (issue_trap h (hb _ ?_)), fun x hx => ?_⟩
    · rw [State.shapeTrap, if_neg (not_not.mpr none),
        if_pos fun hnil => faultLanes_eq_nil.mp hnil l hl ((overflows l hl).mpr hbad)]
    · rw [getLsbD_maskOf _ hx, decide_eq_true_eq, mem_faultLanes]
      exact and_congr_right (overflows x)

/-- R281, R282: the faults of an instruction of `issueMat`. -/
theorem shapeTraps_of_issueMat {s : State} {i : Instr} {o : Ops} {e : Env} {mask : Opd} {check : Env → Nat → Option LaneFault}
    {run : Env → Nat → LaneRes} {differs overflow : Nat → Bool} {differ small : Nat → Prop}
    (hexec : exec i s = issueMat s i o mask check run) (hcheck : ∀ l, check e l = laneFault (differs l) (overflow l))
    (hd : ∀ l, differs l = true ↔ differ l) (hs : ∀ l, overflow l = true ↔ small l) : ShapeTraps s i o e differ small := by
  refine shapeTraps_of_shapeTrap hexec (fun t ht => ?_) hcheck hd hs
  rw [State.shapeTrap] at ht
  dsimp only
  split at ht
  · rename_i h6
    rw [if_pos h6, Option.some.inj ht]
  · rename_i h6
    split at ht
    · rename_i h7
      rw [if_neg h6, if_pos h7, Option.some.inj ht]
    · cases ht

/-- R433: the faults of an access of a matrix whose record passes its checks. -/
theorem shapeTraps_of_matAccess {s : State} {i : Instr} {o : Ops} {e : Env} {write : Bool}
    {check : Env → Nat → Option LaneFault}
    {elems : Env → Nat → List Elem} {dest : Env → MemDest} {regs : Env → List RegId} {differs overflow : Nat → Bool}
    {differ small : Nat → Prop}
    (hrec : (e.recAt (8 * o.brec)).check write (decide ((e.recAt (8 * o.brec)).esz = elemBytes o.ty)) = none)
    (hexec : exec i s = issue s i o fun e s => s.matAccess e o write (check e) (elems e) (dest e) (regs e))
    (hcheck : ∀ l, check e l = laneFault (differs l) (overflow l))
    (hd : ∀ l, differs l = true ↔ differ l) (hs : ∀ l, overflow l = true ↔ small l) : ShapeTraps s i o e differ small := by
  refine shapeTraps_of_shapeTrap hexec (fun t ht => ?_) hcheck hd hs
  simp only [State.matAccess, esizeOk, hrec, ht]

/-- Settles O34: each of the instructions checks its lanes before all else. -/
theorem laneTraps : Obligations.LaneTraps := by
  intro s e o p f
  dsimp only
  have square : ∀ l, (!algebraOk (e.mat o.a l) o.ty) = true ↔
      (e.mat o.a l).rows ≠ (e.mat o.a l).cols ∨ 8 < (e.mat o.a l).rows ∨ (e.mat o.a l).ty ≠ o.ty := fun l => by
    simp only [algebraOk, Bool.not_eq_true', Bool.and_eq_false_iff, decide_eq_false_iff_not, not_le, ne_eq, or_assoc]
  have runs : ∀ l, e.runOver o (e.mat o.a l) = true ↔
      ∃ n, o.c = .v n ∧ e.la.obj.vregs < n + scaleRun (blockLen o) (e.mat o.a l).rows (e.mat o.a l).cols := fun l => by
    rw [Env.runOver]
    cases o.c <;> simp
  have none_ : ∀ _ : Nat, false = true ↔ False := fun _ => by simp
  refine ⟨fun h => arithTraps_of_trap h rfl fun traps => ?_,
    shapeTraps_of_issueMat (mask := .none) rfl (fun _ => rfl) none_ fun l => ?_,
    shapeTraps_of_issueMat (mask := .none) rfl (fun _ => rfl) none_ fun _ => overflows_iff,
    shapeTraps_of_issueMat (mask := .none) rfl (fun _ => rfl) none_ fun _ => overflows_iff,
    shapeTraps_of_issueMat (mask := .none) rfl (fun _ => rfl) (fun _ => ?_) none_,
      shapeTraps_of_issueMat (mask := .none) rfl (fun _ => rfl) (fun _ => ?_) none_,
    shapeTraps_of_issueMat (mask := .none) rfl (fun _ => rfl) (fun _ => decide_eq_true_iff) fun _ => overflows_iff,
    shapeTraps_of_issueMat (mask := .none) rfl (fun _ => rfl) (fun _ => ?_) fun _ => overflows_iff,
    shapeTraps_of_issueMat (mask := .none) rfl (fun _ => rfl) (fun _ => ?_) fun _ => overflows_iff,
    shapeTraps_of_issueMat (mask := .none) rfl (fun _ => rfl) (fun _ => decide_eq_true_iff) fun _ => overflows_iff,
    shapeTraps_of_issueMat (mask := .none) rfl (fun _ => rfl) (fun _ => ?_) fun _ => overflows_iff,
    shapeTraps_of_issueMat (mask := .none) rfl (fun _ => rfl) (fun _ => ?_) fun _ => overflows_iff, fun i hi => ?_,
    shapeTraps_of_issueMat (mask := o.c) rfl (fun _ => rfl) (fun l => ?_) fun _ => overflows_iff, fun i hi => ?_,
    fun hrec => shapeTraps_of_matAccess hrec rfl (fun _ => rfl) (fun _ => ?_) fun _ => overflows_iff,
    fun hrec => shapeTraps_of_matAccess hrec rfl (fun _ => rfl) (fun _ => ?_) none_⟩
  · simp only [List.map_map, Function.comp_def]
    rw [if_pos traps]
  · rw [overflows_iff]
    norm_num [bitsOf]
  · simp only [Bool.or_eq_true, decide_eq_true_eq]
  · simp only [Bool.or_eq_true, decide_eq_true_eq]
  · simp only [Bool.or_eq_true, decide_eq_true_eq, or_assoc]
  · simp only [Bool.or_eq_true, decide_eq_true_eq, or_assoc]
  · simp [mulLeft_ty, mulRight_ty]
  · simp [mulLeft_ty, mulRight_ty, or_assoc]
  · simp only [List.mem_cons, List.not_mem_nil, or_false] at hi
    rcases hi with rfl | rfl | rfl | rfl
    · exact shapeTraps_of_issueMat (mask := o.c) rfl (fun _ => rfl) square fun _ => overflows_iff
    · exact shapeTraps_of_issueMat (mask := o.c) rfl (fun _ => rfl) square fun _ => overflows_iff
    · exact shapeTraps_of_issueMat (mask := o.c) rfl (fun _ => rfl) square fun _ => overflows_iff
    · exact shapeTraps_of_issueMat (mask := o.c) rfl (fun _ => rfl) square fun _ => overflows_iff
  · rw [Bool.or_eq_true, Bool.or_eq_true, square, decide_eq_true_eq, decide_eq_true_eq, or_assoc]
  · have block : ∀ l, (e.overflows o.dst (e.mat o.a l).rows (e.mat o.a l).cols o.ty || e.runOver o (e.mat o.a l)) = true ↔
      _ := fun l =>
      Bool.or_eq_true_iff.trans (or_congr overflows_iff (runs l))
    simp only [List.mem_cons, List.not_mem_nil, or_false] at hi
    rcases hi with rfl | rfl
    · exact shapeTraps_of_issueMat (mask := .none) rfl (fun _ => rfl) (fun _ => decide_eq_true_iff) block
    · exact shapeTraps_of_issueMat (mask := .none) rfl (fun _ => rfl) (fun _ => decide_eq_true_iff) block
  · simp only [Bool.and_eq_true, decide_eq_true_eq]
  · simp only [Bool.or_eq_true, Bool.and_eq_true, decide_eq_true_eq]

end Sys2Proof.Machine
end


section
/-! PROOF. Per-lane matrix arithmetic (R283, R290 to R292, R136): what a lane computes, exact chains, and O35. -/

namespace Sys2Proof.Machine

/-! ### What per-lane matrix instructions do (R280 to R283) -/

theorem laneFault_none {differ small : Bool} (hd : differ = false) (hs : small = false) : laneFault differ small = none := by
  rw [hd, hs]; rfl

theorem overflows_false {e : Env} {d : Opd} {rows cols : Nat} {t : Ty} (h : e.fits d rows cols t) :
    e.overflows d rows cols t = false :=
  Bool.eq_false_iff.mpr fun ho => overflows_iff.mp ho h

/-- R280 to R283: an instruction of `issueMat` without singular lanes. -/
theorem matRuns_of_issueMat {s : State} {i : Instr} {o : Ops} {e : Env} {check : Env → Nat → Option LaneFault}
    {run : Env → Nat → LaneRes} {ok : Nat → Prop} {vals : Nat → List RegVal} {rnds : Nat → Calc}
    (hexec : exec i s = issueMat s i o .none check run) (hok : ∀ l, ok l → check e l = none)
    (hrun : ∀ l, run e l = { vals := vals l, conds := (rnds l).conds, gen := (rnds l).gen }) (hi : isBoundary i = false) :
    MatRuns s i o e ok vals rnds [] := by
  intro h hall
  have sound : ∀ f : LaneFault, faultLanes ((e.th.activeLanes o).map fun l => (l, check e l)) f = [] := fun f =>
    faultLanes_eq_nil.mpr fun l hl => by rw [hok l (hall l hl)]; nofun
  have all : run e = fun l => { vals := vals l, conds := (rnds l).conds, gen := (rnds l).gen } := funext hrun
  refine ⟨fun quiet => ?_, arithTraps_of_trap h hexec fun traps => ?_⟩
  · have none := (trapLanes_none e.fp (fun l => (rnds l).conds) (e.th.activeLanes o)).mpr quiet
    by_cases hrs : o.rnd = 5
    · rw [if_pos hrs]
      refine completesOver_of_done (f := fun r => (e.th.activeLanes o).foldl
        (fun r l => r.setGen l (rnds l).gen) r) h hexec ?_ hi
      simp only [sound, all, List.map_map, Function.comp_def, none, List.flatMap_map, List.foldl_map, hrs]
      simp
    · rw [if_neg hrs]
      refine completes_of_done h hexec ?_ hi
      simp only [sound, all, List.map_map, Function.comp_def, none, List.flatMap_map]
      simp [hrs]
  · simp only [sound, all, List.map_map, Function.comp_def]
    simp [traps]

/-! ### Elements of a product (R291, R292) -/

/-- Element (i, j) of a grid of elements, row by row. -/
theorem grid_getElem? {α : Type} (f : Nat → Nat → α) {rows cols i j : Nat} (hi : i < rows) (hj : j < cols) :
    ((List.range rows).flatMap fun i => (List.range cols).map fun j => f i j)[i * cols + j]? = some (f i j) := by
  induction rows with
  | zero => omega
  | succ n ih =>
    have len : ((List.range n).flatMap fun i => (List.range cols).map fun j => f i j).length = n * cols := by simp
    rw [List.range_succ, List.flatMap_append, List.flatMap_singleton]
    by_cases h : i < n
    · have inside : i * cols + j < n * cols := by
        have := Nat.mul_le_mul_right cols (show i + 1 ≤ n from h)
        rw [Nat.add_mul, Nat.one_mul] at this
        omega
      rw [List.getElem?_append_left (by rw [len]; exact inside), ih h]
    · obtain rfl : i = n := by omega
      rw [List.getElem?_append_right (by rw [len]; omega), len, Nat.add_sub_cancel_left]
      simp [hj]

theorem genStep_lt (x : Nat) : genStep x < 2 ^ 32 := by
  have low : x % 2 ^ 32 < 2 ^ 32 := Nat.mod_lt _ (by decide)
  have same : genStep x = genStep (x % 2 ^ 32) := by rw [genStep, genStep, Nat.mod_mod]
  rw [same, genStep_eq_rsStep low]
  exact rsStep_lt low

/-- R122: the state that a rounding uses is one of the generator's. -/
theorem round_state {c : Calc} (hc : c.gen < 2 ^ 32) (mode : Nat) : (if mode = 5 then genStep c.gen else c.gen) < 2 ^ 32 := by
  split
  · exact genStep_lt _
  · exact hc

theorem fpChain_gen (env : FpEnv) (ct ta tb tc : Ty) (mode t0 : Nat) (ab : List (Nat × Nat)) {c : Calc} (hc : c.gen < 2 ^ 32) :
    (fpChain env ct ta tb tc mode t0 ab c).2.gen < 2 ^ 32 := by
  induction ab generalizing tc t0 c with
  | nil => exact hc
  | cons p r ih => exact ih ct _ (round_state hc mode)

theorem productEl_gen (env : FpEnv) (t ta tb : Ty) (mode : Nat) (sat : Bool) (ab : List (Nat × Nat)) (c0 : Option Nat)
    {c : Calc}
    (hc : c.gen < 2 ^ 32) : (productEl env t ta tb mode sat ab c0 c).2.gen < 2 ^ 32 := by
  unfold productEl
  dsimp only
  split
  · exact hc
  · have chain : ∀ tc t0, (fpChain env (chainTy ta) ta tb tc mode t0 ab c).2.gen < 2 ^ 32 :=
      fun tc t0 => fpChain_gen env _ ta tb tc mode t0 ab hc
    cases c0 <;> dsimp only <;> split
    · exact chain _ _
    · exact round_state (chain _ _) mode
    · exact chain _ _
    · exact round_state (chain _ _) mode

theorem productEls_getD (env : FpEnv) (t : Ty) (mode : Nat) (sat : Bool) (a b : Mat) (c0 : Option (List Nat))
    {at_ : List (Nat × Nat)} {c : Calc}
    (hc : c.gen < 2 ^ 32) {n i j : Nat} (h : at_[n]? = some (i, j)) : ∃ c' : Calc, c'.gen < 2 ^ 32 ∧
      (productEls env t mode sat a b c0 at_ c).1.getD n 0 =
        (productEl env t a.ty b.ty mode sat (factors a b i j) (c0.map fun l => l.getD (i * b.cols + j) 0) c').1 := by
  induction at_ generalizing n c with
  | nil => cases h
  | cons p rest ih =>
    cases n with
    | zero =>
      obtain rfl := Option.some.inj h
      exact ⟨c, hc, rfl⟩
    | succ n =>
      have gen := productEl_gen env t a.ty b.ty mode sat (factors a b p.1 p.2)
        (c0.map fun l => l.getD (p.1 * b.cols + p.2) 0) hc
      exact ih gen h

/-- R292: an element of a product, of the sources of its factors. -/
theorem product_getD (env : FpEnv) (t : Ty) (mode : Nat) (sat : Bool) (a b : Mat) (mc : Option (List Nat)) {c : Calc}
    (hc : c.gen < 2 ^ 32)
    {i j : Nat} (hi : i < a.rows) (hj : j < b.cols) : ∃ c' : Calc, c'.gen < 2 ^ 32 ∧
      (product env t mode sat a b mc c).1.els.getD (i * b.cols + j) 0 =
        (productEl env t a.ty b.ty mode sat (factors { a with els := a.sources env } { b with els := b.sources env } i j)
          (mc.map fun l => l.getD (i * b.cols + j) 0) c').1 :=
  productEls_getD env t mode sat { a with els := a.sources env } { b with els := b.sources env } mc hc
    (grid_getElem? (fun i j => (i, j)) hi hj)

/-! ### Integer chains -/

/-- R116, R292: a chain of `.i8` products is the exact sum, wrapped. -/
theorem intChain_wrap (ab : List (Nat × Nat)) (z : Int) :
    intChain false (wrapTo 32 z) ab = wrapTo 32 (z + (ab.map fun p => Ty.i8.value p.1 * Ty.i8.value p.2).sum) := by
  induction ab generalizing z with
  | nil => simp [intChain]
  | cons p r ih =>
    have fit : ∀ x, Ty.i32.fit false x = wrapTo 32 x := fun _ => rfl
    have tail := ih (z + Ty.i8.value p.1 * Ty.i8.value p.2)
    rw [intChain] at tail
    rw [intChain, List.foldl_cons, fit, wrapTo_value_add, tail, List.map_cons, List.sum_cons, add_assoc]

/-! ### Chains that are exact (R136) -/

end Sys2Proof.Machine

namespace Sys2Proof

/-- A code that is the number `v`. -/
def Ty.Held (t : Ty) (c : Nat) (v : ℚ) : Prop := ∃ m, t.number false c = some (m, v)

section
variable {t : Ty} (ht : t ∈ signedTypes)
include ht

theorem held_iff {c : Nat} {v : ℚ} : t.Held c v ↔ t.magOf c ≤ t.maxCode ∧
    v = if t.negOf c then -t.grid (t.magOf c) else t.grid (t.magOf c) := by
  rw [Ty.Held, number_eq ht]
  by_cases h : t.maxCode < t.magOf c
  · rw [if_pos h]
    exact ⟨nofun, fun hc => absurd hc.1 (Nat.not_le.mpr h)⟩
  · rw [if_neg h, if_neg (by simp)]
    refine ⟨fun ⟨m, hm⟩ => ⟨Nat.not_lt.mp h, (Prod.mk.inj (Option.some.inj hm)).2.symm⟩, fun hv => ⟨_, by rw [hv.2]⟩⟩

/-- The magnitude of a number that a format holds is one of its codes. -/
theorem Ty.Held.magnitude {c : Nat} {v : ℚ} (h : t.Held c v) : ∃ k, k ≤ t.maxCode ∧ t.grid k = |v| := by
  obtain ⟨hc, hv⟩ := (held_iff ht).mp h
  have nonneg : 0 ≤ t.grid (t.magOf c) := grid_zero (signed_facts ht).2.2 ▸ (grid_strictMono t).monotone (Nat.zero_le _)
  refine ⟨_, hc, ?_⟩
  rw [hv]
  split
  · rw [abs_neg, abs_of_nonneg nonneg]
  · rw [abs_of_nonneg nonneg]

/-- R121: a result that the format holds is that number, when none is flushed. -/
theorem Result.held {env : FpEnv} (hftz : env.ftz = false) {mode u : Nat} {sat z : Bool} {v : ℚ} {r : FpRes}
    (h : Result env t mode u sat z (v : ℝ) r) (hv : ∃ c, t.Held c v) : t.Held r.bits v := by
  obtain ⟨c, hc⟩ := hv
  obtain ⟨k, hk, hgrid⟩ := Ty.Held.magnitude ht hc
  obtain ⟨pos, neg, zero⟩ := h
  have noflush : ∀ neg x, ¬ (env.ftz = true ∧ t.flushes = true ∧ Tiny env t mode u neg x) := fun _ _ h => by
    rw [hftz] at h; cases h.1
  rcases lt_trichotomy v 0 with hlt | rfl | hgt
  · have real : (t.grid k : ℝ) = -(v : ℝ) := by rw [hgrid, abs_of_neg hlt]; push_cast; rfl
    obtain ⟨c, rounded⟩ := rounded_iff.mp (neg (by exact_mod_cast hlt))
    exact ⟨true, by rw [rounded.number_of_exact ht hk real (noflush _ _), hgrid, abs_of_neg hlt, if_pos rfl, neg_neg]⟩
  · rw [zero Rat.cast_zero]
    refine ⟨z, ?_⟩
    have code := number_code ht z (Nat.zero_le t.maxCode)
    rw [grid_zero (signed_facts ht).2.2, neg_zero, ite_self] at code
    exact code
  · have real : (t.grid k : ℝ) = (v : ℝ) := by rw [hgrid, abs_of_pos hgt]
    obtain ⟨c, rounded⟩ := rounded_iff.mp (pos (by exact_mod_cast hgt))
    exact ⟨false, by rw [rounded.number_of_exact ht hk real (noflush _ _), hgrid, abs_of_pos hgt, if_neg Bool.false_ne_true]⟩

theorem number_fpVal_signed (x : Nat) : t.number false x = (fpVal t x).number := by
  rcases signed_cases ht with h | h
  · exact number_fpVal h x
  · exact number_fpVal_factor h x

/-- R127: a source that is a number is held as arithmetic reads it. -/
theorem source_held {env : FpEnv} {x : Nat} {v : ℚ} (h : ∃ m, t.number env.daz x = some (m, v)) :
    t.Held (env.source t x) v := by
  obtain ⟨m, h⟩ := h
  exact ⟨m, by rw [number_fpVal_signed ht, ← number_source_signed ht, h]⟩

theorem satInf_held {sat : Bool} {x : Nat} {v : ℚ} (h : t.Held x v) : satInf t sat x = x := by
  obtain ⟨m, h⟩ := h
  rw [number_fpVal_signed ht] at h
  obtain ⟨k, e, hv, -⟩ := fin_of_number h
  rw [satInf, hv]

theorem held_zero : t.Held 0 0 := by
  have code := number_code ht false (Nat.zero_le t.maxCode)
  rw [grid_zero (signed_facts ht).2.2, neg_zero, ite_self] at code
  exact ⟨false, code⟩

end

theorem source_zero (env : FpEnv) (t : Ty) : env.source t 0 = 0 := by simp [FpEnv.source, isSubnormal, Ty.magOf]

/-- R136: a chain whose format holds every partial sum gives the exact sum. -/
theorem fpChain_held {env : FpEnv} (hftz : env.ftz = false) {t ta tb : Ty} (ht : t ∈ signedTypes) (hta : ta ∈ signedTypes)
    (htb : tb ∈ signedTypes)
    (mode : Nat) {ab : List (Nat × Nat)} {xy : List (ℚ × ℚ)}
    (hab : List.Forall₂ (fun p q => ta.Held p.1 q.1 ∧ tb.Held p.2 q.2) ab xy)
    {t0 : Nat} {z : ℚ} (h0 : t.Held t0 z) (hsum : ∀ k ≤ xy.length, ∃ c, t.Held c (z + ((xy.take k).map fun q => q.1 * q.2).sum))
    {c : Calc} (hc : c.gen < 2 ^ 32) :
    t.Held (fpChain env t ta tb t mode t0 ab c).1 (z + (xy.map fun q => q.1 * q.2).sum) := by
  induction hab generalizing t0 z c with
  | nil => simpa [fpChain] using h0
  | @cons p q ab xy hpq _ ih =>
    have hu := Machine.round_state hc mode
    obtain ⟨⟨m, hx⟩, ⟨n, hy⟩⟩ := hpq
    obtain ⟨l, hz⟩ := h0
    have first : ∃ c, t.Held c (q.1 * q.2 + z) := by
      obtain ⟨c, hc⟩ := hsum 1 (by simp)
      exact ⟨c, by simpa [add_comm] using hc⟩
    have step := Result.held (env := env.inner) ht hftz
      (fpFma3_result (env := env.inner) (mode := mode) ht hta htb ht hu false hx hy hz) first
    have rest := ih (c := (c.round mode fun u => fpFma3 env.inner t ta tb t mode u false p.1 p.2 t0).2) step (fun k hk => by
      obtain ⟨c, hc⟩ := hsum (k + 1) (by simpa using hk)
      exact ⟨c, by rwa [List.take_succ_cons, List.map_cons, List.sum_cons, ← add_assoc, add_comm z] at hc⟩) hu
    rw [List.map_cons, List.sum_cons, ← add_assoc, add_comm z]
    exact rest

/-- R291: what the formats of factors of an `.f32` or `.f64` product are. -/
theorem pairing_formats {t a b : Ty} (ht : t = .f32 ∨ t = .f64) (h : Machine.pairingOk t a b = true) :
    a ∈ signedTypes ∧ b ∈ signedTypes ∧ a.isFloat = true ∧ b.isFloat = true ∧ chainTy a = t := by
  have formats : ∀ t ∈ [Ty.f32, .f64], ∀ a ∈ Ty.i8 :: signedTypes, ∀ b ∈ Ty.i8 :: signedTypes, Machine.pairingOk t a b = true →
      a ∈ signedTypes ∧ b ∈ signedTypes ∧ a.isFloat = true ∧ b.isFloat = true ∧ chainTy a = t := by decide
  have known : a ∈ Ty.i8 :: signedTypes ∧ b ∈ Ty.i8 :: signedTypes := by
    unfold Machine.pairingOk at h
    split at h <;> simp [signedTypes] at h ⊢
  exact formats t (by simpa using ht) a known.1 b known.2 h

end Sys2Proof

namespace Sys2Proof.Machine

theorem productEl_int (env : FpEnv) (t tb : Ty) (mode : Nat) {ta : Ty} (h : ta = .i8) {sat : Bool} (ab : List (Nat × Nat))
    (c0 : Option Nat)
    (c : Calc) : productEl env t ta tb mode sat ab c0 c = (intChain sat (c0.getD 0) ab, c) := by
  unfold productEl
  exact if_pos h

section
variable {env : FpEnv} (hftz : env.ftz = false) {t ta tb : Ty} (ht : t = .f32 ∨ t = .f64) (hpair : pairingOk t ta tb = true)
include hftz ht hpair

/-- R136, R292: an element of an `.f32` or `.f64` product whose partial sums are all held is the exact sum. -/
theorem productEl_held (mode : Nat) (sat : Bool) {ab : List (Nat × Nat)} {xy : List (ℚ × ℚ)}
    (hab : List.Forall₂ (fun p q => ta.Held p.1 q.1 ∧ tb.Held p.2 q.2) ab xy) {c0 : Option Nat} {z : ℚ}
    (h0 : t.Held ((c0.map (env.source t)).getD 0) z)
    (hsum : ∀ k ≤ xy.length, ∃ c, t.Held c (z + ((xy.take k).map fun q => q.1 * q.2).sum)) {c : Calc} (hc : c.gen < 2 ^ 32) :
    t.Held (productEl env t ta tb mode sat ab c0 c).1 (z + (xy.map fun q => q.1 * q.2).sum) := by
  obtain ⟨hta, htb, float, -, chain⟩ := pairing_formats ht hpair
  have hs : t ∈ signedTypes := by rcases ht with rfl | rfl <;> decide
  have notInt : ta ≠ .i8 := by rintro rfl; cases float
  have held := fpChain_held hftz hs hta htb mode hab h0 hsum hc
  unfold productEl
  dsimp only
  rw [if_neg notInt, chain, if_pos rfl]
  cases c0 with
  | none => exact (satInf_held hs held).symm ▸ held
  | some y => exact (satInf_held hs held).symm ▸ held

omit hftz in
/-- The factors of an element, as arithmetic reads them, are the numbers that their codes are. -/
theorem factors_held {a b : Mat} (hta : a.ty = ta) (htb : b.ty = tb) {i j : Nat} {x y : Nat → ℚ} (hxy : ∀ k < a.cols,
      (∃ m, a.ty.number env.daz (a.els.getD (i * a.cols + k) 0) = some (m, x k)) ∧
        ∃ m, b.ty.number env.daz (b.els.getD (k * b.cols + j) 0) = some (m, y k)) :
    List.Forall₂ (fun p q => ta.Held p.1 q.1 ∧ tb.Held p.2 q.2)
      (factors { a with els := a.sources env } { b with els := b.sources env } i j)
        ((List.range a.cols).map fun k => (x k, y k)) := by
  subst hta htb
  obtain ⟨ha, hb, floatA, floatB, -⟩ := pairing_formats ht hpair
  rw [factors, List.forall₂_map_left_iff, List.forall₂_map_right_iff, List.forall₂_same]
  intro k hk
  have sources : ∀ (m : Mat) (n : Nat), m.ty.isFloat = true →
      (m.sources env).getD n 0 = env.source m.ty (m.els.getD n 0) := fun m n hf => by
    have at_zero := List.getD_map (f := env.source m.ty) (l := m.els) (n := n) (d := 0)
    rw [source_zero] at at_zero
    rw [Mat.sources, if_pos hf, at_zero]
  obtain ⟨hx, hy⟩ := hxy k (List.mem_range.mp hk)
  dsimp only
  rw [sources a _ floatA, sources b _ floatB]
  exact ⟨source_held ha hx, source_held hb hy⟩

end

/-- Settles O35: elements act by `issueMat`, and products by the chains of their elements. -/
theorem matrixArithmetic : Obligations.MatrixArithmetic := by
  intro s e o f
  dsimp only
  refine ⟨?_, ?_, ?_, ?_, ?_, ?_, ?_⟩
  · exact matRuns_of_issueMat rfl
      (fun l ⟨ha, hb, hr, hc, hfit⟩ => laneFault_none (by simp [ha, hb, hr, hc]) (overflows_false hfit)) (fun _ => rfl) rfl
  · exact matRuns_of_issueMat rfl
      (fun l ⟨ha, hb, hr, hc, hfit⟩ => laneFault_none (by simp [ha, hb, hr, hc]) (overflows_false hfit)) (fun _ => rfl) rfl
  · exact matRuns_of_issueMat rfl (fun l ⟨ha, hfit⟩ => laneFault_none (by simp [ha]) (overflows_false hfit)) (fun _ => rfl) rfl
  · refine matRuns_of_issueMat rfl (fun l ⟨hp, hc, hfit⟩ => laneFault_none ?_ (overflows_false hfit)) (fun _ => rfl) rfl
    simp [mulLeft_ty, mulRight_ty, hp, hc]
  · refine matRuns_of_issueMat rfl (fun l ⟨⟨hp, hc, hfit⟩, hr, hw, ht⟩ => laneFault_none ?_ (overflows_false hfit))
      (fun _ => rfl) rfl
    simp [mulLeft_ty, mulRight_ty, hp, hc, hr, hw, ht]
  · intro l ha hb ht hsat i j hi hj
    obtain ⟨c, -, hel⟩ := product_getD e.fp o.ty o.rnd o.sat (mulLeft f (e.mat o.a l)) (mulRight f (e.mat o.b l)) none
      (c := e.calc l) (e.th.regs.genOf_lt l) hi hj
    have whole : ∀ m : Mat, m.ty = .i8 → m.sources e.fp = m.els := fun m hm => by rw [Mat.sources, hm]; rfl
    have wrapped := intChain_wrap (factors (mulLeft f (e.mat o.a l)) (mulRight f (e.mat o.b l)) i j) 0
    rw [zero_add] at wrapped
    rw [if_neg Bool.false_ne_true, hel, whole _ ha, whole _ hb, productEl_int _ _ _ _ ha, hsat]
    exact wrapped
  · intro acc l i j x y z ht hmode hftz hpair hcols hi hj hxy hz hsum
    obtain ⟨c, hc, hel⟩ := product_getD e.fp o.ty o.rnd o.sat (mulLeft f (e.mat o.a l)) (mulRight f (e.mat o.b l))
      (if acc = true then some (e.mat o.c l).els else none) (c := e.calc l) (e.th.regs.genOf_lt l) hi hj
    have hs : o.ty ∈ signedTypes := by rcases ht with h | h <;> rw [h] <;> decide
    have start : o.ty.Held ((((if acc = true then some (e.mat o.c l).els else none).map fun els =>
        els.getD (i * (mulRight f (e.mat o.b l)).cols + j) 0).map (e.fp.source o.ty)).getD 0) z := by
      cases acc with
      | true => exact source_held hs hz
      | false => exact hz ▸ held_zero hs
    have whole := productEl_held hftz ht hpair o.rnd o.sat (factors_held ht hpair rfl rfl hxy) start (fun k hk => ?_) hc
    · rw [List.map_map] at whole
      rw [hel]
      exact whole
    · obtain ⟨c, m, held⟩ := hsum k (by simpa using hk)
      rw [List.length_map, List.length_range] at hk
      refine ⟨c, m, ?_⟩
      rw [← List.map_take, List.take_range, Nat.min_eq_left hk, List.map_map]
      exact held

end Sys2Proof.Machine
end


section
/-! PROOF. Block formats (R300 to R302): elements, scales, and O37. -/

namespace Sys2Proof

/-! ### Scales as numbers -/

theorem scaleTy_cases {k : Nat} (hk : k = 8 ∨ k = 32) : scaleTy k = .e3m5 ∨ scaleTy k = .e8m0 := by
  rcases hk with rfl | rfl
  · exact .inl rfl
  · exact .inr rfl

theorem fpVal_fin_neg {t : Ty} {x : Nat} {neg : Bool} {m : Nat} {e : Int} (h : fpVal t x = .fin neg m e) : neg = t.negOf x := by
  unfold fpVal at h
  dsimp only at h
  split_ifs at h with he8
  · obtain ⟨rfl, -, -⟩ := FpVal.fin.inj h
    rw [he8]
    rfl
  · exact (FpVal.fin.inj h).1.symm
  · exact (FpVal.fin.inj h).1.symm

/-- R118: a code of a format without a sign is the number of its grid. -/
theorem scale_fin {t : Ty} (ht : t = .e3m5 ∨ t = .e8m0) {q : Nat} (hq : q ≤ t.maxCode) :
    ∃ m e, fpVal t q = .fin false m e ∧ t.grid q = m * 2 ^ e := by
  have facts : t.signed = false ∧ t.maxCode < 2 ^ t.bits := by rcases ht with rfl | rfl <;> decide
  obtain ⟨unsigned, fits⟩ := facts
  have mag : t.magOf q = q := by simp [Ty.magOf, unsigned, Nat.mod_eq_of_lt (hq.trans_lt fits)]
  have sign : t.negOf q = false := by rw [Ty.negOf, unsigned, Bool.false_and]
  have is := fpVal_is (t := t) (x := q) (by rw [mag]; exact hq)
  rw [mag, sign, if_neg Bool.false_ne_true] at is
  obtain ⟨neg, m, e, hv, hval⟩ := is.fin
  obtain rfl : neg = false := (fpVal_fin_neg hv).trans sign
  exact ⟨m, e, hv, by rw [← hval, FpVal.exact_val]; simp⟩

/-! ### Elements (R301, R302) -/

/-- The formats of elements that are packed, and of those that they come from. -/
def packedTypes : List Ty := [.e2m1, .e4m3, .e5m2]
def sourceTypes : List Ty := [.f32, .f16, .bf16]

theorem packed_signed {d : Ty} (h : d ∈ packedTypes) : d ∈ signedTypes ∧ d.mbits ≤ 3 := by
  simp only [packedTypes, List.mem_cons, List.not_mem_nil, or_false] at h
  rcases h with rfl | rfl | rfl <;> decide

theorem source_arith {w : Ty} (h : w ∈ sourceTypes) : w ∈ tysArith ∧ w ∈ signedTypes := by
  simp only [sourceTypes, List.mem_cons, List.not_mem_nil, or_false] at h
  rcases h with rfl | rfl | rfl <;> decide

section
variable {d w : Ty} (hd : d ∈ packedTypes) (hw : w ∈ sourceTypes) {k : Nat} (hk : k = 8 ∨ k = 32) (env : FpEnv)
    {mode u : Nat} {x q : Nat} (hq : q ≤ (scaleTy k).maxCode)
include hd hw hk hq

/-- R301: a packed number is divided by its scale and rounded once. -/
theorem packEl_result (hu : u < 2 ^ 32) (hpos : 0 < (scaleTy k).grid q) {m : Bool} {v : ℚ}
    (hx : w.number false x = some (m, v)) :
    Result env d mode u true m (v / (scaleTy k).grid q : ℝ) (packEl env d w k mode u x q) := by
  obtain ⟨hs, small⟩ := packed_signed hd
  obtain ⟨hmant, signed, -⟩ := signed_facts hs
  obtain ⟨n, f, hscale, hgrid⟩ := scale_fin (scaleTy_cases hk) hq
  rw [number_fpVal_signed (source_arith hw).2] at hx
  obtain ⟨i, e, hv, rfl⟩ := fin_of_number hx
  have hn : n ≠ 0 := by
    rintro rfl
    rw [hgrid] at hpos
    simp at hpos
  have value : (((FpVal.fin m i e).exact.val / (scaleTy k).grid q : ℝ)) =
      if m then -((i * 2 ^ e) / (n * 2 ^ f) : ℝ) else (i * 2 ^ e) / (n * 2 ^ f) := by
    rw [hgrid, exact_val_real]
    cases m <;> simp [neg_div]
  rw [value, packEl, hv, hscale]
  dsimp only
  by_cases hi : i = 0
  · rw [if_pos hi, hi, Nat.cast_zero, zero_mul, zero_div, neg_zero, ite_self, signBit_eq fun _ => signed]
    exact ⟨fun h => absurd h (lt_irrefl 0), fun h => absurd h (lt_irrefl 0), fun _ => rfl⟩
  · rw [if_neg hi]
    obtain ⟨is, nonzero, digits⟩ := divMag_facts hi hn e f
    exact roundFp_result hmant is nonzero hu (Mag.below_of_digits (by omega) (.inr (by omega))) (fun _ => signed) env true m

omit hw in
/-- R301: a packed infinity saturates. -/
theorem packEl_inf {m : Bool} (hx : fpVal w x = .inf m) : packEl env d w k mode u x q = ⟨signOf d m + d.maxCode, 0⟩ := by
  obtain ⟨n, f, hscale, -⟩ := scale_fin (scaleTy_cases hk) hq
  rw [packEl, hx, hscale, ← signBit_eq fun _ => (signed_facts (packed_signed hd).1).2.1]
  rfl

/-- R302: an unpacked number is multiplied by its scale and rounded once. -/
theorem unpackEl_result (hu : u < 2 ^ 32) {m : Bool} {v : ℚ} (hx : d.number false x = some (m, v)) :
    Result env w mode u false m (v * (scaleTy k).grid q : ℝ) (unpackEl env w d k mode u x q) := by
  obtain ⟨n, f, hscale, hgrid⟩ := scale_fin (scaleTy_cases hk) hq
  rw [number_fpVal_signed (packed_signed hd).1] at hx
  obtain ⟨i, e, hv, rfl⟩ := fin_of_number hx
  have value : (FpVal.fin m i e).exact.val * (scaleTy k).grid q = (FpVal.fin m (i * n) (e + f)).exact.val := by
    have product := exact_val_mul m false i n e f
    rw [Bool.bne_false] at product
    rw [product, hgrid, FpVal.exact_val false n f]
    simp
  rw [← Rat.cast_mul, value, unpackEl, hv, hscale]
  have run := roundExact_result (mode := mode) (source_arith hw).2 hu env false m (FpVal.fin m (i * n) (e + f)).exact
  have sign : (m != false) = m := Bool.bne_false m
  show Result env w mode u false m _ (roundExact env w mode u false (m != false) (FpVal.fin (m != false) (i * n) (e + f)).exact)
  rw [sign]
  exact run

end

/-! ### The largest magnitude of a block (R301) -/

theorem blockMax_snoc (vals : List FpVal) (v : FpVal) :
    (blockMax vals ≠ .nan → ∀ neg, v = .inf neg → blockMax (vals ++ [v]) = .inf) ∧
    (∀ neg n f, v = .fin neg n f → (blockMax vals = .inf → blockMax (vals ++ [v]) = .inf) ∧
      ∀ m e, blockMax vals = .mag m e → blockMax (vals ++ [v]) =
        if (Exact.mk m e).cmp (Exact.mk n f) = .lt then .mag n f else .mag m e) := by
  have step : blockMax (vals ++ [v]) = _ := List.foldl_append
  rw [step]
  refine ⟨fun h neg hv => ?_, fun neg n f hv => ⟨fun h => ?_, fun m e h => ?_⟩⟩
  · rw [hv]
    change blockMax vals ≠ .nan at h
    cases hb : blockMax vals with
    | nan => exact absurd hb h
    | inf | mag m e => rw [blockMax] at hb; simp only [List.foldl_cons, List.foldl_nil, hb]
  · rw [blockMax] at h
    simp only [List.foldl_cons, List.foldl_nil, h, hv]
  · rw [blockMax] at h
    simp only [List.foldl_cons, List.foldl_nil, h, hv]

/-- R301: a block with an infinity and no NaN. -/
theorem blockMax_inf {vals : List FpVal} (hnan : ∀ v ∈ vals, v.isNan = false) :
    blockMax vals ≠ .nan ∧ ((∃ neg, FpVal.inf neg ∈ vals) → blockMax vals = .inf) := by
  induction vals using List.reverseRecOn with
  | nil => exact ⟨nofun, nofun⟩
  | append_singleton vals v ih =>
    obtain ⟨known, inf⟩ := ih fun x hx => hnan x (List.mem_append_left _ hx)
    obtain ⟨ofInf, ofFin⟩ := blockMax_snoc vals v
    cases v with
    | nan => cases hnan _ (List.mem_append_right _ (List.mem_singleton_self _))
    | inf neg =>
      have whole := ofInf known neg rfl
      exact ⟨by rw [whole]; nofun, fun _ => whole⟩
    | fin neg n f =>
      obtain ⟨stays, larger⟩ := ofFin neg n f rfl
      cases hb : blockMax vals with
      | nan => exact absurd hb known
      | inf =>
        rw [stays hb]
        exact ⟨nofun, fun _ => rfl⟩
      | mag m e =>
        refine ⟨by rw [larger m e hb]; split <;> nofun, fun ⟨b, hmem⟩ => ?_⟩
        have old : FpVal.inf b ∈ vals := by simpa using hmem
        have := inf ⟨b, old⟩
        rw [hb] at this
        cases this

/-- R301: amax of a block of numbers. -/
theorem blockMax_numbers {vals : List FpVal} (hfin : ∀ v ∈ vals, ∃ neg m e, v = .fin neg m e) :
    ∃ (m : Nat) (e : Int), blockMax vals = .mag m e ∧ (∀ v ∈ vals, |v.exact.val| ≤ m * 2 ^ e) ∧
      (m = 0 ∨ ∃ v ∈ vals, |v.exact.val| = m * 2 ^ e) := by
  induction vals using List.reverseRecOn with
  | nil => exact ⟨0, 0, rfl, nofun, .inl rfl⟩
  | append_singleton vals v ih =>
    obtain ⟨m, e, hb, all, some⟩ := ih fun x hx => hfin x (List.mem_append_left _ hx)
    obtain ⟨neg, n, f, hv⟩ := hfin v (List.mem_append_right _ (List.mem_singleton_self v))
    have here : |v.exact.val| = n * 2 ^ f := by
      have nonneg : (0 : ℚ) ≤ n * 2 ^ f := by positivity
      rw [hv, FpVal.exact_val]
      cases neg
      · exact abs_of_nonneg nonneg
      · exact (abs_neg _).trans (abs_of_nonneg nonneg)
    have order : (Exact.mk m e).cmp (Exact.mk n f) = .lt ↔ (m * 2 ^ e : ℚ) < n * 2 ^ f := by
      rw [Exact.cmp_eq, compare_lt_iff_lt]
      simp [Exact.val]
    have step := ((blockMax_snoc vals v).2 neg n f hv).2 m e hb
    by_cases hlt : (m * 2 ^ e : ℚ) < n * 2 ^ f
    · rw [if_pos (order.mpr hlt)] at step
      refine ⟨n, f, step, fun x hx => ?_, .inr ⟨v, List.mem_append_right _ (List.mem_singleton_self v), here⟩⟩
      rcases List.mem_append.mp hx with h | h
      · exact (all x h).trans hlt.le
      · rw [List.mem_singleton.mp h, here]
    · rw [if_neg (mt order.mp hlt)] at step
      refine ⟨m, e, step, fun x hx => ?_, some.imp_right fun ⟨x, hx, h⟩ => ⟨x, List.mem_append_left _ hx, h⟩⟩
      rcases List.mem_append.mp hx with h | h
      · exact all x h
      · rw [List.mem_singleton.mp h, here]
        exact not_lt.mp hlt

/-! ### Scales of blocks (R301) -/

/-- R119: rounding up gives the least number that is not below. -/
theorem RoundsTo.least {v : Nat → ℚ} (hv : StrictMono v) {u : Nat} {x : ℝ} {c : Nat} (h : RoundsTo v 2 u false x c) :
    x ≤ v c ∧ ∀ k < c, (v k : ℝ) < x := by
  rcases h with h | ⟨lo, low, high, up, -⟩
  · exact ⟨h.ge, fun k hk => h ▸ Rat.cast_lt.mpr (hv hk)⟩
  · obtain rfl := up rfl
    exact ⟨high.le, fun k hk => lt_of_le_of_lt (Rat.cast_le.mpr (hv.monotone (Nat.le_of_lt_succ hk))) low⟩

/-- The scale `q` is the least that is not below `x`, or the largest. -/
def LeastScale (st : Ty) (x : ℝ) (q : Nat) : Prop :=
  q ≤ st.maxCode ∧ (x ≤ st.grid q ∨ q = st.maxCode) ∧ ∀ c < q, (st.grid c : ℝ) < x

theorem roundFp_leastScale (env : FpEnv) {q : Mag} {x : ℝ} (is : q.Is x) (hq : q.m ≠ 0) (digits : 65 ≤ q.m.log2) :
    LeastScale .e3m5 x (roundFp env .e3m5 2 0 true false q).bits := by
  obtain ⟨code, kept, -, beyond, -, -, -⟩ := roundFp_roundedTo (t := .e3m5) (mode := 2) (u := 0) (by decide) is hq (by decide)
    (Mag.below_of_digits (lt_of_lt_of_le (by decide) digits) (.inl (by decide))) (neg := false) env true nofun
  obtain ⟨least, below⟩ := code.least (grid_strictMono _)
  by_cases hc : q.code .e3m5 2 0 false ≤ Ty.e3m5.maxCode
  · have bits := kept hc fun h => absurd h.2.1 (by decide)
    rw [signOf, if_neg Bool.false_ne_true, Nat.zero_add] at bits
    rw [bits]
    exact ⟨hc, .inl least, below⟩
  · have bits := (beyond (Nat.lt_of_not_le hc)).1 (.inl rfl)
    rw [signOf, if_neg Bool.false_ne_true, Nat.zero_add] at bits
    rw [bits]
    exact ⟨le_rfl, .inr rfl, fun c h => below c (h.trans (Nat.lt_of_not_le hc))⟩

/-- R301: the exponent of the least power of two that is not below a magnitude. -/
def Mag.ceilExp (q : Mag) : Int := q.e + q.m.log2 + (if decide (q.m = 2 ^ q.m.log2) && !q.sticky then 0 else 1)

theorem Mag.Is.ceilExp {q : Mag} {x : ℝ} (is : q.Is x) (hq : q.m ≠ 0) :
    x ≤ 2 ^ q.ceilExp ∧ ∀ n : Int, n < q.ceilExp → (2 : ℝ) ^ n < x := by
  obtain ⟨low, high⟩ := is.bounds hq
  have mono : StrictMono fun n : Int => (2 : ℝ) ^ n := zpow_right_strictMono₀ one_lt_two
  have power : (decide (q.m = 2 ^ q.m.log2) && !q.sticky) = true ↔ x = 2 ^ q.exp := by
    obtain ⟨θ, h0, -, hs, rfl⟩ := is
    have unit : (0 : ℝ) < 2 ^ q.e := by positivity
    have floor : (2 : ℝ) ^ q.m.log2 ≤ q.m := by exact_mod_cast Nat.log2_self_le hq
    rw [Bool.and_eq_true, decide_eq_true_eq, Bool.not_eq_true', ← Bool.not_eq_true, hs, Mag.exp, zpow_add₀ two_ne_zero,
      mul_comm,
      mul_right_inj' unit.ne', zpow_natCast]
    constructor
    · rintro ⟨hm, hθ⟩
      have whole : (q.m : ℝ) = 2 ^ q.m.log2 := by exact_mod_cast hm
      linarith [not_lt.mp hθ]
    · intro h
      have whole : (q.m : ℝ) = 2 ^ q.m.log2 := by linarith
      exact ⟨by exact_mod_cast whole, by linarith⟩
  by_cases exact : (decide (q.m = 2 ^ q.m.log2) && !q.sticky) = true
  · rw [Mag.ceilExp, if_pos exact, add_zero, power.mp exact]
    exact ⟨le_rfl, fun n hn => mono hn⟩
  · have strict : (2 : ℝ) ^ q.exp < x := low.lt_of_ne fun h => exact (power.mpr h.symm)
    rw [Mag.ceilExp, if_neg exact]
    exact ⟨high.le, fun n hn => lt_of_le_of_lt (mono.monotone (Int.lt_add_one_iff.mp hn)) strict⟩

theorem ceilExp_leastScale {q : Mag} {x : ℝ} (is : q.Is x) (hq : q.m ≠ 0) :
    LeastScale .e8m0 x (max 0 (min 254 (q.ceilExp + 127))).toNat := by
  obtain ⟨least, below⟩ := is.ceilExp hq
  have mono : StrictMono fun n : Int => (2 : ℝ) ^ n := zpow_right_strictMono₀ one_lt_two
  have power : ∀ c : Nat, (Ty.e8m0.grid c : ℝ) = 2 ^ ((c : Int) - 127) := fun c => by rw [grid_e8m0]; push_cast; rfl
  refine ⟨?_, ?_, fun c hc => ?_⟩
  · show _ ≤ 254
    omega
  · by_cases h : q.ceilExp + 127 ≤ 254
    · left
      rw [power]
      exact least.trans (mono.monotone (by omega))
    · right
      show _ = 254
      omega
  · rw [power]
    exact below _ (by omega)

section
variable {d : Ty} (hd : d ∈ packedTypes)
include hd

/-- R117: the largest number of a format. -/
theorem limit_fin : ∃ m e, m ≠ 0 ∧ fpVal d d.maxCode = .fin false m e ∧ d.grid d.maxCode = m * 2 ^ e := by
  have hs := (packed_signed hd).1
  obtain ⟨mag, sign⟩ := fields_of_code hs false (le_refl d.maxCode)
  rw [signOf, if_neg Bool.false_ne_true, Nat.zero_add] at mag sign
  have is := fpVal_is (t := d) (x := d.maxCode) mag.le
  rw [mag, sign, if_neg Bool.false_ne_true] at is
  obtain ⟨neg, m, e, hv, hval⟩ := is.fin
  obtain rfl : neg = false := (fpVal_fin_neg hv).trans sign
  have value : d.grid d.maxCode = m * 2 ^ e := by rw [← hval, FpVal.exact_val]; simp
  refine ⟨m, e, fun hm => ?_, hv, value⟩
  have pos : d.grid 0 < d.grid d.maxCode := grid_strictMono d
    ((Nat.two_pow_pos _).trans_le (mantissa_facts (signed_facts hs).1).2.2)
  rw [grid_zero (signed_facts hs).2.2, value, hm] at pos
  simp at pos

/-- R301: the scale of a block of numbers that are not all zero. -/
theorem blockScale_least (env : FpEnv) (len : Nat) {m : Nat} (hm : m ≠ 0) (e : Int) :
    LeastScale (scaleTy len) ((m * 2 ^ e) / (d.grid d.maxCode : ℚ)) (blockScale env d len (.mag m e)) := by
  obtain ⟨n, f, hn, hv, hgrid⟩ := limit_fin hd
  obtain ⟨is, nonzero, digits⟩ := divMag_facts hm hn e f
  have limit : ((d.grid d.maxCode : ℚ) : ℝ) = n * 2 ^ f := by rw [hgrid]; push_cast; rfl
  rw [limit, blockScale, hv, scaleTy]
  dsimp only
  by_cases hlen : len = 8
  · rw [if_pos hlen, if_pos hlen, if_neg hm]
    exact roundFp_leastScale env is nonzero digits
  · rw [if_neg hlen, if_neg hlen, if_neg hm]
    exact ceilExp_leastScale is nonzero

theorem blockScale_zeros (env : FpEnv) (len : Nat) (e : Int) : (scaleTy len).grid (blockScale env d len (.mag 0 e)) = 1 := by
  obtain ⟨n, f, -, hv, -⟩ := limit_fin hd
  rw [blockScale, hv, scaleTy]
  dsimp only
  by_cases hlen : len = 8
  · rw [if_pos hlen, if_pos hlen, if_pos rfl]
    rw [Ty.grid, if_neg (by decide)]
    norm_num [Ty.mbits, Ty.bias]
  · rw [if_neg hlen, if_neg hlen, if_pos rfl]
    norm_num [Ty.grid]

theorem blockScale_inf (env : FpEnv) (len : Nat) : blockScale env d len .inf = (scaleTy len).maxCode := by
  obtain ⟨n, f, -, hv, -⟩ := limit_fin hd
  rw [blockScale, hv, scaleTy]
  dsimp only
  by_cases hlen : len = 8
  · rw [if_pos hlen, if_pos hlen]
    rfl
  · rw [if_neg hlen, if_neg hlen]
    rfl

/-- R301: the scale of a block of codes of a source format. -/
theorem blockScale_block {w : Ty} (hw : w ∈ sourceTypes) (env : FpEnv) (len : Nat) (xs : List Nat) :
    let st := scaleTy len
    let scale := blockScale env d len (blockMax (xs.map fun x => fpVal w (env.source w x)))
    ((∃ x ∈ xs, fpVal w x = .inf true ∨ fpVal w x = .inf false) → (∀ x ∈ xs, (fpVal w x).isNan = false) → scale = st.maxCode) ∧
    (∀ amax : ℚ, (∀ x ∈ xs, ∃ m v, w.number env.daz x = some (m, v) ∧ |v| ≤ amax) →
      (∃ x ∈ xs, ∃ m v, w.number env.daz x = some (m, v) ∧ |v| = amax) →
      (amax = 0 → st.grid scale = 1) ∧
      (0 < amax → scale ≤ st.maxCode ∧ (amax / d.grid d.maxCode ≤ st.grid scale ∨ scale = st.maxCode) ∧
        ∀ c, c < scale → st.grid c < amax / d.grid d.maxCode)) := by
  obtain ⟨arith, signed⟩ := source_arith hw
  intro st scale
  refine ⟨fun ⟨x, hx, hinf⟩ hnan => ?_, fun amax hall hsome => ?_⟩
  · have special := fun y => source_special arith env y
    have known : ∀ v ∈ xs.map fun x => fpVal w (env.source w x), v.isNan = false := fun v hv => by
      obtain ⟨y, hy, rfl⟩ := List.mem_map.mp hv
      rw [(special y).1, hnan y hy]
    have inf : blockMax (xs.map fun x => fpVal w (env.source w x)) = .inf := (blockMax_inf known).2 (by
      rcases hinf with h | h
      · exact ⟨true, List.mem_map.mpr ⟨x, hx, ((special x).2 true).mpr h⟩⟩
      · exact ⟨false, List.mem_map.mpr ⟨x, hx, ((special x).2 false).mpr h⟩⟩)
    show blockScale env d len _ = _
    rw [inf, blockScale_inf hd]
  · have numbers : ∀ v ∈ xs.map fun x => fpVal w (env.source w x), ∃ neg m e, v = .fin neg m e := fun v hv => by
      obtain ⟨y, hy, rfl⟩ := List.mem_map.mp hv
      obtain ⟨neg, q, hnum, -⟩ := hall y hy
      obtain ⟨m, e, hfin, -⟩ := source_fin signed hnum
      exact ⟨neg, m, e, hfin⟩
    have value : ∀ y neg q, w.number env.daz y = some (neg, q) →
        (fpVal w (env.source w y)).exact.val = q := fun y neg q hnum => by
      obtain ⟨m, e, hfin, rfl⟩ := source_fin signed hnum
      rw [hfin]
    obtain ⟨m, e, hmax, hle, htop⟩ := blockMax_numbers numbers
    obtain ⟨top, hmem, neg, q, hnum, habs⟩ := hsome
    have reached : amax ≤ m * 2 ^ e := by
      have := hle _ (List.mem_map.mpr ⟨top, hmem, rfl⟩)
      rwa [value top neg q hnum, habs] at this
    have bounded : (m * 2 ^ e : ℚ) ≤ amax := by
      rcases htop with rfl | ⟨v, hv, hval⟩
      · rw [Nat.cast_zero, zero_mul, ← habs]
        exact abs_nonneg q
      · obtain ⟨y, hy, rfl⟩ := List.mem_map.mp hv
        obtain ⟨neg, r, hr, hra⟩ := hall y hy
        rwa [← hval, value y neg r hr]
    have equal : amax = m * 2 ^ e := le_antisymm reached bounded
    have unit : (0 : ℚ) < 2 ^ e := by positivity
    have here : scale = blockScale env d len (.mag m e) := by rw [← hmax]
    rw [here]
    refine ⟨fun hz => ?_, fun hpos => ?_⟩
    · obtain rfl : m = 0 := by
        rw [equal, mul_eq_zero] at hz
        exact_mod_cast hz.resolve_right unit.ne'
      exact blockScale_zeros hd env len e
    · have hm : m ≠ 0 := by
        rintro rfl
        rw [equal, Nat.cast_zero, zero_mul] at hpos
        exact lt_irrefl 0 hpos
      obtain ⟨fits, least, below⟩ := blockScale_least hd env len hm e
      have real : ((m * 2 ^ e : ℝ) / ((d.grid d.maxCode : ℚ) : ℝ)) = ((amax / d.grid d.maxCode : ℚ) : ℝ) := by
        rw [equal]; push_cast; rfl
      rw [real] at least below
      exact ⟨fits, least.imp_left fun h => by exact_mod_cast h, fun c hc => by exact_mod_cast below c hc⟩

end

/-- Roundings of elements with their numbers are those of the elements. -/
theorem rounds_zipIdx (c : Calc) (mode : Nat) (f : Nat → Nat → FpRes) (l : List Nat) (n : Nat) :
    c.rounds mode (fun (p : Nat × Nat) u => f p.1 u) (l.zipIdx n) = c.rounds mode f l := by
  induction l generalizing c n with
  | nil => rfl
  | cons x r ih => simp only [List.zipIdx_cons, Calc.rounds, ih]

end Sys2Proof

namespace Sys2Proof.Machine

theorem wordsOf_zipIdx {α : Type} (n x : Nat) (g : Nat → Word → α) :
    (wordsOf n x).zipIdx.map (fun p => g p.2 p.1) = (List.range n).map fun i => g i (BitVec.ofNat 32 (x / 2 ^ (32 * i))) := by
  refine List.ext_getElem (by simp [wordsOf_length]) fun i hi hi' => ?_
  rw [List.length_map, List.length_zipIdx] at hi
  have word := wordsOf_getD (by simpa [wordsOf_length] using hi) x
  rw [List.getD_eq_getElem _ _ hi] at word
  simp [word]

theorem runOver_false {e : Env} {o : Ops} {m : Mat} {n : Nat} (hc : o.c = .v n)
    (h : n + scaleRun (blockLen o) m.rows m.cols ≤ e.la.obj.vregs) :
    e.runOver o m = false := by
  rw [Env.runOver, hc]
  exact decide_eq_false (Nat.not_lt.mpr h)

/-- R301: the scale of block `t` of row `i`. -/
theorem scales_getD (m : Mat) (env : FpEnv) (d : Ty) {len i t : Nat} (hi : i < m.rows) (ht : t < (m.cols + len - 1) / len) :
    (m.scales env d len).getD (i * ((m.cols + len - 1) / len) + t) 0 =
      blockScale env d len (blockMax ((m.blockEls len i t).map fun x => fpVal m.ty (env.source m.ty x))) := by
  rw [Mat.scales, List.getD_eq_getElem?_getD, grid_getElem? _ hi ht, Option.getD_some]

/-- Settles O37: elements one by one, and scales by the largest magnitude of their block. -/
theorem blockFormats : Obligations.BlockFormats := by
  intro s e o n
  dsimp only
  refine ⟨fun h0 hc => ?_, fun h0 hc => ?_, fun hlen hc => ?_, fun hlen hc => ?_,
    fun env d w k mode u x q m v hk hmode hu hd hw hq hpos => ?_,
    fun l i t hlen hd hw hty hi ht => ?_⟩
  · have none : ∀ m, e.runOver o m = false := fun m => by rw [Env.runOver, hc]
    refine matRuns_of_issueMat rfl (fun l ⟨hty, hfit⟩ => laneFault_none (by simp [hty])
      (by simp [overflows_false hfit, none])) (fun l => ?_) rfl
    rw [if_pos h0]
    rfl
  · have none : ∀ m, e.runOver o m = false := fun m => by rw [Env.runOver, hc]
    refine matRuns_of_issueMat rfl (fun l ⟨hty, hfit⟩ => laneFault_none (by simp [hty])
      (by simp [overflows_false hfit, none])) (fun l => ?_) rfl
    simp only [if_pos h0, rounds_zipIdx _ _ (fun x u => fpCvt e.fp o.ty o.sty o.rnd u false x)]
    rfl
  · refine matRuns_of_issueMat rfl (fun l ⟨⟨hty, hfit⟩, hrun⟩ => laneFault_none (by simp [hty]) ?_) (fun l => ?_) rfl
    · simp [overflows_false hfit, runOver_false hc hrun]
    · rw [if_neg hlen, hc, ← wordsOf_zipIdx _ _ fun i w => RegVal.v (n + i) l w]
      rfl
  · refine matRuns_of_issueMat rfl (fun l ⟨⟨hty, hfit⟩, hrun⟩ => laneFault_none (by simp [hty]) ?_) (fun l => ?_) rfl
    · simp [overflows_false hfit, runOver_false hc hrun]
    · simp only [if_neg hlen, hc]
      rfl
  · exact ⟨fun h => packEl_result hd hw hk env hq hu hpos h, fun h => packEl_inf hd hk env hq h,
      fun h => unpackEl_result hd hw hk env hq hu h⟩
  · rw [scales_getD _ _ _ hi ht, hty]
    exact blockScale_block hd hw e.fp (blockLen o) ((e.mat o.a l).blockEls (blockLen o) i t)

end Sys2Proof.Machine
end
